-- ==== Sys2Proof/Word.lean ====
section
/-!
DEFINITION. The words of the Izrum (R1, R39, R41) and the one shape of every keyed collection of the model.
-/

namespace Sys2Proof

/-- A 64-bit register value or pointer. -/
abbrev Word := BitVec 64

/-- A byte of memory (R1). -/
abbrev Byte := BitVec 8

/-- A set of lanes: bit l stands for lane l (R22). -/
abbrev LaneMask := BitVec 32

/-- The values of one register, lane 0 first; a lane beyond the list reads 0. -/
abbrev Lanes := List Word

/-- A collection keyed by number. An absent key stands for the collection's resting value. -/
abbrev Tab (α : Type) := List (Nat × α)

end Sys2Proof
end

