-- ==== Sys2Proof/Syntax.lean ====
section
/-!
DEFINITION. The instructions (R39, R44, R50, R51) and the events of the part as an inductive type.
-/

namespace Sys2Proof

/-- A register field's operand (R44). Code 127 names nothing and is no operand. -/
inductive Operand where
  /-- x0 to x63 -/
  | x (n : BitVec 6)
  /-- Clause temporaries c0 to c7 -/
  | c (n : BitVec 3)
  /-- Uniform registers k0 to k31 -/
  | k (n : BitVec 5)
  /-- Integer constants 0, 1, 2, 4, 8, 16, −1, −2 -/
  | ic (n : BitVec 3)
  /-- FP constants 0.5, 1.0, 2.0, −1.0, 0.25, 4.0, +infinity, canonical NaN -/
  | fc (n : BitVec 3)
  | zero
  | lane
  | widlo
  | widhi
  | tridx
  | subidx
  | clk
  deriving DecidableEq, Repr, Inhabited

/-- Format A (R39). -/
structure FA where
  d : Operand
  a : Operand
  b : Operand
  la : Bool
  lb : Bool
  pack : BitVec 2
  deriving DecidableEq, Repr, Inhabited

/-- Format B (R39). -/
structure FB where
  d : Operand
  a : Operand
  la : Bool
  imm : BitVec 10
  deriving DecidableEq, Repr, Inhabited

/-- Format X (R39): flg holds the flag bits [15:12], negate a first (R40). -/
structure FX where
  d : Operand
  a : Operand
  b : Operand
  la : Bool
  lb : Bool
  pack : BitVec 2
  c : Operand
  lc : Bool
  fn : BitVec 4
  rnd : BitVec 3
  sat : Bool
  flg : BitVec 4
  imm : BitVec 12
  deriving DecidableEq, Repr, Inhabited

/-- Format L (R39). -/
structure FL where
  d : Operand
  a : Operand
  la : Bool
  imm : BitVec 32
  deriving DecidableEq, Repr, Inhabited

/-- Format M (R39): e is the second register. -/
structure FM where
  d : Operand
  a : Operand
  la : Bool
  ord : BitVec 2
  scope : BitVec 3
  off : BitVec 5
  ty : BitVec 5
  fn : BitVec 4
  e : Operand
  le : Bool
  ld : Bool
  deriving DecidableEq, Repr, Inhabited

/-- Format Compare (R39). -/
structure FC where
  q : BitVec 3
  cond : BitVec 4
  a : Operand
  b : Operand
  la : Bool
  lb : Bool
  pack : BitVec 2
  deriving DecidableEq, Repr, Inhabited

/-- Format S (R39). -/
structure FS where
  off : BitVec 25
  deriving DecidableEq, Repr, Inhabited

/-- An access that another unit makes at a home slice (R483). -/
inductive UnitAccess where
  /-- Flit n of the remaining flits of a running copy job of a die -/
  | engine (die job n : Nat)
  /-- The control node reads len bytes of device memory at a physical address -/
  | ozwynRead (addr len : Nat)
  /-- The control node writes bytes of device memory at a physical address -/
  | ozwynWrite (addr : Nat) (bytes : List Byte)
  /-- The control node writes bytes of host memory at a host offset (R437) -/
  | hostWrite (addr : Nat) (bytes : List Byte)
  deriving DecidableEq, Repr, Inhabited

/-- A flit on the Reel: the header of R413, and the payload where the flit itself carries data to perform. -/
structure Flit where
  ddie : Nat
  dstop : Nat
  sdie : Nat
  sstop : Nat
  age : Nat
  seq : Nat
  pref : Bool
  kind : Nat
  rslot : Nat
  part : Nat
  key : Nat
  span : Nat
  off : Nat
  len : Nat
  payload : List Byte
  /-- Where the flit is: die and stop of the router it stands at or is arriving at -/
  die : Nat
  stop : Nat
  /-- The fabric cycle at which it has arrived there (R414) -/
  ready : Nat
  /-- The flits of its message, whose arrival completes the reassembly slot (R423) -/
  parts : Nat
  /-- The peer package for which an edge stop sends it, or to which the answer goes (R428) -/
  peer : Option Nat := none
  /-- Its payload is poisoned, or an uncorrectable error was found in it (R313, R453) -/
  poison : Bool := false
  deriving DecidableEq, Repr, Inhabited

/-- A Zethes packet as the receiving port sees it (R428, R429). -/
structure Packet where
  port : Nat
  peer : Nat
  plane : Nat
  seq : Nat
  key : Nat
  crcOk : Bool
  flits : List Flit
  deriving DecidableEq, Repr, Inhabited

/-- How an Ethernet work request ends (R435, R436): the oldest one sent, or the oldest receive (`recv`) with the bytes of the message that
fills it; in success or not. -/
structure WorkEnd where
  recv : Bool
  ok : Bool
  bytes : Nat
  deriving DecidableEq, Repr, Inhabited

/-- What an ECC check finds (R453). -/
inductive EccEvent where
  /-- A correctable error in a die's storage: corrected and counted -/
  | corrected (die : Nat)
  /-- Uncorrectable, in state a gang owns: registers, symbols, store buffers, lane state, reassembly slots -/
  | owned (ticket gang : Nat)
  /-- Uncorrectable, in the data of the 64-byte sector at a physical address -/
  | data (pa : Nat)
  /-- Uncorrectable, in flit n of those that travel on the Reel -/
  | flit (n : Nat)
  /-- Uncorrectable, in tags, directories, park table, binding cache, schedulers or arbiter -/
  | device
  deriving DecidableEq, Repr, Inhabited

/-- The instructions of the opcode map (R50, R51) and the events of the part, one constructor for each row of
the table of operations and events. An event's arguments name the unit it acts on and carry what the outside gives. -/
inductive Instr where
  /-- R455: A kill discards the gang's clauses, unsent entries, tile work and jobs and returns its resources. -/
  | gangKill (ticket gang reason : Nat)
  /-- R127: A spilled register named by a waiting clause is read back and re-encoded. -/
  | refill (core pos reg : Nat)
  /-- R454: Poisoned data reaching a register or the array kills the consumer's gang with 0x40. -/
  | poisonConsumed (ticket gang : Nat)
  /-- R179: The all-zero word; it has no effect and may stand in a clause of any class. -/
  | nop
  /-- R180: Adds elements modulo 2^w; with pack 00 it forwards a pending operand. -/
  | add (f : FA)
  /-- R180: Subtracts elements modulo 2^w. -/
  | sub (f : FA)
  /-- R180: Adds a sign-extended 10-bit immediate to a 64-bit value. -/
  | addi (f : FB)
  /-- R181: Keeps the low w bits of each element product. -/
  | mul (f : FA)
  /-- R181: Keeps the high w bits of the signed element product. -/
  | mulhs (f : FA)
  /-- R181: Keeps the high w bits of the unsigned element product. -/
  | mulhn (f : FA)
  /-- R182: Integer multiply-add per element, signed or unsigned, optionally saturating. -/
  | mad (f : FX)
  /-- R183: Bitwise AND of two operands. -/
  | andI (f : FA)
  /-- R183: Bitwise OR of two operands. -/
  | orI (f : FA)
  /-- R183: Bitwise XOR of two operands. -/
  | xorI (f : FA)
  /-- R183: Computes A AND NOT B. -/
  | andn (f : FA)
  /-- R184: Shifts each element left by B mod w. -/
  | shl (f : FA)
  /-- R184: Logical right shift of each element by B mod w. -/
  | shr (f : FA)
  /-- R184: Arithmetic right shift of each element by B mod w. -/
  | sar (f : FA)
  /-- R184: Rotates each element left by B mod w. -/
  | rot (f : FA)
  /-- R185: Signed minimum of elements. -/
  | mins (f : FA)
  /-- R185: Unsigned minimum of elements. -/
  | minn (f : FA)
  /-- R185: Signed maximum of elements. -/
  | maxs (f : FA)
  /-- R185: Unsigned maximum of elements. -/
  | maxn (f : FA)
  /-- R186: Counts leading zero bits of each element. -/
  | bitClz (f : FA)
  /-- R186: Counts trailing zero bits of each element. -/
  | bitCtz (f : FA)
  /-- R186: Counts one bits of each element. -/
  | bitPopc (f : FA)
  /-- R186: Reverses the bits of each element. -/
  | bitBrev (f : FA)
  /-- R186: Signed absolute value of each element modulo 2^w. -/
  | bitAbs (f : FA)
  /-- R186: Negates each element modulo 2^w; forwards a pending operand at pack 00. -/
  | bitNeg (f : FA)
  /-- R186: Bitwise complement of each element. -/
  | bitNot (f : FA)
  /-- R186: Sign-extends the low 8 bits of each element. -/
  | bitSext8 (f : FA)
  /-- R186: Sign-extends the low 16 bits of each element. -/
  | bitSext16 (f : FA)
  /-- R186: Sign-extends the low 32 bits of a 64-bit element. -/
  | bitSext32 (f : FA)
  /-- R187: Extracts a bit field given by pos and len, optionally sign-extending it. -/
  | bfe (f : FX)
  /-- R187: Inserts a bit field into a base value. -/
  | bfi (f : FX)
  /-- R188: Forms base + index × 2^s + displacement modulo 2^64, forwarding a pending base or index. -/
  | lea (f : FX)
  /-- R189: Chooses per lane between two operands by a predicate. -/
  | sel (f : FX)
  /-- R190: Signed integer quotient truncated toward zero, with fixed results for zero divisors and overflow. -/
  | divQuos (f : FX)
  /-- R190: Unsigned integer quotient. -/
  | divQuon (f : FX)
  /-- R190: Signed remainder with the sign of the dividend. -/
  | divRems (f : FX)
  /-- R190: Unsigned remainder. -/
  | divRemn (f : FX)
  /-- R191: Loads a sign-extended 32-bit immediate. -/
  | movi (f : FL)
  /-- R191: Computes xa × 2^32 + sext(imm32). -/
  | moviShifted (f : FL)
  /-- R192: Copies 64 bits, replicating constants by the pack mode. -/
  | mov (f : FA)
  /-- R193: Sets a predicate where every element pair is equal. -/
  | cmpEq (f : FC)
  /-- R193: Sets a predicate where every element pair differs. -/
  | cmpNe (f : FC)
  /-- R193: Signed less-than compare into a predicate. -/
  | cmpLts (f : FC)
  /-- R193: Signed less-or-equal compare. -/
  | cmpLes (f : FC)
  /-- R193: Signed greater-than compare. -/
  | cmpGts (f : FC)
  /-- R193: Signed greater-or-equal compare. -/
  | cmpGes (f : FC)
  /-- R193: Unsigned less-than compare. -/
  | cmpLtn (f : FC)
  /-- R193: Unsigned less-or-equal compare. -/
  | cmpLen (f : FC)
  /-- R193: Unsigned greater-than compare. -/
  | cmpGtn (f : FC)
  /-- R193: Unsigned greater-or-equal compare. -/
  | cmpGen (f : FC)
  /-- R193: Sets a predicate where A AND B is non-zero. -/
  | cmpTst (f : FC)
  /-- R193: Sets a predicate where A AND B is zero. -/
  | cmpTsz (f : FC)
  /-- R194: Predicate AND. -/
  | plAnd (f : FC)
  /-- R194: Predicate OR. -/
  | plOr (f : FC)
  /-- R194: Predicate XOR. -/
  | plXor (f : FC)
  /-- R194: Predicate pa AND NOT pb. -/
  | plAndn (f : FC)
  /-- R194: Predicate pa OR NOT pb. -/
  | plOrn (f : FC)
  /-- R194: Sets each lane's predicate from bit l of its register. -/
  | plFrommask (f : FC)
  /-- R194: Writes all ones or zero into a register by a predicate. -/
  | plTomask (f : FC)
  /-- R196: Converts between integer element types, wrapping or saturating. -/
  | icvt (f : FX)
  /-- R198: Floating-point add, rounded once. -/
  | fadd (f : FX)
  /-- R198: Floating-point subtract, rounded once. -/
  | fsub (f : FX)
  /-- R198: Floating-point multiply, rounded once. -/
  | fmul (f : FX)
  /-- R198: Fused multiply-add with one rounding. -/
  | fma (f : FX)
  /-- R199: IEEE minimumNumber with −0 below +0. -/
  | fmin (f : FX)
  /-- R199: IEEE maximumNumber with −0 below +0. -/
  | fmax (f : FX)
  /-- R200: Replaces A's sign with B's sign. -/
  | fsgnCopy (f : FX)
  /-- R200: Replaces A's sign with the inverse of B's sign. -/
  | fsgnCopyneg (f : FX)
  /-- R200: Replaces A's sign with the XOR of both signs. -/
  | fsgnXor (f : FX)
  /-- R201: Ordered floating-point equality into a predicate. -/
  | fcmpEq (f : FC)
  /-- R201: Unordered or not-equal compare. -/
  | fcmpNe (f : FC)
  /-- R201: Ordered less-than compare. -/
  | fcmpLt (f : FC)
  /-- R201: Ordered less-or-equal compare. -/
  | fcmpLe (f : FC)
  /-- R201: Ordered greater-than compare. -/
  | fcmpGt (f : FC)
  /-- R201: Ordered greater-or-equal compare. -/
  | fcmpGe (f : FC)
  /-- R201: True where the operands are unordered. -/
  | fcmpUno (f : FC)
  /-- R201: True where the operands are ordered. -/
  | fcmpOrd (f : FC)
  /-- R202: Correctly rounded floating-point division. -/
  | fdiv (f : FX)
  /-- R202: Correctly rounded square root. -/
  | fsqrt (f : FX)
  /-- R202: Correctly rounded reciprocal. -/
  | frcp (f : FX)
  /-- R203: Approximate reciprocal square root within a stated ulp bound. -/
  | frsq (f : FX)
  /-- R203: Approximate 2^A. -/
  | fexp2 (f : FX)
  /-- R203: Approximate log2 A. -/
  | flog2 (f : FX)
  /-- R203: Approximate sine. -/
  | fsin (f : FX)
  /-- R203: Approximate cosine. -/
  | fcos (f : FX)
  /-- R203: Approximate hyperbolic tangent. -/
  | ftanh (f : FX)
  /-- R207: Converts between float formats, with optional stochastic rounding and saturation. -/
  | fcvt (f : FX)
  /-- R208: Converts float elements to integer elements. -/
  | ficvt (f : FX)
  /-- R209: Converts integer elements to float elements. -/
  | ifcvt (f : FX)
  /-- R210: Rounds each element to an integral value in its own format. -/
  | frnd (f : FX)
  /-- R211: Writes a one-hot class mask for each element. -/
  | fclass (f : FX)
  /-- R212: Multiplies each element by 2 to an integer power. -/
  | fscale (f : FX)
  /-- R213: Adds a pair of products to a wider accumulator with one rounding. -/
  | fdot2 (f : FX)
  /-- R217: Gathers elements from any active lane by per-element selectors. -/
  | perm (f : FX)
  /-- R218: Reads a value from an indexed lane of the segment. -/
  | shflIdx (f : FX)
  /-- R218: Reads a value from a lane d below within the segment. -/
  | shflUp (f : FX)
  /-- R218: Reads a value from a lane d above within the segment. -/
  | shflDown (f : FX)
  /-- R218: Reads a value from the lane at XOR distance within the segment. -/
  | shflXor (f : FX)
  /-- R219: Collects a predicate bit from each active lane into a mask. -/
  | ballot (f : FX)
  /-- R219: Collects bit j of keys over a candidate mask, with the popcount. -/
  | ballotPlane (f : FX)
  /-- R220: Returns 1 where the predicate holds in every active lane. -/
  | voteAll (f : FX)
  /-- R220: Returns 1 where the predicate holds in some active lane. -/
  | voteAny (f : FX)
  /-- R220: Returns 1 where all active lanes hold one value. -/
  | voteUni (f : FX)
  /-- R221: Segment reduction by integer add. -/
  | lredAdd (f : FX)
  /-- R221: Segment reduction by signed minimum. -/
  | lredMins (f : FX)
  /-- R221: Segment reduction by unsigned minimum. -/
  | lredMinn (f : FX)
  /-- R221: Segment reduction by signed maximum. -/
  | lredMaxs (f : FX)
  /-- R221: Segment reduction by unsigned maximum. -/
  | lredMaxn (f : FX)
  /-- R221: Segment reduction by bitwise AND. -/
  | lredAnd (f : FX)
  /-- R221: Segment reduction by bitwise OR. -/
  | lredOr (f : FX)
  /-- R221: Segment reduction by bitwise XOR. -/
  | lredXor (f : FX)
  /-- R221: Segment reduction by floating add in ascending lane order. -/
  | lredFadd (f : FX)
  /-- R221: Segment reduction by floating minimum. -/
  | lredFmin (f : FX)
  /-- R221: Segment reduction by floating maximum. -/
  | lredFmax (f : FX)
  /-- R221: Inclusive or exclusive segment scan by integer add. -/
  | lscanAdd (f : FX)
  /-- R221: Segment scan by signed minimum. -/
  | lscanMins (f : FX)
  /-- R221: Segment scan by unsigned minimum. -/
  | lscanMinn (f : FX)
  /-- R221: Segment scan by signed maximum. -/
  | lscanMaxs (f : FX)
  /-- R221: Segment scan by unsigned maximum. -/
  | lscanMaxn (f : FX)
  /-- R221: Segment scan by bitwise AND. -/
  | lscanAnd (f : FX)
  /-- R221: Segment scan by bitwise OR. -/
  | lscanOr (f : FX)
  /-- R221: Segment scan by bitwise XOR. -/
  | lscanXor (f : FX)
  /-- R221: Segment scan by floating add. -/
  | lscanFadd (f : FX)
  /-- R221: Segment scan by floating minimum. -/
  | lscanFmin (f : FX)
  /-- R221: Segment scan by floating maximum. -/
  | lscanFmax (f : FX)
  /-- R222: One radix-selection narrowing step over candidate and chosen lane masks. -/
  | rsel (f : FX)
  /-- R222: Final radix-selection step keeping the lowest surplus lanes to make exactly k. -/
  | rselFin (f : FX)
  /-- R226: Arrives at the group-wide move that places threads by expert key, optionally under capacity limits. -/
  | regroup (f : FX)
  /-- R227: Arrives at the move that sends every thread back to its original position. -/
  | regroupRestore (f : FX)
  /-- R230: Drains the store buffer and updates every capacity-table entry's EWMA and limit. -/
  | regroupCapupd (f : FX)
  /-- R350: Loads an element per lane into a pending destination, or defers on a pending address. -/
  | ld (f : FM)
  /-- R350: Loads two consecutive elements into two destinations. -/
  | ld2 (f : FM)
  /-- R351: Stores an element per lane through the store buffer. -/
  | st (f : FM)
  /-- R351: Stores two consecutive elements per lane. -/
  | st2 (f : FM)
  /-- R352: Prefetches a 64-byte sector into the L1. -/
  | pf (f : FM)
  /-- R353: Collapses a U line, or writes back the L1's dirty sectors. -/
  | clClean (f : FM)
  /-- R353: Applies the queued invalidation and evicts or invalidates the own L1's copy. -/
  | clInvalidate (f : FM)
  /-- R353: Collapses a U line. -/
  | clCollapse (f : FM)
  /-- R353: Collapses, then writes the line's dirty data back to memory. -/
  | clWriteback (f : FM)
  /-- R350: Loads one value into a k register; the clause retires on arrival. -/
  | ldk (f : FM)
  /-- R351: Stores a k register's value. -/
  | stk (f : FM)
  /-- R354: Atomic add returning the old value. -/
  | amoAdd (f : FM)
  /-- R354: Atomic signed minimum returning the old value. -/
  | amoMins (f : FM)
  /-- R354: Atomic unsigned minimum. -/
  | amoMinn (f : FM)
  /-- R354: Atomic signed maximum. -/
  | amoMaxs (f : FM)
  /-- R354: Atomic unsigned maximum. -/
  | amoMaxn (f : FM)
  /-- R354: Atomic bitwise AND. -/
  | amoAnd (f : FM)
  /-- R354: Atomic bitwise OR. -/
  | amoOr (f : FM)
  /-- R354: Atomic bitwise XOR. -/
  | amoXor (f : FM)
  /-- R354: Atomic exchange. -/
  | amoExch (f : FM)
  /-- R354: Atomic floating add with mode 001. -/
  | amofAdd (f : FM)
  /-- R354: Atomic floating minimum. -/
  | amofMin (f : FM)
  /-- R354: Atomic floating maximum. -/
  | amofMax (f : FM)
  /-- R354: Atomic floating exchange. -/
  | amofExch (f : FM)
  /-- R354: Atomic bitwise compare-and-swap returning the old value. -/
  | cas (f : FM)
  /-- R355: No-return add update, performed in a U(add) copy or at the home. -/
  | redAdd (f : FM)
  /-- R355: No-return signed minimum update. -/
  | redMins (f : FM)
  /-- R355: No-return unsigned minimum update. -/
  | redMinn (f : FM)
  /-- R355: No-return signed maximum update. -/
  | redMaxs (f : FM)
  /-- R355: No-return unsigned maximum update. -/
  | redMaxn (f : FM)
  /-- R355: No-return AND applied at the home slice. -/
  | redAnd (f : FM)
  /-- R355: No-return OR update in a U(or) copy. -/
  | redOr (f : FM)
  /-- R355: No-return XOR applied at the home slice. -/
  | redXor (f : FM)
  /-- R355: No-return floating add update. -/
  | redfAdd (f : FM)
  /-- R355: No-return floating minimum update. -/
  | redfMin (f : FM)
  /-- R355: No-return floating maximum update. -/
  | redfMax (f : FM)
  /-- R355: Widens a BF16 value and accumulates it into an FP32 element under op acc. -/
  | redfAcc (f : FM)
  /-- R135: Stores one register's compressed image from the lowest active lane's address. -/
  | spill (f : FM)
  /-- R135: Loads a register image and rebuilds the active lanes as a pending value. -/
  | fill (f : FM)
  /-- R376: Binds a region to a sync object in one atomic step at the arbiter. -/
  | bind (f : FM)
  /-- R376: Frees the binding entry whose region base matches. -/
  | unbind (f : FM)
  /-- R374: Waits for earlier loads and stores and applies the invalidation queue above group scope. -/
  | fenceMem (f : FM)
  /-- R374: Waits for earlier loads and applies every queued invalidation. -/
  | fenceEng (f : FM)
  /-- R245: Arms sync words at their homes, advancing the generation and returning it. -/
  | sarm (f : FM)
  /-- R246: Puts each lane into waiting until its word's generation differs from the given one. -/
  | swait (f : FM)
  /-- R248: Makes one counted arrival per active lane at a sync word. -/
  | sadd (f : FM)
  /-- R249: Reads each lane's sync word generation and count in one step. -/
  | gsp (f : FM)
  /-- R89: Adds entries to a device-memory queue atomically at its home. -/
  | stqPush (f : FM)
  /-- R89: Removes entries from a queue atomically at its home. -/
  | stqPop (f : FM)
  /-- R89: Reads the head entry of a queue without removing it. -/
  | stqPeek (f : FM)
  /-- R323: Sends a job card to the own die's copy queue and returns the status. -/
  | cpy (f : FM)
  /-- R323: Sends a job card to a named die's copy queue. -/
  | cpqSend (f : FM)
  /-- R323: Returns the free window entries of a die's copy queue. -/
  | cpqStatus (f : FM)
  /-- R324: Copies a tensor record and replaces one field. -/
  | trec (f : FX)
  /-- R105: Transfers active lanes to a clause header at an S-format offset. -/
  | br (f : FS)
  /-- R106: Transfers each lane to xa + 4 × xb. -/
  | brx (f : FA)
  /-- R105: Writes the return address to x63 and branches. -/
  | call (f : FS)
  /-- R106: Transfers each lane to the address in xa. -/
  | ret (f : FA)
  /-- R108: Arms a meeting at a labelled clause with a lane mask, returning the old packed value. -/
  | meet (f : FX)
  /-- R108: Restores a saved packed MEET and JOIN value. -/
  | meetPacked (f : FX)
  /-- R109: Tests whether every named lane is active or exited. -/
  | meetq (f : FC)
  /-- R110: Arrives at a barrier of level n over named lanes and troupes. -/
  | bar (f : FX)
  /-- R115: Suspends the issuing lanes for a per-lane number of core cycles. -/
  | nap (f : FB)
  /-- R86: Ends the issuing threads. -/
  | exitPlain (f : FB)
  /-- R86: Ends the issuing threads and marks them to pass their register range to a successor. -/
  | exitInherit (f : FB)
  /-- R87: Marks the subset not ready until other ready troupes have started or 64 issue cycles pass. -/
  | yieldPlain (f : FA)
  /-- R87: Marks the subset not ready until a queue descriptor changes or 65,536 cycles pass. -/
  | yieldQueue (f : FA)
  /-- R88: Raises the grid's group count at the arbiter after draining the store buffer. -/
  | grow (f : FA)
  /-- R405: Commits the clause, then raises a software trap with the given code. -/
  | trap (f : FB)
  /-- R442: Commits, then raises a halt request for the group if debug is enabled. -/
  | brk (f : FB)
  /-- R284: Claims the lowest free operand slot handle with a tag, or returns all ones. -/
  | slotClaim (f : FX)
  /-- R284: Retags a named handle once it is quiet. -/
  | slotClaimRetag (f : FX)
  /-- R285: Frees a quiet slot. -/
  | slotRelease (f : FX)
  /-- R285: Returns a slot's tag. -/
  | slotQuery (f : FX)
  /-- R270: Enqueues a floating tile product into a band, optionally open or appending. -/
  | tmm (f : FX)
  /-- R271: Enqueues one BFP block-column product into a raw band. -/
  | tmmBfp (f : FX)
  /-- R272: Reads a scale vector and enqueues the scaling of a raw band into an F32 band. -/
  | tsa (f : FX)
  /-- R288: Enqueues zeroing of a band or pair with a new tag. -/
  | accZero (f : FX)
  /-- R290: Reads accumulator cells per lane once the band is quiet. -/
  | accRd (f : FX)
  /-- R290: Writes accumulator cells per lane once the band is quiet. -/
  | accWr (f : FX)
  /-- R288: Enqueues a load of a band from memory. -/
  | accLd (f : FX)
  /-- R288: Enqueues a store of a band to memory. -/
  | accSt (f : FX)
  /-- R289: Enqueues conversion of a band to a type and its store. -/
  | accCvst (f : FX)
  /-- R291: Enqueues a copy of a tile from memory into an empty slot. -/
  | opmLd (f : FX)
  /-- R291: Enqueues a copy of a full slot's tile to memory. -/
  | opmSt (f : FX)
  /-- R406: Reads a control register into each active lane. -/
  | csrr (f : FB)
  /-- R406: Writes a control register from the lowest active lane at commit. -/
  | csrw (f : FB)
  /-- R396: A supervisor write to PSREQ sends a page-service request with pointer, grid key and core to the control node. -/
  | psreq (f : FB)
  /-- R396: A supervisor write to GANGKILL kills the trapped troupe's gang with cause 0x44. -/
  | gangkillReg (f : FB)
  /-- R407: Drops every translation of an address package-wide and re-walks covered parked pages. -/
  | tlbiPage (f : FM)
  /-- R407: Drops every translation with a matching key index. -/
  | tlbiKey (f : FM)
  /-- R407: Drops every translation of the package. -/
  | tlbiAll (f : FM)
  /-- R408: Ends the current service and resumes the suspended lanes at their targets. -/
  | tret (f : FA)
  /-- R409: Writes the trapped troupe's record to memory. -/
  | ctxSave (f : FX)
  /-- R409: Replaces the trapped troupe's state from a record. -/
  | ctxRestore (f : FX)
  /-- R448: Writes a mark trace record if tracing is armed. -/
  | trcMark (f : FX)
  /-- R448: Checks a trace buffer descriptor and its pinned pages and arms the trace unit. -/
  | trcArm (f : FX)
  /-- R448: Stops the trace unit and returns the records written. -/
  | trcDisarm (f : FX)
  /-- R228: Once every thread of the group has arrived and the start conditions hold, the Quadrille unit performs the move. -/
  | quadrilleMove (ticket group : Nat)
  /-- R29: An issue slot starts a ready troupe's clause once all start conditions hold, fetching, checking and translating it. -/
  | clauseStart (core slot : Nat)
  /-- R30: A clause whose replies have arrived commits its writes and last-read marks, forms its batch and performs its control instruction. -/
  | clauseRetire (core pos : Nat)
  /-- R67: A group whose threads exited and whose drains, tile entries and jobs are done returns its resources. -/
  | groupRetire (ticket group : Nat)
  /-- R115: A napping thread becomes runnable when its nap time has passed. -/
  | napExpiry (core pos lane : Nat)
  /-- R87: A yielded subset becomes ready when its yield condition or count bound is met. -/
  | yieldEnd (core pos lane : Nat)
  /-- R478: A write to LQBELL makes the arbiter read launch queue q. -/
  | launchDoorbell (q : Nat)
  /-- R59: The arbiter serves a non-empty launch queue in round robin and takes one entry. -/
  | launchQueueServe
  /-- R72: A die dispatcher admits the next fitting gang onto cores when resources allow. -/
  | gangAdmit (die : Nat)
  /-- R71: An idle dispatcher moves an unstarted gang from a donor die and admits it. -/
  | workSteal (die : Nat)
  /-- R75: A dispatcher chooses a lower-priority gang to pre-empt for a pending gang. -/
  | preempt (die : Nat)
  /-- R78: A flushable gang's state is discarded and the gang requeued. -/
  | regionFlush (ticket gang : Nat)
  /-- R403: After clauses end and drains complete, each member group's image is written and its resources freed. -/
  | fullSave (ticket gang : Nat)
  /-- R404: A saved gang is readmitted and its image checked and rebuilt. -/
  | gangRestore (die : Nat)
  /-- R81: A Minuet troupe takes its turn in the rotation and issues at most one clause. -/
  | minuetTurn (ticket : Nat)
  /-- R83: Every 8,192 core cycles the stage scheduler recomputes stage weights. -/
  | stagePeriod (pipe : Nat)
  /-- R126: When a hardware spill write is acknowledged, the register becomes spilled and its granules return. -/
  | spillAck (core n : Nat)
  /-- R153: A load's data arrives in a lane and every form referring to its symbol resolves. -/
  | symbolArrival (core sym lane : Nat)
  /-- R241: An arrival is applied at the sync word's home, counted, found stale or completing a match. -/
  | syncArrival (n : Nat)
  /-- R247: The core polls each watched word's home at least every 256 core cycles. -/
  | watchPoll (core pos lane : Nat)
  /-- R265: Each core cycle the sequencer starts one eligible entry, favouring the high queue. -/
  | tileEntryStart (core : Nat)
  /-- R266: An entry whose unit finished and whose checksums pass writes back, sends its arrival and retires. -/
  | tileEntryRetire (core id : Nat) (fault : Bool)
  /-- R258: A 128-byte sub-block written to a slot is accepted and counted, or discarded with a 0x28 notice. -/
  | slotWrite (die job n : Nat)
  /-- R312: An engine's follow-on command reaches the target core's tile queue and is checked and enqueued or held. -/
  | followOnEnqueue (die job : Nat)
  /-- R304: A task scheduler receives a job card, validates it and its records, and replies with a status. -/
  | cardAcceptance (die : Nat)
  /-- R307: A match notice passing the generation test releases held jobs. -/
  | jobRelease (die : Nat)
  /-- R307: Every 4,096 fabric cycles the scheduler reads the generation of each word holding jobs. -/
  | waitWordPoll (die job : Nat)
  /-- R308: A held job whose word's group or grid retires ends with reason 0x87. -/
  | waitWordRetired (die job : Nat)
  /-- R309: An idle engine starts the eligible job of highest priority. -/
  | jobStart (die : Nat)
  /-- R310: A job meeting 0x10 or 0x16 stalls and sends a page-service request. -/
  | jobPageStall (die job n : Nat)
  /-- R310: A stalled job resumes at the faulting access once the page is mapped. -/
  | jobResume (die job : Nat)
  /-- R312: After every write of the job has performed, the engine issues its follow-on. -/
  | followOnIssue (die job : Nat)
  /-- R313: A job whose writes, arrivals, follow-on and stamp are done retires and frees its window entry. -/
  | jobRetire (die job : Nat)
  /-- R313: A job meeting an error retires at once with state 4 and a management event. -/
  | jobErrorEnd (die job n : Nat)
  /-- R433: A port adder adds an arriving collective chunk to the local contribution with one rounding. -/
  | zethesAdder (die job n : Nat) (data : List Word)
  /-- R318: A member with no route or a revoked key ends every member's collective with 0x84. -/
  | collectiveLost (die job : Nat)
  /-- R336: The home takes an update-permission request, collapsing or invalidating as needed, and grants U(op,type). -/
  | uGrant (core pos : Nat)
  /-- R339: A triggering access at the home folds every U copy into the home value in ascending cache number. -/
  | collapse (line : Nat)
  /-- R340: An L1 evicting a U copy sends its touched sectors in a merge message and holds the line evicting. -/
  | uEviction (core line : Nat)
  /-- R340: A home-path slice merges an arriving eviction message into its copy and acknowledges. -/
  | evictionMerge (core line : Nat)
  /-- R341: A home-path slice evicting its U copy merges it into the home value. -/
  | sliceUEviction (die line : Nat)
  /-- R331: An L1 queues an invalidation of an S line, marking it, or gives up an E or M line at once. -/
  | invalidationReceive (core n : Nat)
  /-- R332: A queued invalidation is applied 32,768 core cycles after it was queued. -/
  | invalidationAgeExpiry (core n : Nat)
  /-- R483: An engine, sequencer or port read or write is taken at the home slice in the line's order. -/
  | homeUnitAccess (a : UnitAccess)
  /-- R363: A store-buffer entry is sent in order, no later than 16,384 core cycles after commit. -/
  | storeBufferSend (core pos : Nat)
  /-- R363: A point of performance acknowledges an entry and it is freed. -/
  | storeAck (core pos id : Nat)
  /-- R385: A walker reads the page table for a missed translation and fills a TLB entry, setting A or D. -/
  | pageWalk (core va : Nat) (write : Bool)
  /-- R390: Lanes parked with no recorded pages re-execute after 16,384 core cycles. -/
  | parkRetryTimeout (core pos park : Nat)
  /-- R391: The migration engine marks, collapses, copies and remaps a page between tiers. -/
  | migrationMove (die va frame : Nat)
  /-- R395: The trap troupe begins the next delivery at TRAPVEC. -/
  | trapDelivery (core : Nat)
  /-- R416: Each fabric cycle a router ejects, forwards or deflects arriving flits by priority key. -/
  | flitRoute (plane die stop : Nat)
  /-- R418: A stop injects a waiting flit when throttle, escalation and reassembly allotment permit. -/
  | flitInject (plane die stop : Nat)
  /-- R415: Every 8 fabric cycles the package tick advances every flit's AGE. -/
  | fabricTick
  /-- R421: At the end of each 256-cycle window a stop updates its throttle level from its deflections. -/
  | throttleWindow (die stop : Nat)
  /-- R424: A merge sender's one-flit slot request is answered with a slot by the receiving slice. -/
  | mergeSlotRequest (core line : Nat)
  /-- R429: A receiving edge stop reorders a stream's packets and injects rebuilt flits in stream order. -/
  | zethesPacketReceive (p : Packet)
  /-- R430: A port resends a packet whose CRC fails or whose acknowledgement is missing. -/
  | zethesReplay (port n : Nat)
  /-- R430: A port losing lock or replaying too much leaves the tables and its packets are resent elsewhere. -/
  | portDead (port : Nat)
  /-- R434: A peer package's collapse partial arrives and is folded in ascending package order. -/
  | partialFold (line pkg op ty : Nat) (data : Tab Byte) (touched : BitVec 8)
  /-- R432: A packet arriving under a revoked key is discarded and counted. -/
  | revokedArrival (port key : Nat)
  /-- R436: An Ethernet port pops a posted work descriptor and performs it on its queue pair. -/
  | workRequestPop (die qp : Nat)
  /-- R436: A completed work request makes one arrival at its sync word; a failed one moves the queue pair to error. -/
  | workCompletion (die qp : Nat) (ending : WorkEnd)
  /-- R435: An incoming RDMA write performs at the L2 home as an engine write. -/
  | rdmaIncomingWrite (die qp rkey addr : Nat) (bytes : List Byte)
  /-- R437: A space 0x3 access is carried to and performed at the host over the Ozwyn port. -/
  | hostAccess (core pos id : Nat)
  /-- R441: A halt request names a group whose troupes stop at the next all-stop-site boundary. -/
  | haltRequest (ticket group : Nat)
  /-- R441: A troupe not at a stop site halts at the first boundary after 65,536 core cycles. -/
  | haltTimeout (core pos : Nat)
  /-- R444: A trigger flit reaches a block and its configured action is armed. -/
  | triggerReceive (block trigger time : Nat) (peer : Bool)
  /-- R445: A block latches its snapshot registers at the first tick at or past T0 plus the delay. -/
  | snapshotLatch (block : Nat)
  /-- R446: Every 2^P core cycles the trace unit samples one troupe round robin. -/
  | traceSample (core : Nat)
  /-- R451: A group's hang counter reaching its limit kills the gang with 0x43. -/
  | hangWatchdogExpiry (ticket group : Nat)
  /-- R452: A shadow-latch detector repeats a late cycle at half clock and counts it. -/
  | timingRepeat (die : Nat)
  /-- R453: An ECC check corrects, poisons a sector, kills the owner or raises a device error. -/
  | eccError (e : EccEvent)
  /-- R458: Background patrol scrub of near DRAM, far memory and L2 sets at their stated rates. -/
  | patrolScrub (die which : Nat)
  /-- R458: Each DRAM channel idles 1 µs in every 10 ms for calibration. -/
  | dramCalibration (die channel : Nat)
  /-- R458: Every 64th L2 miss adds one to its page's access counter. -/
  | migrationAccounting (page : Nat)
  /-- R458: All migration counters halve every 2^PERIOD core cycles. -/
  | counterHalving (die : Nat)
  /-- R458: Each stop sends one telemetry flit per 65,536 fabric cycles. -/
  | telemetry (die stop : Nat)
  /-- R473: Applying power brings up the Ozwyn port and derives the identity key. -/
  | powerOn
  /-- R473: A received firmware image is verified, then calibration and link training run to Ready. -/
  | firmwareImage (bytes : List Byte) (sig : Nat) (trims : Bool) (dead : List Nat)
  /-- R475: A nonce from the control node is answered with a signed attestation report. -/
  | attestationRequest (nonce : Nat)
  /-- R474: A write of PWRCTL.RESET ends every grid and repeats the start steps. -/
  | deviceReset
  /-- R480: A write of PWRCTL.OFF ends every grid and powers off. -/
  | powerOff
  /-- R476: Each 1 ms window's power is measured and limiting starts or stops. -/
  | powerWindow (watts heldPct : Nat)
  /-- R476: Every 10 µs the hottest sensor is read; limiting starts at 100 °C and power goes off at 110 °C. -/
  | thermalSample (celsius : Nat)
  /-- R432: A REVOKE write with bit 16 set revokes a partition key package-wide. -/
  | keyRevoke (key : Nat)
  /-- R478: A REVOKE write with bit 16 clear restores a key. -/
  | keyRestore (key : Nat)
  /-- R478: A TLBINV write with bit 63 set acts as tlbi.all. -/
  | tlbinvAll
  /-- R478: A TLBINV write with a space 0x0 or 0x1 pointer acts as tlbi.page. -/
  | tlbinvPage (ptr : Nat)
  /-- R478: Retrains a named Zethes port. -/
  | zretrain (port : Nat)
  /-- R397: Restarts a core's stopped trap troupe, beginning the interrupted delivery again. -/
  | traprst (core : Nat)
  /-- R478: DEBUGCTL command 1 enables debug for a grid. -/
  | debugEnable (ticket : Nat)
  /-- R478: DEBUGCTL command 2 disables debug for a grid. -/
  | debugDisable (ticket : Nat)
  /-- R441: DEBUGCTL command 3 raises a halt request for the group named by DEBUGSEL. -/
  | debugHaltGroup (ticket : Nat)
  /-- R441: DEBUGCTL command 4 resumes the halted group named by DEBUGSEL. -/
  | debugResumeGroup (ticket : Nat)
  /-- R478: Sets a breakpoint ordinal for a grid, optionally bound to a trigger. -/
  | brksetSet (value : Nat)
  /-- R478: Clears a breakpoint of a grid. -/
  | brksetClear (value : Nat)
  /-- R478: Writes a halted group's image to a buffer and reports completion. -/
  | dumpreq (base : Nat)
  /-- R479: QPCMD command 1 creates a queue pair. -/
  | qpCreate (ptr : Nat)
  /-- R479: QPCMD command 2 connects a queue pair to a remote peer. -/
  | qpConnect (ptr : Nat)
  /-- R479: QPCMD command 3 registers a memory region and returns its remote key. -/
  | regionRegister (ptr : Nat)
  /-- R479: QPCMD command 4 removes a region key after its work completes. -/
  | regionDeregister (ptr : Nat)
  /-- R479: QPCMD command 5 destroys a queue pair after its work completes. -/
  | qpDestroy (ptr : Nat)
  /-- R478: Writing 1 to TRIGCFG bit 63 sends trigger t now. -/
  | triggerSend (t : Nat)
  /-- R478: A write to a management register with no behaviour of its own stores the value. -/
  | managementRegisterWrite (offset value : Nat)
  /-- R474: Removal of the package's supply discards all state, the black box included, until power is restored. -/
  | powerLoss
  /-- R445: The control node's read of a block's latched snapshot clears the latch so that a later trigger can latch again. -/
  | snapshotRead (block : Nat)
  /-- R429: Credits returned for a stream let a sender that was holding that stream's packets resume sending them. -/
  | zethesCreditReturn (stream n : Nat)
  /-- R435: An incoming RDMA read request from a remote peer is served by reading the registered region at its home and returning the data. -/
  | rdmaIncomingRead (die qp rkey addr len : Nat)
  /-- R435: An IEEE 802.1Qbb pause frame received on a priority stops or resumes the port's transmission on that priority. -/
  | priorityFlowControl (die prio : Nat) (pause : Bool)
  /-- R435: An ECN-marked packet lowers the sending rate of its queue pair. -/
  | congestionNotification (die qp : Nat)
  deriving DecidableEq, Repr, Inhabited

end Sys2Proof
end

