-- ==== Sys2Proof/WellFormed.lean ====
section
/-!
DEFINITION. Which field values each instruction accepts (R42 to R49, R52, and the tables of R177, R214, R281, R347): the
malformed instructions that trap as illegal instruction.
-/

namespace Sys2Proof

/-- The fields of an instruction, by format. -/
inductive Fmt where
  | A (f : FA)
  | B (f : FB)
  | X (f : FX)
  | L (f : FL)
  | M (f : FM)
  | C (f : FC)
  | S (f : FS)
  | event
  deriving DecidableEq, Repr

/-- An A word with every field zero. -/
def FA.zeros : FA := ⟨.x 0, .x 0, .x 0, false, false, 0⟩

/-- Instruction classes (R23, R50). -/
inductive Cls where
  | alu | memory | tile | special | sync | system | any
  deriving DecidableEq, Repr

/-- What the destination or data register field holds. -/
inductive DRole where
  /-- Not used: zero -/
  | none
  /-- A destination under R47 -/
  | dest
  /-- A destination whose value arrives after the clause, or one limited alike: x0–x63 or ZERO (R47, R347, R244) -/
  | late
  /-- A destination under R47 of a value that arrives after the clause: any but a c register (`ld2`) -/
  | plain
  /-- x0–x63, written late (`fill`) -/
  | lateX
  /-- k0–k31 (`ldk`) -/
  | destK
  /-- x0–x63 or k0–k31 (`csrr`) -/
  | destXK
  /-- A value of the instruction's type, read -/
  | val
  /-- k0–k31, read (`stk`) -/
  | valK
  /-- x0–x63, read (`spill`) -/
  | valX
  /-- x0–x63 or ZERO, read and written late (`cas`) -/
  | valLate
  /-- An integer, read -/
  | int
  deriving DecidableEq, Repr

/-- What a source field holds, and how its constants are read (R45). -/
inductive SRole where
  /-- Not used: zero -/
  | none
  /-- An integer operand -/
  | int
  /-- A floating-point operand -/
  | fp
  /-- Either: a constant takes the pack mode's format of its kind (`mov`, `sel`) -/
  | any
  /-- A predicate number in the low three bits of the field (`pl`) -/
  | pred
  /-- The destination register of `pl.tomask` -/
  | dst
  /-- The seed register of stochastic rounding (R206) -/
  | seed
  /-- x0–x63 or k0–k31 (`yield xa`) -/
  | xk
  /-- x0–x63 or ZERO (`brk`, `tret`) -/
  | xz
  deriving DecidableEq, Repr

/-- Which pending operands an instruction forwards (R142, R143, R148). -/
inductive Fwd where
  | none | int | shl | neg | lea | f64 | ld
  deriving DecidableEq, Repr

/-- What the fields of one instruction may hold. A mask has bit v set where value v is accepted. -/
structure Spec where
  /-- Major opcode (R50) -/
  op : Nat
  cls : Cls
  /-- A control instruction (R24) -/
  ctl : Bool := false
  /-- The function code of this form (R51) -/
  sel : Option Nat := Option.none
  /-- The function field holds a type code (`icvt`, `fcvt`, `ficvt`, `ifcvt`) -/
  anyFn : Bool := false
  d : DRole := .none
  a : SRole := .none
  b : SRole := .none
  c : SRole := .none
  e : DRole := .none
  /-- The Compare word's predicate field is used -/
  q : Bool := false
  packs : Nat := 1
  /-- The highest accepted rounding code (R43) -/
  rnds : Nat := 0
  sat : Bool := false
  flg : BitVec 4 := 0
  /-- The bits of imm12 that may be set -/
  imm : BitVec 12 := 0
  types : Nat := 1
  orders : Nat := 1
  off : Bool := false
  /-- Supervisor only (0x04 from a program) -/
  sup : Bool := false
  fwd : Fwd := .none
  deriving DecidableEq, Repr

/-- The fields of an instruction's words, by format; an event has none. -/
def Instr.fmt : Instr → Fmt
  | .nop => .A FA.zeros
  | .add f => .A f
  | .sub f => .A f
  | .addi f => .B f
  | .mul f => .A f
  | .mulhs f => .A f
  | .mulhn f => .A f
  | .mad f => .X f
  | .andI f => .A f
  | .orI f => .A f
  | .xorI f => .A f
  | .andn f => .A f
  | .shl f => .A f
  | .shr f => .A f
  | .sar f => .A f
  | .rot f => .A f
  | .mins f => .A f
  | .minn f => .A f
  | .maxs f => .A f
  | .maxn f => .A f
  | .bitClz f => .A f
  | .bitCtz f => .A f
  | .bitPopc f => .A f
  | .bitBrev f => .A f
  | .bitAbs f => .A f
  | .bitNeg f => .A f
  | .bitNot f => .A f
  | .bitSext8 f => .A f
  | .bitSext16 f => .A f
  | .bitSext32 f => .A f
  | .bfe f => .X f
  | .bfi f => .X f
  | .lea f => .X f
  | .sel f => .X f
  | .divQuos f => .X f
  | .divQuon f => .X f
  | .divRems f => .X f
  | .divRemn f => .X f
  | .movi f => .L f
  | .moviShifted f => .L f
  | .mov f => .A f
  | .cmpEq f => .C f
  | .cmpNe f => .C f
  | .cmpLts f => .C f
  | .cmpLes f => .C f
  | .cmpGts f => .C f
  | .cmpGes f => .C f
  | .cmpLtn f => .C f
  | .cmpLen f => .C f
  | .cmpGtn f => .C f
  | .cmpGen f => .C f
  | .cmpTst f => .C f
  | .cmpTsz f => .C f
  | .plAnd f => .C f
  | .plOr f => .C f
  | .plXor f => .C f
  | .plAndn f => .C f
  | .plOrn f => .C f
  | .plFrommask f => .C f
  | .plTomask f => .C f
  | .icvt f => .X f
  | .fadd f => .X f
  | .fsub f => .X f
  | .fmul f => .X f
  | .fma f => .X f
  | .fmin f => .X f
  | .fmax f => .X f
  | .fsgnCopy f => .X f
  | .fsgnCopyneg f => .X f
  | .fsgnXor f => .X f
  | .fcmpEq f => .C f
  | .fcmpNe f => .C f
  | .fcmpLt f => .C f
  | .fcmpLe f => .C f
  | .fcmpGt f => .C f
  | .fcmpGe f => .C f
  | .fcmpUno f => .C f
  | .fcmpOrd f => .C f
  | .fdiv f => .X f
  | .fsqrt f => .X f
  | .frcp f => .X f
  | .frsq f => .X f
  | .fexp2 f => .X f
  | .flog2 f => .X f
  | .fsin f => .X f
  | .fcos f => .X f
  | .ftanh f => .X f
  | .fcvt f => .X f
  | .ficvt f => .X f
  | .ifcvt f => .X f
  | .frnd f => .X f
  | .fclass f => .X f
  | .fscale f => .X f
  | .fdot2 f => .X f
  | .perm f => .X f
  | .shflIdx f => .X f
  | .shflUp f => .X f
  | .shflDown f => .X f
  | .shflXor f => .X f
  | .ballot f => .X f
  | .ballotPlane f => .X f
  | .voteAll f => .X f
  | .voteAny f => .X f
  | .voteUni f => .X f
  | .lredAdd f => .X f
  | .lredMins f => .X f
  | .lredMinn f => .X f
  | .lredMaxs f => .X f
  | .lredMaxn f => .X f
  | .lredAnd f => .X f
  | .lredOr f => .X f
  | .lredXor f => .X f
  | .lredFadd f => .X f
  | .lredFmin f => .X f
  | .lredFmax f => .X f
  | .lscanAdd f => .X f
  | .lscanMins f => .X f
  | .lscanMinn f => .X f
  | .lscanMaxs f => .X f
  | .lscanMaxn f => .X f
  | .lscanAnd f => .X f
  | .lscanOr f => .X f
  | .lscanXor f => .X f
  | .lscanFadd f => .X f
  | .lscanFmin f => .X f
  | .lscanFmax f => .X f
  | .rsel f => .X f
  | .rselFin f => .X f
  | .regroup f => .X f
  | .regroupRestore f => .X f
  | .regroupCapupd f => .X f
  | .ld f => .M f
  | .ld2 f => .M f
  | .st f => .M f
  | .st2 f => .M f
  | .pf f => .M f
  | .clClean f => .M f
  | .clInvalidate f => .M f
  | .clCollapse f => .M f
  | .clWriteback f => .M f
  | .ldk f => .M f
  | .stk f => .M f
  | .amoAdd f => .M f
  | .amoMins f => .M f
  | .amoMinn f => .M f
  | .amoMaxs f => .M f
  | .amoMaxn f => .M f
  | .amoAnd f => .M f
  | .amoOr f => .M f
  | .amoXor f => .M f
  | .amoExch f => .M f
  | .amofAdd f => .M f
  | .amofMin f => .M f
  | .amofMax f => .M f
  | .amofExch f => .M f
  | .cas f => .M f
  | .redAdd f => .M f
  | .redMins f => .M f
  | .redMinn f => .M f
  | .redMaxs f => .M f
  | .redMaxn f => .M f
  | .redAnd f => .M f
  | .redOr f => .M f
  | .redXor f => .M f
  | .redfAdd f => .M f
  | .redfMin f => .M f
  | .redfMax f => .M f
  | .redfAcc f => .M f
  | .spill f => .M f
  | .fill f => .M f
  | .bind f => .M f
  | .unbind f => .M f
  | .fenceMem f => .M f
  | .fenceEng f => .M f
  | .sarm f => .M f
  | .swait f => .M f
  | .sadd f => .M f
  | .gsp f => .M f
  | .stqPush f => .M f
  | .stqPop f => .M f
  | .stqPeek f => .M f
  | .cpy f => .M f
  | .cpqSend f => .M f
  | .cpqStatus f => .M f
  | .trec f => .X f
  | .br f => .S f
  | .brx f => .A f
  | .call f => .S f
  | .ret f => .A f
  | .meet f => .X f
  | .meetPacked f => .X f
  | .meetq f => .C f
  | .bar f => .X f
  | .nap f => .B f
  | .exitPlain f => .B f
  | .exitInherit f => .B f
  | .yieldPlain f => .A f
  | .yieldQueue f => .A f
  | .grow f => .A f
  | .trap f => .B f
  | .brk f => .B f
  | .slotClaim f => .X f
  | .slotClaimRetag f => .X f
  | .slotRelease f => .X f
  | .slotQuery f => .X f
  | .tmm f => .X f
  | .tmmBfp f => .X f
  | .tsa f => .X f
  | .accZero f => .X f
  | .accRd f => .X f
  | .accWr f => .X f
  | .accLd f => .X f
  | .accSt f => .X f
  | .accCvst f => .X f
  | .opmLd f => .X f
  | .opmSt f => .X f
  | .csrr f => .B f
  | .csrw f => .B f
  | .psreq f => .B f
  | .gangkillReg f => .B f
  | .tlbiPage f => .M f
  | .tlbiKey f => .M f
  | .tlbiAll f => .M f
  | .tret f => .A f
  | .ctxSave f => .X f
  | .ctxRestore f => .X f
  | .trcMark f => .X f
  | .trcArm f => .X f
  | .trcDisarm f => .X f
  | .quadrilleMove _ _ => .event
  | .clauseStart _ _ => .event
  | .clauseRetire _ _ => .event
  | .groupRetire _ _ => .event
  | .napExpiry _ _ _ => .event
  | .yieldEnd _ _ _ => .event
  | .launchDoorbell _ => .event
  | .launchQueueServe => .event
  | .gangAdmit _ => .event
  | .workSteal _ => .event
  | .preempt _ => .event
  | .regionFlush _ _ => .event
  | .fullSave _ _ => .event
  | .gangRestore _ => .event
  | .minuetTurn _ => .event
  | .stagePeriod _ => .event
  | .spillAck _ _ => .event
  | .refill _ _ _ => .event
  | .symbolArrival _ _ _ => .event
  | .syncArrival _ => .event
  | .watchPoll _ _ _ => .event
  | .tileEntryStart _ => .event
  | .tileEntryRetire _ _ _ => .event
  | .slotWrite _ _ _ => .event
  | .followOnEnqueue _ _ => .event
  | .cardAcceptance _ => .event
  | .jobRelease _ => .event
  | .waitWordPoll _ _ => .event
  | .waitWordRetired _ _ => .event
  | .jobStart _ => .event
  | .jobPageStall _ _ _ => .event
  | .jobResume _ _ => .event
  | .followOnIssue _ _ => .event
  | .jobRetire _ _ => .event
  | .jobErrorEnd _ _ _ => .event
  | .zethesAdder _ _ _ _ => .event
  | .collectiveLost _ _ => .event
  | .uGrant _ _ => .event
  | .collapse _ => .event
  | .uEviction _ _ => .event
  | .evictionMerge _ _ => .event
  | .sliceUEviction _ _ => .event
  | .invalidationReceive _ _ => .event
  | .invalidationAgeExpiry _ _ => .event
  | .homeUnitAccess _ => .event
  | .storeBufferSend _ _ => .event
  | .storeAck _ _ _ => .event
  | .pageWalk _ _ _ => .event
  | .parkRetryTimeout _ _ _ => .event
  | .migrationMove _ _ _ => .event
  | .trapDelivery _ => .event
  | .flitRoute _ _ _ => .event
  | .flitInject _ _ _ => .event
  | .fabricTick => .event
  | .throttleWindow _ _ => .event
  | .mergeSlotRequest _ _ => .event
  | .zethesPacketReceive _ => .event
  | .zethesReplay _ _ => .event
  | .portDead _ => .event
  | .partialFold _ _ _ _ _ _ => .event
  | .revokedArrival _ _ => .event
  | .workRequestPop _ _ => .event
  | .workCompletion _ _ _ => .event
  | .rdmaIncomingWrite _ _ _ _ _ => .event
  | .hostAccess _ _ _ => .event
  | .haltRequest _ _ => .event
  | .haltTimeout _ _ => .event
  | .triggerReceive _ _ _ _ => .event
  | .snapshotLatch _ => .event
  | .traceSample _ => .event
  | .hangWatchdogExpiry _ _ => .event
  | .timingRepeat _ => .event
  | .eccError _ => .event
  | .poisonConsumed _ _ => .event
  | .gangKill _ _ _ => .event
  | .patrolScrub _ _ => .event
  | .dramCalibration _ _ => .event
  | .migrationAccounting _ => .event
  | .counterHalving _ => .event
  | .telemetry _ _ => .event
  | .powerOn => .event
  | .firmwareImage _ _ _ _ => .event
  | .attestationRequest _ => .event
  | .deviceReset => .event
  | .powerOff => .event
  | .powerWindow _ _ => .event
  | .thermalSample _ => .event
  | .keyRevoke _ => .event
  | .keyRestore _ => .event
  | .tlbinvAll => .event
  | .tlbinvPage _ => .event
  | .zretrain _ => .event
  | .traprst _ => .event
  | .debugEnable _ => .event
  | .debugDisable _ => .event
  | .debugHaltGroup _ => .event
  | .debugResumeGroup _ => .event
  | .brksetSet _ => .event
  | .brksetClear _ => .event
  | .dumpreq _ => .event
  | .qpCreate _ => .event
  | .qpConnect _ => .event
  | .regionRegister _ => .event
  | .regionDeregister _ => .event
  | .qpDestroy _ => .event
  | .triggerSend _ => .event
  | .managementRegisterWrite _ _ => .event
  | .powerLoss => .event
  | .snapshotRead _ => .event
  | .zethesCreditReturn _ _ => .event
  | .rdmaIncomingRead _ _ _ _ _ => .event
  | .priorityFlowControl _ _ _ => .event
  | .congestionNotification _ _ => .event

/-- What the opcode map and the home chapters let each instruction's fields hold (R50, R51, R177, R214, R281, R347). The destinations of
`ld2` are plain ones (R347), which R47 refuses c registers only. -/
def Instr.spec : Instr → Spec
  | .nop => { op := 0x0, cls := .any }
  | .add _ => { op := 0x1, cls := .alu, d := .dest, a := .int, b := .int, packs := 0b1111, fwd := .int }
  | .sub _ => { op := 0x2, cls := .alu, d := .dest, a := .int, b := .int, packs := 0b1111, fwd := .int }
  | .addi _ => { op := 0x3, cls := .alu, d := .dest, a := .int, fwd := .int }
  | .mul _ => { op := 0x4, cls := .alu, d := .dest, a := .int, b := .int, packs := 0b1111, fwd := .int }
  | .mulhs _ => { op := 0x5, cls := .alu, d := .dest, a := .int, b := .int, packs := 0b1111 }
  | .mulhn _ => { op := 0x6, cls := .alu, d := .dest, a := .int, b := .int, packs := 0b1111 }
  | .mad _ => { op := 0x7, cls := .alu, d := .dest, a := .int, b := .int, c := .int, packs := 0b1111, sat := true, imm := 0x001 }
  | .andI _ => { op := 0x8, cls := .alu, d := .dest, a := .int, b := .int, packs := 0b1111 }
  | .orI _ => { op := 0x9, cls := .alu, d := .dest, a := .int, b := .int, packs := 0b1111 }
  | .xorI _ => { op := 0xa, cls := .alu, d := .dest, a := .int, b := .int, packs := 0b1111 }
  | .andn _ => { op := 0xb, cls := .alu, d := .dest, a := .int, b := .int, packs := 0b1111 }
  | .shl _ => { op := 0xc, cls := .alu, d := .dest, a := .int, b := .int, packs := 0b1111, fwd := .shl }
  | .shr _ => { op := 0xd, cls := .alu, d := .dest, a := .int, b := .int, packs := 0b1111 }
  | .sar _ => { op := 0xe, cls := .alu, d := .dest, a := .int, b := .int, packs := 0b1111 }
  | .rot _ => { op := 0xf, cls := .alu, d := .dest, a := .int, b := .int, packs := 0b1111 }
  | .mins _ => { op := 0x10, cls := .alu, d := .dest, a := .int, b := .int, packs := 0b1111 }
  | .minn _ => { op := 0x11, cls := .alu, d := .dest, a := .int, b := .int, packs := 0b1111 }
  | .maxs _ => { op := 0x12, cls := .alu, d := .dest, a := .int, b := .int, packs := 0b1111 }
  | .maxn _ => { op := 0x13, cls := .alu, d := .dest, a := .int, b := .int, packs := 0b1111 }
  | .bitClz _ => { op := 0x14, sel := some 0, cls := .alu, d := .dest, a := .int, packs := 0b1111 }
  | .bitCtz _ => { op := 0x14, sel := some 1, cls := .alu, d := .dest, a := .int, packs := 0b1111 }
  | .bitPopc _ => { op := 0x14, sel := some 2, cls := .alu, d := .dest, a := .int, packs := 0b1111 }
  | .bitBrev _ => { op := 0x14, sel := some 3, cls := .alu, d := .dest, a := .int, packs := 0b1111 }
  | .bitAbs _ => { op := 0x14, sel := some 4, cls := .alu, d := .dest, a := .int, packs := 0b1111 }
  | .bitNeg _ => { op := 0x14, sel := some 5, cls := .alu, d := .dest, a := .int, packs := 0b1111, fwd := .neg }
  | .bitNot _ => { op := 0x14, sel := some 6, cls := .alu, d := .dest, a := .int, packs := 0b1111 }
  | .bitSext8 _ => { op := 0x14, sel := some 7, cls := .alu, d := .dest, a := .int, packs := 0b0111 }
  | .bitSext16 _ => { op := 0x14, sel := some 8, cls := .alu, d := .dest, a := .int, packs := 0b0011 }
  | .bitSext32 _ => { op := 0x14, sel := some 9, cls := .alu, d := .dest, a := .int, packs := 0b0001 }
  | .bfe _ => { op := 0x15, cls := .alu, d := .dest, a := .int, b := .int, packs := 0b0011, imm := 0x001 }
  | .bfi _ => { op := 0x16, cls := .alu, d := .dest, a := .int, b := .int, c := .int, packs := 0b0011 }
  | .lea _ => { op := 0x17, cls := .alu, d := .dest, a := .int, b := .int, c := .int, imm := 0x00F, fwd := .lea }
  | .sel _ => { op := 0x18, cls := .alu, d := .dest, a := .any, b := .any, imm := 0x00F }
  | .divQuos _ => { op := 0x19, sel := some 0, cls := .special, d := .dest, a := .int, b := .int, packs := 0b1111, sat := true }
  | .divQuon _ => { op := 0x19, sel := some 1, cls := .special, d := .dest, a := .int, b := .int, packs := 0b1111 }
  | .divRems _ => { op := 0x19, sel := some 2, cls := .special, d := .dest, a := .int, b := .int, packs := 0b1111 }
  | .divRemn _ => { op := 0x19, sel := some 3, cls := .special, d := .dest, a := .int, b := .int, packs := 0b1111 }
  | .movi _ => { op := 0x1a, cls := .alu, d := .dest, a := .int }
  | .moviShifted _ => { op := 0x1a, cls := .alu, d := .dest, a := .int }
  | .mov _ => { op := 0x1b, cls := .alu, d := .dest, a := .any, packs := 0b1111 }
  | .cmpEq _ => { op := 0x1c, sel := some 0, cls := .alu, a := .int, b := .int, packs := 0b1111, q := true }
  | .cmpNe _ => { op := 0x1c, sel := some 1, cls := .alu, a := .int, b := .int, packs := 0b1111, q := true }
  | .cmpLts _ => { op := 0x1c, sel := some 2, cls := .alu, a := .int, b := .int, packs := 0b1111, q := true }
  | .cmpLes _ => { op := 0x1c, sel := some 3, cls := .alu, a := .int, b := .int, packs := 0b1111, q := true }
  | .cmpGts _ => { op := 0x1c, sel := some 4, cls := .alu, a := .int, b := .int, packs := 0b1111, q := true }
  | .cmpGes _ => { op := 0x1c, sel := some 5, cls := .alu, a := .int, b := .int, packs := 0b1111, q := true }
  | .cmpLtn _ => { op := 0x1c, sel := some 6, cls := .alu, a := .int, b := .int, packs := 0b1111, q := true }
  | .cmpLen _ => { op := 0x1c, sel := some 7, cls := .alu, a := .int, b := .int, packs := 0b1111, q := true }
  | .cmpGtn _ => { op := 0x1c, sel := some 8, cls := .alu, a := .int, b := .int, packs := 0b1111, q := true }
  | .cmpGen _ => { op := 0x1c, sel := some 9, cls := .alu, a := .int, b := .int, packs := 0b1111, q := true }
  | .cmpTst _ => { op := 0x1c, sel := some 10, cls := .alu, a := .int, b := .int, packs := 0b1111, q := true }
  | .cmpTsz _ => { op := 0x1c, sel := some 11, cls := .alu, a := .int, b := .int, packs := 0b1111, q := true }
  | .plAnd _ => { op := 0x1d, sel := some 0, cls := .alu, a := .pred, b := .pred, q := true }
  | .plOr _ => { op := 0x1d, sel := some 1, cls := .alu, a := .pred, b := .pred, q := true }
  | .plXor _ => { op := 0x1d, sel := some 2, cls := .alu, a := .pred, b := .pred, q := true }
  | .plAndn _ => { op := 0x1d, sel := some 3, cls := .alu, a := .pred, b := .pred, q := true }
  | .plOrn _ => { op := 0x1d, sel := some 4, cls := .alu, a := .pred, b := .pred, q := true }
  | .plFrommask _ => { op := 0x1d, sel := some 5, cls := .alu, a := .int, q := true }
  | .plTomask _ => { op := 0x1d, sel := some 6, cls := .alu, a := .dst, q := true }
  | .icvt _ => { op := 0x1e, cls := .alu, d := .dest, a := .int, packs := 0b1111, sat := true, imm := 0xF00, anyFn := true }
  | .fadd _ => { op := 0x20, cls := .alu, d := .dest, a := .fp, b := .fp, packs := 0b1111, rnds := 5, sat := true, flg := 0b1110, fwd := .f64 }
  | .fsub _ => { op := 0x21, cls := .alu, d := .dest, a := .fp, b := .fp, packs := 0b1111, rnds := 5, sat := true, flg := 0b1110, fwd := .f64 }
  | .fmul _ => { op := 0x22, cls := .alu, d := .dest, a := .fp, b := .fp, packs := 0b1111, rnds := 5, sat := true, flg := 0b1110, fwd := .f64 }
  | .fma _ => { op := 0x23, cls := .alu, d := .dest, a := .fp, b := .fp, c := .fp, packs := 0b1111, rnds := 5, sat := true, flg := 0b1111, fwd := .f64 }
  | .fmin _ => { op := 0x24, cls := .alu, d := .dest, a := .fp, b := .fp, packs := 0b1111, flg := 0b1110 }
  | .fmax _ => { op := 0x25, cls := .alu, d := .dest, a := .fp, b := .fp, packs := 0b1111, flg := 0b1110 }
  | .fsgnCopy _ => { op := 0x26, sel := some 0, cls := .alu, d := .dest, a := .fp, b := .fp, packs := 0b1111 }
  | .fsgnCopyneg _ => { op := 0x26, sel := some 1, cls := .alu, d := .dest, a := .fp, b := .fp, packs := 0b1111 }
  | .fsgnXor _ => { op := 0x26, sel := some 2, cls := .alu, d := .dest, a := .fp, b := .fp, packs := 0b1111 }
  | .fcmpEq _ => { op := 0x27, sel := some 0, cls := .alu, a := .fp, b := .fp, packs := 0b1111, q := true }
  | .fcmpNe _ => { op := 0x27, sel := some 1, cls := .alu, a := .fp, b := .fp, packs := 0b1111, q := true }
  | .fcmpLt _ => { op := 0x27, sel := some 2, cls := .alu, a := .fp, b := .fp, packs := 0b1111, q := true }
  | .fcmpLe _ => { op := 0x27, sel := some 3, cls := .alu, a := .fp, b := .fp, packs := 0b1111, q := true }
  | .fcmpGt _ => { op := 0x27, sel := some 4, cls := .alu, a := .fp, b := .fp, packs := 0b1111, q := true }
  | .fcmpGe _ => { op := 0x27, sel := some 5, cls := .alu, a := .fp, b := .fp, packs := 0b1111, q := true }
  | .fcmpUno _ => { op := 0x27, sel := some 6, cls := .alu, a := .fp, b := .fp, packs := 0b1111, q := true }
  | .fcmpOrd _ => { op := 0x27, sel := some 7, cls := .alu, a := .fp, b := .fp, packs := 0b1111, q := true }
  | .fdiv _ => { op := 0x28, cls := .special, d := .dest, a := .fp, b := .fp, packs := 0b1111, rnds := 5, sat := true, flg := 0b1110 }
  | .fsqrt _ => { op := 0x29, cls := .special, d := .dest, a := .fp, packs := 0b1111, rnds := 5, flg := 0b1100 }
  | .frcp _ => { op := 0x2a, cls := .special, d := .dest, a := .fp, packs := 0b1111, rnds := 5, sat := true, flg := 0b1100 }
  | .frsq _ => { op := 0x2b, cls := .special, d := .dest, a := .fp, packs := 0b1111, flg := 0b1100 }
  | .fexp2 _ => { op := 0x30, cls := .special, d := .dest, a := .fp, packs := 0b1111, flg := 0b1100, sat := true }
  | .flog2 _ => { op := 0x31, cls := .special, d := .dest, a := .fp, packs := 0b1111, flg := 0b1100 }
  | .fsin _ => { op := 0x32, cls := .special, d := .dest, a := .fp, packs := 0b1111, flg := 0b1100 }
  | .fcos _ => { op := 0x33, cls := .special, d := .dest, a := .fp, packs := 0b1111, flg := 0b1100 }
  | .ftanh _ => { op := 0x34, cls := .special, d := .dest, a := .fp, packs := 0b1111, flg := 0b1100 }
  | .fcvt _ => { op := 0x2c, cls := .alu, d := .dest, a := .fp, c := .seed, packs := 0b1111, rnds := 6, sat := true, imm := 0xF00, anyFn := true }
  | .ficvt _ => { op := 0x2d, cls := .alu, d := .dest, a := .fp, c := .seed, packs := 0b1111, rnds := 6, sat := true, imm := 0xF00, anyFn := true }
  | .ifcvt _ => { op := 0x2e, cls := .alu, d := .dest, a := .int, c := .seed, packs := 0b1111, rnds := 6, sat := true, imm := 0xF00, anyFn := true }
  | .frnd _ => { op := 0x2f, cls := .alu, d := .dest, a := .fp, packs := 0b1111, rnds := 5, flg := 0b1100 }
  | .fclass _ => { op := 0x35, cls := .alu, d := .dest, a := .fp, packs := 0b1111 }
  | .fscale _ => { op := 0x36, cls := .alu, d := .dest, a := .fp, b := .int, packs := 0b1111, rnds := 5, sat := true, flg := 0b1100 }
  | .fdot2 _ => { op := 0x37, cls := .alu, d := .dest, a := .fp, b := .fp, c := .fp, packs := 0b1110, rnds := 5, sat := true, flg := 0b1011 }
  | .perm _ => { op := 0x38, cls := .special, d := .dest, a := .int, b := .int, packs := 0b1111 }
  | .shflIdx _ => { op := 0x39, sel := some 0, cls := .alu, d := .dest, a := .int, b := .int, imm := 0x007 }
  | .shflUp _ => { op := 0x39, sel := some 1, cls := .alu, d := .dest, a := .int, b := .int, imm := 0x007 }
  | .shflDown _ => { op := 0x39, sel := some 2, cls := .alu, d := .dest, a := .int, b := .int, imm := 0x007 }
  | .shflXor _ => { op := 0x39, sel := some 3, cls := .alu, d := .dest, a := .int, b := .int, imm := 0x007 }
  | .ballot _ => { op := 0x3a, sel := some 0, cls := .alu, d := .dest, imm := 0x00F }
  | .ballotPlane _ => { op := 0x3a, sel := some 1, cls := .alu, d := .dest, a := .int, c := .int, imm := 0x03F }
  | .voteAll _ => { op := 0x3b, sel := some 0, cls := .alu, d := .dest, imm := 0x00F }
  | .voteAny _ => { op := 0x3b, sel := some 1, cls := .alu, d := .dest, imm := 0x00F }
  | .voteUni _ => { op := 0x3b, sel := some 2, cls := .alu, d := .dest, a := .int }
  | .lredAdd _ => { op := 0x3c, sel := some 0, cls := .alu, d := .dest, a := .int, packs := 0b1111, imm := 0x007 }
  | .lredMins _ => { op := 0x3c, sel := some 1, cls := .alu, d := .dest, a := .int, packs := 0b1111, imm := 0x007 }
  | .lredMinn _ => { op := 0x3c, sel := some 2, cls := .alu, d := .dest, a := .int, packs := 0b1111, imm := 0x007 }
  | .lredMaxs _ => { op := 0x3c, sel := some 3, cls := .alu, d := .dest, a := .int, packs := 0b1111, imm := 0x007 }
  | .lredMaxn _ => { op := 0x3c, sel := some 4, cls := .alu, d := .dest, a := .int, packs := 0b1111, imm := 0x007 }
  | .lredAnd _ => { op := 0x3c, sel := some 5, cls := .alu, d := .dest, a := .int, packs := 0b1111, imm := 0x007 }
  | .lredOr _ => { op := 0x3c, sel := some 6, cls := .alu, d := .dest, a := .int, packs := 0b1111, imm := 0x007 }
  | .lredXor _ => { op := 0x3c, sel := some 7, cls := .alu, d := .dest, a := .int, packs := 0b1111, imm := 0x007 }
  | .lredFadd _ => { op := 0x3c, sel := some 8, cls := .alu, d := .dest, a := .fp, packs := 0b1111, imm := 0x007, rnds := 5 }
  | .lredFmin _ => { op := 0x3c, sel := some 9, cls := .alu, d := .dest, a := .fp, packs := 0b1111, imm := 0x007 }
  | .lredFmax _ => { op := 0x3c, sel := some 10, cls := .alu, d := .dest, a := .fp, packs := 0b1111, imm := 0x007 }
  | .lscanAdd _ => { op := 0x3d, sel := some 0, cls := .alu, d := .dest, a := .int, packs := 0b1111, imm := 0x00F }
  | .lscanMins _ => { op := 0x3d, sel := some 1, cls := .alu, d := .dest, a := .int, packs := 0b1111, imm := 0x00F }
  | .lscanMinn _ => { op := 0x3d, sel := some 2, cls := .alu, d := .dest, a := .int, packs := 0b1111, imm := 0x00F }
  | .lscanMaxs _ => { op := 0x3d, sel := some 3, cls := .alu, d := .dest, a := .int, packs := 0b1111, imm := 0x00F }
  | .lscanMaxn _ => { op := 0x3d, sel := some 4, cls := .alu, d := .dest, a := .int, packs := 0b1111, imm := 0x00F }
  | .lscanAnd _ => { op := 0x3d, sel := some 5, cls := .alu, d := .dest, a := .int, packs := 0b1111, imm := 0x00F }
  | .lscanOr _ => { op := 0x3d, sel := some 6, cls := .alu, d := .dest, a := .int, packs := 0b1111, imm := 0x00F }
  | .lscanXor _ => { op := 0x3d, sel := some 7, cls := .alu, d := .dest, a := .int, packs := 0b1111, imm := 0x00F }
  | .lscanFadd _ => { op := 0x3d, sel := some 8, cls := .alu, d := .dest, a := .fp, packs := 0b1111, imm := 0x00F, rnds := 5 }
  | .lscanFmin _ => { op := 0x3d, sel := some 9, cls := .alu, d := .dest, a := .fp, packs := 0b1111, imm := 0x00F }
  | .lscanFmax _ => { op := 0x3d, sel := some 10, cls := .alu, d := .dest, a := .fp, packs := 0b1111, imm := 0x00F }
  | .rsel _ => { op := 0x3e, cls := .alu, d := .dest, a := .int, b := .int, imm := 0x03F }
  | .rselFin _ => { op := 0x3e, cls := .alu, d := .dest, a := .int, b := .int, imm := 0x07F }
  | .regroup _ => { op := 0x3f, sel := some 0, cls := .sync, ctl := true, d := .dest, a := .int, b := .int }
  | .regroupRestore _ => { op := 0x3f, sel := some 1, cls := .sync, ctl := true, d := .dest, b := .int }
  | .regroupCapupd _ => { op := 0x3f, sel := some 2, cls := .sync, d := .dest }
  | .ld _ => { op := 0x40, cls := .memory, a := .int, types := 0x3FFFF, orders := 0b0011, off := true, d := .late, fwd := .ld }
  | .ld2 _ => { op := 0x41, cls := .memory, a := .int, types := 0x3FFFF, orders := 0b0011, off := true, d := .plain, e := .plain }
  | .st _ => { op := 0x42, cls := .memory, a := .int, types := 0x3FFFF, orders := 0b0101, off := true, d := .val }
  | .st2 _ => { op := 0x43, cls := .memory, a := .int, types := 0x3FFFF, orders := 0b0101, off := true, d := .val, e := .val }
  | .pf _ => { op := 0x44, cls := .memory, a := .int, types := 0x1, orders := 0b0001, off := true }
  | .clClean _ => { op := 0x45, sel := some 0, cls := .memory, a := .int, types := 0x1, orders := 0b0001, off := true }
  | .clInvalidate _ => { op := 0x45, sel := some 1, cls := .memory, a := .int, types := 0x1, orders := 0b0001, off := true }
  | .clCollapse _ => { op := 0x45, sel := some 2, cls := .memory, a := .int, types := 0x1, orders := 0b0001, off := true }
  | .clWriteback _ => { op := 0x45, sel := some 3, cls := .memory, a := .int, types := 0x1, orders := 0b0001, off := true }
  | .ldk _ => { op := 0x48, cls := .memory, a := .int, types := 0x3FFFF, orders := 0b0011, off := true, d := .destK }
  | .stk _ => { op := 0x49, cls := .memory, a := .int, types := 0x3FFFF, orders := 0b0101, off := true, d := .valK }
  | .amoAdd _ => { op := 0x50, sel := some 0, cls := .memory, a := .int, types := 0xccc, orders := 0b1111, off := true, d := .late, e := .val }
  | .amoMins _ => { op := 0x50, sel := some 1, cls := .memory, a := .int, types := 0xc, orders := 0b1111, off := true, d := .late, e := .val }
  | .amoMinn _ => { op := 0x50, sel := some 2, cls := .memory, a := .int, types := 0xc0, orders := 0b1111, off := true, d := .late, e := .val }
  | .amoMaxs _ => { op := 0x50, sel := some 3, cls := .memory, a := .int, types := 0xc, orders := 0b1111, off := true, d := .late, e := .val }
  | .amoMaxn _ => { op := 0x50, sel := some 4, cls := .memory, a := .int, types := 0xc0, orders := 0b1111, off := true, d := .late, e := .val }
  | .amoAnd _ => { op := 0x50, sel := some 5, cls := .memory, a := .int, types := 0xccc, orders := 0b1111, off := true, d := .late, e := .val }
  | .amoOr _ => { op := 0x50, sel := some 6, cls := .memory, a := .int, types := 0xccc, orders := 0b1111, off := true, d := .late, e := .val }
  | .amoXor _ => { op := 0x50, sel := some 7, cls := .memory, a := .int, types := 0xccc, orders := 0b1111, off := true, d := .late, e := .val }
  | .amoExch _ => { op := 0x50, sel := some 8, cls := .memory, a := .int, types := 0xccc, orders := 0b1111, off := true, d := .late, e := .val }
  | .amofAdd _ => { op := 0x51, sel := some 0, cls := .memory, a := .int, types := 0x3000, orders := 0b1111, off := true, d := .late, e := .val }
  | .amofMin _ => { op := 0x51, sel := some 1, cls := .memory, a := .int, types := 0x3000, orders := 0b1111, off := true, d := .late, e := .val }
  | .amofMax _ => { op := 0x51, sel := some 2, cls := .memory, a := .int, types := 0x3000, orders := 0b1111, off := true, d := .late, e := .val }
  | .amofExch _ => { op := 0x51, sel := some 3, cls := .memory, a := .int, types := 0x3000, orders := 0b1111, off := true, d := .late, e := .val }
  | .cas _ => { op := 0x52, cls := .memory, a := .int, types := 0x3ccc, orders := 0b1111, off := true, d := .valLate, e := .val }
  | .redAdd _ => { op := 0x53, sel := some 0, cls := .memory, a := .int, types := 0xccc, orders := 0b0101, off := true, e := .val }
  | .redMins _ => { op := 0x53, sel := some 1, cls := .memory, a := .int, types := 0xc, orders := 0b0101, off := true, e := .val }
  | .redMinn _ => { op := 0x53, sel := some 2, cls := .memory, a := .int, types := 0xc0, orders := 0b0101, off := true, e := .val }
  | .redMaxs _ => { op := 0x53, sel := some 3, cls := .memory, a := .int, types := 0xc, orders := 0b0101, off := true, e := .val }
  | .redMaxn _ => { op := 0x53, sel := some 4, cls := .memory, a := .int, types := 0xc0, orders := 0b0101, off := true, e := .val }
  | .redAnd _ => { op := 0x53, sel := some 5, cls := .memory, a := .int, types := 0xccc, orders := 0b0101, off := true, e := .val }
  | .redOr _ => { op := 0x53, sel := some 6, cls := .memory, a := .int, types := 0xccc, orders := 0b0101, off := true, e := .val }
  | .redXor _ => { op := 0x53, sel := some 7, cls := .memory, a := .int, types := 0xccc, orders := 0b0101, off := true, e := .val }
  | .redfAdd _ => { op := 0x54, sel := some 0, cls := .memory, a := .int, types := 0x3000, orders := 0b0101, off := true, e := .val }
  | .redfMin _ => { op := 0x54, sel := some 1, cls := .memory, a := .int, types := 0x3000, orders := 0b0101, off := true, e := .val }
  | .redfMax _ => { op := 0x54, sel := some 2, cls := .memory, a := .int, types := 0x3000, orders := 0b0101, off := true, e := .val }
  | .redfAcc _ => { op := 0x54, sel := some 3, cls := .memory, a := .int, types := 0x8000, orders := 0b0101, off := true, e := .val }
  | .spill _ => { op := 0x46, cls := .memory, a := .int, types := 0x800, orders := 0b0001, off := true, d := .valX }
  | .fill _ => { op := 0x47, cls := .memory, a := .int, types := 0x800, orders := 0b0001, off := true, d := .lateX }
  | .bind _ => { op := 0x55, cls := .memory, a := .int, types := 0x1, orders := 0b0001, off := false, d := .int, e := .int }
  | .unbind _ => { op := 0x56, cls := .memory, a := .int, types := 0x1, orders := 0b0001, off := false }
  | .fenceMem _ => { op := 0x57, sel := some 0, cls := .memory, a := .none, types := 0x1, orders := 0b1000, off := false }
  | .fenceEng _ => { op := 0x57, sel := some 1, cls := .memory, a := .none, types := 0x1, orders := 0b1000, off := false }
  | .sarm _ => { op := 0x59, cls := .memory, a := .int, types := 0x1, orders := 0b0101, off := true, d := .int, e := .late }
  | .swait _ => { op := 0x5a, cls := .sync, a := .int, types := 0x1, orders := 0b0011, off := true, d := .int, ctl := true }
  | .sadd _ => { op := 0x5b, cls := .memory, a := .int, types := 0x1, orders := 0b0101, off := true, d := .int, e := .int }
  | .gsp _ => { op := 0x5c, cls := .memory, a := .int, types := 0x1, orders := 0b0011, off := true, d := .late }
  | .stqPush _ => { op := 0x6b, sel := some 0, cls := .memory, a := .int, types := 0x800, orders := 0b0101, off := false, d := .val, e := .dest }
  | .stqPop _ => { op := 0x6b, sel := some 1, cls := .memory, a := .int, types := 0x800, orders := 0b0011, off := false, d := .dest, e := .dest }
  | .stqPeek _ => { op := 0x6b, sel := some 2, cls := .memory, a := .int, types := 0x800, orders := 0b0011, off := false, d := .dest, e := .dest }
  | .cpy _ => { op := 0x75, cls := .memory, a := .int, types := 0x1, orders := 0b0101, off := true, d := .dest, e := .int }
  | .cpqSend _ => { op := 0x76, sel := some 0, cls := .memory, a := .int, types := 0x1, orders := 0b0101, off := true, d := .dest, e := .int }
  | .cpqStatus _ => { op := 0x76, sel := some 1, cls := .memory, a := .int, types := 0x1, orders := 0b0001, off := false, d := .dest }
  | .trec _ => { op := 0x77, cls := .memory, a := .int, b := .int, c := .int, imm := 0x00F }
  | .br _ => { op := 0x60, cls := .any, ctl := true }
  | .brx _ => { op := 0x61, cls := .any, ctl := true, a := .int, b := .int }
  | .call _ => { op := 0x62, cls := .any, ctl := true }
  | .ret _ => { op := 0x63, cls := .any, ctl := true, a := .int }
  | .meet _ => { op := 0x64, cls := .sync, d := .dest, a := .int, imm := 0xFFF }
  | .meetPacked _ => { op := 0x64, cls := .sync, d := .dest, b := .int }
  | .meetq _ => { op := 0x65, sel := some 0, cls := .sync, a := .int, q := true }
  | .bar _ => { op := 0x66, cls := .sync, ctl := true, a := .int, b := .int, imm := 0x007 }
  | .nap _ => { op := 0x67, cls := .any, ctl := true, a := .int }
  | .exitPlain _ => { op := 0x68, sel := some 0, cls := .any, ctl := true }
  | .exitInherit _ => { op := 0x68, sel := some 1, cls := .any, ctl := true }
  | .yieldPlain _ => { op := 0x69, cls := .any, ctl := true, a := .int }
  | .yieldQueue _ => { op := 0x69, cls := .any, ctl := true, a := .xk }
  | .grow _ => { op := 0x6a, cls := .sync, d := .dest, a := .int }
  | .trap _ => { op := 0x6c, cls := .any, ctl := true, a := .int }
  | .brk _ => { op := 0x6d, cls := .system, ctl := true, a := .xz }
  | .slotClaim _ => { op := 0x70, cls := .tile, a := .int, d := .dest }
  | .slotClaimRetag _ => { op := 0x70, cls := .tile, a := .int, d := .dest, b := .int, imm := 0x001 }
  | .slotRelease _ => { op := 0x70, sel := some 1, cls := .tile, a := .int }
  | .slotQuery _ => { op := 0x70, sel := some 2, cls := .tile, a := .int, d := .dest }
  | .tmm _ => { op := 0x71, sel := some 0, cls := .tile, a := .int, c := .int, imm := 0x007 }
  | .tmmBfp _ => { op := 0x71, sel := some 1, cls := .tile, a := .int, c := .int, imm := 0x007 }
  | .tsa _ => { op := 0x72, cls := .tile, a := .int, b := .int, c := .int, imm := 0x001 }
  | .accZero _ => { op := 0x73, sel := some 0, cls := .tile, a := .int, c := .int, imm := 0x001 }
  | .accRd _ => { op := 0x73, sel := some 1, cls := .tile, a := .int, d := .dest }
  | .accWr _ => { op := 0x73, sel := some 2, cls := .tile, a := .int, b := .int }
  | .accLd _ => { op := 0x73, sel := some 3, cls := .tile, a := .int, b := .int, c := .int, imm := 0x001 }
  | .accSt _ => { op := 0x73, sel := some 4, cls := .tile, a := .int, b := .int, c := .int, imm := 0x001 }
  | .accCvst _ => { op := 0x73, sel := some 5, cls := .tile, a := .int, b := .int, c := .int, imm := 0x001, rnds := 5, sat := true }
  | .opmLd _ => { op := 0x74, sel := some 0, cls := .tile, a := .int, b := .int, c := .int, imm := 0x001 }
  | .opmSt _ => { op := 0x74, sel := some 1, cls := .tile, a := .int, b := .int, c := .int, imm := 0x001 }
  | .csrr _ => { op := 0x78, cls := .system, d := .destXK }
  | .csrw _ => { op := 0x79, cls := .system, a := .int }
  | .psreq _ => { op := 0x79, sel := some 71, cls := .system, a := .int, sup := true }
  | .gangkillReg _ => { op := 0x79, sel := some 72, cls := .system, a := .int, sup := true }
  | .tlbiPage _ => { op := 0x7a, sel := some 0, cls := .system, a := .int, types := 0x1, orders := 0b0001, off := false, sup := true }
  | .tlbiKey _ => { op := 0x7a, sel := some 1, cls := .system, a := .int, types := 0x1, orders := 0b0001, off := false, sup := true }
  | .tlbiAll _ => { op := 0x7a, sel := some 2, cls := .system, a := .none, types := 0x1, orders := 0b0001, off := false, sup := true }
  | .tret _ => { op := 0x7b, cls := .system, ctl := true, a := .xz, sup := true }
  | .ctxSave _ => { op := 0x7c, sel := some 0, cls := .system, ctl := true, a := .int, sup := true }
  | .ctxRestore _ => { op := 0x7c, sel := some 1, cls := .system, ctl := true, a := .int, sup := true }
  | .trcMark _ => { op := 0x7d, sel := some 0, cls := .system, a := .int, imm := 0xFFF }
  | .trcArm _ => { op := 0x7d, sel := some 1, cls := .system, d := .dest, a := .int, sup := true }
  | .trcDisarm _ => { op := 0x7d, sel := some 2, cls := .system, d := .dest, sup := true }
  | .quadrilleMove _ _ => { op := 0x7F, cls := .any }
  | .clauseStart _ _ => { op := 0x7F, cls := .any }
  | .clauseRetire _ _ => { op := 0x7F, cls := .any }
  | .groupRetire _ _ => { op := 0x7F, cls := .any }
  | .napExpiry _ _ _ => { op := 0x7F, cls := .any }
  | .yieldEnd _ _ _ => { op := 0x7F, cls := .any }
  | .launchDoorbell _ => { op := 0x7F, cls := .any }
  | .launchQueueServe => { op := 0x7F, cls := .any }
  | .gangAdmit _ => { op := 0x7F, cls := .any }
  | .workSteal _ => { op := 0x7F, cls := .any }
  | .preempt _ => { op := 0x7F, cls := .any }
  | .regionFlush _ _ => { op := 0x7F, cls := .any }
  | .fullSave _ _ => { op := 0x7F, cls := .any }
  | .gangRestore _ => { op := 0x7F, cls := .any }
  | .minuetTurn _ => { op := 0x7F, cls := .any }
  | .stagePeriod _ => { op := 0x7F, cls := .any }
  | .spillAck _ _ => { op := 0x7F, cls := .any }
  | .refill _ _ _ => { op := 0x7F, cls := .any }
  | .symbolArrival _ _ _ => { op := 0x7F, cls := .any }
  | .syncArrival _ => { op := 0x7F, cls := .any }
  | .watchPoll _ _ _ => { op := 0x7F, cls := .any }
  | .tileEntryStart _ => { op := 0x7F, cls := .any }
  | .tileEntryRetire _ _ _ => { op := 0x7F, cls := .any }
  | .slotWrite _ _ _ => { op := 0x7F, cls := .any }
  | .followOnEnqueue _ _ => { op := 0x7F, cls := .any }
  | .cardAcceptance _ => { op := 0x7F, cls := .any }
  | .jobRelease _ => { op := 0x7F, cls := .any }
  | .waitWordPoll _ _ => { op := 0x7F, cls := .any }
  | .waitWordRetired _ _ => { op := 0x7F, cls := .any }
  | .jobStart _ => { op := 0x7F, cls := .any }
  | .jobPageStall _ _ _ => { op := 0x7F, cls := .any }
  | .jobResume _ _ => { op := 0x7F, cls := .any }
  | .followOnIssue _ _ => { op := 0x7F, cls := .any }
  | .jobRetire _ _ => { op := 0x7F, cls := .any }
  | .jobErrorEnd _ _ _ => { op := 0x7F, cls := .any }
  | .zethesAdder _ _ _ _ => { op := 0x7F, cls := .any }
  | .collectiveLost _ _ => { op := 0x7F, cls := .any }
  | .uGrant _ _ => { op := 0x7F, cls := .any }
  | .collapse _ => { op := 0x7F, cls := .any }
  | .uEviction _ _ => { op := 0x7F, cls := .any }
  | .evictionMerge _ _ => { op := 0x7F, cls := .any }
  | .sliceUEviction _ _ => { op := 0x7F, cls := .any }
  | .invalidationReceive _ _ => { op := 0x7F, cls := .any }
  | .invalidationAgeExpiry _ _ => { op := 0x7F, cls := .any }
  | .homeUnitAccess _ => { op := 0x7F, cls := .any }
  | .storeBufferSend _ _ => { op := 0x7F, cls := .any }
  | .storeAck _ _ _ => { op := 0x7F, cls := .any }
  | .pageWalk _ _ _ => { op := 0x7F, cls := .any }
  | .parkRetryTimeout _ _ _ => { op := 0x7F, cls := .any }
  | .migrationMove _ _ _ => { op := 0x7F, cls := .any }
  | .trapDelivery _ => { op := 0x7F, cls := .any }
  | .flitRoute _ _ _ => { op := 0x7F, cls := .any }
  | .flitInject _ _ _ => { op := 0x7F, cls := .any }
  | .fabricTick => { op := 0x7F, cls := .any }
  | .throttleWindow _ _ => { op := 0x7F, cls := .any }
  | .mergeSlotRequest _ _ => { op := 0x7F, cls := .any }
  | .zethesPacketReceive _ => { op := 0x7F, cls := .any }
  | .zethesReplay _ _ => { op := 0x7F, cls := .any }
  | .portDead _ => { op := 0x7F, cls := .any }
  | .partialFold _ _ _ _ _ _ => { op := 0x7F, cls := .any }
  | .revokedArrival _ _ => { op := 0x7F, cls := .any }
  | .workRequestPop _ _ => { op := 0x7F, cls := .any }
  | .workCompletion _ _ _ => { op := 0x7F, cls := .any }
  | .rdmaIncomingWrite _ _ _ _ _ => { op := 0x7F, cls := .any }
  | .hostAccess _ _ _ => { op := 0x7F, cls := .any }
  | .haltRequest _ _ => { op := 0x7F, cls := .any }
  | .haltTimeout _ _ => { op := 0x7F, cls := .any }
  | .triggerReceive _ _ _ _ => { op := 0x7F, cls := .any }
  | .snapshotLatch _ => { op := 0x7F, cls := .any }
  | .traceSample _ => { op := 0x7F, cls := .any }
  | .hangWatchdogExpiry _ _ => { op := 0x7F, cls := .any }
  | .timingRepeat _ => { op := 0x7F, cls := .any }
  | .eccError _ => { op := 0x7F, cls := .any }
  | .poisonConsumed _ _ => { op := 0x7F, cls := .any }
  | .gangKill _ _ _ => { op := 0x7F, cls := .any }
  | .patrolScrub _ _ => { op := 0x7F, cls := .any }
  | .dramCalibration _ _ => { op := 0x7F, cls := .any }
  | .migrationAccounting _ => { op := 0x7F, cls := .any }
  | .counterHalving _ => { op := 0x7F, cls := .any }
  | .telemetry _ _ => { op := 0x7F, cls := .any }
  | .powerOn => { op := 0x7F, cls := .any }
  | .firmwareImage _ _ _ _ => { op := 0x7F, cls := .any }
  | .attestationRequest _ => { op := 0x7F, cls := .any }
  | .deviceReset => { op := 0x7F, cls := .any }
  | .powerOff => { op := 0x7F, cls := .any }
  | .powerWindow _ _ => { op := 0x7F, cls := .any }
  | .thermalSample _ => { op := 0x7F, cls := .any }
  | .keyRevoke _ => { op := 0x7F, cls := .any }
  | .keyRestore _ => { op := 0x7F, cls := .any }
  | .tlbinvAll => { op := 0x7F, cls := .any }
  | .tlbinvPage _ => { op := 0x7F, cls := .any }
  | .zretrain _ => { op := 0x7F, cls := .any }
  | .traprst _ => { op := 0x7F, cls := .any }
  | .debugEnable _ => { op := 0x7F, cls := .any }
  | .debugDisable _ => { op := 0x7F, cls := .any }
  | .debugHaltGroup _ => { op := 0x7F, cls := .any }
  | .debugResumeGroup _ => { op := 0x7F, cls := .any }
  | .brksetSet _ => { op := 0x7F, cls := .any }
  | .brksetClear _ => { op := 0x7F, cls := .any }
  | .dumpreq _ => { op := 0x7F, cls := .any }
  | .qpCreate _ => { op := 0x7F, cls := .any }
  | .qpConnect _ => { op := 0x7F, cls := .any }
  | .regionRegister _ => { op := 0x7F, cls := .any }
  | .regionDeregister _ => { op := 0x7F, cls := .any }
  | .qpDestroy _ => { op := 0x7F, cls := .any }
  | .triggerSend _ => { op := 0x7F, cls := .any }
  | .managementRegisterWrite _ _ => { op := 0x7F, cls := .any }
  | .powerLoss => { op := 0x7F, cls := .any }
  | .snapshotRead _ => { op := 0x7F, cls := .any }
  | .zethesCreditReturn _ _ => { op := 0x7F, cls := .any }
  | .rdmaIncomingRead _ _ _ _ _ => { op := 0x7F, cls := .any }
  | .priorityFlowControl _ _ _ => { op := 0x7F, cls := .any }
  | .congestionNotification _ _ => { op := 0x7F, cls := .any }

/-- Bit v of a mask of accepted values. -/
def accepts (mask v : Nat) : Bool := mask.testBit v

/-- An operand that may be written (R44). -/
def Operand.writable : Operand → Bool
  | .x _ | .c _ | .k _ | .zero => true
  | _ => false

def Operand.isX : Operand → Bool
  | .x _ => true
  | _ => false

def Operand.isK : Operand → Bool
  | .k _ => true
  | _ => false

/-- WIDLO, WIDHI and CLK are read under pack mode 00 only (R46). -/
def Operand.wide : Operand → Bool
  | .widlo | .widhi | .clk => true
  | _ => false

/-- A constant in a source position: an FP constant in an integer operand is illegal (R45), and a 64-bit special
operand needs pack mode 00 (R46). -/
def SRole.ok (r : SRole) (pack : Nat) (o : Operand) : Bool :=
  match r with
  | .none => o == .x 0
  | .int => (match o with | .fc _ => false | _ => true) && (!o.wide || pack == 0)
  | .fp | .any => !o.wide || pack == 0
  | .pred => match o with | .x n => n.toNat < 8 | _ => false
  | .dst => o.writable
  | .seed => true
  | .xk => o.isX || o.isK
  | .xz => o.isX || o == .zero

/-- Type e4m3 has no +infinity, so that constant is refused (R195, R347). -/
def fcOk (ty : Nat) (o : Operand) : Bool :=
  match o with
  | .fc n => 12 ≤ ty && ty ≤ 17 && !(ty == 16 && n.toNat == 6)
  | _ => true

/-- The data or second register of an M word, for an instruction of type code ty (R347). -/
def DRole.ok (r : DRole) (ty : Nat) (o : Operand) : Bool :=
  match r with
  | .none => o == .x 0
  | .dest => o.writable
  | .late | .valLate => o.isX || o == .zero
  | .plain => o.isX || o.isK || o == .zero
  | .lateX | .valX => o.isX
  | .destK | .valK => o.isK
  | .destXK => o.isX || o.isK
  | .val => fcOk ty o
  | .int => match o with | .fc _ => false | _ => true

/-- The field is read as a source, so it may carry a last-read mark (R48). -/
def SRole.reads : SRole → Bool
  | .none | .pred | .dst => false
  | _ => true

def DRole.reads : DRole → Bool
  | .val | .valK | .valX | .valLate | .int => true
  | _ => false

/-- A last-read mark stands only on an x register that the instruction reads (R48). -/
def markOk (mark reads : Bool) (o : Operand) : Bool := !mark || (reads && o.isX)

/-- The order and scope fields (R42). -/
def orderOk (orders : Nat) (ord scope : Nat) : Bool :=
  accepts orders ord && scope ≤ 4 && (ord != 0 || scope == 0)

/-- The widths of integer codes 0–7 and float codes 0–5 (R49, R195). -/
def intWidth (code : Nat) : Nat := 8 * 2 ^ (code % 4)

def fltWidth (code : Nat) : Nat :=
  match code with
  | 0 => 64
  | 1 => 32
  | 2 | 3 => 16
  | _ => 8

/-- The element counts, codes and operands of the conversions (R195). -/
def cvtOk (f : FX) (dstInt srcInt : Bool) : Bool :=
  let dc := f.fn.toNat
  let sc := (f.imm.toNat / 256) % 16
  let lim (int : Bool) (c : Nat) : Bool := if int then c ≤ 7 else c ≤ 5
  let wd := if dstInt then intWidth dc else fltWidth dc
  let ws := if srcInt then intWidth sc else fltWidth sc
  lim dstInt dc && lim srcInt sc && 2 ^ f.pack.toNat * max wd ws ≤ 64
    && (!f.a.wide || (ws == 64 && f.pack == 0))
    && (srcInt || fcOk (sc + 12) f.a)

/-- The seed of stochastic rounding is an x or k register; with another rounding code the field is zero (R206). -/
def seedOk (f : FX) : Bool :=
  if f.rnd == 6 then (f.c.isX || f.c.isK) else f.c == .x 0 && !f.lc

/-- Conditions of single instructions beyond the common fields. -/
def Instr.extra : Instr → Bool
  | .bfe f | .bfi f => f.pack.toNat ≤ 1
  | .movi f => f.a == .zero && !f.la
  | .moviShifted f => f.a != .zero
  | .icvt f => cvtOk f true true
  | .fcvt f => cvtOk f false false && seedOk f
  | .ficvt f => cvtOk f true false && seedOk f
  | .ifcvt f => cvtOk f false true && seedOk f
  | .shflIdx f | .shflUp f | .shflDown f | .shflXor f => f.imm.toNat % 8 ≤ 5
  | .lredAdd f | .lredMins f | .lredMinn f | .lredMaxs f | .lredMaxn f | .lredAnd f | .lredOr f | .lredXor f
  | .lredFadd f | .lredFmin f | .lredFmax f | .lscanAdd f | .lscanMins f | .lscanMinn f | .lscanMaxs f
  | .lscanMaxn f | .lscanAnd f | .lscanOr f | .lscanXor f | .lscanFadd f | .lscanFmin f | .lscanFmax f =>
    f.imm.toNat % 8 ≤ 5
  | .rsel f => f.imm.toNat ≤ 32
  | .rselFin f => 64 ≤ f.imm.toNat && f.imm.toNat ≤ 96
  | .meet f => f.imm != 0
  | .meetPacked f => f.imm == 0
  | .nop => true
  | .yieldPlain f => f.a == .zero
  | .slotClaim f => f.imm == 0
  | .slotClaimRetag f => f.imm == 1
  | .trap f => 72 ≤ f.imm.toNat && f.imm.toNat ≤ 255
  | .brk f => f.imm.toNat < 512
  | .csrr f => f.imm.toNat < 512
  | .csrw f => f.imm.toNat < 512 && f.imm != 0x47 && f.imm != 0x48
  | .exitPlain f => f.imm == 0
  | .exitInherit f => f.imm == 1
  | .psreq f => f.imm == 0x47
  | .gangkillReg f => f.imm == 0x48
  | .trec f => f.imm.toNat ≤ 13
  | .fenceEng f => f.scope.toNat == 4
  | .stqPush f => !f.le
  | .stqPop f | .stqPeek f => !f.ld && !f.le
  | .spill f => f.d.isX
  | _ => true

/-- The fields of an instruction hold only values that the instruction accepts (R52). -/
def Instr.fieldsOk (i : Instr) : Bool :=
  let s := i.spec
  match i.fmt with
  | .A f =>
    s.d.ok 0 f.d && s.a.ok f.pack.toNat f.a
      && (if s.op == 0x14 then (some f.b == s.sel.map (fun n => Operand.x (BitVec.ofNat 6 n)))
          else s.b.ok f.pack.toNat f.b)
      && markOk f.la s.a.reads f.a && markOk f.lb s.b.reads f.b && accepts s.packs f.pack.toNat
  | .B f => s.d.ok 0 f.d && s.a.ok 0 f.a && markOk f.la s.a.reads f.a
  | .X f =>
    s.d.ok 0 f.d
      && (s.anyFn || s.a.ok f.pack.toNat f.a) && s.b.ok f.pack.toNat f.b && s.c.ok f.pack.toNat f.c
      && (!s.anyFn || s.a != .int || (match f.a with | .fc _ => false | _ => true))
      && markOk f.la s.a.reads f.a && markOk f.lb s.b.reads f.b && markOk f.lc s.c.reads f.c
      && accepts s.packs f.pack.toNat && f.rnd.toNat ≤ s.rnds && (s.sat || !f.sat)
      && f.flg &&& s.flg == f.flg && f.imm &&& s.imm == f.imm
      && (s.anyFn || f.fn.toNat == s.sel.getD 0)
  | .L f => s.d.ok 0 f.d && s.a.ok 0 f.a && markOk f.la s.a.reads f.a
  | .M f =>
    let ty := f.ty.toNat
    s.d.ok ty f.d && s.a.ok 0 f.a && s.e.ok ty f.e
      && markOk f.la s.a.reads f.a && markOk f.ld s.d.reads f.d && markOk f.le s.e.reads f.e
      && accepts s.types ty && orderOk s.orders f.ord.toNat f.scope.toNat && (s.off || f.off == 0)
      && f.fn.toNat == s.sel.getD 0
  | .C f =>
    s.a.ok f.pack.toNat f.a && s.b.ok f.pack.toNat f.b && markOk f.la s.a.reads f.a
      && markOk f.lb s.b.reads f.b && accepts s.packs f.pack.toNat && f.cond.toNat == s.sel.getD 0
  | .S _ => true
  | .event => false

/-- A well-formed instruction: every encoding that R52 lists as a decode trap is refused here. -/
def WellFormed (i : Instr) : Bool := i.fieldsOk && i.extra

end Sys2Proof
end

