-- ==== Sys2Proof/Decode.lean ====
section
/-!
DEFINITION. From words to instructions and back (R39, R44, R50, R51): the fields of each format, the opcode map, and the
encoder. Decoding is total; it refuses every word that R52 lists.
-/

namespace Sys2Proof

/-- Field [lo + w − 1 : lo] of a word. -/
def field (v lo w : Nat) : Nat := v / 2 ^ lo % 2 ^ w

/-- An operand code (R44); code 127 names nothing. -/
def Operand.ofCode (n : Nat) : Option Operand :=
  if n < 64 then some (.x (BitVec.ofNat 6 n))
  else if n < 72 then some (.c (BitVec.ofNat 3 (n - 64)))
  else if n < 104 then some (.k (BitVec.ofNat 5 (n - 72)))
  else if n < 112 then some (.ic (BitVec.ofNat 3 (n - 104)))
  else if n < 120 then some (.fc (BitVec.ofNat 3 (n - 112)))
  else match n with
    | 120 => some .zero
    | 121 => some .lane
    | 122 => some .widlo
    | 123 => some .widhi
    | 124 => some .tridx
    | 125 => some .subidx
    | 126 => some .clk
    | _ => none

/-- The code of an operand (R44). -/
def Operand.code : Operand → Nat
  | .x n => n.toNat
  | .c n => 64 + n.toNat
  | .k n => 72 + n.toNat
  | .ic n => 104 + n.toNat
  | .fc n => 112 + n.toNat
  | .zero => 120
  | .lane => 121
  | .widlo => 122
  | .widhi => 123
  | .tridx => 124
  | .subidx => 125
  | .clk => 126

def bit (v lo : Nat) : Bool := v.testBit lo

def FA.ofWord (w : Nat) : Option FA := do
  let d ← Operand.ofCode (field w 18 7)
  let a ← Operand.ofCode (field w 11 7)
  let b ← Operand.ofCode (field w 4 7)
  return ⟨d, a, b, field w 3 1 == 1, field w 2 1 == 1, BitVec.ofNat 2 (field w 0 2)⟩

def FB.ofWord (w : Nat) : Option FB := do
  let d ← Operand.ofCode (field w 18 7)
  let a ← Operand.ofCode (field w 11 7)
  return ⟨d, a, field w 10 1 == 1, BitVec.ofNat 10 (field w 0 10)⟩

def FX.ofWords (w v : Nat) : Option FX := do
  let d ← Operand.ofCode (field w 18 7)
  let a ← Operand.ofCode (field w 11 7)
  let b ← Operand.ofCode (field w 4 7)
  let c ← Operand.ofCode (field v 25 7)
  return ⟨d, a, b, field w 3 1 == 1, field w 2 1 == 1, BitVec.ofNat 2 (field w 0 2), c, field v 24 1 == 1,
    BitVec.ofNat 4 (field v 20 4), BitVec.ofNat 3 (field v 17 3), field v 16 1 == 1, BitVec.ofNat 4 (field v 12 4),
    BitVec.ofNat 12 (field v 0 12)⟩

/-- An L word 0 with [9:0] non-zero is refused (R52). -/
def FL.ofWords (w v : Nat) : Option FL := do
  let d ← Operand.ofCode (field w 18 7)
  let a ← Operand.ofCode (field w 11 7)
  if field w 0 10 = 0 then return ⟨d, a, field w 10 1 == 1, BitVec.ofNat 32 (field v 0 32)⟩ else none

/-- An M word 1 with a reserved bit of [22:20] or [10:0] set is refused (R52). -/
def FM.ofWords (w v : Nat) : Option FM := do
  let d ← Operand.ofCode (field w 18 7)
  let a ← Operand.ofCode (field w 11 7)
  let e ← Operand.ofCode (field v 13 7)
  if field v 20 3 = 0 ∧ field v 0 11 = 0 then
    return ⟨d, a, field w 10 1 == 1, BitVec.ofNat 2 (field w 8 2), BitVec.ofNat 3 (field w 5 3),
      BitVec.ofNat 5 (field w 0 5), BitVec.ofNat 5 (field v 27 5), BitVec.ofNat 4 (field v 23 4), e,
      field v 12 1 == 1, field v 11 1 == 1⟩
  else none

def FC.ofWord (w : Nat) : Option FC := do
  let a ← Operand.ofCode (field w 11 7)
  let b ← Operand.ofCode (field w 4 7)
  return ⟨BitVec.ofNat 3 (field w 22 3), BitVec.ofNat 4 (field w 18 4), a, b, field w 3 1 == 1, field w 2 1 == 1,
    BitVec.ofNat 2 (field w 0 2)⟩

def FS.ofWord (w : Nat) : FS := ⟨BitVec.ofNat 25 (field w 0 25)⟩

/-- The instruction of major opcode op in format A, told apart by its function field where R51 gives one. -/
def buildA (op : Nat) (f : FA) : Option Instr :=
  match op with
  | 0x0 => if f = FA.zeros then some .nop else none
  | 0x1 => some (.add f)
  | 0x2 => some (.sub f)
  | 0x4 => some (.mul f)
  | 0x5 => some (.mulhs f)
  | 0x6 => some (.mulhn f)
  | 0x8 => some (.andI f)
  | 0x9 => some (.orI f)
  | 0xa => some (.xorI f)
  | 0xb => some (.andn f)
  | 0xc => some (.shl f)
  | 0xd => some (.shr f)
  | 0xe => some (.sar f)
  | 0xf => some (.rot f)
  | 0x10 => some (.mins f)
  | 0x11 => some (.minn f)
  | 0x12 => some (.maxs f)
  | 0x13 => some (.maxn f)
  | 0x14 =>
    match f.b with
    | .x n =>
      match n.toNat with
      | 0 => some (.bitClz f)
      | 1 => some (.bitCtz f)
      | 2 => some (.bitPopc f)
      | 3 => some (.bitBrev f)
      | 4 => some (.bitAbs f)
      | 5 => some (.bitNeg f)
      | 6 => some (.bitNot f)
      | 7 => some (.bitSext8 f)
      | 8 => some (.bitSext16 f)
      | 9 => some (.bitSext32 f)
      | _ => none
    | _ => none
  | 0x1b => some (.mov f)
  | 0x61 => some (.brx f)
  | 0x63 => some (.ret f)
  | 0x69 => if f.a = .zero then some (.yieldPlain f) else some (.yieldQueue f)
  | 0x6a => some (.grow f)
  | 0x7b => some (.tret f)
  | _ => none

/-- The instruction of major opcode op in format B, told apart by its function field where R51 gives one. -/
def buildB (op : Nat) (f : FB) : Option Instr :=
  match op with
  | 0x3 => some (.addi f)
  | 0x67 => some (.nap f)
  | 0x68 =>
    match f.imm.toNat with
    | 0 => some (.exitPlain f)
    | 1 => some (.exitInherit f)
    | _ => none
  | 0x6c => some (.trap f)
  | 0x6d => some (.brk f)
  | 0x78 => some (.csrr f)
  | 0x79 => if f.imm = 0x47 then some (.psreq f) else if f.imm = 0x48 then some (.gangkillReg f) else some (.csrw f)
  | _ => none

/-- The instruction of major opcode op in format X, told apart by its function field where R51 gives one. -/
def buildX (op : Nat) (f : FX) : Option Instr :=
  match op with
  | 0x7 => some (.mad f)
  | 0x15 => some (.bfe f)
  | 0x16 => some (.bfi f)
  | 0x17 => some (.lea f)
  | 0x18 => some (.sel f)
  | 0x19 =>
    match f.fn.toNat with
    | 0 => some (.divQuos f)
    | 1 => some (.divQuon f)
    | 2 => some (.divRems f)
    | 3 => some (.divRemn f)
    | _ => none
  | 0x1e => some (.icvt f)
  | 0x20 => some (.fadd f)
  | 0x21 => some (.fsub f)
  | 0x22 => some (.fmul f)
  | 0x23 => some (.fma f)
  | 0x24 => some (.fmin f)
  | 0x25 => some (.fmax f)
  | 0x26 =>
    match f.fn.toNat with
    | 0 => some (.fsgnCopy f)
    | 1 => some (.fsgnCopyneg f)
    | 2 => some (.fsgnXor f)
    | _ => none
  | 0x28 => some (.fdiv f)
  | 0x29 => some (.fsqrt f)
  | 0x2a => some (.frcp f)
  | 0x2b => some (.frsq f)
  | 0x2c => some (.fcvt f)
  | 0x2d => some (.ficvt f)
  | 0x2e => some (.ifcvt f)
  | 0x2f => some (.frnd f)
  | 0x30 => some (.fexp2 f)
  | 0x31 => some (.flog2 f)
  | 0x32 => some (.fsin f)
  | 0x33 => some (.fcos f)
  | 0x34 => some (.ftanh f)
  | 0x35 => some (.fclass f)
  | 0x36 => some (.fscale f)
  | 0x37 => some (.fdot2 f)
  | 0x38 => some (.perm f)
  | 0x39 =>
    match f.fn.toNat with
    | 0 => some (.shflIdx f)
    | 1 => some (.shflUp f)
    | 2 => some (.shflDown f)
    | 3 => some (.shflXor f)
    | _ => none
  | 0x3a =>
    match f.fn.toNat with
    | 0 => some (.ballot f)
    | 1 => some (.ballotPlane f)
    | _ => none
  | 0x3b =>
    match f.fn.toNat with
    | 0 => some (.voteAll f)
    | 1 => some (.voteAny f)
    | 2 => some (.voteUni f)
    | _ => none
  | 0x3c =>
    match f.fn.toNat with
    | 0 => some (.lredAdd f)
    | 1 => some (.lredMins f)
    | 2 => some (.lredMinn f)
    | 3 => some (.lredMaxs f)
    | 4 => some (.lredMaxn f)
    | 5 => some (.lredAnd f)
    | 6 => some (.lredOr f)
    | 7 => some (.lredXor f)
    | 8 => some (.lredFadd f)
    | 9 => some (.lredFmin f)
    | 10 => some (.lredFmax f)
    | _ => none
  | 0x3d =>
    match f.fn.toNat with
    | 0 => some (.lscanAdd f)
    | 1 => some (.lscanMins f)
    | 2 => some (.lscanMinn f)
    | 3 => some (.lscanMaxs f)
    | 4 => some (.lscanMaxn f)
    | 5 => some (.lscanAnd f)
    | 6 => some (.lscanOr f)
    | 7 => some (.lscanXor f)
    | 8 => some (.lscanFadd f)
    | 9 => some (.lscanFmin f)
    | 10 => some (.lscanFmax f)
    | _ => none
  | 0x3e => if f.imm.getLsbD 6 then some (.rselFin f) else some (.rsel f)
  | 0x3f =>
    match f.fn.toNat with
    | 0 => some (.regroup f)
    | 1 => some (.regroupRestore f)
    | 2 => some (.regroupCapupd f)
    | _ => none
  | 0x64 => if f.imm = 0 then some (.meetPacked f) else some (.meet f)
  | 0x66 => some (.bar f)
  | 0x70 =>
    match f.fn.toNat with
    | 0 => if f.imm.getLsbD 0 then some (.slotClaimRetag f) else some (.slotClaim f)
    | 1 => some (.slotRelease f)
    | 2 => some (.slotQuery f)
    | _ => none
  | 0x71 =>
    match f.fn.toNat with
    | 0 => some (.tmm f)
    | 1 => some (.tmmBfp f)
    | _ => none
  | 0x72 => some (.tsa f)
  | 0x73 =>
    match f.fn.toNat with
    | 0 => some (.accZero f)
    | 1 => some (.accRd f)
    | 2 => some (.accWr f)
    | 3 => some (.accLd f)
    | 4 => some (.accSt f)
    | 5 => some (.accCvst f)
    | _ => none
  | 0x74 =>
    match f.fn.toNat with
    | 0 => some (.opmLd f)
    | 1 => some (.opmSt f)
    | _ => none
  | 0x77 => some (.trec f)
  | 0x7c =>
    match f.fn.toNat with
    | 0 => some (.ctxSave f)
    | 1 => some (.ctxRestore f)
    | _ => none
  | 0x7d =>
    match f.fn.toNat with
    | 0 => some (.trcMark f)
    | 1 => some (.trcArm f)
    | 2 => some (.trcDisarm f)
    | _ => none
  | _ => none

/-- The instruction of major opcode op in format L, told apart by its function field where R51 gives one. -/
def buildL (op : Nat) (f : FL) : Option Instr :=
  match op with
  | 0x1a => if f.a = .zero then some (.movi f) else some (.moviShifted f)
  | _ => none

/-- The instruction of major opcode op in format M, told apart by its function field where R51 gives one. -/
def buildM (op : Nat) (f : FM) : Option Instr :=
  match op with
  | 0x40 => some (.ld f)
  | 0x41 => some (.ld2 f)
  | 0x42 => some (.st f)
  | 0x43 => some (.st2 f)
  | 0x44 => some (.pf f)
  | 0x45 =>
    match f.fn.toNat with
    | 0 => some (.clClean f)
    | 1 => some (.clInvalidate f)
    | 2 => some (.clCollapse f)
    | 3 => some (.clWriteback f)
    | _ => none
  | 0x46 => some (.spill f)
  | 0x47 => some (.fill f)
  | 0x48 => some (.ldk f)
  | 0x49 => some (.stk f)
  | 0x50 =>
    match f.fn.toNat with
    | 0 => some (.amoAdd f)
    | 1 => some (.amoMins f)
    | 2 => some (.amoMinn f)
    | 3 => some (.amoMaxs f)
    | 4 => some (.amoMaxn f)
    | 5 => some (.amoAnd f)
    | 6 => some (.amoOr f)
    | 7 => some (.amoXor f)
    | 8 => some (.amoExch f)
    | _ => none
  | 0x51 =>
    match f.fn.toNat with
    | 0 => some (.amofAdd f)
    | 1 => some (.amofMin f)
    | 2 => some (.amofMax f)
    | 3 => some (.amofExch f)
    | _ => none
  | 0x52 => some (.cas f)
  | 0x53 =>
    match f.fn.toNat with
    | 0 => some (.redAdd f)
    | 1 => some (.redMins f)
    | 2 => some (.redMinn f)
    | 3 => some (.redMaxs f)
    | 4 => some (.redMaxn f)
    | 5 => some (.redAnd f)
    | 6 => some (.redOr f)
    | 7 => some (.redXor f)
    | _ => none
  | 0x54 =>
    match f.fn.toNat with
    | 0 => some (.redfAdd f)
    | 1 => some (.redfMin f)
    | 2 => some (.redfMax f)
    | 3 => some (.redfAcc f)
    | _ => none
  | 0x55 => some (.bind f)
  | 0x56 => some (.unbind f)
  | 0x57 =>
    match f.fn.toNat with
    | 0 => some (.fenceMem f)
    | 1 => some (.fenceEng f)
    | _ => none
  | 0x59 => some (.sarm f)
  | 0x5a => some (.swait f)
  | 0x5b => some (.sadd f)
  | 0x5c => some (.gsp f)
  | 0x6b =>
    match f.fn.toNat with
    | 0 => some (.stqPush f)
    | 1 => some (.stqPop f)
    | 2 => some (.stqPeek f)
    | _ => none
  | 0x75 => some (.cpy f)
  | 0x76 =>
    match f.fn.toNat with
    | 0 => some (.cpqSend f)
    | 1 => some (.cpqStatus f)
    | _ => none
  | 0x7a =>
    match f.fn.toNat with
    | 0 => some (.tlbiPage f)
    | 1 => some (.tlbiKey f)
    | 2 => some (.tlbiAll f)
    | _ => none
  | _ => none

/-- The instruction of major opcode op in format C, told apart by its function field where R51 gives one. -/
def buildC (op : Nat) (f : FC) : Option Instr :=
  match op with
  | 0x1c =>
    match f.cond.toNat with
    | 0 => some (.cmpEq f)
    | 1 => some (.cmpNe f)
    | 2 => some (.cmpLts f)
    | 3 => some (.cmpLes f)
    | 4 => some (.cmpGts f)
    | 5 => some (.cmpGes f)
    | 6 => some (.cmpLtn f)
    | 7 => some (.cmpLen f)
    | 8 => some (.cmpGtn f)
    | 9 => some (.cmpGen f)
    | 10 => some (.cmpTst f)
    | 11 => some (.cmpTsz f)
    | _ => none
  | 0x1d =>
    match f.cond.toNat with
    | 0 => some (.plAnd f)
    | 1 => some (.plOr f)
    | 2 => some (.plXor f)
    | 3 => some (.plAndn f)
    | 4 => some (.plOrn f)
    | 5 => some (.plFrommask f)
    | 6 => some (.plTomask f)
    | _ => none
  | 0x27 =>
    match f.cond.toNat with
    | 0 => some (.fcmpEq f)
    | 1 => some (.fcmpNe f)
    | 2 => some (.fcmpLt f)
    | 3 => some (.fcmpLe f)
    | 4 => some (.fcmpGt f)
    | 5 => some (.fcmpGe f)
    | 6 => some (.fcmpUno f)
    | 7 => some (.fcmpOrd f)
    | _ => none
  | 0x65 =>
    match f.cond.toNat with
    | 0 => some (.meetq f)
    | _ => none
  | _ => none

/-- The instruction of major opcode op in format S, told apart by its function field where R51 gives one. -/
def buildS (op : Nat) (f : FS) : Option Instr :=
  match op with
  | 0x60 => some (.br f)
  | 0x62 => some (.call f)
  | _ => none

/-- The format of a major opcode (R50); none for a reserved one. -/
inductive FmtKind where
  | A | B | X | L | M | C | S
  deriving DecidableEq, Repr

def opFormat (op : Nat) : Option FmtKind :=
  if op ∈ [0x00, 0x01, 0x02, 0x04, 0x05, 0x06, 0x1B, 0x61, 0x63, 0x69, 0x6A, 0x7B] then some .A
  else if 0x08 ≤ op ∧ op ≤ 0x14 then some .A
  else if op ∈ [0x03, 0x67, 0x68, 0x6C, 0x6D, 0x78, 0x79] then some .B
  else if op ∈ [0x07, 0x15, 0x16, 0x17, 0x18, 0x19, 0x1E, 0x64, 0x66, 0x77, 0x7C, 0x7D] then some .X
  else if (0x20 ≤ op ∧ op ≤ 0x3F ∧ op ≠ 0x27) ∨ (0x70 ≤ op ∧ op ≤ 0x74) then some .X
  else if op = 0x1A then some .L
  else if op ∈ [0x1C, 0x1D, 0x27, 0x65] then some .C
  else if op = 0x60 ∨ op = 0x62 then some .S
  else if (0x40 ≤ op ∧ op ≤ 0x49) ∨ (0x50 ≤ op ∧ op ≤ 0x57) ∨ (0x59 ≤ op ∧ op ≤ 0x5C)
      ∨ op ∈ [0x6B, 0x75, 0x76, 0x7A] then some .M
  else none

/-- X, L and M instructions take two words (R39). -/
def opWords (op : Nat) : Nat :=
  match opFormat op with
  | some .X | some .L | some .M => 2
  | _ => 1

/-- The class of a major opcode (R50); a reserved opcode has none (R23). -/
def opClass (op : Nat) : Option Cls :=
  match opFormat op with
  | none => none
  | some _ =>
    if op = 0 then some .any
    else if op ∈ [0x19, 0x28, 0x29, 0x2A, 0x2B, 0x30, 0x31, 0x32, 0x33, 0x34, 0x38] then some .special
    else if op ∈ [0x3F, 0x5A, 0x64, 0x65, 0x66, 0x6A] then some .sync
    else if op < 0x40 then some .alu
    else if op < 0x60 ∨ op ∈ [0x6B, 0x75, 0x76, 0x77] then some .memory
    else if op ∈ [0x60, 0x61, 0x62, 0x63, 0x67, 0x68, 0x69, 0x6C] then some .any
    else if 0x70 ≤ op ∧ op ≤ 0x74 then some .tile
    else some .system

/-- A control instruction (R24), told by its opcode, and for `regroup` by its function (word 1 [23:20]). -/
def opControl (op v : Nat) : Bool :=
  op ∈ [0x5A, 0x60, 0x61, 0x62, 0x63, 0x66, 0x67, 0x68, 0x69, 0x6C, 0x6D, 0x7B, 0x7C]
    || (op == 0x3F && (field v 20 4 == 0 || field v 20 4 == 1))

/-- The instruction in words w and v, by the opcode map, before its fields are checked. -/
def parse (w v : Nat) : Option Instr :=
  let op := field w 25 7
  match opFormat op with
  | some .A => (FA.ofWord w).bind (buildA op)
  | some .B => (FB.ofWord w).bind (buildB op)
  | some .X => (FX.ofWords w v).bind (buildX op)
  | some .L => (FL.ofWords w v).bind (buildL op)
  | some .M => (FM.ofWords w v).bind (buildM op)
  | some .C => (FC.ofWord w).bind (buildC op)
  | some .S => buildS op (FS.ofWord w)
  | none => none

/-- Decode: the well-formed instruction in word w and, for a two-word format, word v; nothing else (R52). -/
def decode (w v : Nat) : Option Instr :=
  match parse w v with
  | some i => if WellFormed i then some i else none
  | none => none

/-- How many words an instruction takes. -/
def Instr.words (i : Instr) : Nat :=
  match i.fmt with
  | .X _ | .L _ | .M _ => 2
  | .event => 0
  | _ => 1

def b2n (b : Bool) : Nat := if b then 1 else 0

def FA.word (op : Nat) (f : FA) : Nat :=
  op * 2 ^ 25 + f.d.code * 2 ^ 18 + f.a.code * 2 ^ 11 + f.b.code * 2 ^ 4 + b2n f.la * 2 ^ 3 + b2n f.lb * 2 ^ 2
    + f.pack.toNat

def FB.word (op : Nat) (f : FB) : Nat :=
  op * 2 ^ 25 + f.d.code * 2 ^ 18 + f.a.code * 2 ^ 11 + b2n f.la * 2 ^ 10 + f.imm.toNat

def FX.word0 (op : Nat) (f : FX) : Nat :=
  op * 2 ^ 25 + f.d.code * 2 ^ 18 + f.a.code * 2 ^ 11 + f.b.code * 2 ^ 4 + b2n f.la * 2 ^ 3 + b2n f.lb * 2 ^ 2
    + f.pack.toNat

def FX.word1 (f : FX) : Nat :=
  f.c.code * 2 ^ 25 + b2n f.lc * 2 ^ 24 + f.fn.toNat * 2 ^ 20 + f.rnd.toNat * 2 ^ 17 + b2n f.sat * 2 ^ 16
    + f.flg.toNat * 2 ^ 12 + f.imm.toNat

def FL.word0 (op : Nat) (f : FL) : Nat := op * 2 ^ 25 + f.d.code * 2 ^ 18 + f.a.code * 2 ^ 11 + b2n f.la * 2 ^ 10

def FM.word0 (op : Nat) (f : FM) : Nat :=
  op * 2 ^ 25 + f.d.code * 2 ^ 18 + f.a.code * 2 ^ 11 + b2n f.la * 2 ^ 10 + f.ord.toNat * 2 ^ 8
    + f.scope.toNat * 2 ^ 5 + f.off.toNat

def FM.word1 (f : FM) : Nat :=
  f.ty.toNat * 2 ^ 27 + f.fn.toNat * 2 ^ 23 + f.e.code * 2 ^ 13 + b2n f.le * 2 ^ 12 + b2n f.ld * 2 ^ 11

def FC.word (op : Nat) (f : FC) : Nat :=
  op * 2 ^ 25 + f.q.toNat * 2 ^ 22 + f.cond.toNat * 2 ^ 18 + f.a.code * 2 ^ 11 + f.b.code * 2 ^ 4 + b2n f.la * 2 ^ 3
    + b2n f.lb * 2 ^ 2 + f.pack.toNat

def FS.word (op : Nat) (f : FS) : Nat := op * 2 ^ 25 + f.off.toNat

/-- The words of an instruction (R39); an event has none. -/
def encode (i : Instr) : List Nat :=
  let op := i.spec.op
  match i.fmt with
  | .A f => [f.word op]
  | .B f => [f.word op]
  | .X f => [f.word0 op, f.word1]
  | .L f => [f.word0 op, f.imm.toNat]
  | .M f => [f.word0 op, f.word1]
  | .C f => [f.word op]
  | .S f => [f.word op]
  | .event => []

/-- The bytes of a word, lowest address first (R1, R19). -/
def wordBytes (w : Nat) : List Byte := (List.range 4).map (fun i => BitVec.ofNat 8 (w / 256 ^ i))

/-- A word from bytes, lowest address first (R1, R19). -/
def wordOfBytes : List Byte → Nat
  | [] => 0
  | b :: bs => b.toNat + 256 * wordOfBytes bs

/-- Decode the instruction at the front of a list of bytes; words beyond the list read as zeros. -/
def decodeBytes (bs : List Byte) : Option Instr :=
  decode (wordOfBytes (bs.take 4)) (wordOfBytes ((bs.drop 4).take 4))

/-- The instruction the decoder reads from an instruction whose bits are w, its words laid out little-endian (R19). -/
def decodeTableWord (nbits w : Nat) : Option Instr :=
  decodeBytes (wordBytes (w % 2 ^ nbits) ++ wordBytes (w % 2 ^ nbits / 2 ^ 32))

end Sys2Proof
end

