-- ==== Sys2Proof/Config.lean ====
section
/-!
DEFINITION. What one part fixes and the spec leaves open: free values. Each is an opaque constant, so that a proved
statement holds whatever its value is.
-/

namespace Sys2Proof.Config

/-- The next move of the part when no move is waiting (R484 fixes no order of the ready units), by move number. -/
opaque freeMove : Nat → Instr

/-- The result bits of an approximate function (R203): function number, format code, operand bits. They are used
only where they lie within the bound of R203. -/
opaque approx : Nat → Nat → Nat → Nat

/-- A byte that one of several unordered accesses leaves (R239, R303): move number, address. -/
opaque racyByte : Nat → Nat → BitVec 8

/-- The weight of a port in the adaptive table of a peer package (R429), by move number, package and port: 0 for no live route. -/
opaque routeWeight : Nat → Nat → Nat → Nat

/-- The PREF bit a stop gives an injected flit (R415), by move number. -/
opaque pref : Nat → Bool

/-- The cause a peer package answers a translation with (R390), 0 for none: move number, pointer. -/
opaque peerCause : Nat → Nat → Nat

/-- The number of this package among its peers (R339, R428). -/
opaque package : Nat

/-- The device identity key of a part, derived from its PUF (R473). -/
opaque pufIdentity : Nat

/-- The public half of an identity key pair (R473), from what the PUF gives. -/
opaque publicKey : Nat → Nat

/-- Byte i of an attestation report (R475): of its nonce, firmware digest, public key, BOOTSTAT and signature; the rule gives 128 bytes and no
layout. -/
opaque reportByte : Nat → Nat → Nat → Nat → Nat → Nat → BitVec 8

/-- The flow-control priority of a queue pair (R435), by die and number. -/
opaque qpPriority : Nat → Nat → Nat

/-- Which of the resident groups under a work descriptor's key its space 0xE pointers are relative to (R436), by move number. -/
opaque bufferGroup : Nat → Nat

/-- How many memory regions beyond one a die registers at once (R479): it has room for one at least (notes/assumptions/19.md). -/
opaque regionEntries : Nat

/-- The SM3 digest (R473, R475) of a byte string. -/
opaque sm3 : List (BitVec 8) → Nat

/-- The SM2 signature (R475) with a key of a message. -/
opaque sm2Sign : Nat → List (BitVec 8) → Nat

/-- Whether an SM2 signature (R473) of a digest verifies under the boot ROM's key. -/
opaque sm2Verify : Nat → Nat → Bool

/-- The remote key the part gives a registered region (R479), by move number. -/
opaque rkey : Nat → Nat

/-- Whether every member's job of a collective has been accepted (R315), by move number and collective identifier. -/
opaque collectiveJoined : Nat → Nat → Bool

/-- Whether an infinity that a reduce's final values bring from other members comes of finite operands (R318), by move number. -/
opaque remoteOverflow : Nat → Bool

/-- The first record that a black box's window shows (R478), by die and move number. -/
opaque boxWindow : Nat → Nat → Nat

/-- The number of the trigger that containment sends (R444): 0 a gang kill, 1 a device error, 2 a watchdog. -/
opaque containmentTrigger : Nat → Nat

end Sys2Proof.Config
end

