-- ==== Sys2Proof/Machine/State.lean ====
section
/-!
DEFINITION. The state of the machine, as plain data: what a thread, a register, a troupe, a group, a grid, a core,
a die and the package hold. A key absent from a `Tab` stands for the resting value that the accessor of
Machine/Ops.lean gives.
-/

namespace Sys2Proof.Machine

/-- Why the model stops. -/
inductive Fault where
  /-- An instruction is to be executed and no clause is in execution: there is no troupe to execute it. Raised by
  every meaning of an instruction. Safe: the machine executes instructions inside clauses only (R36). -/
  | noClause
  deriving DecidableEq, Repr

/-- What the model declines. -/
inductive Refusal where
  /-- No meaning has been written. Raised by the arms of Dispatch that name it. Safe. -/
  | notModelled (mnemonic : String)
  deriving DecidableEq, Repr

/-! ## Locations -/

/-- Which memory a location lies in (R325, R379). -/
inductive Area where
  /-- Device memory, by physical address (R383) -/
  | device
  /-- Host memory, by host offset -/
  | host
  /-- A peer package's memory, by package * 2^52 + offset -/
  | peer
  /-- A group's scratchpad, by offset; the group is named by `Loc.owner` -/
  | scratch
  /-- Nowhere: a pointer of a save image that did not translate at the restore, by that pointer; it is translated again before it is used (R404) -/
  | lost
  deriving DecidableEq, Repr, Inhabited

/-- A TLB entry (R387): page base, page size and the leaf. -/
structure TlbEntry where
  base : Nat
  size : Nat
  leaf : Nat
  deriving DecidableEq, Repr, Inhabited

/-- A translated location (R379). -/
structure Loc where
  area : Area
  addr : Nat
  /-- Scratchpad: the key of the owning group; device and peer memory: 1 on a non-cacheable page (R326) -/
  owner : Nat
  /-- The access does not allocate in an L1: space 0x1 (R325) or a non-cacheable page (R326) -/
  uncached : Bool
  /-- The pointer's space, for the rules that differ by space (R356) -/
  space : Nat
  /-- The virtual line of the access in space 0x0 form, for bindings (R368) -/
  va : Nat
  /-- The translation it was found under (R278, R407): the part of the leaf's key and place -/
  via : Option TlbEntry
  deriving DecidableEq, Repr, Inhabited

/-! ## Threads and registers -/

/-- The state of a thread (R96, R246, R401). -/
inductive ThreadState where
  | runnable
  /-- At its meeting address (R100) -/
  | held
  /-- At a barrier of a level, with its two masks (R110) -/
  | waiting (level : Nat) (lanes troupes : BitVec 32)
  /-- Until a core cycle, or in Minuet until a turn of its troupe (R115) -/
  | napping (til : Nat)
  /-- A plain yield: the ready troupes still to start, and the issue cycle (Minuet: the turn) that ends it (R87) -/
  | yielded (others : List Nat) (til : Nat)
  /-- A yield on a queue: descriptor, head, tail and closed flag seen, and the cycle or turn that ends it (R87) -/
  | yieldedOn (queue : Loc) (head tail : Nat) (closed : Bool) (til : Nat)
  /-- In a parked sub-troupe (R389) -/
  | parked (id : Nat)
  | exited
  /-- At `swait`: word, generation, and whether the release acquires (R246) -/
  | watching (word : Loc) (gen : Nat) (acq : Option Nat)
  /-- Arrived at `regroup`: function, range descriptor, destination operand, key, clause head, address of the instruction (R224) -/
  | arrived (fn range dest key head site : Nat)
  deriving DecidableEq, Repr, Inhabited

/-- One thread. -/
structure Thread where
  pc : Word
  meet : BitVec 32
  join : BitVec 32
  st : ThreadState
  lastStart : Nat
  /-- It ended with `exit.inherit` (R86) -/
  keep : Bool
  wid : Word
  preds : BitVec 7
  /-- Position under a held position record, troupe * 32 + lane, and the ticket the move gave (R226, R227) -/
  orig : Nat
  ticket : Nat
  /-- Ordinal of the last stop site passed, plus one (R446) -/
  site : Nat := 0
  /-- Where it stands, its grid's breakpoints have been looked at (R441) -/
  seen : Bool := false
  deriving DecidableEq, Repr, Inhabited

/-- Which operation an f64 chain records (R143). -/
inductive ChainKind where
  | add | sub | rsub | mul | fma
  deriving DecidableEq, Repr, Inhabited

/-- One recorded operation of an f64 chain. -/
structure ChainOp where
  kind : ChainKind
  known : Lanes
  addend : Lanes
  negP : Bool
  negK : Bool
  negC : Bool
  mode : Nat
  /-- The pending operand is operand a: NaN order (R171) -/
  pIsA : Bool
  deriving DecidableEq, Repr, Inhabited

/-- The rename entry's state (R117). -/
inductive Entry where
  | empty | resident | spilled | pending
  deriving DecidableEq, Repr, Inhabited

/-- An x register or clause temporary (R117, R118, R139). A lane is pending when its scale is not zero, or, with a
chain, when it is in `pend`; every other lane holds the value in `vals`. -/
structure Reg where
  entry : Entry
  /-- Storage format of a resident or spilled register (R118) -/
  fmt : Nat
  /-- Values of settled lanes; offsets of the pending lanes of an integer form -/
  vals : Lanes
  /-- Scales of an integer form; absent lanes 0 -/
  scale : Lanes
  sym : Nat
  pend : LaneMask
  chain : List ChainOp
  /-- Storage formats and bases of a pending register's entries (R119, R144) -/
  fmts : List (Nat × Word) := []
  /-- The base a resident register was encoded with (R119) -/
  base : Word := 0
  /-- The troupe position whose spill-area image a spilled register has (R126, R130) -/
  home : Nat := 0
  /-- A clause temporary, while its clause is checked: active lanes whose value depends on a faulted lane (R155) -/
  unknown : LaneMask := 0
  deriving DecidableEq, Repr, Inhabited

/-! ## Loads, symbols, store buffers -/

/-- What a symbol waits for (R138). -/
inductive LoadKind where
  /-- A load of one element of a type code -/
  | element (ty : Nat)
  /-- The lower and the upper element of an `ld2`, with the other half's symbol: one access serves both -/
  | lower (ty other : Nat)
  | upper (ty other : Nat)
  /-- A `fill`: lanes of the image (R133) -/
  | image
  /-- A returning atomic's old value, by type code; the store-buffer entry brings it -/
  | atomic (ty : Nat)
  deriving DecidableEq, Repr, Inhabited

/-- A symbol (R151) with the request it stands for. -/
structure Symbol where
  pos : Nat
  kind : LoadKind
  lanes : LaneMask
  arrived : LaneMask
  faulted : LaneMask
  causes : Tab Nat
  addrs : Tab Word
  /-- Translated lanes not yet arrived -/
  locs : Tab Loc
  /-- Replies of an atomic that wait for arrival -/
  replies : Tab Word
  /-- Deferred lanes: the address symbol, scale and offset of the address form (R149), the load's own offset included -/
  dep : Option Nat
  depScale : Lanes
  depOff : Lanes
  /-- Program order -/
  seq : Nat
  /-- Scope of an acquire, and the pointers of its objects by lane (R360) -/
  acq : Option Nat
  ptrs : Tab Word
  /-- The answer comes revoked (R432) -/
  key : Nat
  /-- Bytes as they stood before a later store of the troupe, where a lane of this deferred load was faulted then (R150) -/
  shadow : Tab Byte := []
  /-- The offset of a deferred load (R148, R402) -/
  offset : Word := 0
  deriving DecidableEq, Repr, Inhabited

/-- What a store-buffer entry holds (R363). -/
inductive SBKind where
  | store
  /-- A no-return update: function and type code (R355) -/
  | update (float : Bool) (fn ty : Nat)
  /-- A returning atomic: `amo`, `amof` (function) or `cas`, and the symbol of its reply -/
  | atomic (float : Bool) (fn ty : Nat) (sym : Nat)
  | cas (ty : Nat) (sym : Nat)
  | cl (fn : Nat)
  | sadd
  /-- A submitted card (R323) -/
  | submission
  /-- A record that `trec` writes (R324) -/
  | record
  deriving DecidableEq, Repr, Inhabited

/-- One lane's operation inside an entry. -/
structure LaneOp where
  lane : Nat
  loc : Loc
  val : Word
  val2 : Word
  deriving DecidableEq, Repr, Inhabited

/-- A store-buffer entry. -/
structure SBEntry where
  id : Nat
  seq : Nat
  kind : SBKind
  /-- The sector, line or word named -/
  loc : Loc
  /-- Bytes of a store: offset in the sector, byte, program order; newest last -/
  bytes : List (Nat × Byte × Nat)
  ops : List LaneOp
  release : Option Nat
  committed : Nat
  sent : Bool
  /-- U permission was granted for it (R336) -/
  granted : Bool
  /-- It comes from a save image and is translated again as it drains (R404) -/
  again : Bool := false
  /-- Of an entry that a save left with the arbiter, or that an image brought back: the batches of its troupe's tracks that count it (R28, R401) -/
  batches : Nat := 0
  deriving DecidableEq, Repr, Inhabited

/-- A batch of a completion track (R28). -/
structure Batch where
  symbols : List Nat
  entries : List Nat
  regs : List Nat
  deriving DecidableEq, Repr, Inhabited

/-- A parked sub-troupe (R389): lanes, recorded pages still missing, and the retry time where none are recorded. -/
structure Park where
  id : Nat
  lanes : LaneMask
  pages : List Nat
  retry : Option Nat
  /-- Faulted symbols its clause consumed, reissued before it re-executes (R156) -/
  syms : List Nat
  deriving DecidableEq, Repr, Inhabited

/-! ## The clause in execution -/

/-- A clause header (R18). -/
structure Header where
  negate : Bool
  guard : Nat
  strict : Bool
  yieldBit : Bool
  stop : Bool
  trailer : Bool
  wait : Nat
  depth : Nat
  cls : Nat
  count : Nat
  deriving DecidableEq, Repr, Inhabited

/-- A clause is first checked and translated, then performed (R30), then waits for replies and commits. -/
inductive Phase where
  | check | perform | retire
  deriving DecidableEq, Repr, Inhabited

/-- The control instruction's effect, performed after commit (R24). -/
inductive Control where
  | none
  | goto (targets : Lanes)
  /-- Masks by lane: units below the troupe may differ -/
  | bar (level : Nat) (lanes troupes : Lanes)
  | nap (cycles : Lanes)
  | swait (words : Tab Loc) (gens : Lanes) (acq : Option Nat)
  | exit (keep : Bool)
  | yieldPlain
  | yieldQueue (queue : Loc) (head tail : Nat) (closed : Bool)
  | trap (code : Nat) (operand : Word)
  | brk (tag : Nat) (operand : Word)
  | tret (targets : Option Lanes)
  | ctxSave (ptr : Word)
  | ctxRestore (ptr : Word)
  /-- Function, range descriptor, destination operand, keys, the instruction's address -/
  | regroup (fn range dest : Nat) (keys : Lanes) (site : Nat)
  deriving DecidableEq, Repr, Inhabited

/-- A `bind` or `unbind` that waits for the end of the translate phase (R376). -/
structure BindReq where
  unbind : Bool
  /-- The instruction's word -/
  cursor : Nat
  base : Word
  len : Word
  obj : Word
  deriving DecidableEq, Repr, Inhabited

/-- A squashing condition found while a clause is checked (R33, R35): the instruction's word, the cause, what is reported. -/
structure Raised where
  cursor : Nat
  cause : Nat
  addr : Word
  lanes : LaneMask
  syms : List Nat
  deriving DecidableEq, Repr, Inhabited

/-- What a tile entry does (R263). -/
inductive TileOp where
  | tmm (bfp : Bool) | tsa | accZero | accLd | accSt | accCvst (rnd : Nat) (sat : Bool) | opmLd | opmSt
  deriving DecidableEq, Repr, Inhabited

/-- A segment of an array entry (R276): descriptor, whether it is computed, the group of its B slot (R274), and, where a follow-on
appended it, the stamp pointer, ticket and enqueue time of its tile record (R449). -/
structure Segment where
  desc : Word
  done : Bool
  bGroup : Nat
  job : Option (Nat × Nat × Nat) := none
  deriving DecidableEq, Repr, Inhabited

/-- A tile entry (R263 to R267). -/
structure TileEntry where
  id : Nat
  op : TileOp
  group : Nat
  /-- Position of the issuing troupe, or 64 for a follow-on -/
  issuer : Nat
  desc : Word
  /-- Translated sectors of the memory operand, 64 bytes each (R278) -/
  mem : List Loc
  notify : Option Loc
  open_ : Bool
  /-- Type codes of its operands: A and B slots of a product, the band's type otherwise -/
  fmts : Nat × Nat
  segments : List Segment
  /-- MODE bits recorded at enqueue (R289) -/
  mode : Word
  scales : List Byte
  enqueued : Nat
  eligible : Nat
  started : Option Nat
  reruns : Nat
  /-- The job this is the follow-on of: its stamp pointer and ticket (R449) -/
  job : Option (Nat × Nat)
  /-- Steps already computed and written back before a save (R292) -/
  steps : Nat
  /-- When it first started (R267); `started` is when its current run did -/
  began : Option Nat := none
  /-- Steps of segments computed before a save (R449) -/
  past : Nat := 0
  /-- Its scale vector was read from poisoned data (R313) -/
  badScales : Bool := false
  deriving DecidableEq, Repr, Inhabited

/-- A follow-on's entry that a save image holds (R449): the core and the priority that it had there. -/
structure SavedEntry where
  core : Nat
  hi : Bool
  entry : TileEntry
  deriving DecidableEq, Repr, Inhabited

/-- What a queued tile instruction leaves for its clause's commit (R263): an entry for the high or the low queue, or a segment to append,
with open, descriptor, notifying word and B's group (R276). -/
inductive TileReq where
  | entry (hi : Bool) (e : TileEntry)
  | segment (opn : Bool) (desc : Word) (notify : Option Loc) (bGroup : Nat)
  deriving DecidableEq, Repr, Inhabited

/-- The clause in execution (R30, R31). -/
structure Clause where
  head : Word
  hdr : Header
  words : List Nat
  trailerWord : Nat
  cursor : Nat
  phase : Phase
  subset : LaneMask
  active : LaneMask
  started : Nat
  temps : Tab Reg
  xw : Tab Reg
  kw : Tab Word
  pw : Tab (BitVec 32)
  csrw : Tab Word
  meets : Tab Word
  marks : List Nat
  /-- Flags to OR into MODE at commit (R168) -/
  flags : Nat
  control : Control
  /-- Outstanding items for the trailer's batch -/
  symbols : List Nat
  entries : List Nat
  /-- Lanes to park, and the missing pages of each: lane, page (R35, R389) -/
  parkLanes : LaneMask
  parkPages : List (Nat × Nat)
  /-- The first instruction's lanes that raised 0x10, all of them, and the address reported -/
  parkTrap : LaneMask
  parkAddr : Option (Nat × Nat × Word)
  /-- Lanes whose failing access was a peer's (R390) -/
  parkRemote : LaneMask
  /-- Faulted symbols consumed -/
  parkSyms : List Nat
  slot : Nat
  /-- Lanes in which an operand of the instruction at the cursor is faulted, or depends on a faulted one: they have no value there (R155) -/
  dead : LaneMask
  /-- Needs counted while checking (R29) -/
  needSyms : Nat
  needSB : Nat
  needHi : Nat
  needLo : Nat
  needDeferred : Nat
  /-- Replies of submissions still to come: store-buffer entry and destination operand code -/
  replies : List (Nat × Nat)
  /-- Projected tags and states changed by earlier words of the clause while it is checked (R262): band tags; slot tags;
  open bands (0 closed, 1 open); segments appended by band; formats of the entries it opens -/
  bandTags : Tab Nat
  slotTags : Tab Word
  openBands : Tab Nat
  appended : Tab Nat
  openFmts : Tab (Nat × Nat)
  /-- Bindings the clause makes, taken together (R376) -/
  binds : List BindReq
  /-- Locations found in the translate phase (R32), by instruction word, then by lane or piece -/
  xlat : Tab (Tab Loc)
  /-- The trap chosen so far (R35): it is taken once the clause's start conditions hold -/
  trap : Option Raised := none
  /-- Granules reserved for its results (R123) -/
  reserved : Nat := 0
  /-- It has started and is checked again for the lanes that did not park (R34) -/
  again : Bool := false
  /-- TLB misses of the core before its check (R94) -/
  misses : Nat := 0
  /-- Tile entries and segments that its commit enqueues, in word order (R263) -/
  tiles : List TileReq := []
  deriving DecidableEq, Repr, Inhabited

/-- Delivery kinds (R394). -/
inductive DKind where
  | troupe | park | notice | spill
  deriving DecidableEq, Repr, Inhabited

/-- A delivery to the supervisor (R394 to R396). -/
structure Delivery where
  kind : DKind
  cause : Nat
  addr : Word
  lanes : LaneMask
  pcs : Lanes
  /-- Lanes that `tret` resumes -/
  subset : LaneMask
  pos : Nat
  /-- Key of the group it names -/
  group : Nat
  tidx : Nat
  key : Nat
  /-- The troupe it came from is gone: it acts on nothing (R398) -/
  void : Bool
  /-- Faulted symbols the squashed clause consumed, reissued at `tret` (R156) -/
  syms : List Nat
  /-- A spill delivery: the register that was being moved, and whether it was being read back (R128, R408) -/
  move : Option (Nat × Bool) := none
  deriving DecidableEq, Repr, Inhabited

/-! ## Troupes -/

/-- A troupe. Position 64 of a core is the trap troupe (R393). -/
structure Troupe where
  /-- Key of its group -/
  group : Nat
  tidx : Nat
  threads : Tab Thread
  regs : Tab Reg
  kregs : Tab Word
  mode : Word
  inherited : Word
  tracks : Tab (List Batch)
  sb : List SBEntry
  parks : List Park
  lastStart : Nat
  nextStart : Nat
  /-- Turns taken or forfeited in Minuet (R81) -/
  turns : Nat
  /-- Program order of accesses -/
  seq : Nat
  clause : Option Clause
  /-- A troupe or spill delivery is outstanding (R395) -/
  suspended : Bool
  regmin : Nat
  /-- Halted for debug (R441) -/
  halted : Bool
  /-- Minuet: where its next subset is looked for (R81) -/
  turnLane : Nat
  /-- Program orders of acquires not yet complete (R361) -/
  acquires : List Nat
  /-- Uses found blocking of clauses that have not started yet: clause head, instruction word, symbol (R147) -/
  blocked : List (Nat × Nat × Nat) := []
  deriving DecidableEq, Repr, Inhabited

/-! ## Cores -/

/-- The state of an L1 line (R330). -/
inductive LineState where
  | s | e | m
  | u (op ty : Nat)
  /-- A U copy whose merge message is not acknowledged (R340) -/
  | evicting (op ty : Nat)
  deriving DecidableEq, Repr, Inhabited

/-- An L1 line (R327), or a home-path slice's U copy (R340). -/
structure Line where
  st : LineState
  valid : BitVec 8
  dirty : BitVec 8
  touched : BitVec 8
  data : Tab Byte
  /-- Virtual address of the line, as the fill named it: bindings name virtual lines (R368) -/
  va : Nat
  /-- Partition key of the grid that a U copy was granted for (R346) -/
  key : Nat := 0
  deriving DecidableEq, Repr, Inhabited

/-- How an invalidation is marked (R369). -/
inductive Mark where
  | tagged (object : Nat) | unbound | general
  deriving DecidableEq, Repr, Inhabited

/-- A queued invalidation (R331). -/
structure Inval where
  line : Nat
  mark : Mark
  at_ : Nat
  deriving DecidableEq, Repr, Inhabited

/-- A set of inherited registers kept for a successor (R130): ticket, predecessor index, registers by troupe. -/
structure Retained where
  ticket : Nat
  pred : Nat
  sets : Tab (Tab Reg)
  deriving DecidableEq, Repr, Inhabited

/-- The trace unit (R446 to R448). -/
structure Trace where
  armed : Bool
  base : Word
  length : Nat
  kinds : BitVec 8
  p : Nat
  written : Nat
  nextPos : Nat
  /-- When the next sample is due -/
  due : Nat
  deriving DecidableEq, Repr, Inhabited

/-- A core. -/
structure CoreSt where
  troupes : Tab Troupe
  /-- Dispatch of issue slot n is busy until this cycle (R94) -/
  slotBusy : Tab Nat
  /-- Issue cycles of slot n so far (R92) -/
  slotIssues : Tab Nat
  /-- Candidates already found not ready at this issue cycle: position, lowest lane -/
  passed : List (Nat × Nat)
  symbols : Tab Symbol
  nextSym : Nat
  /-- L1 lines, most recently used first -/
  l1 : Tab Line
  invq : List Inval
  /-- Lines whose invalidation has been sent to this L1 and not yet received (R331) -/
  invMsgs : List Nat
  tlb : List TlbEntry
  deliveries : List Delivery
  service : Option Delivery
  supStopped : Bool
  trapvec : Word
  lost : Nat
  spillbase : Word
  wdog : Word
  tracelost : Word
  trace : Trace
  retained : List Retained
  /-- Register images written by spills and not yet acknowledged: position, register (R126) -/
  spills : List (Nat × Nat)
  tileHi : List TileEntry
  tileLo : List TileEntry
  hiStreak : Nat
  nextEntry : Nat
  nextPark : Nat
  /-- Misses of the core's TLB (R94) -/
  tlbMisses : Nat := 0
  /-- Troupe positions whose clauses wait for granules, and for symbol entries, in the order of their requests (R124, R152) -/
  waitRegs : List Nat := []
  waitSyms : List Nat := []
  /-- Groups whose threads have all arrived at a regroup, in the order of their last arrivals (R228) -/
  quad : List Nat := []
  deriving DecidableEq, Repr, Inhabited

/-! ## Groups and grids -/

/-- A resident group. -/
structure Group where
  ticket : Nat
  index : Nat
  member : Nat
  core : Nat
  /-- Keys of the gang's members, by member index -/
  gang : Tab Nat
  ntroupes : Nat
  /-- Position of each troupe index -/
  troupes : Tab Nat
  scratch : List Host.Cell
  scratchSize : Nat
  nslots : Nat
  /-- Slot tags of R253, by handle -/
  slots : Tab Word
  slotBytes : Tab (Tab Byte)
  slotWritten : Tab (List Nat)
  nbands : Nat
  /-- Band tags: 0 F32, 1 F64, 2 F64U, 3 + 8w RAW(w) (R261) -/
  bandTags : Tab Nat
  cells : Tab (Tab (BitVec 32))
  captab : Word
  posRecord : Bool
  hang : Nat
  haltReq : Option Nat
  halted : Bool
  /-- A save, flush or kill is being carried out -/
  closing : Bool
  deriving DecidableEq, Repr, Inhabited

/-- A grid accepted by the arbiter (R60). -/
structure Grid where
  /-- The 32 words of the retained launch record (R61) -/
  record : List Word
  recordAddr : Word
  order : Nat
  current : Nat
  retired : List Nat
  killed : Tab Nat
  /-- Gangs whose kill waits for the end of a running clause, with its reason (R36, R455) -/
  dying : Tab Nat := []
  contained : Bool
  bindings : Tab (Word × Word)
  /-- Safe-point table: offset and live mask (R439) -/
  safePoints : List (Nat × Word)
  regions : List (Word × Word)
  debug : Bool
  breakpoints : Tab Word
  /-- Minuet: retired instructions, core, group and troupe whose turn it is -/
  clk : Nat
  minuetCore : Option Nat
  turnGroup : Nat
  turnTroupe : Nat
  /-- The troupe whose turn it is has started its clause -/
  turnUsed : Bool
  pipeline : Option Nat
  stage : Nat
  status : Nat
  deriving DecidableEq, Repr, Inhabited

/-- A pipeline (R82, R83). -/
structure Pipeline where
  stages : List Nat
  admitted : Tab Nat
  weights : List Nat
  nextPeriod : Nat
  deriving DecidableEq, Repr, Inhabited

/-- A gang pending at a die dispatcher (R70). -/
structure PendingGang where
  ticket : Nat
  gang : Nat
  requeued : Bool
  /-- It resumes from its save images -/
  saved : Bool
  /-- Where its members start again after a flush, by member (R78); empty for the entry -/
  starts : List Word
  deriving DecidableEq, Repr, Inhabited

/-! ## Copy jobs -/

/-- A job's life (R304 to R313, R320). -/
inductive JobState where
  | held | accepted | running | stalled | complete | ended (reason reason2 : Nat)
  deriving DecidableEq, Repr, Inhabited

/-- An element of a BFP block (R162): in memory, with the block's address, the place in the block and the exponent's address; or a
mantissa and an exponent that came over the links (R317). -/
inductive BlockElem where
  | mem (block : Word) (index : Nat) (exponent : Word)
  | lit (mantissa exponent : Nat)
  deriving DecidableEq, Repr, Inhabited

/-- Where a destination byte comes from: a source address, a value, eight bits, each of a byte address and a bit number or of a free
byte (R302), or byte i of a BFPw block encoded from 32 elements (R174). -/
inductive ByteSrc where
  | at (a : Word)
  | val (b : Byte)
  | bits (bs : List (Option (Word × Nat))) (free : Byte)
  | enc (w i : Nat) (els : List BlockElem)
  deriving DecidableEq, Repr, Inhabited

/-- One flit of a job's writes (R314); its source bytes are read when it performs. -/
structure JobFlit where
  /-- Destination: pointer, or byte offset in a slot -/
  dst : Word
  /-- What each destination byte is read from -/
  src : List ByteSrc
  /-- Its bytes come from poisoned data read before (R313) -/
  poison : Bool := false
  deriving DecidableEq, Repr, Inhabited

/-- A copy job (R296 to R320). -/
structure Job where
  number : Nat
  /-- The 16 words of the card -/
  card : List Word
  srcRec : List Word
  dstRec : List Word
  auxRec : List Word
  index : List Nat
  follow : List Word
  /-- Group key of the submitter; it resolves member 0xF -/
  group : Nat
  ticket : Nat
  gen : Nat
  st : JobState
  engine : Option Nat
  /-- The flits still to write, once the traversal has been laid out; and a follow-on's scale vector -/
  built : Bool
  todo : List JobFlit
  scales : List Byte
  /-- Bytes written, discarded slot writes, times (R320) -/
  bytes : Nat
  discarded : Bool
  accepted : Nat
  started : Nat
  lastWrite : Nat
  enqueued : Nat
  stalls : Nat
  stalledAt : Nat
  stallPage : Option Nat
  /-- The follow-on: 0 none or not yet issued, 1 issued, 2 in a tile queue, 3 done -/
  followed : Nat
  /-- Collective: chunks to which this member has contributed, and chunks whose final values it has -/
  contributed : List Nat
  final : List Nat
  ovf : Bool
  nan : Bool
  /-- Collective: every member's job is known to have been accepted (R315), and chunks whose contribution here was poisoned (R313) -/
  joined : Bool := false
  tainted : List Nat := []
  /-- The follow-on's scale vector was read from poisoned data (R313) -/
  badScales : Bool := false
  deriving DecidableEq, Repr, Inhabited

/-- A card on its way to a scheduler (R323). -/
structure Submission where
  core : Nat
  pos : Nat
  lane : Nat
  entry : Nat
  group : Nat
  ticket : Nat
  card : Loc
  gen : Nat
  deriving DecidableEq, Repr, Inhabited

/-- The state of a line in an L2 slice, for its die as a whole (R330); update-only lines stand in `State.sliceU`, absence is I. -/
inductive L2State where
  | s | e | m
  deriving DecidableEq, Repr, Inhabited

/-- A line of a die's L2 slices (R329): its slice and set follow from its number. -/
structure L2Line where
  line : Nat
  st : L2State
  /-- Allocated by space 0x1: it leaves first (R325) -/
  first : Bool
  deriving DecidableEq, Repr, Inhabited

/-- A die. -/
structure DieSt where
  pending : List PendingGang
  jobs : List Job
  nextJob : Nat
  inbox : List Submission
  /-- Match notices that have reached the scheduler: word and generation (R242) -/
  notices : List (Loc × Nat)
  tlb2 : List TlbEntry
  /-- Walk-ahead TLBs by engine (R310, R387) -/
  engineTlb : Tab (List TlbEntry) := []
  /-- Black box records (R450), oldest first -/
  bbox : List (List Byte)
  migpol : Word
  timingRepeats : Nat
  corrected : Nat
  escalations : Nat
  reruns : Nat
  scrubNear : Nat
  scrubFar : Nat
  scrubL2 : Nat
  calibrations : Nat
  /-- When each stop's next telemetry flit is due (R458) -/
  telemetry : Tab Nat
  /-- Pages moved by the migration engine -/
  moves : Nat
  /-- The page under migration: virtual address and new frame (R391) -/
  migrating : Option (Nat × Nat) := none
  nextHalving : Nat
  paused : BitVec 8
  /-- Lines of the die's 16 slices, most recently used first (R10, R328 to R330) -/
  l2 : List L2Line := []
  deriving DecidableEq, Repr, Inhabited

/-! ## Fabric and links -/

/-- A sync-word arrival on its way to its home (R240, R241). -/
structure Arrival where
  word : Loc
  gen : Nat
  bytes : Nat
  /-- The key under which it may leave the package (R432) -/
  key : Nat := 0
  deriving DecidableEq, Repr, Inhabited

/-- A stop's throttle (R421): level, deflections in this window and in the last one, the cycle from which each plane may
inject again, the end of the window. -/
structure Throttle where
  level : Nat
  window : Nat
  last : Nat
  nextInject : Nat × Nat
  windowEnd : Nat
  deriving DecidableEq, Repr, Inhabited

/-- A trigger on its way to the blocks of the package (R444): number, origin time, blocks it has reached, and the kind-10 flit that carries
them to every stop. -/
structure TriggerSent where
  number : Nat
  t0 : Nat
  reached : List Nat
  flit : Flit := default
  deriving DecidableEq, Repr, Inhabited

/-- A reassembly slot in use (R423): the parts that have arrived, its 512 data bytes, and the peer package for which the stop asked, with
the key of the access. -/
structure ReelSlot where
  arrived : BitVec 4
  data : List Byte
  peer : Option Nat
  key : Nat
  /-- Parts that came poisoned (R453) -/
  poison : BitVec 4 := 0
  deriving DecidableEq, Repr, Inhabited

/-- The ports of a router, in the order of deflection (R416). -/
inductive Dir where
  | vDown | uUp | vUp | uDown
  deriving DecidableEq, Repr, Inhabited

/-- What the bridge stops of a die's bridge hold besides merge units (R427): whether its links are trained, and a telemetry counter, of the
flits that have crossed. -/
structure Bridge where
  trained : Bool
  crossed : Nat
  deriving DecidableEq, Repr, Inhabited

/-- The Reel (R410 to R425). -/
structure Fabric where
  flying : List Flit
  waiting : List Flit
  /-- Ejected flits on their way from the router to the unit (R414) -/
  landing : List Flit := []
  throttles : Tab Throttle
  /-- Routers that have routed flits of a fabric cycle, by plane * 400 + stop key: the cycle, the ports still free in it, and whether the
  ejection port is (R416) -/
  routed : Tab (Nat × List Dir × Bool) := []
  /-- Reassembly slots in use, by stop key * 512 + slot (R423) -/
  slots : Tab ReelSlot
  /-- Kind-7 answers allotted to a merge sender: core, line, slot (R424) -/
  mergeSlots : List (Nat × Nat × Nat)
  triggers : List TriggerSent
  /-- The bridges, by die * 2, and 1 for the vertical one (R427) -/
  bridges : Tab Bridge := []
  deriving DecidableEq, Repr, Inhabited

/-- A Zethes port (R428 to R430). -/
structure Port where
  dead : Bool
  replays : List Nat
  unacked : List Packet
  revoked : Nat
  deriving DecidableEq, Repr, Inhabited

/-- A stream (R429), received or sent: next sequence number, packets that wait for an earlier one, credits, packets held for
want of a credit or a port. -/
structure Stream where
  next : Nat
  reorder : List Packet
  credits : Nat
  held : List Packet
  deriving DecidableEq, Repr, Inhabited

/-- A peer package's partial of a line (R339, R434). -/
structure Partial where
  line : Nat
  pkg : Nat
  op : Nat
  ty : Nat
  data : Tab Byte
  touched : BitVec 8
  /-- The partition key its copies are held under (R346) -/
  key : Nat := 0
  deriving DecidableEq, Repr, Inhabited

/-- A peer package that holds a line of this one (R329): as an update-only copy of a pair, under a partition key, or plainly. -/
structure PeerHolder where
  line : Nat
  pkg : Nat
  pair : Option (Nat × Nat)
  key : Nat
  /-- The merge slot that its home has allotted for its partial, and asked for it: edge stop * 64 + slot (R424, R434) -/
  slot : Option Nat := none
  deriving DecidableEq, Repr, Inhabited

/-- The links out of the package. -/
structure Zethes where
  ports : Tab Port
  streams : Tab Stream
  /-- Peer partials waiting in merge slots (R434) -/
  partials : List Partial
  /-- The home slices' directory of peer packages (R329) -/
  peers : List PeerHolder := []
  /-- Chunks of collectives sent to other packages: package, collective, chunk, bytes in wire format (R316, R317) -/
  sent : List (Nat × Nat × Nat × List Byte)
  deriving DecidableEq, Repr, Inhabited

/-- A queue pair (R435, R436, R479). -/
structure QueuePair where
  die : Nat
  send : Word
  recv : Word
  remote : Nat
  remoteQp : Nat
  mtu : Nat
  error : Bool
  connected : Bool
  rate : Nat
  /-- Work descriptors popped and not complete -/
  work : List (List Word)
  posted : List (List Word)
  destroying : Option Word
  deriving DecidableEq, Repr, Inhabited

/-- A registered region (R479). -/
structure MemRegion where
  die : Nat
  base : Word
  length : Nat
  read : Bool
  write : Bool
  deriving DecidableEq, Repr, Inhabited

/-- A message that leaves the package: to the control node (R437), or through an Ethernet port (R435). -/
inductive Message where
  | completion (ticket state reason : Nat)
  | pageService (ptr : Word) (key core : Nat)
  | event (code a b c : Nat)
  /-- An attestation report (R475): its fields, and its 128 bytes -/
  | attestation (nonce digest key boot signature : Nat) (report : List Byte)
  | halt (ticket group tag : Nat) (operand pc : Word) (ordinal : Nat)
  /-- Device memory that the control node reads (R483) -/
  | data (addr : Nat) (bytes : List Byte)
  /-- What an Ethernet port sends for a work request: operation, remote address, remote key, immediate, bytes; and the answer
  to a remote read (R435, R436) -/
  | rdma (die qp op addr rkey imm : Nat) (bytes : List Byte)
  | rdmaAnswer (die qp : Nat) (bytes : List Byte)
  /-- What a stop's telemetry flit brings to the Ozwyn port (R458) -/
  | telemetry (die stop : Nat) (bytes : List Byte)
  deriving DecidableEq, Repr, Inhabited

/-- A block's snapshot registers (R445): when its latch is due, when it latched, the triggers counted since, and the copies of the block's
state and counters: a core's, a slice's lines, a copy-engine stop's jobs, and its stop's throttle and bridge. -/
structure Snapshot where
  armed : Option Nat
  latched : Option Nat
  second : Nat
  core : Option CoreSt := none
  lines : List L2Line := []
  jobs : List Job := []
  throttle : Option Throttle := none
  bridge : Option Bridge := none
  deriving DecidableEq, Repr, Inhabited

/-- Boot, power and management registers (R473 to R481). -/
structure Mgmt where
  boot : Nat
  powered : Bool
  /-- The public half of the identity key pair (R473) -/
  identity : Option Nat
  firmware : Option Nat
  /-- The image that is being started (R473): its digest, whether its signature verified, whether every trim converges, the ports that fail
  training -/
  image : Option (Nat × Bool × Bool × List Nat) := none
  deadPorts : List Nat
  powerLimit : Nat
  tmax : Nat
  power : Nat
  held : Nat
  limiting : Bool
  /-- 100 °C have been reached since the last power window (R476) -/
  reached : Bool := false
  /-- Throttle floor while limiting (R476) -/
  floor : Nat
  /-- A device error has been found: the package must be reset (R453) -/
  failed : Bool
  lqdesc : Tab Word
  lqblocked : Tab Bool
  lqnext : Nat
  ptroot : Word
  hostwin : Word
  keytab : Tab (BitVec 16)
  revoked : List Nat
  debugsel : Nat
  debuggrid : Nat
  trigcfg : Tab Word
  deriving DecidableEq, Repr, Inhabited

/-- The whole machine. -/
structure State where
  /-- Core cycles since reset (R443) -/
  cycle : Nat
  mem : List Host.Cell
  hostMem : List Host.Cell
  peerMem : List Host.Cell
  /-- Poisoned sectors: area-tagged sector numbers (R454) -/
  poison : List Nat
  /-- U copies held by home-path slices: line key * 4 + die (R340) -/
  sliceU : Tab Line
  /-- Merge messages of evicting lines on their way: core, line -/
  merges : List (Nat × Nat)
  arrivals : List Arrival
  /-- Sync words whose state a racing access left undefined until the next `sarm`: sixteenths of location keys (R239) -/
  racedWords : List Nat := []
  mgmt : Mgmt
  migcount : Tab Nat
  /-- L2 misses counted, and the pages of every 64th that are still to be added to their counters (R458) -/
  l2misses : Nat
  missPages : List Nat
  /-- Writes of units outside the cores that wait for their page to come back (R313, R320) or for a peer's partial of their line (R344), in
  order: pointer, bytes -/
  owed : List (Word × List Byte)
  /-- The model's own: a unit's read has met a line that waits for a peer's partial, so that its event is not made (R344) -/
  stuck : Bool
  nextTicket : Nat
  nextOrder : Nat
  grids : Tab Grid
  groups : Tab Group
  pipelines : Tab Pipeline
  dies : Tab DieSt
  cores : Tab CoreSt
  /-- Unacknowledged remote entries of saved troupes, by group key * 32 + troupe (R366) -/
  remote : Tab (List SBEntry)
  /-- Follow-ons' tile entries that save images hold, by group key: their tile records are written here if their gang is killed (R449) -/
  savedTiles : Tab (List SavedEntry)
  fabric : Fabric
  zethes : Zethes
  qps : Tab QueuePair
  regionsE : Tab MemRegion
  snapshots : Tab Snapshot
  outbox : List Message
  /-- The model's own: moves to come, the clause being performed, and the count of free values read -/
  agenda : List Instr
  focus : Option (Nat × Nat)
  moves : Nat
  deriving DecidableEq, Repr, Inhabited

/-- The machine right after reset (R473, R478, R480): power has not yet been applied to a firmware image, nothing is
resident, memories are zero, and every register with a stated reset value has it. -/
def State.reset : State where
  cycle := 0
  mem := []
  hostMem := []
  peerMem := []
  poison := []
  sliceU := []
  merges := []
  arrivals := []
  mgmt := { boot := 0, powered := false, identity := none, firmware := none, deadPorts := [],
            powerLimit := 3600, tmax := 0, power := 0, held := 0, limiting := false, floor := 0, failed := false,
            lqdesc := [], lqblocked := [], lqnext := 0, ptroot := 0, hostwin := 0,
            keytab := [], revoked := [], debugsel := 0, debuggrid := 0, trigcfg := [] }
  migcount := []
  l2misses := 0
  missPages := []
  owed := []
  stuck := false
  nextTicket := 1
  nextOrder := 0
  grids := []
  groups := []
  pipelines := []
  dies := []
  cores := []
  remote := []
  savedTiles := []
  fabric := { flying := [], waiting := [], throttles := [], slots := [], mergeSlots := [], triggers := [] }
  zethes := { ports := [], streams := [], partials := [], sent := [] }
  qps := []
  regionsE := []
  snapshots := []
  outbox := []
  agenda := []
  focus := none
  moves := 0

end Sys2Proof.Machine
end

