-- ==== Sys2Proof/Machine/Bits.lean ====
section
/-!
DEFINITION. Plain helpers over keyed tables, lanes, lane masks, elements of a pack mode and bytes.
-/

namespace Sys2Proof.Machine

/-! ## Tables -/

/-- The value at a key: the first entry. -/
def tabGet? {α : Type} : Tab α → Nat → Option α
  | [], _ => none
  | (k, v) :: r, key => if k = key then some v else tabGet? r key

/-- The value at a key, or the resting value. -/
def tabGet {α : Type} (t : Tab α) (key : Nat) (rest : α) : α := (tabGet? t key).getD rest

/-- Sets the value at a key. -/
def tabPut {α : Type} : Tab α → Nat → α → Tab α
  | [], key, v => [(key, v)]
  | (k, w) :: r, key, v => if k = key then (k, v) :: r else (k, w) :: tabPut r key v

/-- Removes a key. -/
def tabDel {α : Type} (t : Tab α) (key : Nat) : Tab α := t.filter fun e => e.1 != key

/-- Maps every listed value. -/
def tabMap {α β : Type} (t : Tab α) (f : Nat → α → β) : Tab β := t.map fun e => (e.1, f e.1 e.2)

/-- Moves a key to the front (most recently used). -/
def tabTouch {α : Type} (t : Tab α) (key : Nat) : Tab α :=
  match tabGet? t key with
  | none => t
  | some v => (key, v) :: tabDel t key

/-! ## Lanes and masks -/

/-- The 32 lane numbers, ascending. -/
def laneList : List Nat := List.range 32

/-- Lane l's value. -/
def laneOf (v : Lanes) (l : Nat) : Word := v.getD l 0

/-- The values of a function of the lane. -/
def mkLanes (f : Nat → Word) : Lanes := laneList.map f

/-- The lanes of a mask, ascending. -/
def maskLanes (m : LaneMask) : List Nat := laneList.filter fun l => m.getLsbD l

/-- The mask of the lanes that satisfy a test. -/
def maskOf (p : Nat → Bool) : LaneMask :=
  BitVec.ofNat 32 (laneList.foldr (fun l a => if p l then a ||| (1 <<< l) else a) 0)

/-- The lowest lane of a mask. -/
def lowLane (m : LaneMask) : Option Nat := laneList.find? fun l => m.getLsbD l

/-- One lane's bit. -/
def laneBit (l : Nat) : LaneMask := BitVec.ofNat 32 (1 <<< l)

/-- New values in the lanes of a mask, old values elsewhere. -/
def laneMerge (m : LaneMask) (new old : Lanes) : Lanes :=
  mkLanes fun l => if m.getLsbD l then laneOf new l else laneOf old l

/-! ## Elements of a pack mode (R41) -/

/-- Element i of width w of a value. -/
def elemAt (w i : Nat) (v : Nat) : Nat := v / 2 ^ (w * i) % 2 ^ w

/-- Packs n elements of width w, each reduced modulo 2^w. -/
def packElems (w n : Nat) (f : Nat → Nat) : Nat :=
  (List.range n).foldr (fun i a => a + f i % 2 ^ w * 2 ^ (w * i)) 0

/-- Element width of a pack mode for integers. -/
def packWidth (pack : Nat) : Nat := if pack = 0 then 64 else if pack = 1 then 32 else if pack = 2 then 16 else 8

/-- Number of elements of width w in a register. -/
def elemCount (w : Nat) : Nat := 64 / w

/-- An element read as a signed number. -/
def toSigned (w v : Nat) : Int := if v % 2 ^ w < 2 ^ (w - 1) then (v % 2 ^ w : Nat) else ((v % 2 ^ w : Nat) : Int) - 2 ^ w

/-- A number reduced to w bits. -/
def ofSigned (w : Nat) (v : Int) : Nat := (v % (2 ^ w : Int)).toNat

/-- Clamps to a signed or unsigned range of w bits. -/
def saturate (signed : Bool) (w : Nat) (v : Int) : Int :=
  if signed then max (-(2 ^ (w - 1) : Int)) (min v (2 ^ (w - 1) - 1)) else max 0 (min v (2 ^ w - 1))

/-- A 64-bit value of a number. -/
def word (n : Nat) : Word := BitVec.ofNat 64 n

/-- Bits [hi:lo] of a number. -/
def bits (n hi lo : Nat) : Nat := n / 2 ^ lo % 2 ^ (hi + 1 - lo)

/-- One bit of a number. -/
def bit (n i : Nat) : Bool := n.testBit i

/-- The number of one bits among the low w. -/
def popcount (w n : Nat) : Nat := ((List.range w).filter fun i => n.testBit i).length

/-! ## Bytes -/

/-- A little-endian number (R1). -/
def leNat : List Byte → Nat
  | [] => 0
  | b :: r => b.toNat + 256 * leNat r

/-- n little-endian bytes of a number. -/
def leBytes : Nat → Nat → List Byte
  | 0, _ => []
  | n + 1, v => BitVec.ofNat 8 v :: leBytes n (v / 256)

/-- Replaces bits [hi:lo] of a 64-bit value. -/
def setBits (v : Word) (hi lo n : Nat) : Word :=
  word (v.toNat - bits v.toNat hi lo * 2 ^ lo + n % 2 ^ (hi + 1 - lo) * 2 ^ lo)

/-- ceil(a / b). -/
def ceilDiv (a b : Nat) : Nat := (a + b - 1) / b

/-- The first element a test accepts, taken out of the list. -/
def takeFirst {α : Type} (p : α → Bool) : List α → Option (α × List α)
  | [] => none
  | a :: r => if p a then some (a, r) else (takeFirst p r).map fun x => (x.1, a :: x.2)


/-- Removes repeats, keeping the last of each. -/
def distinct (l : List Nat) : List Nat := l.foldr (fun a r => if r.contains a then r else a :: r) []

end Sys2Proof.Machine
end

