-- ==== Sys2Proof/Machine/Float.lean ====
section
/-!
DEFINITION. Floating-point formats and values (R160, R161): decoding, exact arithmetic on values m * 2^e, comparison,
and the integer grid (R166).
-/

namespace Sys2Proof.Machine

/-- A binary format: width, exponent bits, fraction bits, and whether it has infinities (R160). -/
structure FFmt where
  w : Nat
  eb : Nat
  mb : Nat
  hasInf : Bool
  deriving DecidableEq, Repr

/-- The format of a float code (R49: type code minus 12). -/
def fmtOf (code : Nat) : FFmt :=
  match code with
  | 0 => ⟨64, 11, 52, true⟩
  | 1 => ⟨32, 8, 23, true⟩
  | 2 => ⟨16, 5, 10, true⟩
  | 3 => ⟨16, 8, 7, true⟩
  | 4 => ⟨8, 4, 3, false⟩
  | _ => ⟨8, 5, 2, true⟩

/-- The exact value of an operand. -/
inductive FVal where
  | nan
  | inf (neg : Bool)
  /-- m * 2^e; m = 0 is a zero of that sign -/
  | fin (neg : Bool) (m : Nat) (e : Int)
  deriving DecidableEq, Repr

def FFmt.bias (f : FFmt) : Int := 2 ^ (f.eb - 1) - 1

/-- The exponent of the smallest subnormal's bit. -/
def FFmt.minE (f : FFmt) : Int := 1 - f.bias - f.mb

def FFmt.sign (f : FFmt) (v : Nat) : Bool := v.testBit (f.w - 1)
def FFmt.expo (f : FFmt) (v : Nat) : Nat := v / 2 ^ f.mb % 2 ^ f.eb
def FFmt.frac (f : FFmt) (v : Nat) : Nat := v % 2 ^ f.mb
def FFmt.mag (f : FFmt) (v : Nat) : Nat := v % 2 ^ (f.w - 1)
def FFmt.signBit (f : FFmt) (neg : Bool) : Nat := if neg then 2 ^ (f.w - 1) else 0

/-- A NaN encoding (R161). -/
def FFmt.isNaN (f : FFmt) (v : Nat) : Bool :=
  if f.hasInf then f.expo v == 2 ^ f.eb - 1 && f.frac v != 0 else f.mag v == 2 ^ (f.w - 1) - 1

/-- An infinity (R161). -/
def FFmt.isInf (f : FFmt) (v : Nat) : Bool := f.hasInf && f.expo v == 2 ^ f.eb - 1 && f.frac v == 0

/-- A signalling NaN (R161): E4M3 has none. -/
def FFmt.isSNaN (f : FFmt) (v : Nat) : Bool := f.isNaN v && f.hasInf && !v.testBit (f.mb - 1)

/-- A non-zero value below the smallest normal. -/
def FFmt.isSub (f : FFmt) (v : Nat) : Bool := f.expo v == 0 && f.frac v != 0

/-- The canonical NaN (R161). -/
def FFmt.canon (f : FFmt) : Nat :=
  if f.hasInf then (2 ^ f.eb - 1) * 2 ^ f.mb + 2 ^ (f.mb - 1) else 2 ^ (f.w - 1) - 1

/-- The magnitude bits of the largest finite value (R160). -/
def FFmt.maxFin (f : FFmt) : Nat := if f.hasInf then (2 ^ f.eb - 1) * 2 ^ f.mb - 1 else 2 ^ (f.w - 1) - 2

/-- The magnitude bits that overflow delivers: infinity, or the NaN of E4M3 (R163). -/
def FFmt.infMag (f : FFmt) : Nat := if f.hasInf then (2 ^ f.eb - 1) * 2 ^ f.mb else 2 ^ (f.w - 1) - 1

/-- Sets the quiet bit (R171). -/
def FFmt.quiet (f : FFmt) (v : Nat) : Nat := if f.hasInf && !v.testBit (f.mb - 1) then v + 2 ^ (f.mb - 1) else v

/-- The value of an encoding (R161). -/
def FFmt.val (f : FFmt) (v : Nat) : FVal :=
  if f.isNaN v then .nan
  else if f.isInf v then .inf (f.sign v)
  else if f.expo v = 0 then .fin (f.sign v) (f.frac v) f.minE
  else .fin (f.sign v) (2 ^ f.mb + f.frac v) (f.expo v + f.minE - 1)

/-- The integer that orders magnitudes with their signs; -0 equals +0. -/
def FFmt.key (f : FFmt) (v : Nat) : Int := if f.sign v then -(f.mag v : Int) else f.mag v

/-- The same with -0 below +0 (R199). -/
def FFmt.tkey (f : FFmt) (v : Nat) : Int := if f.sign v then -(f.mag v : Int) - 1 else f.mag v

/-- Bits in a positive number. -/
def bitLen (m : Nat) : Nat := if m = 0 then 0 else Nat.log2 m + 1

/-- m * 2^k for an integer k, dropping nothing when k is not negative. -/
def shl (m : Nat) (k : Int) : Nat := m * 2 ^ k.toNat

/-- The signed mantissa of a finite value at exponent e (e at most its own). -/
def FVal.at (v : FVal) (e : Int) : Int :=
  match v with
  | .fin neg m e' => if neg then -(shl m (e' - e) : Int) else shl m (e' - e)
  | _ => 0

def FVal.expo (v : FVal) : Int := match v with | .fin _ _ e => e | _ => 0

def FVal.neg (v : FVal) : FVal :=
  match v with
  | .nan => .nan
  | .inf n => .inf !n
  | .fin n m e => .fin (!n) m e

def FVal.isNeg (v : FVal) : Bool := match v with | .nan => false | .inf n => n | .fin n _ _ => n

def FVal.isZero (v : FVal) : Bool := match v with | .fin _ m _ => m == 0 | _ => false

/-- The exact sum of two values; `none` is an invalid sum. The sign of an exact zero follows R164. -/
def FVal.add (a b : FVal) (mode : Nat) : Option FVal :=
  match a, b with
  | .nan, _ => some .nan
  | _, .nan => some .nan
  | .inf x, .inf y => if x = y then some (.inf x) else none
  | .inf x, _ => some (.inf x)
  | _, .inf y => some (.inf y)
  | .fin nx mx ex, .fin ny my ey =>
    let e := min ex ey
    let s := (FVal.fin nx mx ex).at e + (FVal.fin ny my ey).at e
    if s = 0 then
      if mx = 0 && my = 0 && nx = ny then some (.fin nx 0 0) else some (.fin (mode == 3) 0 0)
    else some (.fin (decide (s < 0)) s.natAbs e)

/-- The exact product; `none` is 0 times infinity. -/
def FVal.mul (a b : FVal) : Option FVal :=
  match a, b with
  | .nan, _ => some .nan
  | _, .nan => some .nan
  | .inf x, .inf y => some (.inf (x != y))
  | .inf x, .fin y m _ => if m = 0 then none else some (.inf (x != y))
  | .fin x m _, .inf y => if m = 0 then none else some (.inf (x != y))
  | .fin x mx ex, .fin y my ey => some (.fin (x != y) (mx * my) (ex + ey))

/-- A finite quotient with 140 bits or more and a sticky last bit: enough for one correct rounding of any format. -/
def quotient (neg : Bool) (ma : Nat) (ea : Int) (mb : Nat) (eb : Int) : FVal :=
  let k := 140 + bitLen mb
  let n := ma * 2 ^ k
  .fin neg (2 * (n / mb) + (if n % mb = 0 then 0 else 1)) (ea - eb - k - 1)

/-- A square root of m * 2^e with a sticky last bit. -/
def rootOf (m : Nat) (e : Int) : FVal :=
  let m' := if e % 2 = 0 then m else 2 * m
  let e' := if e % 2 = 0 then e else e - 1
  let n := m' * 2 ^ 300
  let r := Nat.sqrt n
  .fin false (2 * r + (if r * r = n then 0 else 1)) (e' / 2 - 151)

/-- |x| on the grid 2^q: the lower neighbour and the rest. The rest is given as remainder and divisor. -/
def gridDown (m : Nat) (e q : Int) : Nat × Nat × Nat :=
  if q ≤ e then (shl m (e - q), 0, 1)
  else
    let d := (q - e).toNat
    if d > bitLen m + 40 then (0, if m = 0 then 0 else 1, 2 ^ 40)
    else (m / 2 ^ d, m % 2 ^ d, 2 ^ d)

/-- Chooses between the two neighbours (R163). -/
def pick (mode r : Nat) (neg : Bool) (lo rem div : Nat) : Nat :=
  if rem = 0 then lo
  else if mode = 1 then if 2 * rem > div || (2 * rem = div && lo % 2 = 1) then lo + 1 else lo
  else if mode = 5 then if 2 * rem ≥ div then lo + 1 else lo
  else if mode = 2 then lo
  else if mode = 3 then if neg then lo + 1 else lo
  else if mode = 4 then if neg then lo else lo + 1
  else if r < rem * 2 ^ 32 / div then lo + 1 else lo

/-- `round_int`'s rounding to the grid of integers (R166): the integer, and whether it differs from the value. -/
def roundGrid (mode r : Nat) (neg : Bool) (m : Nat) (e : Int) : Int × Bool :=
  let g := gridDown m e 0
  let v := pick mode r neg g.1 g.2.1 g.2.2
  (if neg then -(v : Int) else v, g.2.1 != 0)

end Sys2Proof.Machine
end

