-- ==== Sys2Proof/Machine/Flags.lean ====
section
/-!
DEFINITION. Rounding into a format with the flags it raises (R163 to R168), `MODE` (R167), flushing (R169) and
`round_int` (R166).
-/

namespace Sys2Proof.Machine

/-- Flags as a number: NV 1, DZ 2, OF 4, UF 8, NX 16; MODE holds them at bits [12:8]. -/
def flNV : Nat := 1
def flDZ : Nat := 2
def flOF : Nat := 4
def flUF : Nat := 8
def flNX : Nat := 16

/-- `MODE.RND` (R167). -/
def modeRnd (mode : Word) : Nat := bits mode.toNat 2 0

/-- Rounding code 000 reads `MODE.RND` (R43). -/
def resolveRnd (mode : Word) (code : Nat) : Nat := if code = 0 then modeRnd mode else code

/-- The flush bit of a float code (R169): f32 3, f16 4, bf16 5; none for the others. -/
def flushBit (mode : Word) (code : Nat) : Bool :=
  if code = 1 then mode.getLsbD 3 else if code = 2 then mode.getLsbD 4 else if code = 3 then mode.getLsbD 5 else false

/-- What a write to `MODE` stores (R167). -/
def modeWrite (v : Word) : Word :=
  let r := bits v.toNat 2 0
  word ((bits v.toNat 12 8) * 256 + (bits v.toNat 5 3) * 8 + (if r = 0 || r ≥ 6 then 1 else r))

/-- Merges flags into `MODE` (R168). -/
def modeMerge (mode : Word) (flags : Nat) : Word := mode ||| word (flags % 32 * 256)

/-- A raw element read through `flush` (R169). -/
def flushRaw (f : FFmt) (on : Bool) (v : Nat) : Nat := if on && f.isSub v then f.signBit (f.sign v) else v

/-- `fp_in` (R197). -/
def fpIn (f : FFmt) (fz absf negf : Bool) (v : Nat) : Nat :=
  let x := flushRaw f fz v
  let x := if absf then f.mag x else x
  if negf then (if f.sign x then f.mag x else x + f.signBit true) else x

/-- Magnitude bits of v units of 2^q, where v fits the format's significand. -/
def FFmt.encodeMag (f : FFmt) (v : Nat) (q : Int) : Nat :=
  if v < 2 ^ f.mb then v else (q - f.minE + 1).toNat * 2 ^ f.mb + (v - 2 ^ f.mb)

/-- `round`, saturation, flushing and the flags (R163, R165, R168, R169) of an exact value that is no NaN. -/
def fpOutR (f : FFmt) (mode r : Nat) (sat fz : Bool) (x : FVal) : Nat × Nat :=
  match x with
  | .nan => (f.canon, 0)
  | .inf neg =>
    if sat then (f.signBit neg + f.maxFin, flNX)
    else (f.signBit neg + f.infMag, if f.hasInf then 0 else flNX)
  | .fin neg m e =>
    if m = 0 then (f.signBit neg, 0)
    else
      let top : Int := bitLen m - 1 + e
      let q := max (top - f.mb) f.minE
      let g := gridDown m e q
      let v0 := pick mode r neg g.1 g.2.1 g.2.2
      let inexact := g.2.1 != 0
      let v := if v0 = 2 ^ (f.mb + 1) then 2 ^ f.mb else v0
      let q := if v0 = 2 ^ (f.mb + 1) then q + 1 else q
      let big : Bool := decide (q - f.minE + 1 ≥ 2 ^ f.eb) && decide (v ≥ 2 ^ f.mb)
      let magn := if big then 0 else f.encodeMag v q
      if big || magn > f.maxFin then
        let down := mode = 2 || (mode = 3 && !neg) || (mode = 4 && neg)
        (f.signBit neg + (if down || sat then f.maxFin else f.infMag), flOF ||| flNX)
      else
        let tiny := magn < 2 ^ f.mb
        if fz && tiny && magn != 0 then (f.signBit neg, flUF ||| flNX)
        else (f.signBit neg + magn, if inexact then (if tiny then flUF ||| flNX else flNX) else 0)

/-- `fp_out` (R197) in a resolved mode. -/
def fpOut (f : FFmt) (mode : Nat) (sat fz : Bool) (x : FVal) : Nat × Nat := fpOutR f mode 0 sat fz x

/-- The result where an operand is a NaN (R171, R197), and NV where one signals. -/
def nanResult (f : FFmt) (ops : List Nat) : Option (Nat × Nat) :=
  match ops.find? f.isNaN with
  | none => none
  | some v => some (f.quiet v, if ops.any f.isSNaN then flNV else 0)

/-- A vector result: the NaN rule, then an exact value or an invalid operation. -/
def vecResult (f : FFmt) (mode : Nat) (sat fz : Bool) (ops : List Nat) (x : Option FVal) : Nat × Nat :=
  match nanResult f ops with
  | some n => n
  | none =>
    match x with
    | none => (f.canon, flNV)
    | some v => fpOut f mode sat fz v

/-- `round_int` (R166): result of width w, and flags; NX as R208 gives it. -/
def roundInt (signed : Bool) (w mode r : Nat) (sat : Bool) (x : FVal) : Nat × Nat :=
  let lo : Int := if signed then -(2 ^ (w - 1) : Int) else 0
  let hi : Int := if signed then 2 ^ (w - 1) - 1 else 2 ^ w - 1
  let out (neg : Bool) : Nat :=
    if sat then ofSigned w (if neg then lo else hi) else ofSigned w (if signed then lo else hi)
  match x with
  | .nan => (if sat then 0 else ofSigned w (if signed then lo else hi), flNV)
  | .inf neg => (out neg, flNV)
  | .fin neg m e =>
    let v := roundGrid mode r neg m e
    if v.1 < lo || v.1 > hi then (out neg, flNV) else (ofSigned w v.1, if v.2 then flNX else 0)

/-- Conversion between float formats (R171, R207). -/
def convert (src dst : FFmt) (mode r : Nat) (sat fzSrc fzDst : Bool) (v : Nat) : Nat × Nat :=
  let x := flushRaw src fzSrc v
  if src.isNaN x then
    let frac := if dst.mb ≥ src.mb then src.frac x * 2 ^ (dst.mb - src.mb) else src.frac x / 2 ^ (src.mb - dst.mb)
    let bits := if dst.hasInf then (2 ^ dst.eb - 1) * 2 ^ dst.mb + frac else 2 ^ (dst.w - 1) - 1
    (dst.signBit (src.sign x) + (dst.quiet bits), if src.isSNaN x then flNV else 0)
  else fpOutR dst mode r sat fzDst (src.val x)

/-- `merge` on floats (R335): add with mode 001, minimumNumber, maximumNumber; never flushed, no flag. -/
def mergeFloat (f : FFmt) (fn a b : Nat) : Nat :=
  if fn = 0 then
    if f.isNaN a || f.isNaN b then f.canon
    else match (f.val a).add (f.val b) 1 with
      | none => f.canon
      | some v => (fpOut f 1 false false v).1
  else
    if f.isNaN a && f.isNaN b then f.canon
    else if f.isNaN a then b
    else if f.isNaN b then a
    else if fn = 1 then (if f.tkey b < f.tkey a then b else a)
    else (if f.tkey a < f.tkey b then b else a)

/-- The random operand of stochastic rounding (R206). -/
def mixSeed (seed : Word) (i : Nat) : Nat :=
  let z := seed + word (i * 0x9E3779B97F4A7C15)
  let z := (z ^^^ (z >>> 30)) * 0xBF58476D1CE4E5B9
  let z := (z ^^^ (z >>> 27)) * 0x94D049BB133111EB
  (z ^^^ (z >>> 31)).toNat % 2 ^ 32

/-- `bfp_encode` (R174): exponent byte, mantissas modulo 2^w, and whether anything was inexact. -/
def bfpEncode (w mode : Nat) (xs : List FVal) : Nat × List Nat × Bool :=
  if xs.any (fun x => match x with | .fin _ _ _ => false | _ => true) then (255, xs.map fun _ => 0, false)
  else if xs.all FVal.isZero then (0, xs.map fun _ => 0, false)
  else
    let tops := xs.filterMap fun x => match x with
      | .fin _ m e => if m = 0 then none else some ((bitLen m : Int) - 1 + e)
      | _ => none
    let top := tops.foldl max (tops.headD 0)
    let e := (max 0 (min (top + 127) 254)).toNat
    let r := xs.map fun x => match x with
      | .fin neg m ex =>
        let v := roundGrid mode 0 neg m (ex - (e - 127 - (w - 2 : Int)))
        let c := max (-(2 ^ (w - 1) : Int)) (min v.1 (2 ^ (w - 1) - 1))
        (ofSigned w c, v.2 || c != v.1)
      | _ => (0, false)
    (e, r.map (·.1), r.any (·.2))

end Sys2Proof.Machine
end

