-- ==== Sys2Proof/Machine/Ops.lean ====
section
/-!
DEFINITION. The named operations over the state: accessors, launch record fields, memory bytes, the clause in
execution, waiting, taking an exception (R33 to R35, R394 to R397) and returning from one (R408).
-/

namespace Sys2Proof.Machine

abbrev Out := Host.Outcome State Fault Refusal

/-! ## Resting values -/

def emptyReg : Reg := { entry := .empty, fmt := 0, vals := [], scale := [], sym := 0, pend := 0, chain := [] }

def exitedThread : Thread :=
  { pc := 0, meet := 0, join := 0, st := .exited, lastStart := 0, keep := false, wid := 0, preds := 0, orig := 0,
    ticket := 0 }

def restTrace : Trace := { armed := false, base := 0, length := 0, kinds := 0, p := 0, written := 0, nextPos := 0, due := 0 }

/-- A trap troupe as it stands at boot: registers zero (R393). -/
def trapTroupe : Troupe :=
  { group := 0, tidx := 0, threads := [], regs := [], kregs := [], mode := 1, inherited := 0, tracks := [], sb := [],
    parks := [], lastStart := 0, nextStart := 0, turns := 0, seq := 0, clause := none, suspended := false,
    regmin := 128, halted := false, turnLane := 0, acquires := [] }

/-- A core at boot: WDOGCFG 0x4000 (R451), the trap troupe at position 64 (R393). -/
def emptyCore : CoreSt :=
  { troupes := [(64, trapTroupe)], slotBusy := [], slotIssues := [], passed := [], symbols := [], nextSym := 0, l1 := [],
    invq := [], invMsgs := [], tlb := [], deliveries := [], service := none, supStopped := false, trapvec := 0, lost := 0,
    spillbase := 0, wdog := 0x4000, tracelost := 0, trace := restTrace, retained := [], spills := [], tileHi := [],
    tileLo := [], hiStreak := 0, nextEntry := 0, nextPark := 0 }

/-- A die at boot: MIGPOL's reset value (R459). -/
def emptyDie : DieSt :=
  { pending := [], jobs := [], nextJob := 0, inbox := [], notices := [], tlb2 := [], bbox := [],
    migpol := 0x0000010020000040, timingRepeats := 0, corrected := 0, escalations := 0, reruns := 0, scrubNear := 0, scrubFar := 0,
    scrubL2 := 0, calibrations := 0, telemetry := [], moves := 0, nextHalving := 0, paused := 0 }

def restThrottle : Throttle := { level := 0, window := 0, last := 0, nextInject := (0, 0), windowEnd := 256 }

/-! ## Accessors -/

def coreOf (s : State) (c : Nat) : CoreSt := tabGet s.cores c emptyCore
def setCore (s : State) (c : Nat) (v : CoreSt) : State := { s with cores := tabPut s.cores c v }
def modCore (s : State) (c : Nat) (f : CoreSt → CoreSt) : State := setCore s c (f (coreOf s c))
def troupeAt (s : State) (c p : Nat) : Option Troupe := tabGet? (coreOf s c).troupes p
def setTroupe (s : State) (c p : Nat) (t : Troupe) : State :=
  modCore s c fun k => { k with troupes := tabPut k.troupes p t }
def modTroupe (s : State) (c p : Nat) (f : Troupe → Troupe) : State :=
  match troupeAt s c p with
  | none => s
  | some t => setTroupe s c p (f t)
def threadOf (t : Troupe) (l : Nat) : Thread := tabGet t.threads l exitedThread
def setThread (t : Troupe) (l : Nat) (h : Thread) : Troupe := { t with threads := tabPut t.threads l h }
def modThreads (t : Troupe) (m : LaneMask) (f : Nat → Thread → Thread) : Troupe :=
  { t with threads := (maskLanes m).foldl (fun a l => tabPut a l (f l (tabGet a l exitedThread))) t.threads }
def regOf (t : Troupe) (n : Nat) : Reg := tabGet t.regs n emptyReg
def kOf (t : Troupe) (n : Nat) : Word := tabGet t.kregs n 0
def groupAt (s : State) (key : Nat) : Option Group := tabGet? s.groups key
def setGroup (s : State) (key : Nat) (g : Group) : State := { s with groups := tabPut s.groups key g }
def modGroup (s : State) (key : Nat) (f : Group → Group) : State :=
  match groupAt s key with
  | none => s
  | some g => setGroup s key (f g)
def gridAt (s : State) (ticket : Nat) : Option Grid := tabGet? s.grids ticket
def setGrid (s : State) (ticket : Nat) (g : Grid) : State := { s with grids := tabPut s.grids ticket g }
def modGrid (s : State) (ticket : Nat) (f : Grid → Grid) : State :=
  match gridAt s ticket with
  | none => s
  | some g => setGrid s ticket (f g)
def dieAt (s : State) (d : Nat) : DieSt := tabGet s.dies d emptyDie
def setDie (s : State) (d : Nat) (v : DieSt) : State := { s with dies := tabPut s.dies d v }
def modDie (s : State) (d : Nat) (f : DieSt → DieSt) : State := setDie s d (f (dieAt s d))
def coreDie (c : Nat) : Nat := c / 64
def send (s : State) (m : Message) : State := { s with outbox := s.outbox ++ [m] }

/-- The traffic class of the Ozwyn port that carries a message (R437); none for what leaves through an Ethernet port. -/
def messageClass : Message → Option Nat
  | .pageService _ _ _ => some 0
  | .data _ _ => some 2
  | .completion _ _ _ => some 2
  | .event _ _ _ _ => some 2
  | .halt _ _ _ _ _ _ => some 2
  | .telemetry _ _ _ => some 2
  | .attestation _ _ _ _ _ _ => some 5
  | .rdma _ _ _ _ _ _ _ => none
  | .rdmaAnswer _ _ _ => none

/-- What a class carries, oldest first: each class has credits of its own, so that what waits in one stalls no other (R437). -/
def classOut (s : State) (c : Nat) : List Message := s.outbox.filter fun m => messageClass m == some c

/-- A group's key: grid ticket and group index. -/
def groupKey (ticket index : Nat) : Nat := ticket * 2 ^ 64 + index

/-- Event codes of the messages to the control node (notes/assumptions/8.md). Containment and trap causes use their
own codes below 0x100. -/
def evQueue : Nat := 0x100
def evEntry : Nat := 0x101
def evStale : Nat := 0x102
def evJob : Nat := 0x103
def evTrace : Nat := 0x104
def evDump : Nat := 0x105
def evBind : Nat := 0x106
def evSave : Nat := 0x107
def evRestore : Nat := 0x108
def evRevoked : Nat := 0x109
def evQp : Nat := 0x10A
def evPower : Nat := 0x10B
def evDevice : Nat := 0x10C
def evPoison : Nat := 0x10D
def evBoot : Nat := 0x10E
def evArrivalRevoked : Nat := 0x10F

/-! ## Launch record (R61 to R64) -/

def recWord (g : Grid) (i : Nat) : Nat := (g.record.getD i 0).toNat
def recEntry (g : Grid) : Word := g.record.getD 0 0
def shapeWidth (shape i : Nat) : Nat := bits shape (7 * i + 6) (7 * i)
def shapeFields (shape : Nat) : Nat := bits shape 44 42
def shapeTroupe (shape : Nat) : Nat := bits shape 47 45
def shapeGroup (shape : Nat) : Nat := bits shape 50 48
def shapeGang (shape : Nat) : Nat := bits shape 53 51
/-- The boundary of level n in bits: the widths of the fields below it (R68). -/
def levelBits (shape n : Nat) : Nat := ((List.range n).map (shapeWidth shape)).foldl (· + ·) 0
def gridShape (g : Grid) : Nat := recWord g 1
def groupBits (g : Grid) : Nat := levelBits (gridShape g) (shapeGroup (gridShape g))
def gangBits (g : Grid) : Nat := levelBits (gridShape g) (shapeGang (gridShape g)) - groupBits g
def gangSize (g : Grid) : Nat := 2 ^ gangBits g
def troupeCount (g : Grid) : Nat := 2 ^ (groupBits g - 5)
def allotment (g : Grid) : Nat := recWord g 4
def isStage (g : Grid) : Bool := (allotment g).testBit 51
def isMinuet (g : Grid) : Bool := (allotment g).testBit 50
def isRelaunchable (g : Grid) : Bool := (allotment g).testBit 49
def priorityOf (g : Grid) : Nat := bits (allotment g) 48 46
def slotsOf (g : Grid) : Nat := bits (allotment g) 45 40
def bandsOf (g : Grid) : Nat := bits (allotment g) 39 35
def regminOf (g : Grid) : Nat := bits (allotment g) 34 22
/-- Scratchpad bytes rounded up to whole KiB (R63). -/
def scratchOf (g : Grid) : Nat := ceilDiv (bits (allotment g) 18 0) 1024 * 1024
def gridKey (g : Grid) : Nat := bits (recWord g 5) 31 16
def inherits (g : Grid) : Bool := (recWord g 5).testBit 12
def saveArea (g : Grid) : Nat := recWord g 9

/-- Registers of an inherited range (R64). -/
def inheritRange (g : Grid) : List Nat := (List.range 64).filter fun n => decide (bits (recWord g 5) 5 0 ≤ n) && decide (n ≤ bits (recWord g 5) 11 6)

/-- The grid of a group, and of a troupe. -/
def gridOfGroup (s : State) (key : Nat) : Option Grid := gridAt s (key / 2 ^ 64)
def minuetTroupe (s : State) (t : Troupe) : Bool :=
  match gridOfGroup s t.group with
  | none => false
  | some g => isMinuet g

/-! ## Memory bytes (canonical form: rising addresses, no listed zero) -/

def cellGet : List Host.Cell → Nat → Byte
  | [], _ => 0
  | (k, v) :: r, a => if k = a then v else if a < k then 0 else cellGet r a

def cellPut : List Host.Cell → Nat → Byte → List Host.Cell
  | [], a, b => if b = 0 then [] else [(a, b)]
  | (k, v) :: r, a, b =>
    if a < k then (if b = 0 then (k, v) :: r else (a, b) :: (k, v) :: r)
    else if a = k then (if b = 0 then r else (k, b) :: r)
    else (k, v) :: cellPut r a b

/-- The canonical form: addresses strictly rising, and no entry equal to what an unlisted address reads as. -/
def memoryWf : List Host.Cell → Bool
  | [] => true
  | [(_, v)] => v != 0
  | (k, v) :: (k', v') :: r => decide (k < k') && v != 0 && memoryWf ((k', v') :: r)

def cellsPut (m : List Host.Cell) (a : Nat) : List Byte → List Host.Cell
  | [] => m
  | b :: r => cellsPut (cellPut m a b) (a + 1) r

/-- The bytes behind a location, as its home holds them. -/
def rawByte (s : State) (l : Loc) (i : Nat) : Byte :=
  match l.area with
  | .device => cellGet s.mem (l.addr + i)
  | .host => cellGet s.hostMem (l.addr + i)
  | .peer => cellGet s.peerMem (l.addr + i)
  | .scratch => match groupAt s l.owner with
    | none => 0
    | some g => cellGet g.scratch (l.addr + i)
  | .lost => 0

def rawRead (s : State) (l : Loc) (n : Nat) : List Byte := (List.range n).map (rawByte s l)

def rawWrite (s : State) (l : Loc) (bs : List Byte) : State :=
  match l.area with
  | .device => { s with mem := cellsPut s.mem l.addr bs }
  | .host => { s with hostMem := cellsPut s.hostMem l.addr bs }
  | .peer => { s with peerMem := cellsPut s.peerMem l.addr bs }
  | .scratch => modGroup s l.owner fun g => { g with scratch := cellsPut g.scratch l.addr bs }
  | .lost => s

/-- A location some bytes further on. -/
def Loc.plus (l : Loc) (n : Nat) : Loc := { l with addr := l.addr + n, va := l.va + n }

/-- A location rounded down to a power of two. -/
def Loc.align (l : Loc) (n : Nat) : Loc := { l with addr := l.addr / n * n, va := l.va / n * n }

/-- One number for a location's byte address in its area; equal numbers are equal bytes. -/
def Loc.key (l : Loc) : Nat :=
  match l.area with
  | .device => l.addr
  | .host => 2 ^ 130 + l.addr
  | .peer => 2 ^ 131 + l.addr
  | .scratch => 2 ^ 132 + l.owner * 2 ^ 20 + l.addr
  | .lost => 2 ^ 134 + l.addr

/-- The number of a line: every L1 and directory is keyed by it. -/
def Loc.line (l : Loc) : Nat := l.key / 512

/-- A line number as a location at its first byte. -/
def lineLoc (line : Nat) : Loc :=
  if line * 512 < 2 ^ 130 then ⟨.device, line * 512, 0, false, 0, 0, none⟩
  else ⟨.peer, line * 512 - 2 ^ 131, 0, false, 2, 0, none⟩

/-! ## The clause in execution -/

/-- Where an instruction executes: core, position, troupe and clause. -/
structure Ctx where
  core : Nat
  pos : Nat
  t : Troupe
  cl : Clause

/-- The clause that the machine is performing. -/
def ctxOf (s : State) : Option Ctx :=
  match s.focus with
  | none => none
  | some (c, p) =>
    match troupeAt s c p with
    | none => none
    | some t =>
      match t.clause with
      | none => none
      | some cl => some ⟨c, p, t, cl⟩

/-- An instruction executes only inside a clause (R36). -/
def inClause (s : State) (k : Ctx → Out) : Out :=
  match ctxOf s with
  | none => .fault .noClause
  | some x => k x

/-- The state with the clause's record replaced. -/
def putClause (s : State) (x : Ctx) (cl : Clause) : State :=
  setTroupe s x.core x.pos { x.t with clause := some cl }

/-- The clause after n instruction words. -/
def stepped (cl : Clause) (n : Nat) : Clause := { cl with cursor := cl.cursor + n, dead := 0 }

/-- Records the clause's new record and moves past the instruction. -/
def done (s : State) (x : Ctx) (n : Nat) (cl : Clause) : Out := .next (putClause s x (stepped cl n))

/-- Lanes that take part: active, and with no faulted operand consumed (R155). -/
def Ctx.live (x : Ctx) : LaneMask := x.cl.active &&& ~~~x.cl.dead

/-- Address of the instruction's first word (R392). -/
def Ctx.instrAddr (x : Ctx) : Word := x.cl.head + word (4 * (1 + x.cl.cursor))

/-- The words of the instruction at the cursor. -/
def wordsHere (cl : Clause) : Nat := opWords (bits (cl.words.getD cl.cursor 0) 31 25)

/-- The next clause in sequence (R19). -/
def nextHead (cl : Clause) : Word :=
  cl.head + word (4 * (1 + cl.hdr.count + (if cl.hdr.trailer then 1 else 0)))

/-- The instruction waits: the clause stays where it is, and the part goes on with other moves until the clause is
taken up again (R30, R94). -/
def waitHere (s : State) : Out := .next { s with focus := none }

/-- The reason of a GANG_KILL that goes on with a kill already begun (R36). -/
def goOnKill : Nat := 2 ^ 80

/-- A gang whose kill waited for its running clauses dies at the end of the last (R36). -/
def clauseOver (s : State) (key : Nat) : State :=
  match gridOfGroup s key with
  | none => s
  | some g =>
    let gang := key % 2 ^ 64 / gangSize g
    match tabGet? g.dying gang with
    | some _ => { s with agenda := .gangKill (key / 2 ^ 64) gang goOnKill :: s.agenda }
    | none => s

/-- Whether a troupe position is the trap troupe (R393). -/
def isSup (pos : Nat) : Bool := pos = 64

/-- A clause whose start conditions do not hold has no effect; the slot tries its next candidate (R29, R92). Uses found blocking
stay noted (R147). -/
def notStarted (s : State) (x : Ctx) : State :=
  let s := modTroupe s x.core x.pos fun t => { t with clause := none, blocked := x.t.blocked }
  let s := modCore s x.core fun k =>
    { k with passed := k.passed ++ [(x.pos, (lowLane x.cl.subset).getD 0)] }
  clauseOver { s with focus := none, agenda := .clauseStart x.core x.cl.slot :: s.agenda } x.t.group

/-- No stop site (R440). -/
def noOrdinal : Nat := 2 ^ 32 - 1

/-- Appends a record to a die's black box (R450): the layout of R446; the kind byte of an event that R446 does not number
is free. -/
def blackBox (s : State) (die core kind group : Nat) (payload : Nat) : State :=
  let k : List Byte := if kind = 4 then [4] else [Config.racyByte s.moves 8]
  let r := leBytes 8 s.cycle ++ k ++ leBytes 1 0 ++ leBytes 2 core ++ leBytes 4 noOrdinal ++ leBytes 8 group ++ leBytes 8 payload
  modDie s die fun d => { d with bbox := (d.bbox ++ [r]).drop (d.bbox.length + 1 - 2048) }

/-! ## Taking an exception -/

/-- Queues a delivery (R395): notices only while the 64-entry queue has room. -/
def raiseDelivery (s : State) (core : Nat) (d : Delivery) : State :=
  modCore s core fun k =>
    if d.kind = .notice && (k.deliveries.filter (fun e => e.kind == .notice)).length ≥ 64 then
      { k with lost := min 0xFFFF (k.lost + 1) }
    else { k with deliveries := k.deliveries ++ [d] }

/-- A notice (R394): it names no lane. -/
def notice (s : State) (core cause : Nat) (addr : Word) (key : Nat) : State :=
  raiseDelivery s core
    { kind := .notice, cause, addr, lanes := 0, pcs := [], subset := 0, pos := 0, group := 0, tidx := 0, key, void := false, syms := [] }

/-- The key of the grid a troupe belongs to. -/
def troupeKey (s : State) (t : Troupe) : Nat := ((gridOfGroup s t.group).map gridKey).getD 0

/-- The delivery of a trap of a troupe, with the lanes that raised it and their resume addresses (R394, R396). -/
def deliveryOf (s : State) (kind : DKind) (cause : Nat) (addr : Word) (lanes subset : LaneMask) (pcs : Lanes)
    (pos : Nat) (t : Troupe) (syms : List Nat) : Delivery :=
  { kind, cause, addr, lanes, pcs, subset, pos, group := t.group, tidx := t.tidx, key := troupeKey s t,
    void := false, syms }

/-- The supervisor's own trap (R397): its clause is squashed, the trap troupe stops, an event goes out. -/
def supervisorFault (s : State) (core cause : Nat) (addr : Word) : State :=
  let s := modTroupe s core 64 fun t => { t with clause := none }
  let s := modCore s core fun k => { k with supStopped := true, passed := [] }
  let s := blackBox s (coreDie core) core 4 0 0x45
  send { s with focus := none } (.event 0x45 core cause addr.toNat)

/-- A trap and a spill fault end the troupe's naps (R115). -/
def endNaps (t : Troupe) : Troupe :=
  { t with threads := tabMap t.threads fun _ h => match h.st with | .napping _ => { h with st := .runnable } | _ => h }

/-- TAKING AN EXCEPTION. A troupe delivery: the suspended lanes and their addresses are saved in the delivery, the
troupe issues nothing until `tret`, its naps end (R115), and the trap troupe will start at TRAPVEC (R393 to R396). -/
def takeTrap (s : State) (core pos cause : Nat) (addr : Word) (lanes subset : LaneMask) (pcs : Lanes)
    (syms : List Nat) : State :=
  if isSup pos then supervisorFault s core cause addr
  else
    match troupeAt s core pos with
    | none => s
    | some t =>
      let s := raiseDelivery s core (deliveryOf s .troupe cause addr lanes subset pcs pos t syms)
      setTroupe s core pos { endNaps t with suspended := true }

/-- The store-buffer entries a squashed clause made are discarded (R33). -/
def dropTaken (t : Troupe) (cl : Clause) : Troupe :=
  { t with sb := t.sb.filter fun e => !cl.entries.contains e.id || decide (e.committed < cl.started) }

/-- A squash (R33): nothing of the clause commits, the entries it took return, every lane of the issuing subset stays at the clause
head; the trap is taken. DESIGN CHOICE (notes/assumptions/43.md): what a tile clause has done to cells and slots by then, an `acc.wr` or a
`slot.claim` before the trapping word, stands; R33's list does not name them. -/
def squash (s : State) (x : Ctx) (cause : Nat) (addr : Word) (lanes : LaneMask) (syms : List Nat) : State :=
  let s := modTroupe s x.core x.pos fun t => { dropTaken t x.cl with clause := none }
  let s := modCore s x.core fun k =>
    { k with passed := [], symbols := k.symbols.filter fun e => !x.cl.symbols.contains e.1 }
  takeTrap (clauseOver { s with focus := none } x.t.group) x.core x.pos cause addr lanes x.cl.subset (mkLanes fun _ => x.cl.head) syms

/-- The choice among the squashing conditions of a clause (R35): the earliest instruction's, its lowest cause, and of that the lowest
lane's address (R392). -/
def chooseTrap (old : Option Raised) (r : Raised) : Raised :=
  match old with
  | none => r
  | some o =>
    if o.cursor ≠ r.cursor || o.cause < r.cause then o
    else if r.cause < o.cause then r
    else { o with lanes := o.lanes ||| r.lanes, syms := distinct (o.syms ++ r.syms)
                  addr := if (lowLane r.lanes).getD 32 < (lowLane o.lanes).getD 32 then r.addr else o.addr }

/-- Keeps a squashing condition until the clause's start conditions are known to hold (R29, R30). -/
def keepTrap (cl : Clause) (r : Raised) : Clause := { cl with trap := some (chooseTrap cl.trap r) }

/-- An instruction's squashing condition: kept while the clause is checked, later taken at once. -/
def raiseTrap (s : State) (x : Ctx) (cause : Nat) (addr : Word) (lanes : LaneMask) : Out :=
  if x.cl.phase = .check then done s x (wordsHere x.cl) (keepTrap x.cl ⟨x.cl.cursor, cause, addr, lanes, []⟩)
  else .next (squash s x cause addr lanes [])

/-- One lane's failed check: lane, cause, address reported. -/
abbrev Failure := Nat × Nat × Word

/-- Causes that split a clause instead of squashing it (R34). -/
def splits (cause : Nat) : Bool := cause = 0x10 || cause = 0x16

/-- The page a failing access would reach (R379): spaces 0x0 and 0x1 name one page alike, and a private pointer is reported as the
space 0x0 address it maps to (R386). -/
def pageOf (a : Word) : Nat := bits a.toNat 51 0 / 65536

/-- The address a park delivery reports (R35 item 3): the lowest lane's at the earliest instruction that raised 0x10. -/
def lowerPark (old new : Option (Nat × Nat × Word)) : Option (Nat × Nat × Word) :=
  match old, new with
  | some o, some n => if n.1 = o.1 && n.2.1 < o.2.1 then some n else some o
  | some o, none => some o
  | none, n => n

/-- Records the lanes that will park and their missing pages (R35 item 3): 64 KiB page numbers. -/
def notePark (cl : Clause) (fs : List Failure) (remote : LaneMask) (syms : List Nat) : Clause :=
  let lanes := maskOf fun l => fs.any fun f => f.1 == l
  let ten := fs.filter fun f => f.2.1 == 0x10
  { cl with
    parkLanes := cl.parkLanes ||| lanes
    parkPages := cl.parkPages ++ (fs.map fun f => (f.1, pageOf f.2.2)).filter fun e => !cl.parkPages.contains e
    parkTrap := cl.parkTrap ||| maskOf fun l => ten.any fun f => f.1 == l
    parkAddr := lowerPark cl.parkAddr (ten.head?.map fun f => (cl.cursor, f.1, f.2.2))
    parkRemote := cl.parkRemote ||| (remote &&& lanes)
    parkSyms := distinct (cl.parkSyms ++ syms) }

/-- Settles the failures of one instruction's translate phase, given in ascending lane order (R35): the lowest squashing cause is
raised; 0x10 and 0x16 are recorded; the check goes on with the other lanes. -/
def settle (s : State) (x : Ctx) (fs : List Failure) (remote : LaneMask) (syms : List Nat) (k : State → Ctx → Out) : Out :=
  let go (cl : Clause) : Out := k (putClause s x cl) { x with t := { x.t with clause := some cl }, cl }
  match fs.filter fun f => !splits f.2.1 with
  | [] => if fs.isEmpty then k s x else go (notePark x.cl fs remote syms)
  | f :: r =>
    let cause := r.foldl (fun c g => min c g.2.1) f.2.1
    let mine := (f :: r).filter fun g => g.2.1 == cause
    let addr := (mine.head?.map fun g => g.2.2).getD 0
    let lanes := maskOf fun l => mine.any fun g => g.1 == l
    if x.cl.phase = .check then
      go (keepTrap (notePark x.cl (fs.filter fun f => splits f.2.1) remote syms) ⟨x.cl.cursor, cause, addr, lanes, syms⟩)
    else .next (squash s x cause addr lanes syms)

/-- A trap every active lane raises at this instruction; with none it is not raised (R22). -/
def trapAll (s : State) (x : Ctx) (cause : Nat) (addr : Word) : Out :=
  if x.live = 0 then done s x (wordsHere x.cl) x.cl else raiseTrap s x cause addr x.live

/-! ## Symbols of a troupe -/

def symbolAt (s : State) (core id : Nat) : Option Symbol := tabGet? (coreOf s core).symbols id
def setSymbol (s : State) (core id : Nat) (y : Symbol) : State :=
  modCore s core fun k => { k with symbols := tabPut k.symbols id y }

/-- The lanes of a register that wait for its symbol (R139). -/
def pendMask (r : Reg) : LaneMask :=
  if r.entry = .pending then
    (if r.chain.isEmpty then maskOf fun l => laneOf r.scale l != 0 else r.pend)
  else 0

/-- Lanes of a pending register whose symbol is faulted (R154). -/
def faultedIn (s : State) (core : Nat) (r : Reg) : LaneMask :=
  match symbolAt s core r.sym with
  | none => 0
  | some y => pendMask r &&& y.faulted

/-- Lanes whose threads have not exited. -/
def liveLanes (t : Troupe) : LaneMask := maskOf fun l => (threadOf t l).st != .exited

/-- Whether a batch still has an incomplete item or a pending named register (R28): lanes that have exited need no arrival (R158), and
faulted ones are complete (R154). A sent entry that a save left to the arbiter is still an item (R366). -/
def batchOpen (s : State) (core : Nat) (t : Troupe) (b : Batch) : Bool :=
  b.symbols.any (fun i => match symbolAt s core i with
    | none => false
    | some y => y.lanes &&& liveLanes t &&& ~~~y.arrived &&& ~~~y.faulted != 0) ||
  b.entries.any (fun i => (t.sb.any fun e => e.id == i) ||
    (tabGet s.remote (t.group * 32 + t.tidx) []).any fun e => e.id == i) ||
  b.regs.any fun n => n < 64 && pendMask (regOf t n) &&& ~~~faultedIn s core (regOf t n) != 0

/-- Incomplete batches of a track. -/
def openBatches (s : State) (core : Nat) (t : Troupe) (track : Nat) : List Batch :=
  (tabGet t.tracks track []).filter (batchOpen s core t)

/-- Complete batches leave their tracks (R28): what becomes pending later opens none of them again. -/
def closeBatches (s : State) (core : Nat) (t : Troupe) : Troupe :=
  { t with tracks := (List.range 6).map fun k => (k, openBatches s core t k) }

/-- The faulted symbols a set depends on, themselves included (R156). -/
def faultClosure (s : State) (core : Nat) : Nat → List Nat → List Nat
  | 0, ids => ids
  | fuel + 1, ids =>
    let more := ids.filterMap fun i => (symbolAt s core i).bind fun y => if y.faulted = 0 then none else y.dep
    faultClosure s core fuel (distinct (ids ++ more))

/-- Reissues the faulted lanes of the deferred loads a clause depends on (R156): they are pending again. Batches that were complete have
left their tracks. -/
def reissue (s : State) (core : Nat) (ids : List Nat) (lanes : LaneMask) : State :=
  let s := modCore s core fun k => { k with troupes := tabMap k.troupes fun _ t => closeBatches s core t }
  (faultClosure s core 32 ids).foldl (fun s i =>
    match symbolAt s core i with
    | none => s
    | some y =>
      let back := y.faulted &&& lanes
      setSymbol s core i { y with
        faulted := y.faulted &&& ~~~back
        causes := y.causes.filter fun e => !back.getLsbD e.1
        locs := if y.kind = .image then y.locs else y.locs.filter fun e => !back.getLsbD e.1 }) s

/-! ## Returning from an exception -/

/-- What ends a service (R395): the next delivery begins with the next clause. -/
def endService (s : State) (core : Nat) : State :=
  modCore (modTroupe s core 64 fun t => modThreads t (-1) fun _ h => { h with st := .exited }) core fun k => { k with service := none }

/-- Each lane of the suspended subset becomes runnable at its target (R408). -/
def resumeLanes (t : Troupe) (subset : LaneMask) (targets : Lanes) : Troupe :=
  modThreads { t with suspended := false } subset fun l h =>
    if h.st = .exited then h else { h with st := .runnable, pc := laneOf targets l, seen := h.seen && h.pc == laneOf targets l }

/-- Another troupe or spill delivery of a delivery's troupe waits: the troupe stays suspended (R395). -/
def heldAgain (s : State) (core : Nat) (d : Delivery) : Bool :=
  (coreOf s core).deliveries.any fun e => (e.kind == .troupe || e.kind == .spill) && e.pos == d.pos && e.group == d.group

/-- RETURN FROM EXCEPTION (R408): a troupe service resumes its subset at TRAPPC or at the supervisor's addresses; a
spill service retries the move; park and notice services only end. A void delivery acts on nothing (R398). -/
def returnFromTrap (s : State) (core : Nat) (targets : Option Lanes) : State :=
  match (coreOf s core).service with
  | none => s
  | some d =>
    let s :=
      if d.void then s
      else match d.kind with
        | .troupe =>
          reissue (modTroupe s core d.pos fun t => { resumeLanes t d.subset (targets.getD d.pcs) with suspended := heldAgain s core d })
            core d.syms (d.subset ||| d.lanes)
        | .spill => modTroupe s core d.pos fun t => { t with suspended := heldAgain s core d }
        | _ => s
    endService s core

end Sys2Proof.Machine
end

