-- ==== Sys2Proof/Machine/Cache.lean ====
section
/-!
DEFINITION. L2 slices and L1 lines, deferred invalidation, update-only lines and accesses at a home slice (R327 to R346, R356,
R358, R361, R369, R483). The level-two slices and the memories behind them hold one value for each byte, the home
value; the model keeps it in the memory lists.
-/

namespace Sys2Proof.Machine

/-! ## Lines -/

def lineAt (s : State) (core line : Nat) : Option Line := tabGet? (coreOf s core).l1 line
def setLine (s : State) (core line : Nat) (n : Line) : State :=
  modCore s core fun k => { k with l1 := tabTouch (tabPut k.l1 line n) line }

/-- Drops a line; its queued invalidation is discarded (R332). -/
def dropLine (s : State) (core line : Nat) : State :=
  modCore s core fun k => { k with l1 := tabDel k.l1 line, invq := k.invq.filter fun e => e.line != line }

def emptyLine (st : LineState) (va : Nat) : Line := { st, valid := 0, dirty := 0, touched := 0, data := [], va }

/-- The sectors of a mask. -/
def sectors (m : BitVec 8) : List Nat := (List.range 8).filter fun i => m.getLsbD i

def sectorBit (i : Nat) : BitVec 8 := BitVec.ofNat 8 (1 <<< i)

/-- Bytes of a line's data from an offset. -/
def lineBytes (n : Line) (off len : Nat) : List Byte := (List.range len).map fun i => tabGet n.data (off + i) 0

def putBytes (d : Tab Byte) (off : Nat) : List Byte → Tab Byte
  | [] => d
  | b :: r => putBytes (tabPut d off b) (off + 1) r

/-- A write that covers whole sectors ends their poison (R454). -/
def clearPoison (s : State) (l : Loc) (len : Nat) : State :=
  { s with poison := s.poison.filter fun p => !(decide (l.key ≤ p * 64) && decide (p * 64 + 64 ≤ l.key + len)) }

def poisoned (s : State) (l : Loc) (len : Nat) : Bool :=
  (List.range (len / 64 + 2)).any fun i =>
    let p := l.key / 64 + i
    decide (p * 64 < l.key + len) && s.poison.contains p

/-! ## L2 slices (R10, R325, R328 to R330) -/

/-- The local number of a line's slice (R329). -/
def sliceOf (line : Nat) : Nat :=
  let pa := line * 512
  bits pa 12 9 ^^^ bits pa 16 13 ^^^ bits pa 20 17 ^^^ bits pa 24 21

/-- The die of a location's home (R329, R383); scratchpad: the owning core's; of a peer's line this package is not the home. -/
def homeDie (s : State) (l : Loc) : Nat :=
  match l.area with
  | .device => if l.addr < 2 ^ 38 then l.addr / 2 ^ 36 else l.addr / 2 ^ 13 % 4
  | .scratch => ((groupAt s l.owner).map fun g => coreDie g.core).getD 0
  | _ => 0

/-- The slice and set of a line: PA[22:13] within its slice (R329). -/
def l2Set (line : Nat) : Nat := sliceOf line * 1024 + line / 16 % 1024

def l2At (s : State) (die line : Nat) : Option L2Line := (dieAt s die).l2.find? fun e => e.line == line

/-- A die's slice gives up a line; of a die that holds none nothing changes. -/
def l2Drop (s : State) (die line : Nat) : State :=
  if (l2At s die line).isNone then s else modDie s die fun d => { d with l2 := d.l2.filter fun e => e.line != line }

/-- No die's slice holds a line as S, E or M. -/
def l2DropAll (s : State) (line : Nat) : State := (List.range 4).foldl (fun s d => l2Drop s d line) s

/-- The state of a line in a die's slices, for its die as a whole (R330). -/
def l2Mark (s : State) (die line : Nat) (st : L2State) : State :=
  if ((l2At s die line).map fun e => e.st == st).getD true then s
  else modDie s die fun d => { d with l2 := d.l2.map fun e => if e.line = line then { e with st } else e }

/-- Update-only lines of a set, the most recently used first (R328). -/
def l2Updates (s : State) (die line : Nat) : List Nat :=
  (s.sliceU.filter fun e => e.1 % 4 == die && l2Set (e.1 / 4) == l2Set line).map fun e => e.1 / 4

/-- Dies other than one whose slices hold a line. -/
def otherSlices (s : State) (die line : Nat) : List Nat := (List.range 4).filter fun d => d != die && (l2At s d line).isSome

/-- A full set gives up its least recently used line that is not update-only, one that space 0x1 allocated before the others
(R325, R328). -/
def l2Spare (s : State) (die line : Nat) : State :=
  let mates := (dieAt s die).l2.filter fun e => l2Set e.line == l2Set line
  if mates.length + (l2Updates s die line).length < 12 then s
  else match ((mates.filter fun e => e.first).getLast?).or mates.getLast? with
    | some e => l2Drop s die e.line
    | none => s

/-! ## Holders -/

/-- Writes the dirty sectors to the home (R327). -/
def writeBack (s : State) (core line : Nat) : State :=
  match lineAt s core line with
  | none => s
  | some n =>
    let s := (sectors n.dirty).foldl (fun s i => rawWrite s ((lineLoc line).plus (64 * i)) (lineBytes n (64 * i) 64)) s
    let s := if n.dirty = 0 then s else l2Mark s (coreDie core) line .e
    modCore s core fun k => { k with l1 := tabPut k.l1 line { n with dirty := 0 } }

/-- A holder writes back its dirty sectors and keeps the line in a state (R353, R483). -/
def demote (s : State) (core line : Nat) (st : LineState) : State :=
  match lineAt (writeBack s core line) core line with
  | none => s
  | some n => modCore (writeBack s core line) core fun k => { k with l1 := tabPut k.l1 line { n with st } }

/-- A holder writes back and gives up the line (R331). -/
def giveUp (s : State) (core line : Nat) : State := dropLine (writeBack s core line) core line

/-- Cores that hold a line in a state that satisfies a test, ascending. -/
def holders (s : State) (line : Nat) (p : LineState → Bool) : List Nat :=
  (List.range 256).filter fun c =>
    match tabGet? s.cores c with
    | none => false
    | some k => match tabGet? k.l1 line with
      | none => false
      | some n => p n.st

def isOwned (st : LineState) : Bool := st == .e || st == .m
def isU (st : LineState) : Bool := match st with | .u _ _ => true | _ => false
def isShared (st : LineState) : Bool := st == .s

/-! ## Invalidation (R331, R332, R361, R369) -/

def queuedInval (s : State) (core line : Nat) : Bool := (coreOf s core).invq.any fun e => e.line == line

/-- Applies queued invalidations of some lines: each S line becomes I. -/
def applyInvals (s : State) (core : Nat) (p : Inval → Bool) : State :=
  modCore s core fun k =>
    let hit := (k.invq.filter p).map Inval.line
    { k with invq := k.invq.filter fun e => !p e,
             l1 := k.l1.filter fun e => !(hit.contains e.1 && isShared e.2.st) }

/-- Before the core's own access to a line (R332). -/
def applyOwn (s : State) (core line : Nat) : State := applyInvals s core fun e => e.line == line

/-- A pointer as a sync object: space 0x1 is space 0x0 (R360, R368). -/
def objectKey (p : Word) : Nat := if bits p.toNat 63 60 = 1 then p.toNat % 2 ^ 60 else p.toNat

/-- An acquire wider than group (R361): entries tagged with its objects, and general ones. -/
def acquireApply (s : State) (core scope : Nat) (objects : List Nat) : State :=
  if scope = 0 then s
  else applyInvals s core fun e => match e.mark with
    | .tagged o => objects.contains o
    | .general => true
    | .unbound => false

/-- Grids with a group resident on a core. -/
def residentGrids (s : State) (core : Nat) : List Nat :=
  distinct ((s.groups.filter fun e => e.2.core == core).map fun e => e.2.ticket)

/-- Whether a binding's region covers a virtual line of space 0x0 (R298, R368). -/
def regionCovers (region : Word) (va : Nat) : Bool :=
  let r := region.toNat
  bits r 63 60 == 0 && bits r 59 44 != 0 && decide (bits r 42 0 ≤ va / 512) && decide (va / 512 < bits r 42 0 + bits r 59 44)

/-- The mark of an invalidation entering a core's queue (R369). -/
def markFor (s : State) (core va : Nat) : Mark :=
  let bs := (residentGrids s core).flatMap fun t => match gridAt s t with
    | none => []
    | some g => (g.bindings.filter fun e => bits e.2.1.toNat 59 44 != 0).map fun e => e.2
  if bs.length > 512 then .general
  else
    match distinct ((bs.filter fun b => regionCovers b.1 va).map fun b => objectKey b.2) with
    | [] => .unbound
    | [o] => .tagged o
    | _ => .general

/-- An L1 receives an invalidation (R331): an S line's is queued, after all others are applied when the queue is full;
an E or M line is given up at once. -/
def receiveInval (s : State) (core line : Nat) : State :=
  match lineAt s core line with
  | none => s
  | some n =>
    if isShared n.st then
      if queuedInval s core line then s
      else
        let s := if (coreOf s core).invq.length ≥ 256 then applyInvals s core fun _ => true else s
        modCore s core fun k =>
          if (tabGet? k.l1 line).isNone then k
          else { k with invq := k.invq ++ [{ line, mark := markFor s core n.va, at_ := s.cycle }] }
    else if isOwned n.st then giveUp s core line
    else s

/-- Cores other than one that hold a line in S with no invalidation queued. -/
def freshSharers (s : State) (self line : Nat) : List Nat :=
  (holders s line isShared).filter fun c => c != self && !queuedInval s c line

/-- Sends invalidations to the other S holders (R331). -/
def postInvals (s : State) (self line : Nat) : State :=
  (freshSharers s self line).foldl (fun s c =>
    modCore s c fun k => if k.invMsgs.contains line then k else { k with invMsgs := k.invMsgs ++ [line] }) s

/-- The other S holders receive an invalidation, and acknowledge it at once, before a write is taken (R331). -/
def expelSharers (s : State) (self line : Nat) : State :=
  (freshSharers s self line).foldl (fun s c => receiveInval s c line) s

/-! ## Update-only lines -/

/-- Element width of a type code (R49). -/
def typeWidth (ty : Nat) : Nat :=
  if ty < 12 then 8 * 2 ^ (ty % 4) else if ty = 12 then 64 else if ty = 13 then 32 else if ty < 16 then 16 else 8

/-- U operators: 0 add, 1 min, 2 max, 3 or, 4 acc. The identity of a pair (R334). -/
def uIdentity (op ty : Nat) : Nat :=
  let w := typeWidth ty
  let f := if ty = 12 then fmtOf 0 else fmtOf 1
  if op = 1 then (if ty ≥ 12 then f.infMag else if ty < 4 then 2 ^ (w - 1) - 1 else 2 ^ w - 1)
  else if op = 2 then (if ty ≥ 12 then f.signBit true + f.infMag else if ty < 4 then 2 ^ (w - 1) else 0)
  else 0

/-- `merge(op, a, b)` (R335). -/
def mergeElem (op ty a b : Nat) : Nat :=
  let w := typeWidth ty
  let f := if ty = 12 then fmtOf 0 else fmtOf 1
  if op = 3 then a ||| b
  else if ty ≥ 12 then mergeFloat f (if op = 4 then 0 else op) a b
  else if op = 0 then (a + b) % 2 ^ w
  else if ty < 4 then
    if op = 1 then (if toSigned w b < toSigned w a then b else a) else (if toSigned w a < toSigned w b then b else a)
  else if op = 1 then min a b else max a b

/-- An element of a U copy; bytes not written hold identity (R336). -/
def uElem (op ty : Nat) (n : Line) (off : Nat) : Nat :=
  let w := typeWidth ty / 8
  leNat ((List.range w).map fun i => tabGet n.data (off + i) (BitVec.ofNat 8 (uIdentity op ty / 256 ^ i)))

/-- Merges an incoming copy's touched sectors into a copy (R339, R340). -/
def mergeCopy (op ty : Nat) (acc inc : Line) : Line :=
  let w := typeWidth ty / 8
  (sectors inc.touched).foldl (fun acc sec =>
    (List.range (64 / w)).foldl (fun acc i =>
      let off := 64 * sec + w * i
      { acc with data := putBytes acc.data off (leBytes w (mergeElem op ty (uElem op ty acc off) (uElem op ty inc off))) })
      { acc with touched := acc.touched ||| sectorBit sec }) acc

/-- Merges a copy's touched sectors into the home value (R339, R341). -/
def mergeHome (s : State) (line op ty : Nat) (inc : Line) : State :=
  let w := typeWidth ty / 8
  (sectors inc.touched).foldl (fun s sec =>
    (List.range (64 / w)).foldl (fun s i =>
      let off := 64 * sec + w * i
      let l := (lineLoc line).plus off
      rawWrite s l (leBytes w (mergeElem op ty (leNat (rawRead s l w)) (uElem op ty inc off)))) s) s

/-- The pair of a line in U anywhere in the package. -/
def uPair (s : State) (line : Nat) : Option (Nat × Nat) :=
  let inCores := (holders s line isU).head?.bind fun c => (lineAt s c line).bind fun n =>
    match n.st with | .u op ty => some (op, ty) | _ => none
  match inCores with
  | some p => some p
  | none =>
    match (List.range 4).findSome? fun d => (tabGet? s.sliceU (line * 4 + d)).bind fun n =>
      match n.st with | .u op ty => some (op, ty) | _ => none with
    | some p => some p
    | none => ((s.zethes.partials.find? fun e => e.line == line).map fun e => (e.op, e.ty)).or
        (s.zethes.peers.findSome? fun e => if e.line = line then e.pair else none)

/-- A line is in U anywhere, a copy whose merge is still to be acknowledged among them (R330, R340). -/
def uAnywhere (s : State) (line : Nat) : Bool :=
  (uPair s line).isSome || !(holders s line fun st => match st with | .evicting _ _ => true | _ => false).isEmpty

/-- A collapse of a line waits: a peer package holds copies whose partial has not come (R344, R346). -/
def collapseWaits (s : State) (line : Nat) : Bool :=
  s.zethes.peers.any fun m => m.line == line && m.pair.isSome && !s.zethes.partials.any fun p => p.line == line && p.pkg == m.pkg

/-- The die's copies merged: the slice's, then the cores' in ascending order (R339). -/
def diePartial (s : State) (line op ty d : Nat) : Option Line :=
  let cores := (holders s line isU).filter fun c => coreDie c == d
  cores.foldl (fun acc c =>
    match lineAt s c line with
    | none => acc
    | some n => match acc with
      | none => some n
      | some a => some (mergeCopy op ty a n)) (tabGet? s.sliceU (line * 4 + d))

/-- This package's partial: its dies in ascending order (R339). -/
def packagePartial (s : State) (line op ty : Nat) : Option Line :=
  (List.range 4).foldl (fun acc d =>
    match acc, diePartial s line op ty d with
    | none, p => p
    | some a, none => some a
    | some a, some b => some (mergeCopy op ty a b)) none

/-- An L1 starts evicting a U copy: its touched sectors go to the home-path slice (R340). -/
def evictU (s : State) (core line : Nat) : State :=
  match lineAt s core line with
  | none => s
  | some n => match n.st with
    | .u op ty =>
      let s := modCore s core fun k => { k with l1 := tabPut k.l1 line { n with st := .evicting op ty } }
      { s with merges := s.merges ++ [(core, line)] }
    | _ => s

/-- The slice merges an eviction message into its copy and acknowledges; the L1 gives the line up (R340). -/
def mergeEviction (s : State) (core line : Nat) : State :=
  match lineAt s core line with
  | none => s
  | some n => match n.st with
    | .evicting op ty =>
      let key := line * 4 + coreDie core
      let slice := (tabGet? s.sliceU key).getD { emptyLine (.u op ty) n.va with key := n.key }
      let s := if (tabGet? s.sliceU key).isSome then s else l2Spare (l2Drop s (coreDie core) line) (coreDie core) line
      let s := { s with sliceU := tabTouch (tabPut s.sliceU key (mergeCopy op ty slice { n with st := .u op ty })) key,
                        merges := s.merges.filter fun e => e != (core, line),
                        fabric := { s.fabric with mergeSlots := s.fabric.mergeSlots.filter fun e => !(e.1 == core && e.2.1 == line) } }
      dropLine s core line
    | _ => s

def isEvicting (st : LineState) : Bool := match st with | .evicting _ _ => true | _ => false

/-- A collapse waits for the acknowledgement of an evicting copy (R340): the slice has merged it by then. -/
def settleEvicting (s : State) (line : Nat) : State :=
  (holders s line isEvicting).foldl (fun s c => mergeEviction s c line) s

/-- Folds every copy into the home value in the order of R339, peers' partials at their package numbers, and removes
the copies. What needs the collapsed value waits beforehand for the partials of peers (`collapseWaits`). -/
def collapseLine (s : State) (line : Nat) : State :=
  let s := settleEvicting s line
  match uPair s line with
  | none => s
  | some (op, ty) =>
    let own := match packagePartial s line op ty with
      | none => []
      | some p => [(Config.package, p)]
    let peers := (s.zethes.partials.filter fun e => e.line == line).map fun e =>
      (e.pkg, { emptyLine (.u e.op e.ty) 0 with data := e.data, touched := e.touched })
    let all := (own ++ peers).mergeSort fun a b => decide (a.1 ≤ b.1)
    let s := all.foldl (fun s e => match e.2.st with | .u o y => mergeHome s line o y e.2 | _ => s) s
    let s := (holders s line isU).foldl (fun s c => dropLine s c line) s
    { s with sliceU := s.sliceU.filter fun e => e.1 / 4 != line,
             zethes := { s.zethes with
               partials := s.zethes.partials.filter fun e => e.line != line
               peers := s.zethes.peers.filter fun m => !(m.line == line && m.pair.isSome && peers.any fun p => p.1 == m.pkg) } }

/-- A slice gives up its update-only copy: the home slice collapses the line, another merges its copy into the home value (R341). -/
def releaseSlice (s : State) (die line : Nat) : State :=
  match tabGet? s.sliceU (line * 4 + die) with
  | none => s
  | some n => match n.st with
    | .u op ty =>
      if (lineLoc line).area = .device ∧ homeDie s (lineLoc line) = die then collapseLine s line
      else { mergeHome s line op ty n with sliceU := tabDel s.sliceU (line * 4 + die) }
    | _ => s

/-- A slice's copy of a line may go: a home slice waits for the partials of peers first (R341, R344). -/
def mayRelease (s : State) (die line : Nat) : Bool :=
  !(((lineLoc line).area == .device && homeDie s (lineLoc line) == die) && collapseWaits s line)

/-- Room in a set of twelve ways; an update-only line, the least recently used, leaves only where all twelve are (R328). -/
def l2Room (s : State) (die line : Nat) : State :=
  let us := l2Updates s die line
  if us.length < 12 then l2Spare s die line
  else match us.getLast? with
    | some u => if mayRelease s die u then releaseSlice s die u else s
    | none => s

/-- A line that a die's slice does not hold must wait for a way: all twelve are update-only, and the one to leave waits for partials of
peers (R328, R341, R344). -/
def l2Waits (s : State) (die line : Nat) : Bool :=
  let us := l2Updates s die line
  decide (12 ≤ us.length) && (l2At s die line).isNone && (tabGet? s.sliceU (line * 4 + die)).isNone &&
    !((us.getLast?.map (mayRelease s die)).getD true)

/-- The acknowledgement of an eviction (R340) of a die whose set has twelve update-only lines: one leaves first (R328). -/
def ackEviction (s : State) (core line : Nat) : State :=
  let die := coreDie core
  mergeEviction (if (tabGet? s.sliceU (line * 4 + die)).isNone && decide (12 ≤ (l2Updates s die line).length) then l2Room s die line else s) core line

/-- An L2 miss is counted; of every 64th the page is noted for its access counter (R458). -/
def countMiss (s : State) (line : Nat) : State :=
  let n := s.l2misses + 1
  { s with l2misses := n, missPages := if n % 64 = 0 && (lineLoc line).area == .device then s.missPages ++ [line * 512 / 65536] else s.missPages }

/-- A request of a die's L1s at its home-path slice, or at the home slice: a hit is most recently used, a miss is counted and
allocates; a write leaves no other die's slice the line, a read leaves theirs S (R329, R330). -/
def l2Take (s : State) (die line : Nat) (write first : Bool) : State :=
  let others := otherSlices s die line
  let s := others.foldl (fun s d => if write then l2Drop s d line
    else modDie s d fun k => { k with l2 := k.l2.map fun e => if e.line = line then { e with st := .s } else e }) s
  let put (s : State) (e : L2Line) : State := modDie s die fun k => { k with l2 := e :: k.l2.filter fun q => q.line != line }
  match l2At s die line with
  | some e => put s { e with st := if write then .m else if others.isEmpty then e.st else .s }
  | none =>
    let s := l2Room (countMiss s line) die line
    if (l2Updates s die line).length ≥ 12 then s else put s { line, st := if write then .m else if others.isEmpty then .e else .s, first }

/-- An access that is performed at a device line's home slice, which does not allocate a non-cacheable page's line (R325, R326). -/
def l2Home (s : State) (l : Loc) (write : Bool) : State :=
  if l.area != .device then s
  else if l.uncached && (l.space != 1 || l.owner == 1) then (if write then l2DropAll s l.line else s)
  else l2Take s (homeDie s l) l.line write (l.space == 1)

/-- Room for one more line in a set: the least recently used line that is not update-only leaves; failing that the
least recently used U copy (R328). -/
def makeRoom (s : State) (core line : Nat) : State :=
  let set := (coreOf s core).l1.filter fun e => e.1 % 64 == line % 64
  if set.length < 8 || (tabGet? set line).isSome then s
  else
    let plain := set.filter fun e => match e.2.st with | .u _ _ => false | .evicting _ _ => false | _ => true
    match plain.getLast? with
    | some e => giveUp s core e.1
    | none => match set.getLast? with
      | some e => ackEviction (evictU s core e.1) core e.1
      | none => s

/-- An L1 must give up a U copy for a line, and its die's slice has no way for the copy yet (R328, R340). -/
def roomWaits (s : State) (core line : Nat) : Bool :=
  let set := (coreOf s core).l1.filter fun e => e.1 % 64 == line % 64
  decide (8 ≤ set.length) && (tabGet? set line).isNone && (set.all fun e => isU e.2.st || isEvicting e.2.st) &&
    match set.getLast? with
    | some e => l2Waits s (coreDie core) e.1
    | none => false

/-- An access of a core to a location waits: a peer's partial of its line is missing (R344), or a place for the line (R328). -/
def lineWaits (s : State) (core : Nat) (l : Loc) : Bool :=
  (l.area == .device || l.area == .peer) &&
    (collapseWaits s l.line || l2Waits s (coreDie core) l.line || l2Waits s (homeDie s l) l.line || roomWaits s core l.line)

/-- The state of a line in a die's home-path slice, for the die as a whole (R329, R330): its directory knows the L1s of the die that hold the
line, whether or not its data array does. -/
def dieLineState (s : State) (die line : Nat) : Option LineState :=
  let here (p : LineState → Bool) : List Nat := (holders s line p).filter fun c => coreDie c == die
  let pair : Option LineState := match tabGet? s.sliceU (line * 4 + die) with
    | some n => some n.st
    | none => (here isU).head?.bind fun c => (lineAt s c line).map Line.st
  pair.or (if !(here (· == .m)).isEmpty then some .m
    else match l2At s die line with
      | some e => some (match e.st with | .s => .s | .e => .e | .m => .m)
      | none => if !(here (· == .e)).isEmpty then some .e else if !(here isShared).isEmpty then some .s else none)

/-! ## Accesses through an L1 (R350, R351, R356) -/

/-- Other L1s that own the line write back and keep it in S (a load's fill). -/
def shareOwners (s : State) (self line : Nat) : State :=
  ((holders s line isOwned).filter (· != self)).foldl (fun s c => demote s c line .s) s

/-- Other L1s that own the line write back and give it up. -/
def expelOwners (s : State) (self line : Nat) : State :=
  ((holders s line isOwned).filter (· != self)).foldl (fun s c => giveUp s c line) s

/-- The bytes of a sector at the home. -/
def homeSector (s : State) (line sec : Nat) : List Byte := rawRead s ((lineLoc line).plus (64 * sec)) 64

/-- Fills one sector of the core's line (R327). -/
def fillSector (s : State) (core line sec va : Nat) (st : LineState) : State :=
  let n := (lineAt s core line).getD (emptyLine st va)
  if n.valid.getLsbD sec then s
  else setLine s core line
    { n with valid := n.valid ||| sectorBit sec, data := putBytes n.data (64 * sec) (homeSector s line sec) }

/-- A peer package holds a copy of the line (R329). -/
def peerHolds (s : State) (line : Nat) : Bool := s.zethes.peers.any fun m => m.line == line

/-- A write takes a line from the peer packages that hold it plainly (R329, R331). -/
def dropPeers (s : State) (line : Nat) : State :=
  if peerHolds s line then
    { s with zethes := { s.zethes with peers := s.zethes.peers.filter fun m => m.line != line || m.pair.isSome } }
  else s

/-- Brings a sector into the core's L1 for reading: E when no other cache holds the line, else S (R345, R352). -/
def loadSector (s : State) (core : Nat) (l : Loc) : State :=
  let line := l.line
  let sec := l.key / 64 % 8
  match lineAt s core line with
  | some n =>
    if isShared n.st || isOwned n.st then
      (if n.valid.getLsbD sec then setLine s core line n
       else fillSector (shareOwners (l2Take s (coreDie core) line false false) core line) core line sec n.va n.st)
    else s
  | none =>
    let s := l2Take s (coreDie core) line false false
    let s := shareOwners s core line
    let s := makeRoom s core line
    let others := !(freshSharers s core line).isEmpty || !(otherSlices s (coreDie core) line).isEmpty || peerHolds s line
    fillSector (if others then s else l2Mark s (coreDie core) line .e) core line sec (l.va / 512 * 512) (if others then .s else .e)

/-- A read at the home: a U line collapses, an owner writes back and keeps the line in S (R338, R483). -/
def homeRead (s : State) (l : Loc) (n : Nat) : State × List Byte :=
  match l.area with
  | .device | .peer =>
    let s := collapseLine s l.line
    let s := (holders s l.line isOwned).foldl (fun s c => demote s c l.line .s) s
    (l2Home s l false, rawRead s l n)
  | _ => (s, rawRead s l n)

/-- Makes a line ready for a write at its home: a U line collapses, owners write back and give it up, sharers get
invalidations (R345, R483). -/
def clearForWrite (s : State) (l : Loc) : State :=
  match l.area with
  | .device | .peer =>
    let s := collapseLine s l.line
    let s := (holders s l.line isOwned).foldl (fun s c => giveUp s c l.line) s
    l2Home (dropPeers (expelSharers s 256 l.line) l.line) l true
  | _ => s

/-- A core's own S, E or M copy leaves its L1 before its access at the home (R345, R356). -/
def dropPlain (s : State) (core line : Nat) : State :=
  match lineAt s core line with
  | none => s
  | some n => if isShared n.st || isOwned n.st then giveUp s core line else s

/-- A write at the home: a U line collapses, owners write back and give up the line, sharers get invalidations, and
no L1 is given the line (R345, R483). -/
def homeWrite (s : State) (l : Loc) (bs : List Byte) : State :=
  rawWrite (clearForWrite (clearPoison s l bs.length) l) l bs

/-- Whether an access goes through the L1 (R325, R326, R356). -/
def cached (l : Loc) : Bool := (l.area == .device || l.area == .peer) && !l.uncached

/-- A load of up to one sector by a core (R350): it may hit a stale S line (R331). -/
def coreLoad (s : State) (core : Nat) (l : Loc) (n : Nat) : State × List Byte :=
  if cached l then
    let s := match lineAt s core l.line with
      | some ln => if (isShared ln.st || isOwned ln.st) && ln.valid.getLsbD (l.key / 64 % 8) then s else collapseLine s l.line
      | none => collapseLine s l.line
    let s := loadSector s core l
    match lineAt s core l.line with
    | some ln => (s, lineBytes ln (l.key % 512) n)
    | none => (s, rawRead s l n)
  else homeRead (applyOwn s core l.line) l n

/-- The core's line in M with a sector filled, unless the write covers it (R327, R351): every other holder has given the line up, or has
its invalidation (R331). -/
def ownForStore (s : State) (core : Nat) (l : Loc) (whole : Bool) : State :=
  let line := l.line
  let sec := l.key / 64 % 8
  let s := applyOwn s core line
  let s := collapseLine s line
  let s := expelOwners s core line
  let s := dropPeers (expelSharers s core line) line
  let s := if ((lineAt s core line).map fun n => isOwned n.st) == some true then l2Mark s (coreDie core) line .m
    else l2Take s (coreDie core) line true false
  let s := makeRoom s core line
  let s := if whole then s else fillSector s core line sec (l.va / 512 * 512) .m
  let n := (lineAt s core line).getD (emptyLine .m (l.va / 512 * 512))
  setLine s core line { n with st := .m, valid := n.valid ||| sectorBit sec, dirty := n.dirty ||| sectorBit sec }

/-- A store of masked bytes of one sector by a core, at its point of performance (R351, R356). -/
def coreStore (s : State) (core : Nat) (sector : Loc) (bytes : Tab Byte) : State :=
  let whole := bytes.length ≥ 64
  if cached sector then
    let s := if whole then clearPoison s sector 64 else s
    let s := ownForStore s core sector whole
    match lineAt s core sector.line with
    | none => s
    | some n => setLine s core sector.line
        { n with data := bytes.foldl (fun d e => tabPut d (sector.key % 512 + e.1) e.2) n.data }
  else
    let s := if whole then clearPoison s sector 64 else s
    let s := clearForWrite (dropPlain s core sector.line) sector
    bytes.foldl (fun s e => rawWrite s (sector.plus e.1) [e.2]) s

/-- An update into the core's U copy (R337). -/
def updateCopy (s : State) (core op ty : Nat) (l : Loc) (v : Nat) : State :=
  match lineAt s core l.line with
  | none => s
  | some n =>
    let off := l.key % 512
    let e := mergeElem op ty (uElem op ty n off) v
    setLine s core l.line { n with touched := n.touched ||| sectorBit (off / 64),
                                   data := putBytes n.data off (leBytes (typeWidth ty / 8) e) }

/-- Whether a line has a copy, an evicting one among them, of another pair (R336). -/
def otherPair (s : State) (line op ty : Nat) : Bool :=
  (match uPair s line with | none => false | some p => p != (op, ty)) ||
    !(holders s line fun st => match st with | .evicting o t => (o, t) != (op, ty) | _ => false).isEmpty

/-- The home takes a permission request and grants U(op, type); the requester allocates a copy at identity (R336). -/
def grantU (s : State) (core op ty : Nat) (l : Loc) : State :=
  let line := l.line
  let s := applyOwn s core line
  let s := if otherPair s line op ty then collapseLine s line else ackEviction s core line
  let s := dropPeers (l2DropAll s line) line
  let s := { s with sliceU := tabTouch s.sliceU (line * 4 + coreDie core) }
  let s := (holders s line isOwned).foldl (fun s c => giveUp s c line) s
  let s := dropLine s core line
  let s := expelSharers s core line
  let s := makeRoom s core line
  setLine s core line (emptyLine (.u op ty) (l.va / 512 * 512))

/-- Whether the core's L1 holds a line in a U pair. -/
def holdsU (s : State) (core line op ty : Nat) : Bool :=
  match lineAt s core line with
  | none => false
  | some n => n.st == .u op ty

/-- One location read, changed and written back atomically at the home, or in M for private memory (R354, R356). The
old value is returned. -/
def atomicAt (s : State) (core : Nat) (l : Loc) (w : Nat) (f : Nat → Nat) : State × Nat :=
  if cached l && l.space == 15 then
    let r := coreLoad (applyOwn s core l.line) core l w
    let old := leNat r.2
    let sector := l.align 64
    let bs := leBytes w (f old)
    (coreStore r.1 core sector ((List.range w).map fun i => (l.key % 64 + i, bs.getD i 0)), old)
  else
    let r := homeRead (dropPlain s core l.line) l w
    let old := leNat r.2
    (homeWrite r.1 l (leBytes w (f old)), old)

/-- The bytes of a location as an access at the home would find them, without moving any line. -/
def peekBytes (s : State) (l : Loc) (n : Nat) : List Byte := (homeRead s l n).2

end Sys2Proof.Machine
end

