-- ==== Sys2Proof/Machine/Paging.lean ====
section
/-!
DEFINITION. Address translation (R379 to R386), TLBs (R387, R388), parked pages (R389), scratchpad pointers (R232).
-/

namespace Sys2Proof.Machine

/-- The outcome of translating one access. -/
inductive Xlat where
  | ok (l : Loc)
  | trap (cause : Nat) (addr : Word)

/-- Kinds of access (R379); a sync-word operation that writes needs write and atomic permission (R244). -/
inductive Access where
  | read | write | atomic | fetch | sync
  deriving DecidableEq

/-! ## Page table -/

/-- Bytes a leaf maps at each level (R380). -/
def pageSize (level : Nat) : Nat := if level = 0 then 2 ^ 16 else if level = 1 then 2 ^ 25 else 2 ^ 34

/-- Whether a leaf is well formed at its level (R382, R383). -/
def leafOk (level e : Nat) : Bool :=
  let frame := bits e 51 16 * 2 ^ 16
  let tier := bits e 9 8
  let top := frame + pageSize level
  level < 3 && bits e 63 56 == 0 && bits e 15 13 == 0 && frame % pageSize level == 0 &&
    (if tier = 0 then decide (top ≤ 2 ^ 38)
     else if tier = 1 then decide (2 ^ 40 ≤ frame) && decide (top ≤ 2 ^ 41)
     else true)

/-- An 8-byte entry of device memory as its home holds it. -/
def entryAt (s : State) (pa : Nat) : Nat := leNat (peekBytes s ⟨.device, pa, 0, false, 0, 0, none⟩ 8)

/-- The walk (R380, R382): from a table at a level, the leaf's address, the leaf and its level. -/
def walkFrom (s : State) (va : Nat) : Nat → Nat → Option (Nat × Nat × Nat)
  | 0, table =>
    let a := table + 8 * bits va 24 16
    let e := entryAt s a
    if e.testBit 0 && leafOk 0 e then some (a, e, 0) else none
  | level + 1, table =>
    let a := table + 8 * (va / 2 ^ (25 + 9 * level) % 512)
    let e := entryAt s a
    if !e.testBit 0 then none
    else if bits e 3 1 = 0 then
      if e = bits e 51 12 * 2 ^ 12 + 1 then walkFrom s va level (bits e 51 12 * 2 ^ 12) else none
    else if leafOk (level + 1) e then some (a, e, level + 1) else none

def walk (s : State) (va : Nat) : Option (Nat × Nat × Nat) :=
  walkFrom s va 3 (s.mgmt.ptroot.toNat / 4096 * 4096)

/-- Sets bits of a leaf at its home (R385). -/
def setLeaf (s : State) (a e : Nat) : State := homeWrite s ⟨.device, a, 0, false, 0, 0, none⟩ (leBytes 8 e)

def tlbCovers (va : Nat) (e : TlbEntry) : Bool := decide (e.base ≤ va) && decide (va < e.base + e.size)

/-- A TLB of some entries and ways takes an entry (R387). Which set a page goes to, and which entry of a full set a miss replaces, is open
(R14 says only that one is): DESIGN CHOICE, the page number's low bits, and the entry filled first (notes/assumptions/31.md). -/
def tlbAdd (cap ways : Nat) (t : List TlbEntry) (e : TlbEntry) : List TlbEntry :=
  let set (o : TlbEntry) : Nat := o.base / o.size % (cap / ways)
  let rest := t.filter fun o => !(o.base == e.base && o.size == e.size)
  let mates := rest.filter fun o => set o == set e
  e :: rest.filter fun o => !(decide (ways ≤ mates.length) && mates.getLast? == some o)

/-- Requesters of translations: cores stand below 256; engine e of a die, or with 16 its scheduler, stands at 256 + 32 die + e. -/
def engineUnit (die e : Nat) : Nat := 256 + 32 * die + e
def unitDie (u : Nat) : Nat := if u < 256 then coreDie u else (u - 256) / 32

/-- A requester's own TLB (R387). -/
def firstTlb (s : State) (u : Nat) : List TlbEntry :=
  if u < 256 then (coreOf s u).tlb else tabGet (dieAt s (unitDie u)).engineTlb (u % 32) []

/-- An entry goes into its requester's own TLB; a scheduler has none. -/
def fillFirst (s : State) (u : Nat) (e : TlbEntry) : State :=
  if u < 256 then modCore s u fun k => { k with tlb := tlbAdd 256 8 k.tlb e }
  else if u % 32 < 16 then
    modDie s (unitDie u) fun d => { d with engineTlb := tabPut d.engineTlb (u % 32) (tlbAdd 1024 1024 (tabGet d.engineTlb (u % 32) []) e) }
  else s

/-- A walk that fills the TLBs, setting A, and D for a write that has passed its checks (R379, R385, R387). -/
def walkFill (s : State) (core va : Nat) (write : Bool) : State × Option TlbEntry :=
  match walk s va with
  | none => (s, none)
  | some (a, e, level) =>
    let e' := e ||| 0x80 ||| (if write then 0x40 else 0)
    let s := if e' = e then s else setLeaf s a e'
    let n : TlbEntry := ⟨va / pageSize level * pageSize level, pageSize level, e'⟩
    (modDie (fillFirst s core n) (unitDie core) fun d => { d with tlb2 := tlbAdd 16384 16384 d.tlb2 n }, some n)

/-- The translation of a virtual address: the requester's TLB, the die's, which refills the requester's, or a walk (R379, R387). -/
def lookup (s : State) (core va : Nat) : State × Option TlbEntry :=
  match (firstTlb s core).find? (tlbCovers va) with
  | some e => (s, some e)
  | none =>
    let s := if core < 256 then modCore s core fun k => { k with tlbMisses := k.tlbMisses + 1 } else s
    match (dieAt s (unitDie core)).tlb2.find? (tlbCovers va) with
    | some e => (fillFirst s core e, some e)
    | none => walkFill s core va false

/-- Who accesses: the key of its grid, its group and whether it is the supervisor. -/
structure Who where
  core : Nat
  sup : Bool
  key : Nat
  group : Nat

/-- The location of an address through a leaf (R379, R383). -/
def leafLoc (e : TlbEntry) (va space : Nat) : Loc :=
  let a := bits e.leaf 51 16 * 2 ^ 16 + (va - e.base)
  let page := if e.leaf.testBit 11 then 1 else 0
  let nc := e.leaf.testBit 11 || space == 1
  match bits e.leaf 9 8 with
  | 2 => ⟨.host, a, 0, true, 3, va, some e⟩
  | 3 => ⟨.peer, bits e.leaf 51 44 * 2 ^ 52 + (bits e.leaf 43 16 * 2 ^ 16 + (va - e.base)), page, nc, if space = 15 then 15 else 2, va, some e⟩
  | _ => ⟨.device, a, page, nc, space, va, some e⟩

/-- Kinds of access that dirty a page (R379). -/
def Access.dirties (k : Access) : Bool := k == .write || k == .atomic || k == .sync

/-- The cause that a leaf's fields give an access, in the order of R379; 0 for none. -/
def leafCause (s : State) (w : Who) (leaf : Nat) (kind : Access) : Nat :=
  let b (i : Nat) : Bool := leaf.testBit i
  let key := bits leaf 55 52
  if b 10 then 0x16
  else if b 5 && !w.sup then 0x15
  else if (kind = .read || kind = .atomic) && !b 1 then 0x11
  else if kind.dirties && !b 2 then 0x12
  else if kind = .fetch && !b 3 then 0x13
  else if (kind = .atomic || kind = .sync) && (!b 4 || bits leaf 9 8 == 2) then 0x14
  else if !w.sup && s.mgmt.revoked.contains w.key then 0x38
  else if key != 0 && !w.sup && (tabGet s.mgmt.keytab key 0).toNat != w.key then 0x39
  else 0

/-- The cause a peer answers a translation with (R390): those of its own `translate` (R379). -/
def peerTrap (c : Nat) : Option Nat :=
  if (0x10 ≤ c && c ≤ 0x16) || c == 0x20 || c == 0x38 || c == 0x39 then some c else none

/-- DEDUCED (notes/assumptions/43.md): a sync word named in space 0x0 whose leaf is of the host tier is polled at the host, where R383 has such a page
act as space 0x3; R244 refuses a pointer in space 0x3, by its space bits. What the location behind a leaf that passed its checks answers: a peer translates again (R390), and a host leaf's access acts as
one of space 0x3, within the host window (R379, R383). -/
def leafAnswer (s : State) (e : TlbEntry) (va space size : Nat) (report : Word) : Xlat :=
  let l := leafLoc e va space
  if bits e.leaf 9 8 = 3 then
    (match peerTrap (Config.peerCause s.moves report.toNat) with
     | some c => .trap c report
     | none => .ok l)
  else if bits e.leaf 9 8 = 2 && decide (s.mgmt.hostwin.toNat < l.addr + size) then .trap 0x20 report
  else .ok l

/-- Translates a device virtual address (R379). The address reported on a fault is `report`. A write through an entry whose D is 0 walks
the page again, and sets D, once the entry's checks have passed (R385). -/
def translateVa (s : State) (w : Who) (va space size : Nat) (report : Word) (kind : Access) : State × Xlat :=
  match lookup s w.core va with
  | (s, none) => (s, .trap 0x10 report)
  | (s, some e) =>
    match leafCause s w e.leaf kind with
    | 0 =>
      if kind.dirties && !e.leaf.testBit 6 then
        match walk s va with
        | none => (s, .trap 0x10 report)
        | some (_, leaf, _) => match leafCause s w leaf kind with
          | 0 => match walkFill s w.core va true with
            | (s, some e) => (s, leafAnswer s e va space size report)
            | (s, none) => (s, .trap 0x10 report)
          | c => (s, .trap c report)
      else (s, leafAnswer s e va space size report)
    | c => (s, .trap c report)

/-! ## Other units (R483): the arbiter, dispatchers, engines, ports -/

/-- Whether a page translates without 0x10 or 0x16. -/
def pageMapped (s : State) (page : Nat) : Bool :=
  match walk s (page * 65536) with
  | none => false
  | some (_, e, _) => !e.testBit 10

/-- The leaf that a unit outside the cores finds by a walk of its own, with A set, and D for a write that has passed (R385). -/
def unitLookup (s : State) (va : Nat) (write : Bool) : State × Option TlbEntry :=
  match walk s va with
  | none => (s, none)
  | some (a, e, level) =>
    let e' := e ||| 0x80 ||| (if write then 0x40 else 0)
    (if e' = e then s else setLeaf s a e', some ⟨va / pageSize level * pageSize level, pageSize level, e'⟩)

/-- A pointer of space 0x0 as the arbiter and the dispatchers reach it, to read, to write, or both. A page under migration counts as
unreadable (DESIGN CHOICE: R65 names only unmapped pages and missing permission, notes/assumptions/30.md). -/
def unitPlace (s : State) (ptr : Word) (read write : Bool) : State × Option Loc :=
  let p := ptr.toNat
  if bits p 63 52 != 0 then (s, none)
  else match unitLookup s p false with
    | (s, none) => (s, none)
    | (s, some e) =>
      if e.leaf.testBit 10 || (read && !e.leaf.testBit 1) || (write && !e.leaf.testBit 2) then (s, none)
      else ((if write then (unitLookup s p true).1 else s), some (leafLoc e p 0))

/-- A place that is read, and changed where asked. -/
def unitLoc (s : State) (ptr : Word) (write : Bool) : State × Option Loc := unitPlace s ptr true write

/-- Reads bytes piece by piece of at most 64; `none` where a piece does not translate, or its line waits for a peer's partial (R344). -/
def unitRead (s : State) : Nat → Word → Nat → State × Option (List Byte)
  | 0, _, _ => (s, some [])
  | _ + 1, _, 0 => (s, some [])
  | fuel + 1, ptr, n =>
    let k := min n (64 - ptr.toNat % 64)
    match unitLoc s ptr false with
    | (s, none) => (s, none)
    | (s, some l) =>
      if collapseWaits s l.line then ({ s with stuck := true }, none) else
      let r := homeRead s l k
      match unitRead r.1 fuel (ptr + word k) (n - k) with
      | (s, none) => (s, none)
      | (s, some bs) => (s, some (r.2 ++ bs))

/-- Reads n bytes of space 0x0 for a unit outside the cores. -/
def unitBytes (s : State) (ptr : Word) (n : Nat) : State × Option (List Byte) := unitRead s (n / 64 + 2) ptr n

/-- A unit's bytes of a line at a location; where the line waits for a peer's partial there are none yet (R344). -/
def unitHome (s : State) (l : Loc) (n : Nat) : State × List Byte :=
  if collapseWaits s l.line then ({ s with stuck := true }, []) else homeRead s l n

/-- An event of a unit whose reads meet a line that waits for a peer's partial is not made yet (R344). -/
def whole (s t : State) : State := if t.stuck && !s.stuck then s else t

/-- A write of a unit that comes after one still owed to the same sector, or whose line waits for a peer's partial, is owed too. -/
def owes (s : State) (ptr : Word) (l : Loc) : Bool :=
  collapseWaits s l.line || s.owed.any fun e => e.1.toNat / 64 == ptr.toNat / 64

/-- Writes bytes inside one sector of space 0x0 for a unit outside the cores; false where they do not translate. A write whose line waits for
a peer's partial is owed (R344). -/
def unitWrite (s : State) (ptr : Word) (bs : List Byte) : State × Bool :=
  match unitPlace s ptr false true with
  | (s, none) => (s, false)
  | (s, some l) => if owes s ptr l then ({ s with owed := s.owed ++ [(ptr, bs)] }, true) else (homeWrite s l bs, true)

/-- Writes that are owed and that nothing stands in the way of any more are made, in order; those that their pages no longer take are
dropped. -/
def payOwed (s : State) : State :=
  s.owed.foldl (fun s e =>
    if !pageMapped s (bits e.1.toNat 51 0 / 65536) then { s with owed := s.owed ++ [e] } else (unitWrite s e.1 e.2).1) { s with owed := [] }

/-! ## Pointers -/

/-- A private pointer's virtual address (R386), from the thread's own identifier; `none` is 0x20. -/
def privateVa (g : Grid) (wid : Word) (off size : Nat) : Option Nat :=
  if saveArea g = 0 || off + size > 65536 then none
  else
    let gi := wid.toNat / 2 ^ groupBits g
    let tl := wid.toNat % 2 ^ groupBits g
    some (saveArea g + gi * 0x5000000 + 0x1000000 + tl * 65536 + off)

/-- A scratchpad pointer (R232): the location in the named member's allocation. A copy job's accesses name the members of its group's gang
after that group has retired, too (R310). DESIGN CHOICE (notes/assumptions/43.md): the trap troupe, which belongs to no gang, has no scratchpad in
reach: 0x21. -/
def spTranslate (s : State) (group : Nat) (ptr : Word) (size : Nat) : Xlat :=
  let p := ptr.toNat
  if bits p 59 56 != 0 then .trap 0x20 ptr
  else match gridOfGroup s group with
  | some gr =>
    let own := group % gangSize gr
    let m := if bits p 55 52 = 15 then own else bits p 55 52
    let key := group - own + m
    match (if m ≥ gangSize gr then none else groupAt s key) with
    | none => .trap 0x22 ptr
    | some t =>
      if bits p 51 19 != 0 || bits p 18 0 + size > t.scratchSize then .trap 0x21 ptr
      else .ok ⟨.scratch, bits p 18 0, key, true, 14, 0, none⟩
  | none => .trap 0x21 ptr

/-- `translate` (R379). The work identifier serves private pointers. -/
def translate (s : State) (w : Who) (wid ptr : Word) (size : Nat) (kind : Access) : State × Xlat :=
  let p := ptr.toNat
  let sp := bits p 63 60
  let off := bits p 51 0
  if sp = 14 then (s, spTranslate s w.group ptr size)
  else if sp != 0 && sp != 1 && sp != 2 && sp != 3 && sp != 15 then (s, .trap 0x20 ptr)
  else if sp != 2 && bits p 59 52 != 0 then (s, .trap 0x20 ptr)
  else if sp = 3 then
    if kind = .atomic then (s, .trap 0x14 ptr)
    else if off + size > s.mgmt.hostwin.toNat then (s, .trap 0x20 ptr)
    else (s, .ok ⟨.host, off, 0, true, 3, off, none⟩)
  else if sp = 2 then
    let c := Config.peerCause s.moves p
    if 0x10 ≤ c && c ≤ 0x16 then (s, .trap c ptr)
    else if !w.sup && s.mgmt.revoked.contains w.key then (s, .trap 0x38 ptr)
    else match peerTrap c with
      | some c => (s, .trap c ptr)
      | none => (s, .ok ⟨.peer, bits p 59 52 * 2 ^ 52 + off, if c == 0xFF then 1 else 0, c == 0xFF, 2, p, none⟩)
  else if sp = 15 then
    match (gridOfGroup s w.group).bind fun g => privateVa g wid off size with
    | none => (s, .trap 0x20 ptr)
    | some va => translateVa s { w with sup := false } va 15 size (word va) kind
  else translateVa s w off sp size ptr kind

/-- Whether a failing access was a peer's (R390): its lanes park with no page recorded. -/
def remoteFailure (s : State) (core : Nat) (ptr : Word) : Bool :=
  bits ptr.toNat 63 60 == 2 ||
    (match (lookup s core (bits ptr.toNat 51 0)).2 with
     | some e => bits e.leaf 9 8 == 3
     | none => false)

/-- A pointer of an image translated (R404): a private one stands there as the space 0x0 address it maps to (R386). -/
def locate (s : State) (w : Who) (ptr : Word) (size : Nat) (kind : Access) : State × Xlat :=
  if bits ptr.toNat 63 60 = 15 then translateVa s w (bits ptr.toNat 51 0) 15 size (word (bits ptr.toNat 51 0)) kind
  else translate s w 0 ptr size kind

/-- The location that an image's pointer names; a lost one where it does not translate now (R404). -/
def findAgain (s : State) (w : Who) (ptr : Word) (size : Nat) (kind : Access) : State × Loc :=
  match locate s w ptr size kind with
  | (s, .ok l) => (s, l)
  | (s, .trap _ _) => (s, ⟨.lost, ptr.toNat, 0, true, bits ptr.toNat 63 60, bits ptr.toNat 51 0, none⟩)

/-- A lost location is looked for again. -/
def refind (s : State) (w : Who) (l : Loc) (size : Nat) (kind : Access) : State × Loc :=
  if l.area = .lost then findAgain s w (word l.addr) size kind else (s, l)

def whoOf (s : State) (x : Ctx) : Who :=
  if isSup x.pos then { core := x.core, sup := true, key := 0, group := 0 }
  else { core := x.core, sup := false, key := troupeKey s x.t, group := x.t.group }

/-! ## Invalidation and parked pages (R388, R389, R407) -/

/-- Drops entries of every TLB of the package. -/
def dropTlb (s : State) (p : TlbEntry → Bool) : State :=
  { s with cores := tabMap s.cores fun _ k => { k with tlb := k.tlb.filter fun e => !p e },
           dies := tabMap s.dies fun _ d =>
             { d with tlb2 := d.tlb2.filter (fun e => !p e), engineTlb := tabMap d.engineTlb fun _ t => t.filter fun e => !p e } }

/-- A page under migration: accesses park with 0x16 (R391). -/
def pageMoving (s : State) (page : Nat) : Bool := match walk s (page * 65536) with | some (_, e, _) => e.testBit 10 | none => false

/-- Parked lanes become runnable, their faulted loads reissued (R156, R389). -/
def wakePark (s : State) (core pos : Nat) (k : Park) : State :=
  let s := modTroupe s core pos fun t =>
    let t := { t with parks := t.parks.filter fun e => e.id != k.id }
    modThreads t k.lanes fun _ h => if h.st = .parked k.id then { h with st := .runnable } else h
  reissue s core k.syms k.lanes

/-- Walks the recorded pages of one parked sub-troupe that an invalidation could cover (R389). -/
def rewalkPark (s : State) (covers : Nat → Bool) (core pos : Nat) (k : Park) : State :=
  if k.retry.isSome then s
  else
    let pages := k.pages.filter fun p => !(covers p && pageMapped s p)
    if pages.isEmpty then wakePark s core pos k
    else modTroupe s core pos fun t => { t with parks := t.parks.map fun e => if e.id = k.id then { e with pages } else e }

/-- Every parked sub-troupe of the package. -/
def allParks (s : State) : List (Nat × Nat × Park) :=
  s.cores.flatMap fun c => c.2.troupes.flatMap fun t => t.2.parks.map fun p => (c.1, t.1, p)

def rewalk (s : State) (covers : Nat → Bool) : State :=
  (allParks s).foldl (fun s e => rewalkPark s covers e.1 e.2.1 e.2.2) s

/-- `tlbi.page`: every entry that maps the address; the recorded page is walked again. -/
def invalidatePage (s : State) (ptr : Word) : State :=
  let va := bits ptr.toNat 51 0
  rewalk (dropTlb s (tlbCovers va)) fun p => p == va / 65536 || (match walk s va with
    | some (_, _, lv) => p * 65536 / pageSize lv == va / pageSize lv
    | none => false)

/-- `tlbi.key`: every entry with the key index; every recorded page is walked again. -/
def invalidateKey (s : State) (idx : Nat) : State := rewalk (dropTlb s fun e => bits e.leaf 55 52 == idx) fun _ => true

/-- `tlbi.all`. -/
def invalidateAll (s : State) : State := rewalk (dropTlb s fun _ => true) fun _ => true

end Sys2Proof.Machine
end

