-- ==== Sys2Proof/Machine/Operands.lean ====
section
/-!
DEFINITION. Every operand form (R44 to R46), the known and pending operands (R141), blocking uses (R146, R147, R155),
integer and f64 forms (R142 to R145), the recording of results (R31), and storage formats (R119).
-/

namespace Sys2Proof.Machine

/-! ## Storage formats -/

/-- Whether every delta fits w signed bits. -/
def deltasFit (w : Nat) (base : Word) (vs : List Word) : Bool :=
  vs.all fun v => decide (-(2 ^ (w - 1) : Int) ≤ (v - base).toInt) && decide ((v - base).toInt < 2 ^ (w - 1))

/-- The storage format of values over the lanes considered (R119). -/
def chooseFmt (lanes : LaneMask) (v : Lanes) : Nat :=
  let vs := (maskLanes lanes).map (laneOf v)
  let base := vs.headD 0
  if vs.all (· == base) then 0
  else if deltasFit 8 base vs then 1
  else if deltasFit 16 base vs then 2
  else if deltasFit 32 base vs then 3
  else 4

/-- Lanes that have ended with `exit.inherit` (R86). -/
def keptLanes (t : Troupe) : LaneMask := maskOf fun l => (threadOf t l).st == .exited && (threadOf t l).keep

/-- The lanes that a troupe's registers are encoded over: those not exited (R119); once all have exited, those whose range is kept
for a successor (R130). The trap troupe, whose group key is 0, keeps its registers for the next delivery in every lane (R393). -/
def formatLanes (t : Troupe) : LaneMask := if t.group = 0 then -1 else if liveLanes t = 0 then keptLanes t else liveLanes t

/-- A settled register encoded over the lanes that have not exited; zero in all of them is empty (R119). -/
def encodeReg (lanes : LaneMask) (v : Lanes) : Reg :=
  if (maskLanes lanes).all (fun l => laneOf v l == 0) then emptyReg
  else
    let base := laneOf v ((lowLane lanes).getD 0)
    let vals := mkLanes fun l => if lanes.getLsbD l then laneOf v l else base
    { emptyReg with entry := .resident, fmt := chooseFmt lanes v, vals, base }

def fmtGranules (fmt : Nat) : Nat := if fmt = 4 then 4 else if fmt = 3 then 3 else if fmt = 2 then 2 else 1

/-- The storage entries of a pending register (R144). -/
def chainEntries (ch : List ChainOp) : List Lanes :=
  ch.foldr (fun o r => if o.kind = .fma then o.known :: o.addend :: r else o.known :: r) []

/-- The storage entries of a pending register, at least two (R139, R144). -/
def formEntries (r : Reg) : List Lanes :=
  if r.chain.isEmpty then [r.scale, r.vals]
  else
    let e := chainEntries r.chain
    e ++ List.replicate (2 - e.length) []

/-- A pending register encoded over the lanes that have not exited (R119, R144). -/
def encodeForm (lanes : LaneMask) (r : Reg) : Reg :=
  { r with fmts := (formEntries r).map fun v => (chooseFmt lanes v, laneOf v ((lowLane lanes).getD 0)) }

/-- Granules a register holds (R118, R144). A pending one keeps enough for the raw value it resolves to, which it is re-encoded in
"within its existing reservation" (R153): DEDUCED (notes/assumptions/40.md). -/
def granules (r : Reg) : Nat :=
  match r.entry with
  | .empty => 0
  | .spilled => 0
  | .resident => fmtGranules r.fmt
  | .pending => max 4 ((r.fmts.map fun e => fmtGranules e.1).foldl (· + ·) 0)

/-- Granules a clause reserves for a register as it will commit (R123, R144). -/
def reservation (r : Reg) : Nat := if r.entry = .pending then max 8 (4 * (formEntries r).length) else 4

/-! ## Reading -/

/-- How an operand position reads its constants: as integers of a width, or in a float format (R45). -/
inductive View where
  | int (w : Nat)
  | fp (code : Nat)

def View.width (v : View) : Nat := match v with | .int w => w | .fp c => (fmtOf c).w

/-- Inline integer constants (R44). -/
def intConst (n : Nat) : Int := [0, 1, 2, 4, 8, 16, -1, -2].getD n 0

/-- Inline FP constants in a format (R44, R45). -/
def fpConst (f : FFmt) (n : Nat) : Nat :=
  match n with
  | 0 => (fpOut f 1 false false (.fin false 1 (-1))).1
  | 1 => (fpOut f 1 false false (.fin false 1 0)).1
  | 2 => (fpOut f 1 false false (.fin false 1 1)).1
  | 3 => (fpOut f 1 false false (.fin true 1 0)).1
  | 4 => (fpOut f 1 false false (.fin false 1 (-2))).1
  | 5 => (fpOut f 1 false false (.fin false 1 2)).1
  | 6 => f.infMag
  | _ => f.canon

/-- An element in every position. -/
def replicateElem (w e : Nat) : Word := word (packElems w (64 / w) fun _ => e)

/-- A settled register holding a function of the lane. -/
def known (f : Nat → Word) : Reg := { emptyReg with entry := .resident, fmt := 4, vals := mkLanes f }

/-- CLK (R44, R81): core cycles at the clause's start, or the grid's retired instructions in Minuet. -/
def clkOf (s : State) (x : Ctx) : Word :=
  match gridOfGroup s x.t.group with
  | none => word x.cl.started
  | some g => if isMinuet g then word g.clk else word x.cl.started

/-- An operand in every lane, read as the clause started, temporaries as they stand (R31, R44 to R46). -/
def operand (s : State) (x : Ctx) (v : View) (o : Operand) : Reg :=
  match o with
  | .x n => regOf x.t n.toNat
  | .c n => tabGet x.cl.temps n.toNat emptyReg
  | .k n => known fun _ => kOf x.t n.toNat
  | .ic n => known fun _ =>
    match v with
    | .int w => replicateElem w (ofSigned w (intConst n.toNat))
    | .fp c => replicateElem (fmtOf c).w
        (fpOut (fmtOf c) 1 false false (.fin (decide (intConst n.toNat < 0)) (intConst n.toNat).natAbs 0)).1
  | .fc n => known fun _ =>
    match v with
    | .int _ => 0
    | .fp c => replicateElem (fmtOf c).w (fpConst (fmtOf c) n.toNat)
  | .zero => known fun _ => 0
  | .lane => known fun l => replicateElem v.width l
  | .widlo => known fun l => word ((threadOf x.t l).wid.toNat % 2 ^ 32)
  | .widhi => known fun l => word ((threadOf x.t l).wid.toNat / 2 ^ 32)
  | .tridx => known fun _ => replicateElem v.width x.t.tidx
  | .subidx => known fun _ => word (packElems v.width (64 / v.width) fun i => i)
  | .clk => known fun _ => clkOf s x

/-- A settled operand's value in a lane. -/
def valueOf (s : State) (x : Ctx) (v : View) (o : Operand) (l : Nat) : Nat := (laneOf (operand s x v o).vals l).toNat

/-- A 64-bit integer operand. -/
def word64 (s : State) (x : Ctx) (o : Operand) (l : Nat) : Word := laneOf (operand s x (.int 64) o).vals l

/-- A predicate as it stood at clause start; p7 reads 1 (R22, R31). -/
def predOf (t : Troupe) (q l : Nat) : Bool := q == 7 || (threadOf t l).preds.getLsbD q

/-! ## Blocking uses -/

/-- The registers among some operands. -/
def regOperand (x : Ctx) (o : Operand) : Option Reg :=
  match o with
  | .x n => some (regOf x.t n.toNat)
  | .c n => some (tabGet x.cl.temps n.toNat emptyReg)
  | _ => none

/-- Active lanes not settled for a use (R147). -/
def unsettled (s : State) (x : Ctx) (r : Reg) : LaneMask := pendMask r &&& x.cl.active &&& ~~~faultedIn s x.core r

/-- The recorded cause and address of a faulted lane (R154). -/
def faultRecord (s : State) (core : Nat) (r : Reg) (l : Nat) : Failure :=
  match symbolAt s core r.sym with
  | none => (l, 0x02, 0)
  | some y => (l, tabGet y.causes l 0x10, tabGet y.addrs l 0)

/-- Notes pending operands of a blocking use: it stays one until the clause starts (R147). -/
def noteBlocked (x : Ctx) (rs : List Reg) : Ctx :=
  let new := (rs.filter fun r => pendMask r != 0).map fun r => (x.cl.head.toNat, x.cl.cursor, r.sym)
  { x with t := { x.t with blocked := x.t.blocked ++ new.filter fun e => !x.t.blocked.contains e } }

/-- A use of the instruction that was found blocking (R147). -/
def foundBlocking (x : Ctx) (r : Reg) : Bool := x.t.blocked.contains (x.cl.head.toNat, x.cl.cursor, r.sym)

/-- Active lanes in which an operand is faulted, or depends on a faulted lane of an earlier instruction of the clause (R155): the
check knows no value of it there. -/
def unavailable (s : State) (x : Ctx) (rs : List Reg) : LaneMask :=
  rs.foldl (fun m r => m ||| r.unknown ||| faultedIn s x.core r) 0 &&& x.cl.active

/-- Lanes in which some sources of a forwarding instruction depend on a faulted lane: its result has no value there either. -/
def unknownIn (x : Ctx) (ops : List Operand) : LaneMask := (ops.filterMap (regOperand x)).foldl (fun m r => m ||| r.unknown) 0

/-- A blocking use of some operands: the clause waits, or a faulted lane surfaces (R146, R147, R155), or the
operands are settled. -/
def useRegs (s : State) (x : Ctx) (rs : List Reg) (k : State → Ctx → Out) : Out :=
  if rs.any (fun r => unsettled s x r != 0) then .next (notStarted s (noteBlocked x rs))
  else
    let fs := (maskLanes x.cl.active).flatMap fun l =>
      (rs.filter fun r => (faultedIn s x.core r).getLsbD l).map fun r => faultRecord s x.core r l
    if unavailable s x rs = 0 then k s x
    else
      let syms := (rs.filter fun r => (faultedIn s x.core r) &&& x.cl.active != 0).map Reg.sym
      let remote := maskOf fun l => fs.any fun f => f.1 == l && splits f.2.1 && remoteFailure s x.core f.2.2
      let lanes := unavailable s x rs
      settle s x fs remote syms fun s x =>
        let cl := { x.cl with dead := x.cl.dead ||| lanes }
        k (putClause s x cl) { x with t := { x.t with clause := some cl }, cl }

def use (s : State) (x : Ctx) (ops : List Operand) (k : State → Ctx → Out) : Out :=
  useRegs s x (ops.filterMap (regOperand x)) k

/-- Active lanes in which an address operand has a value, whatever the instruction's other operands hold (R155): they are translated. -/
def addressed (s : State) (x : Ctx) (o : Operand) : LaneMask := x.cl.active &&& ~~~unavailable s x (regOperand x o).toList

/-! ## Recording results -/

/-- Replies still to come for a destination that a later word of the clause writes: that word's value commits (R31). -/
def overtakeReplies (d : Operand) (rs : List (Nat × Nat)) : List (Nat × Nat) :=
  rs.map fun e => if e.2 = d.code then (e.1, 120) else e

/-- Records a result for commit; temporaries take it at once; a k register takes the lowest active lane's value; a
write to ZERO is discarded (R31). -/
def writeD (x : Ctx) (cl : Clause) (d : Operand) (r : Reg) : Clause :=
  let cl := { cl with replies := overtakeReplies d cl.replies }
  match d with
  | .x n => { cl with xw := tabPut cl.xw n.toNat r }
  | .c n => { cl with temps := tabPut cl.temps n.toNat { r with unknown := r.unknown ||| cl.dead } }
  | .k n => match lowLane x.live with
    | none => cl
    | some l => { cl with kw := tabPut cl.kw n.toNat (laneOf r.vals l) }
  | _ => cl

/-- Records a known result, one value for each lane. -/
def writeLanes (x : Ctx) (cl : Clause) (d : Operand) (f : Nat → Word) : Clause := writeD x cl d (known f)

/-- While a clause is checked, a result that only performing gives: no later word of the check knows it. -/
def writeUnknown (x : Ctx) (cl : Clause) (d : Operand) : Clause := writeD x cl d { known (fun _ => 0) with unknown := x.cl.active }

/-- The destination of a result that commits at clause end, because the clause waits for a reply that brings it (R88, R89, R323): a
clause temporary, which ends with the clause (R31), takes nothing (notes/assumptions/39.md). -/
def lateDest (d : Operand) : Operand := match d with | .c _ => .zero | d => d

/-- Records a predicate; p7 discards it (R31). -/
def writePred (x : Ctx) (cl : Clause) (q : Nat) (f : Nat → Bool) : Clause :=
  if q = 7 then cl else { cl with pw := tabPut cl.pw q (maskOf fun l => x.live.getLsbD l && f l) }

/-- Adds flags for commit (R168). -/
def addFlags (cl : Clause) (fl : Nat) : Clause := { cl with flags := cl.flags ||| fl }

/-! ## Forms -/

/-- A form over a symbol; with no scale left in the lanes it is known (R139). -/
def mkForm (lanes : LaneMask) (sym : Nat) (scale off : Lanes) : Reg :=
  if (maskLanes lanes).all (fun l => laneOf scale l == 0) then known fun l => laneOf off l
  else { emptyReg with entry := .pending, vals := off, sym,
                       scale := mkLanes fun l => if lanes.getLsbD l then laneOf scale l else 0 }

/-- Whether a pending result may be recorded in a destination, or is discarded (R31, R138). -/
def holdsPending (d : Operand) : Bool := match d with | .x _ => true | .c _ => true | .zero => true | _ => false

/-- A register that is pending and holds an integer form. -/
def intForm (r : Reg) : Bool := pendMask r != 0 && r.chain.isEmpty

/-- The operand an integer instruction forwards: exactly one pending source, holding an integer form, in a clause
that is not strict (R25, R142). The answer says which of the sources it is. -/
def forwards (x : Ctx) (d : Operand) (ops : List Operand) : Option Nat :=
  let regs := ops.map (regOperand x)
  let pend := (List.range ops.length).filter fun i =>
    match regs.getD i none with
    | some r => pendMask r != 0
    | none => false
  match pend with
  | [i] => if !x.cl.hdr.strict && holdsPending d &&
              (match regs.getD i none with | some r => intForm r && !foundBlocking x r | none => false) then some i else none
  | _ => none

/-- The f64 operations by name. -/
def chainValue (k : ChainKind) (pIsA : Bool) (mode : Nat) (sat : Bool) (f : FFmt) (fz : Bool) (p q c : Nat) : Nat × Nat :=
  let a := if pIsA then p else q
  let b := if pIsA then q else p
  match k with
  | .add => vecResult f mode sat fz [a, b] ((f.val a).add (f.val b) mode)
  | .sub => vecResult f mode sat fz [a, b] ((f.val a).add (f.val b).neg mode)
  | .rsub => vecResult f mode sat fz [a, b] ((f.val a).add (f.val b).neg mode)
  | .mul => vecResult f mode sat fz [a, b] ((f.val a).mul (f.val b))
  | .fma => vecResult f mode sat fz [a, b, c] (((f.val a).mul (f.val b)).bind fun v => v.add (f.val c) mode)

/-- One recorded operation replayed in a lane (R145): f64 is never flushed. -/
def replayOp (o : ChainOp) (l : Nat) (v : Nat × Nat) : Nat × Nat :=
  let f := fmtOf 0
  let r := chainValue o.kind o.pIsA o.mode false f false (fpIn f false false o.negP v.1)
    (fpIn f false false o.negK (laneOf o.known l).toNat) (fpIn f false false o.negC (laneOf o.addend l).toNat)
  (r.1, v.2 ||| r.2)

/-- A register's lane on arrival of its symbol's value (R145): the new register and the flags of the replay. -/
def resolveLane (r : Reg) (l : Nat) (v : Word) : Reg × Nat :=
  if !(pendMask r).getLsbD l then (r, 0)
  else if r.chain.isEmpty then
    let w := laneOf r.scale l * v + laneOf r.vals l
    let scale := mkLanes fun i => if i = l then 0 else laneOf r.scale i
    ({ r with vals := mkLanes fun i => if i = l then w else laneOf r.vals i, scale }, 0)
  else
    let w := r.chain.foldl (fun a o => replayOp o l a) (v.toNat, 0)
    ({ r with vals := mkLanes fun i => if i = l then word w.1 else laneOf r.vals i, pend := r.pend &&& ~~~laneBit l }, w.2)

/-- A pending register with no pending lane left is resident, encoded afresh (R153). -/
def settleReg (lanes : LaneMask) (r : Reg) : Reg :=
  if r.entry == .pending && pendMask r == 0 then encodeReg lanes r.vals else r

/-- A register that lanes no longer wait in: they have exited (R158). It keeps its storage as it stands: an exit re-encodes nothing
(R120). -/
def dropLanes (gone : LaneMask) (r : Reg) : Reg :=
  if r.entry == .pending then
    { r with scale := (mkLanes fun l => if gone.getLsbD l then 0 else laneOf r.scale l), pend := r.pend &&& ~~~gone }
  else r

/-! ## Merging a result into a register (R31, R139) -/

/-- Recorded operations with the known operands of some lanes replaced. -/
def mergeChain (m : LaneMask) (new old : List ChainOp) : List ChainOp :=
  if new.length = old.length then
    (new.zip old).map fun e =>
      { e.1 with known := laneMerge m e.1.known e.2.known, addend := laneMerge m e.1.addend e.2.addend }
  else new

/-- A register after some lanes take a result: the other lanes keep what they held. -/
def mergeReg (m : LaneMask) (new old : Reg) : Reg :=
  let vals := laneMerge m new.vals old.vals
  if new.entry == .pending then
    if new.chain.isEmpty then
      { new with vals, scale := mkLanes fun l =>
          if m.getLsbD l then laneOf new.scale l
          else if old.entry == .pending && old.chain.isEmpty && old.sym == new.sym then laneOf old.scale l else 0 }
    else
      let keep := if old.entry == .pending && old.sym == new.sym then pendMask old else 0
      { new with vals, pend := (new.pend &&& m) ||| (keep &&& ~~~m),
                 chain := if keep = 0 then new.chain else mergeChain m new.chain old.chain }
  else if old.entry == .pending then
    { old with vals, scale := (mkLanes fun l => if m.getLsbD l then 0 else laneOf old.scale l), pend := old.pend &&& ~~~m }
  else { new with vals, entry := .resident }

end Sys2Proof.Machine
end

