-- ==== Sys2Proof/Machine/Clause.lean ====
section
/-!
DEFINITION. Clauses: headers and their checks (R18 to R27), decode traps (R52), start conditions and the choice of the
next clause (R29, R91 to R95, R98), the end of the checking phase (R34, R123, R140, R152), pressure spilling (R125),
register images (R132, R133), and safe-point lookups (R439).
-/

namespace Sys2Proof.Machine

/-! ## Headers and words -/

/-- The fields of a header word (R18). -/
def headerOf (h : Nat) : Header :=
  { negate := h.testBit 21, guard := bits h 20 18, strict := h.testBit 17, yieldBit := h.testBit 16, stop := h.testBit 15,
    trailer := h.testBit 14, wait := bits h 13 11, depth := bits h 10 8, cls := bits h 7 5, count := bits h 4 0 }

/-- The header's own conditions (R21). -/
def headerOk (h : Nat) : Bool :=
  bits h 31 24 == 0xC9 && bits h 23 22 == 0 && !(bits h 13 11 == 0 && bits h 10 8 != 0) && bits h 7 5 ≤ 5 &&
    1 ≤ bits h 4 0 && bits h 4 0 ≤ 24

/-- A register code a trailer may hold (R27). -/
def trailerReg (c : Nat) : Bool := c ≤ 63 || (72 ≤ c && c ≤ 103) || c == 120

/-- A well-formed trailer (R26, R27). -/
def trailerOk (t : Nat) : Bool :=
  bits t 31 24 == 0x9D && bits t 2 0 ≤ 5 && trailerReg (bits t 23 17) && trailerReg (bits t 16 10) && trailerReg (bits t 9 3)

/-- The instructions of a clause as (index, word, second word); `none` where the last one's second word lies beyond
the count (R21). -/
def cutWords : Nat → Nat → List Nat → Option (List (Nat × Nat × Nat))
  | 0, _, _ => some []
  | _ + 1, _, [] => some []
  | fuel + 1, i, w :: r =>
    if opWords (bits w 31 25) = 1 then (cutWords fuel (i + 1) r).map ((i, w, 0) :: ·)
    else match r with
      | [] => none
      | v :: r => (cutWords fuel (i + 2) r).map ((i, w, v) :: ·)

/-- The number of a clause class (R18). -/
def clsNumber : Cls → Nat
  | .alu => 0 | .memory => 1 | .tile => 2 | .special => 3 | .sync => 4 | .system => 5 | .any => 0

/-- Whether an opcode may stand in a clause of a class (R23). -/
def classFits (cls op : Nat) : Bool :=
  match opClass op with
  | none => true
  | some .any => true
  | some .alu => true
  | some c => clsNumber c == cls

/-- R21's conditions on the instructions. -/
def placed (cls : Nat) : List (Nat × Nat × Nat) → Bool
  | [] => true
  | (_, w, v) :: r => classFits cls (bits w 31 25) && (r.isEmpty || !opControl (bits w 31 25) v) && placed cls r

/-- Control registers by number (R396): whether a program may read it, and write it. -/
def csrAccess (n : Nat) : Option (Bool × Bool) :=
  if n = 0x000 || n = 0x002 then some (true, true)
  else if n = 0x001 || n = 0x003 || n = 0x080 then some (true, false)
  else if (0x040 ≤ n && n ≤ 0x049) || n = 0x081 || n = 0x082 then some (false, false)
  else none

/-- The decode trap of a well-formed instruction in its context (R52): register numbers and privilege (R396), the
inherit form (R86), and a barrier's level (R110). What `bar` and `exit.inherit` do in the trap troupe, which has no grid, is open:
DESIGN CHOICE, illegal there (notes/assumptions/30.md). -/
def contextTrap (sup : Bool) (g : Option Grid) (i : Instr) : Option Nat :=
  match i with
  | .csrr f => match csrAccess f.imm.toNat with
    | none => some 0x02
    | some (r, _) => if sup || r then none else some 0x04
  | .csrw f => match csrAccess f.imm.toNat with
    | none => some 0x02
    | some (_, w) => if sup || w then none else some 0x04
  | .exitInherit _ => match g with
    | none => some 0x02
    | some g => if inherits g then none else some 0x02
  | .bar f => match g with
    | none => some 0x02
    | some g =>
      if f.imm.toNat % 8 > shapeGang (gridShape g) || f.imm.toNat % 8 > shapeFields (gridShape g) then some 0x02 else none
  | i => if i.spec.sup && !sup then some 0x04 else none

/-- The first decode trap in word order: index and cause; otherwise the instructions. -/
def decodeAll (sup : Bool) (g : Option Grid) : List (Nat × Nat × Nat) → (Nat × Nat) ⊕ List (Nat × Instr)
  | [] => .inr []
  | (k, w, v) :: r =>
    match decode w v with
    | none => .inl (k, 0x02)
    | some i =>
      match contextTrap sup g i with
      | some c => .inl (k, c)
      | none => match decodeAll sup g r with
        | .inl e => .inl e
        | .inr l => .inr ((k, i) :: l)

/-- Operand fields an instruction uses. -/
def namedOperands (i : Instr) : List Operand :=
  let p := i.spec
  let d (r : DRole) (o : Operand) : List Operand := if r = .none then [] else [o]
  let a (r : SRole) (o : Operand) : List Operand := if r = .none || r = .pred then [] else [o]
  match i.fmt with
  | .A f => d p.d f.d ++ a p.a f.a ++ a p.b f.b
  | .B f => d p.d f.d ++ a p.a f.a
  | .X f => d p.d f.d ++ a p.a f.a ++ a p.b f.b ++ a p.c f.c
  | .L f => d p.d f.d ++ a p.a f.a
  | .M f => d p.d f.d ++ a p.a f.a ++ d p.e f.e
  | .C f => a p.a f.a ++ a p.b f.b
  | .S _ => if i.spec.op = 0x62 then [.x 63] else []
  | .event => []

def xNumbers (os : List Operand) : List Nat :=
  os.filterMap fun o => match o with | .x n => some n.toNat | _ => none

/-- x registers an instruction marks as read last (R48). -/
def marksOf (i : Instr) : List Nat :=
  let m (b : Bool) (o : Operand) : List Operand := if b then [o] else []
  xNumbers (match i.fmt with
    | .A f => m f.la f.a ++ m f.lb f.b
    | .B f => m f.la f.a
    | .X f => m f.la f.a ++ m f.lb f.b ++ m f.lc f.c
    | .L f => m f.la f.a
    | .M f => m f.la f.a ++ m f.ld f.d ++ m f.le f.e
    | .C f => m f.la f.a ++ m f.lb f.b
    | _ => [])

/-- Instructions that a deferred load with an address still to come holds back (R150 item 2). -/
def afterDeferred (i : Instr) : Bool :=
  i.spec.op ∈ [0x42, 0x43, 0x45, 0x46, 0x49, 0x50, 0x51, 0x52, 0x53, 0x54, 0x57, 0x59, 0x5B, 0x6A, 0x6B, 0x75, 0x76, 0x77,
    0x66, 0x3F]

/-! ## Safe points (R439) -/

/-- The ordinal of a clause head that is a stop site. -/
def stopSite (g : Grid) (head : Word) (stop : Bool) : Option Nat :=
  if stop then
    (List.range g.safePoints.length).find? fun i =>
      recEntry g + word ((g.safePoints.getD i (0, 0)).1) == head
  else none

/-- The header word at an address, for stop-site tests at a boundary. -/
def peekWord (s : State) (x : Who) (addr : Word) : Option Nat :=
  match (translate s x 0 addr 4 .fetch).2 with
  | .ok l => some (leNat (peekBytes s l 4))
  | .trap _ _ => none

/-! ## Choosing a clause (R91, R92, R98) -/

/-- The runnable threads at one pc. -/
def subsetAt (t : Troupe) (pc : Word) : LaneMask :=
  maskOf fun l => (threadOf t l).st == .runnable && (threadOf t l).pc == pc

/-- The subsets of a troupe with their last-start times, ascending by time then lowest lane (R97, R98). -/
def subsetsOf (t : Troupe) : List (Nat × Nat × LaneMask) :=
  let firsts := laneList.filter fun l =>
    (threadOf t l).st == .runnable && lowLane (subsetAt t (threadOf t l).pc) == some l
  let subs := firsts.map fun l =>
    let m := subsetAt t (threadOf t l).pc
    (((maskLanes m).map fun k => (threadOf t k).lastStart).foldl min (threadOf t l).lastStart, l, m)
  subs.mergeSort fun a b => decide (a.1 < b.1) || (a.1 == b.1 && decide (a.2.1 ≤ b.2.1))

/-- The subset whose turn it is within a Minuet troupe (R81): ascending from the troupe's next lane. -/
def minuetSubsets (t : Troupe) : List (Nat × Nat × LaneMask) :=
  let byLane := (subsetsOf t).mergeSort fun a b => decide (a.2.1 ≤ b.2.1)
  byLane.filter (fun e => decide (t.turnLane ≤ e.2.1)) ++ byLane.filter (fun e => decide (e.2.1 < t.turnLane))

/-- The slot a troupe position issues on; the trap troupe uses the slot of the troupe it serves (R91), and slot 0 where it
serves a notice, which names no troupe (DESIGN CHOICE, notes/assumptions/30.md). -/
def slotOf (s : State) (core pos : Nat) : Nat :=
  if isSup pos then (match (coreOf s core).service with | some d => d.pos / 16 % 4 | none => 0) else pos / 16

/-- A gang of a grid has been saved and is not yet back: the rotation of a Minuet grid waits for it (R81). -/
def gangSaved (s : State) (ticket : Nat) : Bool := s.dies.any fun d => d.2.pending.any fun p => p.ticket == ticket && p.saved

/-- Candidates of a slot in the order of R92: position, lowest lane, subset. A Minuet troupe of which any lane is parked starts nothing:
there a fault parks the whole troupe (R81). -/
def candidates (s : State) (core slot : Nat) : List (Nat × Nat × LaneMask) :=
  let k := coreOf s core
  let sup := if k.service.isSome && !k.supStopped && slotOf s core 64 == slot then
      match troupeAt s core 64 with
      | some t => if t.clause.isSome then [] else (subsetsOf t).map fun e => (64, e.2.1, e.2.2)
      | none => []
    else []
  let ts := (k.troupes.filter fun e => e.1 < 64 && e.1 / 16 == slot).mergeSort fun a b =>
    decide (a.2.lastStart < b.2.lastStart) || (a.2.lastStart == b.2.lastStart && decide (a.1 ≤ b.1))
  let progs := ts.flatMap fun e =>
    if e.2.suspended || e.2.halted || e.2.clause.isSome || ((groupAt s e.2.group).map fun g => g.closing) == some true then []
    else match gridOfGroup s e.2.group with
      | some g =>
        if isMinuet g then
          (if !gangSaved s (e.2.group / 2 ^ 64) && e.2.parks.isEmpty && !g.turnUsed && some g.turnTroupe == some e.2.tidx && g.turnGroup == e.2.group % 2 ^ 64
           then ((minuetSubsets e.2).take 1).map fun q => (e.1, q.2.1, q.2.2) else [])
        else (subsetsOf e.2).map fun q => (e.1, q.2.1, q.2.2)
      | none => []
  (sup ++ progs).filter fun c => !(k.passed.contains (c.1, c.2.1))

/-! ## Completion tracks (R28) -/

/-- The wait field is satisfied (R18, R29). -/
def waitOk (s : State) (core : Nat) (t : Troupe) (h : Header) : Bool :=
  if h.wait = 0 then true
  else if h.wait = 7 then (List.range 6).all fun k => (openBatches s core t k).length ≤ h.depth
  else (openBatches s core t (h.wait - 1)).length ≤ h.depth

/-- Deferred loads of a troupe whose address is still to come in some lane (R150). -/
def deferredOpen (s : State) (core pos : Nat) : Bool :=
  (coreOf s core).symbols.any fun e => e.2.pos == pos && e.2.dep.isSome &&
    (maskOf fun l => laneOf e.2.depScale l != 0) &&& e.2.lanes &&& ~~~e.2.faulted &&& ~~~e.2.arrived != 0

/-- Throttle level of a core's stop (R410, R421). -/
def coreStop (core : Nat) : Nat := 10 * (1 + core % 64 / 8) + (1 + core % 8)
def throttleOf (s : State) (die stop : Nat) : Throttle := tabGet s.fabric.throttles (die * 100 + stop) restThrottle
def injectionLevel (s : State) (core : Nat) : Nat := (throttleOf s (coreDie core) (coreStop core)).level

/-- Dispatch occupancy of a clause (R94). -/
def occupancy (h : Header) (is : List (Nat × Instr)) (idle : Bool) : Nat :=
  if idle then 1
  else if h.cls = 3 then
    h.count + 4 * (is.filter fun e => e.2.spec.cls == .special).length - ((is.filter fun e => e.2.spec.cls == .special).map fun e => e.2.words).foldl (· + ·) 0
  else h.count

/-- Core cycles from the end of dispatch to the troupe's next start, by class (R94). -/
def spacing (cls : Nat) : Nat :=
  if cls = 3 then 16 else if cls = 1 then 6 else if cls = 5 then 8 else 4

/-! ## Starting -/

/-- Fetches words one by one; the first failure is (cause, reported address) (R20). -/
def fetchWords (s : State) (w : Who) : Nat → Word → State × (Failure ⊕ List Nat)
  | 0, _ => (s, .inr [])
  | n + 1, a =>
    match translate s w 0 a 4 .fetch with
    | (s, .trap c p) => (s, .inl (0, c, p))
    | (s, .ok l) =>
      match fetchWords s w n (a + 4) with
      | (s, .inl f) => (s, .inl f)
      | (s, .inr r) => (s, .inr (leNat (peekBytes s l 4) :: r))

/-- Words of an instruction fetch are poisoned (R454). -/
def fetchPoison (s : State) (w : Who) (n : Nat) (a : Word) : Bool :=
  !s.poison.isEmpty && (List.range n).any fun i => match (translate s w 0 (a + word (4 * i)) 4 .fetch).2 with
    | .ok l => poisoned s l 4
    | .trap _ _ => false

/-- Poison that a group's gang consumes kills it (R454), once. -/
def poisonKill (s : State) (key : Nat) : State :=
  match groupAt s key with
  | none => s
  | some g =>
    let m : Instr := .poisonConsumed g.ticket ((gridAt s g.ticket).map (fun gr => g.index / gangSize gr) |>.getD 0)
    if s.agenda.contains m then s else { s with agenda := m :: s.agenda }

def newClause (head : Word) (hdr : Header) (words : List Nat) (trailer : Nat) (subset active : LaneMask) (cycle slot : Nat)
    (marks : List Nat) : Clause :=
  { head, hdr, words, trailerWord := trailer, cursor := 0, phase := .check, subset, active, started := cycle, temps := [],
    xw := [], kw := [], pw := [], csrw := [], meets := [], marks, flags := 0, control := .none, symbols := [], entries := [],
    parkLanes := 0, parkPages := [], parkTrap := 0, parkAddr := none, parkRemote := 0, parkSyms := [], slot, dead := 0,
    needSyms := 0, needSB := 0, needHi := 0, needLo := 0, needDeferred := 0, replies := [], bandTags := [], slotTags := [],
    openBands := [], appended := [], openFmts := [],
    binds := [], xlat := [] }

/-- Takes the trap of a clause that never started: every lane of the subset, at the head (R33, R35). DESIGN CHOICE
(notes/assumptions/43.md): a fetch that fails (R20) reports and, where it splits, parks every lane of the subset, since no guard has been read;
R35 says so of R21 and R52 only. -/
def startTrap (s : State) (core pos cause : Nat) (addr head : Word) (subset : LaneMask) : State :=
  takeTrap (modCore s core fun k => { k with passed := [] }) core pos cause addr subset subset (mkLanes fun _ => head) []

/-- The pages of some lanes that fit in the park table, lane by lane: the recorded pages, and the lanes they belong to (R389, R390). -/
def fitPages (room : Nat) (pages : List (Nat × Nat)) (lanes : LaneMask) : List Nat × LaneMask :=
  (maskLanes lanes).foldl (fun a l =>
    let new := distinct ((pages.filter fun e => e.1 == l && !a.1.contains e.2).map fun e => e.2)
    if a.1.length + new.length ≤ room then (a.1 ++ new, a.2 ||| laneBit l) else a) ([], 0)

/-- Pages that the parked sub-troupes of a core have recorded. -/
def parkedPages (k : CoreSt) : Nat := (k.troupes.map fun e => (e.2.parks.map fun p => p.pages.length).foldl (· + ·) 0).foldl (· + ·) 0

/-- What a split parks: lanes and those that raised 0x10, the address reported, the missing pages by lane, the lanes whose access was a
peer's, and the faulted symbols consumed (R35, R389, R390). -/
structure Split where
  lanes : LaneMask
  trapLanes : LaneMask
  addr : Option Word
  pages : List (Nat × Nat)
  remote : LaneMask
  syms : List Nat

/-- Records lanes' missing pages and makes the park delivery (R389, R390): the recorded pages are walked once more at once; lanes whose
pages do not fit or lie at a peer wait for the retry. The lanes wait, or keep their own states (R140); all of them together where the
clause cannot run for some alone. -/
def recordPark (s : State) (core pos : Nat) (head : Word) (p : Split) (own whole : Bool) : State :=
  let fit := fitPages (2048 - parkedPages (coreOf s core)) p.pages (p.lanes &&& ~~~p.remote)
  let late := if whole && fit.2 != p.lanes then p.lanes else p.lanes &&& ~~~fit.2
  let soon := p.lanes &&& ~~~late
  let id := (coreOf s core).nextPark
  let k : Park := { id, lanes := soon, pages := fit.1, retry := none, syms := p.syms }
  let r : Park := { id := id + 1, lanes := late, pages := [], retry := some (s.cycle + 16384), syms := p.syms }
  let s := modCore s core fun c => { c with nextPark := id + 2 }
  let s := modTroupe s core pos fun t =>
    let t := { t with parks := t.parks ++ (if soon = 0 then [] else [k]) ++ (if late = 0 then [] else [r]) }
    modThreads t (if own then 0 else p.lanes) fun l h => { h with st := .parked (if soon.getLsbD l then id else id + 1), pc := head }
  let s := match p.addr, troupeAt s core pos with
    | some a, some t => raiseDelivery s core (deliveryOf s .park 0x10 a p.trapLanes p.lanes (mkLanes fun _ => head) pos t [])
    | _, _ => s
  if soon = 0 then s else rewalkPark s (fun _ => true) core pos k

/-- What a clause's check found to park, over the lanes that park (R34). -/
def splitOf (cl : Clause) (lanes : LaneMask) : Split :=
  { lanes, trapLanes := cl.parkTrap, addr := cl.parkAddr.map fun e => e.2.2, pages := cl.parkPages, remote := cl.parkRemote &&& lanes, syms := cl.parkSyms }

/-- A fetch that does not translate parks the whole subset (R20, R34): DESIGN CHOICE, as `startTrap` says. -/
def fetchSplit (s : State) (core : Nat) (subset : LaneMask) (f : Failure) : Split :=
  { lanes := subset, trapLanes := if f.2.1 = 0x10 then subset else 0, addr := if f.2.1 = 0x10 then some f.2.2 else none,
    pages := (maskLanes subset).map fun l => (l, pageOf f.2.2), remote := if remoteFailure s core f.2.2 then subset else 0, syms := [] }

/-- A slot's start of one candidate: fetch, R21, decode traps, then the conditions that need no look at operands
(R29). `none` where it is not ready. DESIGN CHOICE (notes/assumptions/43.md): a memory clause with no active lane waits for its wait field
alone, as R22 says, and neither for the injection level nor for an acquire, which R29 and R361 ask of every memory clause. -/
def tryStart (s : State) (core slot pos : Nat) (subset : LaneMask) : Option State :=
  match troupeAt s core pos with
  | none => none
  | some t =>
    if t.clause.isSome then none
    else
    let head := (threadOf t ((lowLane subset).getD 0)).pc
    let g := gridOfGroup s t.group
    let w : Who := if isSup pos then ⟨core, true, 0, 0⟩ else ⟨core, false, troupeKey s t, t.group⟩
    let fetchFail (s : State) (f : Failure) : Option State :=
      let s := modCore s core fun k => { k with passed := [] }
      if splits f.2.1 && !(isSup pos && f.2.1 = 0x10) then
        some (recordPark s core pos head (fetchSplit s core subset f) false (minuetTroupe s t))
      else some (startTrap s core pos f.2.1 f.2.2 head subset)
    match fetchWords s w 1 head with
    | (s, .inl f) => fetchFail s f
    | (s, .inr ws) =>
      let h := ws.headD 0
      if !headerOk h then some (startTrap s core pos 0x01 head head subset)
      else
        let hdr := headerOf h
        match fetchWords s w (hdr.count + (if hdr.trailer then 1 else 0)) (head + 4) with
        | (s, .inl f) => fetchFail s f
        | (s, .inr ws) =>
          let words := ws.take hdr.count
          let trailer := ws.getD hdr.count 0
          if fetchPoison s w (1 + ws.length) head && !isSup pos then some (poisonKill (modCore s core fun k => { k with passed := [] }) t.group) else
          match cutWords 24 0 words with
          | none => some (startTrap s core pos 0x01 head head subset)
          | some cut =>
            if !placed hdr.cls cut || (hdr.trailer && !trailerOk trailer) then
              some (startTrap s core pos 0x01 head head subset)
            else match decodeAll (isSup pos) g cut with
              | .inl (k, cause) => some (startTrap s core pos cause (head + word (4 * (1 + k))) head subset)
              | .inr is =>
                let active := maskOf fun l => subset.getLsbD l && (predOf t hdr.guard l != hdr.negate)
                let ready :=
                  t.nextStart ≤ s.cycle && waitOk s core t hdr &&
                  (active = 0 ||
                    ((!hdr.trailer || (openBatches s core t (bits trailer 2 0)).length < 8) &&
                     (hdr.cls != 1 || (injectionLevel s core ≤ 3 && t.acquires.isEmpty)) &&
                     !(deferredOpen s core pos && is.any fun e => afterDeferred e.2) &&
                     !(is.any fun e => (xNumbers (namedOperands e.2)).any fun n => (regOf t n).entry == .spilled)))
                if !ready then none
                else
                  let cl := newClause head hdr words trailer subset active s.cycle slot (is.flatMap fun e => marksOf e.2)
                  let cl := { cl with misses := (coreOf s core).tlbMisses }
                  some { setTroupe s core pos { t with clause := some cl } with focus := some (core, pos) }

/-- Goes through the candidates in order until one starts, traps or parks (R92). -/
def startFirst (s : State) (core slot : Nat) : List (Nat × Nat × LaneMask) → State
  | [] => modCore s core fun k => { k with passed := [] }
  | (pos, lane, m) :: r =>
    match tryStart s core slot pos m with
    | some s' => s'
    | none => startFirst (modCore s core fun k => { k with passed := k.passed ++ [(pos, lane)] }) core slot r

/-! ## Storage and spilling (R123 to R128, R132, R133) -/

/-- A register image (R132): format byte, base, deltas. -/
def imageFields (f : Nat) (base : Word) (v : Lanes) : List Byte :=
  let head : List Byte := BitVec.ofNat 8 f :: List.replicate 7 0
  if f = 4 then head ++ laneList.flatMap fun l => leBytes 8 (laneOf v l).toNat
  else
    let n := if f = 0 then 0 else 2 ^ (f - 1)
    head ++ leBytes 8 base.toNat ++ laneList.flatMap fun l => leBytes n (laneOf v l - base).toNat

/-- The image of values encoded afresh over some lanes; the others are stored as the base (R119, R135). -/
def imageOf (lanes : LaneMask) (v : Lanes) : List Byte :=
  let base := laneOf v ((lowLane lanes).getD 0)
  imageFields (chooseFmt lanes v) base (mkLanes fun l => if lanes.getLsbD l then laneOf v l else base)

/-- The image of a resident register in the format it is held in (R120, R126). -/
def regImage (r : Reg) : List Byte := imageFields r.fmt r.base r.vals

def imageLength (f : Nat) : Nat := if f = 0 then 16 else if f = 4 then 264 else 16 + 32 * 2 ^ (f - 1)

/-- A well-formed format byte (R133). -/
def imageOk (b : Byte) : Bool := b.toNat ≤ 4

/-- Lane l of an image (R133). -/
def imageLane (img : List Byte) (l : Nat) : Word :=
  let f := (img.headD 0).toNat
  let at_ (o n : Nat) : Nat := leNat ((img.drop o).take n)
  if f = 4 then word (at_ (8 + 8 * l) 8)
  else
    let base := word (at_ 8 8)
    if f = 0 then base
    else
      let n := 2 ^ (f - 1)
      base + word (ofSigned 64 (toSigned (8 * n) (at_ (16 + n * l) n)))

def spillAddr (k : CoreSt) (pos reg : Nat) : Word :=
  word (k.spillbase.toNat / 65536 * 65536 + (pos * 64 + reg) * 320)

/-- Granules that a troupe's registers and the reservation of its running clause hold (R123). -/
def holding (t : Troupe) : Nat :=
  (t.regs.map fun e => granules e.2).foldl (· + ·) 0 + ((t.clause.map fun c => c.reserved).getD 0)

def unusedMin (t : Troupe) : Nat := t.regmin - holding t

def programTroupes (k : CoreSt) : List (Nat × Troupe) := k.troupes.filter fun e => e.1 < 64

/-- Granules of some registers. -/
def regGranules (regs : Tab Reg) : Nat := (regs.map fun e => granules e.2).foldl (· + ·) 0

/-- Granules that retained sets hold (R130). -/
def retainedHolding (k : CoreSt) : Nat :=
  (k.retained.map fun r => (r.sets.map fun e => regGranules e.2).foldl (· + ·) 0).foldl (· + ·) 0

/-- Granules of the program pool that no register, reservation, retained set or moving spill holds (R116). -/
def freeGranules (k : CoreSt) : Nat :=
  8064 - ((programTroupes k).map fun e => holding e.2).foldl (· + ·) 0 - retainedHolding k

/-- The granules a core's troupes and retained sets keep from others: holdings or minimums, whichever is more. -/
def poolUse (held : Nat × Troupe → Nat) (k : CoreSt) : Nat :=
  ((programTroupes k).map fun e => max (held e) e.2.regmin).foldl (· + ·) 0 + retainedHolding k

/-- What the core keeps where restores reserve granules, by troupe position (R116, R124, R137). -/
def poolTakes (need : Tab Nat) (k : CoreSt) : Nat := poolUse (fun e => max (holding e.2) (tabGet need e.1 0)) k

/-- What a troupe may take now: its unused minimum and the free granules beyond every minimum (R123, R124). -/
def available (k : CoreSt) (t : Troupe) : Nat :=
  unusedMin t + (freeGranules k - ((programTroupes k).map fun e => unusedMin e.2).foldl (· + ·) 0)

/-- The first waiting request that can be served: shared resources go in the order of the requests (R124, R152). -/
def firstWaiting (k : CoreSt) (waits : List Nat) : Option Nat :=
  waits.find? fun p => match tabGet? k.troupes p with
    | some t => !t.suspended && !t.halted
    | none => false

/-- Whether a troupe's request is the next to be served. -/
def isNext (k : CoreSt) (waits : List Nat) (pos : Nat) : Bool :=
  match firstWaiting k waits with | none => true | some p => p == pos

def joinWait (waits : List Nat) (pos : Nat) : List Nat := if waits.contains pos then waits else waits ++ [pos]

/-- A reservation can be met: from the troupe's own minimum, or from the shared granules in its turn (R123, R124). -/
def regsFit (k : CoreSt) (pos : Nat) (t : Troupe) (need : Nat) : Bool :=
  decide (need ≤ unusedMin t) || (decide (need ≤ available k t) && isNext k k.waitRegs pos)

/-- Granules that spills of a troupe under way will free (R126). -/
def moving (k : CoreSt) (pos : Nat) (t : Troupe) : Nat :=
  ((k.spills.filter fun e => e.1 == pos).map fun e => granules (regOf t e.2)).foldl (· + ·) 0

/-- A troupe's holding once the spills under way are acknowledged. -/
def holdingAfter (k : CoreSt) (e : Nat × Troupe) : Nat := holding e.2 - moving k e.1 e.2

/-- What a troupe may take once the spills under way are acknowledged. -/
def availableAfter (k : CoreSt) (pos : Nat) (t : Troupe) : Nat :=
  let held := ((programTroupes k).map (holdingAfter k)).foldl (· + ·) 0
  let unused := ((programTroupes k).map fun e => e.2.regmin - holdingAfter k e).foldl (· + ·) 0
  (t.regmin - holdingAfter k (pos, t)) + (8064 - held - retainedHolding k - unused)

/-- A delivery of 0x17, with the register that was being moved: the troupe waits for `tret` (R128, R394). -/
def spillFault (s : State) (core pos reg : Nat) (back : Bool) (addr : Word) : State :=
  match troupeAt s core pos with
  | none => s
  | some t =>
    let s := raiseDelivery s core { deliveryOf s .spill 0x17 addr 0 0 [] pos t [] with move := some (reg, back) }
    modTroupe s core pos fun t => { endNaps t with suspended := true }

/-- Writes bytes as the core's stores, byte by byte. -/
def storeBytes (s : State) (core : Nat) (l : Loc) (bs : List Byte) : State :=
  (List.range bs.length).foldl (fun s i =>
    let p := l.plus i
    coreStore s core (p.align 64) [(p.key % 64, bs.getD i 0)]) s

/-- Reads bytes as the core's loads. -/
def loadBytes (s : State) (core : Nat) (l : Loc) (n : Nat) : State × List Byte :=
  (List.range n).foldl (fun a i =>
    let r := coreLoad a.1 core (l.plus i) 1
    (r.1, a.2 ++ r.2)) (s, [])

/-- The sectors of a range of the spill area, with supervisor privilege; or the first address that fails (R128). -/
def spillSectors (s : State) (core : Nat) (a : Word) (n : Nat) (kind : Access) : State × (Word ⊕ List Loc) :=
  (List.range (ceilDiv n 64)).foldl (fun r i =>
    match r.2 with
    | .inl _ => r
    | .inr ls => match translate r.1 ⟨core, true, 0, 0⟩ 0 (a + word (64 * i)) 64 kind with
      | (s, .trap _ _) => (s, .inl (a + word (64 * i)))
      | (s, .ok l) => (s, .inr (ls ++ [l]))) (s, .inr [])

/-- Writes a resident register's image to the spill area (R126). -/
def startSpill (s : State) (core pos reg : Nat) : State :=
  match troupeAt s core pos with
  | none => s
  | some t =>
    let img := regImage (regOf t reg)
    match spillSectors s core (spillAddr (coreOf s core) pos reg) img.length .write with
    | (s, .inl a) => spillFault s core pos reg false a
    | (s, .inr ls) =>
      let s := (List.range ls.length).foldl (fun s i =>
        storeBytes s core (ls.getD i default) ((img.drop (64 * i)).take 64)) s
      modCore s core fun k => { k with spills := k.spills ++ [(pos, reg)] }

/-- Reads the image of a spilled register from where it was spilled to (R127, R130). -/
def readSpill (s : State) (core home reg : Nat) : State × (Word ⊕ List Byte) :=
  let a := spillAddr (coreOf s core) home reg
  match spillSectors s core a 16 .read with
  | (s, .inl a) => (s, .inl a)
  | (s, .inr ls) =>
    let r := loadBytes s core (ls.headD default) 16
    match spillSectors r.1 core a (imageLength (r.2.headD 0).toNat) .read with
    | (s, .inl a) => (s, .inl a)
    | (s, .inr ls) =>
      let r := ls.foldl (fun q l => let n := loadBytes q.1 core l 64; (n.1, q.2 ++ n.2)) (s, [])
      (r.1, .inr r.2)

/-- The registers of a clause's words. -/
def clauseNamed (cl : Clause) : List Nat :=
  match cutWords 24 0 cl.words with
  | none => []
  | some c => c.flatMap fun e => match decode e.2.1 e.2.2 with
    | none => []
    | some i => xNumbers (namedOperands i)

/-- Whether a register's place in the spill area holds an image that is still wanted (R126, R130): of a set that a group left and
another has taken, or that is retained. DESIGN CHOICE: a register whose place is taken so is not spilled (notes/assumptions/40.md);
R126 and R130 say nothing of the two images at one address. -/
def spillHeld (k : CoreSt) (pos n : Nat) : Bool :=
  let held (e : Nat × Reg) : Bool := e.1 == n && e.2.entry == .spilled && e.2.home == pos
  k.troupes.any (fun t => t.2.regs.any held) || k.retained.any fun r => r.sets.any fun q => q.2.any held

/-- Registers of a troupe that pressure may spill, highest first (R125). -/
def spillable (k : CoreSt) (pos : Nat) (t : Troupe) (keep : List Nat) : List Nat :=
  ((List.range 64).reverse).filter fun n =>
    (regOf t n).entry == .resident && !keep.contains n && !k.spills.contains (pos, n) && !spillHeld k pos n

/-- The registers of a troupe that a victim keeps: those its running clause names. DESIGN CHOICE: the waiting troupe itself, where it is
the victim, keeps those its waiting clause names too, which R125 says of step 3 only (notes/assumptions/40.md): a register spilled and
read back for one clause would never let it start. -/
def keptRegs (pos : Nat) (named : List Nat) (e : Nat × Troupe) : List Nat :=
  ((e.2.clause.map clauseNamed).getD []) ++ (if e.1 = pos then named else [])

/-- A troupe or spill delivery of a troupe is outstanding: no register of it is moved until it is served, for a troupe has one at most (R128,
R395). -/
def spillWaits (k : CoreSt) (pos : Nat) : Bool :=
  (k.deliveries ++ k.service.toList).any fun d => (d.kind == .spill || d.kind == .troupe) && d.pos == pos && !d.void

/-- The victim of R125: the troupe with most above its minimum that has a register to spill; ties to the lower position. -/
def victimOf (k : CoreSt) (kept : Nat × Troupe → List Nat) : Option (Nat × Troupe) :=
  let excess (e : Nat × Troupe) : Nat := holdingAfter k e - e.2.regmin
  let above := (programTroupes k).filter fun e => excess e != 0 && !spillWaits k e.1 && !(spillable k e.1 e.2 (kept e)).isEmpty
  (above.mergeSort fun a b => decide (excess b < excess a) || (excess a == excess b && decide (a.1 ≤ b.1))).head?

/-- Spills the given registers of a troupe in order until enough is under way, or, for a victim, until its holding is at its minimum. -/
def spillWhile (core pos : Nat) (victim : Bool) (met : CoreSt → Bool) : State → List Nat → State
  | s, [] => s
  | s, n :: r =>
    let k := coreOf s core
    let low := (tabGet? k.troupes pos).map (fun t => decide (holdingAfter k (pos, t) ≤ t.regmin)) == some true
    if met k || spillWaits k pos || (victim && low) then s
    else spillWhile core pos victim met (startSpill s core pos n) r

/-- Steps 2 of R125: victims, each spilled down to its minimum before the next is chosen. -/
def spillVictims (core : Nat) (kept : Nat × Troupe → List Nat) (met : CoreSt → Bool) : Nat → State → State
  | 0, s => s
  | fuel + 1, s =>
    let k := coreOf s core
    match (if met k then none else victimOf k kept) with
    | none => s
    | some (p, v) => spillVictims core kept met fuel (spillWhile core p true met s (spillable k p v (kept (p, v))))

/-- Step 1 of R125: retained sets go, the oldest first. -/
def dropSets (core : Nat) (met : CoreSt → Bool) (s : State) : State :=
  (coreOf s core).retained.foldl (fun s _ => if met (coreOf s core) then s else modCore s core fun k => { k with retained := k.retained.drop 1 }) s

/-- Frees granules in the order of R125 until what is under way meets a request. -/
def relieve (s : State) (core pos : Nat) (met : CoreSt → Bool) (kept : Nat × Troupe → List Nat) : State :=
  let s := dropSets core met s
  if met (coreOf s core) || !(coreOf s core).spillbase.getLsbD 0 then s
  else
    let s := spillVictims core kept met 64 s
    match troupeAt s core pos with
    | some t => spillWhile core pos false met s (spillable (coreOf s core) pos t (kept (pos, t)))
    | none => s

/-- R125 for a restore (R137): room for what the restored state `q` brings to a core. -/
def relieveFor (s q : State) (core : Nat) (need : Tab Nat) : State :=
  let now := poolUse (fun e => holding e.2) (coreOf s core)
  let then_ := poolTakes need (coreOf q core)
  relieve s core 65 (fun k => decide (poolUse (holdingAfter k) k + then_ ≤ 8064 + now)) (keptRegs 65 [])

/-- R125 for a clause's request of some granules; its clause names some registers. -/
def relieveClause (s : State) (core pos need : Nat) (named : List Nat) : State :=
  relieve s core pos (fun k => match tabGet? k.troupes pos with
    | some t => decide (need ≤ availableAfter k pos t)
    | none => true) (keptRegs pos named)

/-! ## The end of the checking phase -/

/-- Symbol entries that a started clause holds and has not yet taken (R29, R152). -/
def promisedSymbols (t : Troupe) : Nat :=
  match t.clause with
  | some cl => if cl.phase == .check then 0 else cl.needSyms - cl.symbols.length
  | none => 0

/-- Symbol entries of a troupe: live ones and those its running clause holds (R151). -/
def liveSymbols (s : State) (core pos : Nat) : Nat :=
  ((coreOf s core).symbols.filter fun e => e.2.pos == pos).length + ((troupeAt s core pos).map promisedSymbols).getD 0

/-- Symbol entries of a core that are in use (R151). -/
def usedEntries (k : CoreSt) : Nat := k.symbols.length + (k.troupes.map fun t => promisedSymbols t.2).foldl (· + ·) 0

def deferredCount (s : State) (core pos : Nat) : Nat :=
  ((coreOf s core).symbols.filter fun e => e.2.pos == pos && e.2.dep.isSome &&
    (maskOf fun l => laneOf e.2.depScale l != 0) &&& e.2.lanes &&& ~~~e.2.faulted &&& ~~~e.2.arrived != 0).length

/-- A troupe's own limit of live symbols (R151). -/
def symbolsOwn (s : State) (core pos need : Nat) : Bool := decide (liveSymbols s core pos + need ≤ 128)

/-- The symbol pool has room: 128 for a troupe, 1,024 for the core; from a program troupe's own eight entries, or from those kept for no
other troupe in the order of the requests (R151, R152). -/
def symbolsFit (s : State) (core pos need : Nat) : Bool :=
  let k := coreOf s core
  let mine := liveSymbols s core pos
  let kept := ((programTroupes k).map fun e => if e.1 = pos then 0 else 8 - liveSymbols s core e.1).foldl (· + ·) 0
  need = 0 || (symbolsOwn s core pos need && decide (usedEntries k + need ≤ 1024) &&
    ((!isSup pos && decide (mine + need ≤ 8)) || (decide (usedEntries k + kept + need ≤ 1024) && isNext k k.waitSyms pos)))

/-- Entries of a core's tile queue that stand in it, or that a started clause will enqueue at its commit (R263). -/
def queueUsed (k : CoreSt) (hi : Bool) : Nat :=
  (if hi then k.tileHi else k.tileLo).length + (k.troupes.map fun t => match t.2.clause with
    | some cl => if cl.phase == .check then 0 else if hi then cl.needHi else cl.needLo
    | none => 0).foldl (· + ·) 0

/-- A recorded pending result would leave the register on two symbols or two chains (R140): the lanes outside the
clause's active lanes that must settle first. -/
def mixedLanes (t : Troupe) (active : LaneMask) (n : Nat) (r : Reg) : LaneMask :=
  let old := regOf t n
  let rest := pendMask old &&& ~~~active
  let shape (c : List ChainOp) : List (ChainKind × Bool × Bool × Bool × Nat × Bool) :=
    c.map fun o => (o.kind, o.negP, o.negK, o.negC, o.mode, o.pIsA)
  if r.entry != .pending then 0
  else if old.sym = r.sym && shape old.chain == shape r.chain then 0
  else rest

/-- The clause as it begins to perform: everything the check recorded is forgotten (R30). -/
def toPerform (cl : Clause) (subset active : LaneMask) : Clause :=
  { newClause cl.head cl.hdr cl.words cl.trailerWord subset active cl.started cl.slot cl.marks with
    phase := .perform, xlat := cl.xlat, again := cl.again, reserved := cl.reserved, misses := cl.misses,
    needHi := cl.needHi, needLo := cl.needLo, needSyms := cl.needSyms }

/-- The clause checked again for the lanes that did not park: what its lowest active lane decides is decided afresh (R34, R135). -/
def checkAgain (cl : Clause) (subset active : LaneMask) : Clause :=
  { newClause cl.head cl.hdr cl.words cl.trailerWord subset active cl.started cl.slot cl.marks with again := true, misses := cl.misses }

/-- A memory clause that missed the TLB ends its spacing with the translate phase (R94). -/
def endSpacing (s : State) (x : Ctx) : State :=
  if x.cl.hdr.cls = 1 && (coreOf s x.core).tlbMisses != x.cl.misses then
    modTroupe s x.core x.pos fun t => { t with nextStart := min t.nextStart s.cycle }
  else s

/-- Marks the start at the slot and in the threads (R92, R95, R98), ends the part of plain yields that waited for this troupe (R87),
and uses the troupe's Minuet turn where the clause completes (R81). -/
def noteStart (s : State) (x : Ctx) (subset : LaneMask) (completes : Bool) : State :=
  let is := match cutWords 24 0 x.cl.words with
    | none => []
    | some c => c.filterMap fun e => (decode e.2.1 e.2.2).map fun i => (e.1, i)
  let occ := occupancy x.cl.hdr is (x.cl.active == 0)
  let slot := x.cl.slot
  let next := s.cycle + occ + spacing x.cl.hdr.cls
  let s := modCore s x.core fun k =>
    { k with passed := [], slotBusy := tabPut k.slotBusy slot (s.cycle + occ),
             slotIssues := tabPut k.slotIssues slot (tabGet k.slotIssues slot 0 + 1),
             waitRegs := k.waitRegs.filter (· != x.pos), waitSyms := k.waitSyms.filter (· != x.pos),
             troupes := tabMap k.troupes fun p t =>
               if slotOf s x.core p = slot then
                 { t with threads := tabMap t.threads fun _ h =>
                     match h.st with
                     | .yielded o til => { h with st := .yielded (o.filter (· != x.pos)) til }
                     | _ => h }
               else t }
  let s := modGrid s (x.t.group / 2 ^ 64) fun g => if isMinuet g && completes then { g with turnUsed := true } else g
  modTroupe s x.core x.pos fun t =>
    let t := { t with blocked := t.blocked.filter fun e => e.1 != x.cl.head.toNat }
    let t := { t with turnLane := (if completes then (lowLane subset).getD 0 + 1 else t.turnLane),
                      lastStart := s.cycle + (if x.cl.hdr.yieldBit then 1 else 0), nextStart := next }
    modThreads t subset fun _ h => { h with lastStart := s.cycle }

/-- The surfacing of faults in lanes that recorded results would overwrite around (R140): a squashing cause squashes, the lowest first;
otherwise the faulted loads of all of them are reissued through one park, which leaves the lanes' own states alone. -/
def surfaceMixed (s : State) (x : Ctx) (mixed : List (Reg × LaneMask)) : Option State :=
  let bad := (mixed.map fun e => (e.1, e.2 &&& faultedIn s x.core e.1)).filter fun e => e.2 != 0
  let recs := bad.flatMap fun e => (maskLanes e.2).map fun l => faultRecord s x.core e.1 l
  let syms := distinct (bad.map fun e => e.1.sym)
  match recs.filter fun q => !splits q.2.1 with
  | q :: r =>
    let cause := r.foldl (fun c g => min c g.2.1) q.2.1
    let mine := recs.filter fun g => g.2.1 == cause
    let low := (maskOf fun l => mine.any fun g => g.1 == l)
    some (squash s x cause (((lowLane low).bind fun l => (mine.find? fun g => g.1 == l).map fun g => g.2.2).getD 0) low syms)
  | [] =>
    if recs.isEmpty then none
    else
      let ten := (recs.filter fun q => q.2.1 == 0x10).mergeSort fun a b => decide (a.1 ≤ b.1)
      if isSup x.pos && !ten.isEmpty then some (supervisorFault s x.core 0x10 ((ten.head?.map fun q => q.2.2).getD 0))
      else
        let parked := (x.t.parks.filter fun k => syms.all fun i => k.syms.contains i).foldl (fun m k => m ||| k.lanes) 0
        let new := recs.filter fun q => !parked.getLsbD q.1
        let maskNew (p : Failure → Bool) : LaneMask := maskOf fun l => new.any fun q => q.1 == l && p q
        if new.isEmpty then some (notStarted s x)
        else
          some (recordPark (notStarted s x) x.core x.pos x.cl.head
            { lanes := maskNew fun _ => true, trapLanes := maskNew fun q => q.2.1 == 0x10,
              addr := (ten.find? fun q => !parked.getLsbD q.1).map fun q => q.2.2,
              pages := new.map fun q => (q.1, pageOf q.2.2), remote := maskNew fun q => remoteFailure s x.core q.2.2, syms } true false)

/-! ## Bindings (R367, R376) -/

/-- A pointer as a region's space and base, with the issuing group's own member for 0xF (R298, R376). -/
def regionBase (member ptr : Nat) : Nat :=
  let sp := bits ptr 63 60
  if sp = 14 then
    let m := bits ptr 55 52
    14 * 2 ^ 60 + (if m = 15 then member else m) * 2 ^ 39 + bits ptr 18 9
  else bits ptr 51 9

/-- Whether two region words share a line; a member 0xF written by the control node stands for every member. -/
def regionsOverlap (a b : Nat) : Bool :=
  let span (r : Nat) : Nat × Nat := if bits r 63 60 = 14 then (bits r 9 0, bits r 59 44) else (bits r 42 0, bits r 59 44)
  let sameSpace :=
    if bits a 63 60 = 14 then
      bits b 63 60 == 14 && (bits a 42 39 == bits b 42 39 || bits a 42 39 == 15 || bits b 42 39 == 15)
    else bits b 63 60 != 14
  sameSpace && decide ((span a).1 < (span b).1 + (span b).2) && decide ((span b).1 < (span a).1 + (span a).2)

/-- A region word without its length. -/
def regionStart (r : Nat) : Nat := r - bits r 59 44 * 2 ^ 44

/-- Live entries of a grid's binding table. -/
def liveBindings (g : Grid) : Tab (Word × Word) := g.bindings.filter fun e => bits e.2.1.toNat 59 44 != 0

/-- The cause and address of a scratchpad pointer that R232 refuses. -/
def spRefuses (s : State) (x : Ctx) (ptr : Word) (size : Nat) : Option (Nat × Word) :=
  if bits ptr.toNat 63 60 = 14 then
    match spTranslate s (whoOf s x).group ptr size with
    | .trap c a => some (c, a)
    | .ok _ => none
  else none

/-- A pointer that is equal to the base of some region: a line of space 0x0, 0x1 or 0xE, with no bit set that the form leaves out
(R232, R298, R325). -/
def exactBase (ptr : Nat) : Bool :=
  ptr % 512 == 0 && (match bits ptr 63 60 with
    | 0 => bits ptr 59 52 == 0
    | 1 => bits ptr 59 52 == 0
    | 14 => bits ptr 59 56 == 0 && bits ptr 51 19 == 0
    | _ => false)

/-- One `bind` or `unbind` against the arbiter's copy (R376): the trap, or the entry that changes. -/
def bindOne (s : State) (x : Ctx) (g : Grid) (member : Nat) (r : BindReq) : (Nat × Word) ⊕ (Nat × Word × Word) :=
  let base := r.base.toNat
  if r.unbind then
    match (liveBindings g).find? (fun e => regionStart e.2.1.toNat == regionBase member base && exactBase base) with
    | none => .inl (0x36, r.base)
    | some e => .inr (e.1, setBits e.2.1 59 44 0, e.2.2)
  else
    let sp := bits base 63 60
    let osp := bits r.obj.toNat 63 60
    let len := r.len.toNat
    if base % 512 ≠ 0 then .inl (0x03, r.base)
    else if sp ∉ [0, 1, 14] then .inl (0x20, r.base)
    else if len = 0 || len % 512 ≠ 0 || len > 65535 * 512 || osp ∉ [0, 1, 2, 14] then .inl (0x36, r.base)
    else match (spRefuses s x r.base len).or (spRefuses s x r.obj 1) with
      | some e => .inl e
      | none =>
        let region := regionBase member base + len / 512 * 2 ^ 44
        match (List.range 4096).find? (fun i => bits (tabGet g.bindings i (0, 0)).1.toNat 59 44 == 0) with
        | none => .inl (0x35, r.base)
        | some i =>
          if recWord g 6 = 0 then .inl (0x35, r.base)
          else if (liveBindings g).any (fun e => regionsOverlap region e.2.1.toNat) then .inl (0x30, r.base)
          else
            let obj := if osp = 14 && bits r.obj.toNat 55 52 = 15 then setBits r.obj 55 52 member else r.obj
            .inr (i, word region, obj)

/-- The bindings of one clause, in word order (R376): the first trap, or the grid with its changed entries. -/
def bindAll (s : State) (x : Ctx) (member : Nat) : Grid → List Nat → List BindReq → (BindReq × Nat × Word) ⊕ (Grid × List Nat)
  | g, ch, [] => .inr (g, ch)
  | g, ch, r :: rest =>
    match bindOne s x g member r with
    | .inl (c, a) => .inl (r, c, a)
    | .inr (i, region, obj) => bindAll s x member { g with bindings := tabPut g.bindings i (region, obj) } (ch ++ [i]) rest

/-- Writes a changed entry through to the table in memory; a fault sends an event (R367). -/
def writeBinding (s : State) (x : Ctx) (g : Grid) (i : Nat) : State :=
  let e := tabGet g.bindings i (0, 0)
  let p := word (recWord g 6 + 16 * i)
  match translate s { whoOf s x with sup := false } 0 p 16 .write with
  | (s, .ok l) => homeWrite s l (leBytes 8 e.1.toNat ++ leBytes 8 e.2.toNat)
  | (s, .trap c a) => send s (.event evBind c a.toNat (x.t.group / 2 ^ 64))

/-- The arbiter's step (R376): `inl` is the squashed state. -/
def bindStep (s : State) (x : Ctx) : State ⊕ State :=
  match groupAt s x.t.group, gridOfGroup s x.t.group with
  | some gr, some g =>
    match bindAll s x gr.member g [] x.cl.binds with
    | .inl (_, c, a) => .inl (squash s x c a x.cl.active [])
    | .inr (g', ch) => .inr (ch.foldl (fun s i => writeBinding s x g' i) (setGrid s gr.ticket g'))
  | _, _ => match x.cl.binds with
    | r :: _ => .inl (squash s x 0x35 r.base x.cl.active [])
    | [] => .inr s

/-- The store buffer has room for what the clause takes; a clause that takes more than a whole buffer starts when the buffer is
empty, and drains it as it performs (R29, R363, R469). -/
def storesFit (t : Troupe) (need : Nat) : Bool := decide (t.sb.length + need ≤ 64) || (decide (need > 64) && t.sb.isEmpty)

/-- The lanes that park (R34): in Minuet the whole troupe (R81), with bindings every active lane (R376); a squashing trap parks
none (R35). -/
def parkedLanes (s : State) (x : Ctx) : LaneMask :=
  if x.cl.trap.isSome || x.cl.parkLanes = 0 then 0
  else if minuetTroupe s x.t then x.cl.subset
  else if !x.cl.binds.isEmpty then x.cl.active
  else x.cl.parkLanes

/-- What a register reserves as it will commit (R123). -/
def regNeed (r : Reg) : Nat := if pendMask r = 0 then 4 else reservation r

/-- Granules the clause reserves (R123): for each register as it will commit in the lanes that perform. DESIGN CHOICE: a register that
only a last-read mark re-encodes, and that does not become empty, reserves as a written one does, since it may grow (R136,
notes/assumptions/40.md): R123 names the committed values of a clause and not whether a marked register is one. -/
def clauseNeed (x : Ctx) (act : LaneMask) : Nat :=
  if act = 0 then 0
  else
    let marked := (distinct x.cl.marks).filterMap fun n =>
      let r := mergeReg act (known fun _ => 0) (regOf x.t n)
      if (tabGet? x.cl.xw n).isSome || (pendMask r == 0 && (encodeReg (formatLanes x.t) r.vals).entry == .empty) then none else some (regNeed r)
    (marked ++ x.cl.xw.map fun e => regNeed (mergeReg act e.2 (regOf x.t e.1))).foldl (· + ·) 0

/-- The clause has started and its translate phase is over (R30, R34, R35): its trap is taken; or lanes park and the others are checked
again; or it performs. -/
def startChecked (s : State) (x : Ctx) (parked : LaneMask) (need : Nat) : State :=
  let cl := x.cl
  let s := endSpacing s x
  let x := { x with t := (troupeAt s x.core x.pos).getD x.t }
  match cl.trap with
  | some r => squash s x r.cause r.addr r.lanes (distinct (r.syms ++ cl.parkSyms))
  | none =>
    if parked = 0 then
      match (if cl.binds.isEmpty then .inr s else bindStep s x) with
      | .inl s => s
      | .inr s => modTroupe s x.core x.pos fun t =>
          { t with clause := some (toPerform { cl with reserved := need } cl.subset cl.active) }
    else
      let s := recordPark s x.core x.pos cl.head (splitOf cl parked) false (minuetTroupe s x.t || !cl.binds.isEmpty)
      let subset := cl.subset &&& ~~~parked
      if subset = 0 then clauseOver { modTroupe s x.core x.pos fun t => { t with clause := none } with focus := none } x.t.group
      else modTroupe s x.core x.pos fun t => { t with clause := some (checkAgain cl subset (cl.active &&& ~~~parked)) }

/-- The clause starts (R29, R30): its check ran on the side, with no walk of it kept; now its translate phase runs. -/
def takeUp (s : State) (x : Ctx) (completes : Bool) : State :=
  modTroupe (noteStart s x x.cl.subset completes) x.core x.pos fun t =>
    { t with clause := some (checkAgain x.cl x.cl.subset x.cl.active) }

/-- What a started clause does at the end of its translate phase (R32 to R35, R393): a trap-troupe clause that misses a page or the granules it
needs is a supervisor fault. -/
def endTranslate (s : State) (x : Ctx) : State :=
  let parked := parkedLanes s x
  let need := clauseNeed x (x.cl.active &&& ~~~parked)
  if isSup x.pos && x.cl.trap.isNone && x.cl.parkTrap != 0 then
    supervisorFault s x.core 0x10 ((x.cl.parkAddr.map fun e => e.2.2).getD 0)
  else if isSup x.pos && need + holding x.t > 128 then supervisorFault s x.core 0x45 x.cl.head
  else startChecked s x parked need

/-- The start conditions that the check of the words finds (R29, R123, R140, R152, R363): the clause starts, or has no effect. -/
def tryConditions (s : State) (x : Ctx) : State :=
  let cl := x.cl
  let parked := parkedLanes s x
  let act := cl.active &&& ~~~parked
  let mixed := cl.xw.map fun e => (regOf x.t e.1, mixedLanes x.t act e.1 e.2)
  match surfaceMixed s x mixed with
  | some s' => s'
  | none =>
    let need := clauseNeed x act
    let k := coreOf s x.core
    if mixed.any (fun e => e.2 != 0) || deferredCount s x.core x.pos + cl.needDeferred > 32 || !storesFit x.t cl.needSB ||
        queueUsed k true + cl.needHi > 16 || queueUsed k false + cl.needLo > 16 then notStarted s x
    else if !symbolsFit s x.core x.pos cl.needSyms then
      notStarted (if symbolsOwn s x.core x.pos cl.needSyms then modCore s x.core fun k => { k with waitSyms := joinWait k.waitSyms x.pos } else s) x
    else if !isSup x.pos && !regsFit k x.pos x.t need then
      notStarted (relieveClause (modCore s x.core fun k => { k with waitRegs := joinWait k.waitRegs x.pos }) x.core x.pos need (clauseNamed cl)) x
    else takeUp s x (cl.trap.isNone && parked == 0)

/-- The end of the checking phase: of the pass that finds the start conditions, then of the translate phase (R29, R30, R32). -/
def endCheck (s : State) (x : Ctx) : State := if x.cl.again then endTranslate s x else tryConditions s x

end Sys2Proof.Machine
end

