-- ==== Sys2Proof/Machine/Links.lean ====
section
/-!
DEFINITION. The sending side of the Zethes links: ports, streams and replay buffers, and the accesses of this package to its peers (R428
to R432).
-/

namespace Sys2Proof.Machine

def restPort : Port := { dead := false, replays := [], unacked := [], revoked := 0 }
def restStream : Stream := { next := 0, reorder := [], credits := 0, held := [] }
def portOf (s : State) (p : Nat) : Port := tabGet s.zethes.ports p restPort
def setPort (s : State) (p : Nat) (v : Port) : State := { s with zethes := { s.zethes with ports := tabPut s.zethes.ports p v } }

/-- The edge stops of a die (R410), and the die and the stop of a package port. -/
def edgeStops : List Nat := [2, 4, 6, 8, 20, 40, 60, 80]
def portDie (p : Nat) : Nat := p / 24
def portStop (p : Nat) : Nat := edgeStops.getD (p % 24 / 3) 0

/-- Streams are keyed by peer package and plane; those sent stand 2^20 above those received. -/
def inStream (peer plane : Nat) : Nat := peer * 2 + plane % 2
def outStream (peer plane : Nat) : Nat := 2 ^ 20 + peer * 2 + plane % 2
def streamOf (s : State) (k : Nat) : Stream := tabGet s.zethes.streams k restStream
def setStream (s : State) (k : Nat) (v : Stream) : State :=
  { s with zethes := { s.zethes with streams := tabPut s.zethes.streams k v } }

/-- The live ports of the package, ascending. -/
def livePorts (s : State) : List Nat := (List.range 96).filter fun p => !(portOf s p).dead

/-- The live ports with a route to a peer package, each as often as its weight in the adaptive table (R429, R430). -/
def routePorts (s : State) (peer : Nat) : List Nat :=
  (livePorts s).flatMap fun p => List.replicate (Config.routeWeight s.moves peer p) p

/-- The peer package of a stream that is sent. -/
def streamPeer (k : Nat) : Nat := (k - 2 ^ 20) / 2

/-- A packet goes out on the next port of its route in weighted round robin and stays in its replay buffer (R429, R430); its flits' destination
on this package's Reel is the port's stop. -/
def emit (s : State) (p : Packet) : State :=
  let live := routePorts s p.peer
  match live[p.seq % live.length]? with
  | none => s
  | some n => setPort s n { portOf s n with unacked := (portOf s n).unacked ++
      [{ p with port := n, flits := p.flits.map fun f => { f with ddie := portDie n, dstop := portStop n } }] }

/-- Held packets of a stream go out in order while there are credits and a route. -/
def pump (s : State) (k : Nat) : State :=
  let q := streamOf s k
  if (routePorts s (streamPeer k)).isEmpty then s
  else
    let rest : Stream := { q with held := q.held.drop q.credits, credits := q.credits - q.held.length }
    let s := setStream s k rest
    (q.held.take q.credits).foldl emit s

/-- Flits in packets of at most four (R428). -/
def packFlits : Nat → List Flit → List (List Flit)
  | 0, _ => []
  | _ + 1, [] => []
  | fuel + 1, fs => fs.take 4 :: packFlits fuel (fs.drop 4)

/-- Sends flits to a peer package on its stream of a plane, in packets of at most four (R428, R429). The packet's package numbers are
`Config.package` and `peer`; what its CRC-32 covers shows as `crcOk` at the receiver. -/
def sendPacket (s : State) (peer plane key : Nat) (flits : List Flit) : State :=
  let k := outStream peer plane
  let q := streamOf s k
  let ps := packFlits flits.length flits
  let held := (List.range ps.length).map fun i => (⟨0, peer, plane % 2, q.next + i, key, true, ps.getD i []⟩ : Packet)
  pump (setStream s k { q with next := q.next + ps.length, held := q.held ++ held }) k

/-! ## This package's own accesses -/

/-- The package of a location in a peer's memory (R325). -/
def peerOf (l : Loc) : Nat := l.addr / 2 ^ 52

/-- An access of a core to a peer's memory that its L1 does not serve leaves the package. -/
def crosses (s : State) (core : Nat) (l : Loc) (write : Bool) : Bool :=
  l.area == .peer && !(cached l && match lineAt s core l.line with
    | some n => isOwned n.st || isU n.st || (!write && isShared n.st && n.valid.getLsbD (l.key / 64 % 8))
    | none => false)

/-- A request to a peer package may go (R429, R430): a route to it is live, its stream has a credit, and nothing of the stream is held. -/
def linkOpen (s : State) (l : Loc) : Bool :=
  let q := streamOf s (outStream (peerOf l) 0)
  !(routePorts s (peerOf l)).isEmpty && q.held.isEmpty && decide (0 < q.credits)

/-- An access may perform as far as the links are concerned. -/
def mayCross (s : State) (core : Nat) (l : Loc) (write : Bool) : Bool := !crosses s core l write || linkOpen s l

/-- The request of an access to a peer's memory, under a partition key: one packet of its stream (R428, R429). The kinds are R412's. -/
def requestTo (s : State) (key kind : Nat) (l : Loc) (bs : List Byte) : State :=
  if l.area != .peer then s
  else
    let a := l.addr % 2 ^ 52
    sendPacket s (peerOf l) 0 key [{ (default : Flit) with kind, key, span := a / 128, off := a % 128, len := bs.length - 1, payload := bs, parts := 1 }]

/-- A core's access makes its request where it leaves the package. -/
def coreRequest (s : State) (core key kind : Nat) (l : Loc) (bs : List Byte) : State :=
  if crosses s core l (kind != 0) then requestTo s key kind l bs else s

end Sys2Proof.Machine
end

