-- ==== Sys2Proof/Machine/Access.lean ====
section
/-!
DEFINITION. What the memory instructions share: addresses (R347), the translate phase (R32, R348), symbols and store-buffer
entries (R349, R363), the troupe's own order (R150, R343, R361, R364).
-/

namespace Sys2Proof.Machine

/-! ## Operands -/

/-- How a data operand of a type reads: a special operand as a 64-bit integer, constants in the type (R347). -/
def dataView (ty : Nat) (o : Operand) : View :=
  match o with
  | .ic _ => if ty ≥ 12 then .fp (ty - 12) else .int 64
  | .fc _ => .fp (ty - 12)
  | _ => .int 64

/-- A data operand's w low bits in a lane. -/
def dataOf (s : State) (x : Ctx) (ty : Nat) (o : Operand) (l : Nat) : Nat :=
  valueOf s x (dataView ty o) o l % 2 ^ typeWidth ty

/-- The address offset of an M instruction: sext(offset) * unit. -/
def memOffset (f : FM) (unit : Nat) : Word := word (ofSigned 64 (f.off.toInt * (unit : Int)))

/-- The address of a lane (R347). -/
def memAddr (s : State) (x : Ctx) (f : FM) (unit l : Nat) : Word := word64 s x f.a l + memOffset f unit

/-- The scope of an acquire: order bit 0; of a release: order bit 1 (R42). -/
def acquireScope (f : FM) : Option Nat := if f.ord.getLsbD 0 then some f.scope.toNat else none
def releaseScope (f : FM) : Option Nat := if f.ord.getLsbD 1 then some f.scope.toNat else none

/-- Extends a loaded element (R350). -/
def extElem (ty v : Nat) : Word :=
  if ty < 4 then word (ofSigned 64 (toSigned (typeWidth ty) v)) else word (v % 2 ^ typeWidth ty)

/-! ## The translate phase -/

/-- What the translation of several lanes gives. -/
structure Reach where
  st : State
  ok : Tab Loc
  fails : List Failure
  /-- Lanes whose failing access was a peer's (R390) -/
  remote : LaneMask

/-- The state that a walk leaves: until the clause has started it has no effect (R29), so the pass that looks for its start conditions
keeps no TLB entry and no accessed or dirty bit. -/
def walkKept (x : Ctx) (old new : State) : State := if x.cl.phase == .check && !x.cl.again then old else new

/-- Translates one access and adds it to the others: index in the table, lane blamed, pointer. -/
def reachOne (x : Ctx) (kind : Access) (size align : Nat) (r : Reach) (i l : Nat) (ptr : Word) : Reach :=
  if align ≠ 0 && ptr.toNat % align != 0 then { r with fails := r.fails ++ [(l, 0x03, ptr)] }
  else
    match translate r.st (whoOf r.st x) (threadOf x.t l).wid ptr size kind with
    | (s, .ok loc) => { r with st := walkKept x r.st s, ok := tabPut r.ok i loc }
    | (s, .trap c a) =>
      { r with st := walkKept x r.st s, fails := r.fails ++ [(l, c, a)],
               remote := if splits c && remoteFailure s x.core a then r.remote ||| laneBit l else r.remote }

/-- Translates one access for each lane, ascending (R348). -/
def reach (s : State) (x : Ctx) (kind : Access) (size align : Nat) (lanes : List Nat) (addr : Nat → Word) : Reach :=
  lanes.foldl (fun r l => reachOne x kind size align r l l (addr l)) ⟨s, [], [], 0⟩

/-- The 64-byte pieces of a range: start of each piece relative to the pointer, and its length. -/
def pieces (ptr : Word) (len : Nat) : List (Nat × Nat) :=
  let first := 64 - ptr.toNat % 64
  if len ≤ first then [(0, len)]
  else (0, first) :: (List.range ((len - first + 63) / 64)).map fun i => (first + 64 * i, min 64 (len - first - 64 * i))

/-- A failure of an access that takes its address from the lowest active lane is every active lane's. -/
def sharedFails (x : Ctx) (fs : List Failure) : List Failure :=
  (maskLanes x.cl.active).flatMap fun l => fs.map fun f => (l, f.2.1, f.2.2)

def shared (x : Ctx) (r : Reach) : Reach :=
  { r with fails := sharedFails x r.fails, remote := if r.remote = 0 then 0 else x.cl.active }

/-- An access whose address the lowest active lane gives: nothing is translated while that lane's address has no value (R155). -/
def reachLow (s : State) (x : Ctx) (o : Operand) (b : Nat) (f : State → Reach) : Reach :=
  if (addressed s x o).getLsbD b then shared x (f s) else ⟨s, [], [], 0⟩

/-- Translates a range for one lane piece by piece. -/
def reachRange (s : State) (x : Ctx) (kind : Access) (l : Nat) (ptr : Word) (len : Nat) : Reach :=
  if bits ptr.toNat 63 60 = 14 then
    match spTranslate s (whoOf s x).group ptr len with
    | .trap c a => ⟨s, [], [(l, c, a)], 0⟩
    | .ok loc => ⟨s, (pieces ptr len).map fun p => (p.1, loc.plus p.1), [], 0⟩
  else
    (pieces ptr len).foldl (fun r p => reachOne x kind p.2 0 r p.1 l (ptr + word p.1)) ⟨s, [], [], 0⟩

/-- Ends one instruction's translate phase: its failures are settled, its locations kept, its needs counted. -/
def checked (x : Ctx) (r : Reach) (n : Nat) (k : State → Ctx → Clause → Clause) : Out :=
  settle r.st x r.fails r.remote [] fun s x =>
    done s x n (k s x { x.cl with xlat := tabPut x.cl.xlat x.cl.cursor r.ok })

/-- Whether the clause is being checked. -/
def checking (x : Ctx) : Bool := x.cl.phase == .check

/-- The locations found for this instruction. -/
def found (x : Ctx) : Tab Loc := tabGet x.cl.xlat x.cl.cursor []

/-- A scratchpad pointer with the member it names resolved: what identifies a sync object (R360). -/
def objectPtr (s : State) (x : Ctx) (ptr : Word) : Word :=
  if bits ptr.toNat 63 60 = 14 && bits ptr.toNat 55 52 = 15 then
    match groupAt s x.t.group with
    | some g => setBits ptr 55 52 g.member
    | none => ptr
  else ptr

/-- The pointers of an instruction's lanes as sync objects. -/
def lanePtrs (s : State) (x : Ctx) (addr : Nat → Word) : Tab Word :=
  (maskLanes x.live).map fun l => (l, objectPtr s x (addr l))

/-! ## The troupe's own order -/

/-- Lanes of a symbol whose value has not been read. -/
def openLanes (y : Symbol) : LaneMask := y.lanes &&& ~~~y.arrived &&& ~~~y.faulted

/-- Symbols of a troupe older than a program order and not complete. -/
def olderSymbols (s : State) (core pos seq : Nat) : List Symbol :=
  ((coreOf s core).symbols.filter fun e => e.2.pos == pos && decide (e.2.seq < seq) && openLanes e.2 != 0).map fun e => e.2

/-- A symbol still has to read in a sector. -/
def readsSector (y : Symbol) (sector : Nat) : Bool :=
  y.locs.any fun q => q.2.key / 64 == sector && ((y.kind == .image && openLanes y != 0) || (openLanes y).getLsbD q.1)

/-- Every earlier load of the troupe has performed (R362, R374). -/
def loadsDone (s : State) (core pos seq : Nat) : Bool :=
  (olderSymbols s core pos seq).all fun y => match y.kind with | .atomic _ => true | _ => false

/-- A returning atomic's symbol. -/
def isAtomicKind (k : LoadKind) : Bool := match k with | .atomic _ => true | _ => false

/-- A troupe's entries not yet performed, the oldest first: those that a save left with the arbiter, and its buffer's (R366). -/
def ownEntries (s : State) (t : Troupe) : List SBEntry := tabGet s.remote (t.group * 32 + t.tidx) [] ++ t.sb

/-- An earlier update, atomic, `cl` or `sadd` of the troupe to the sector has not performed (R343, R364). -/
def sectorBusy (s : State) (t : Troupe) (seq key len : Nat) : Bool :=
  (ownEntries s t).any fun e =>
    decide (e.seq < seq) && e.kind != .store && e.kind != .record && e.kind != .submission &&
      (e.ops.any (fun o => o.loc.key / 64 == key / 64 || o.loc.key / 64 == (key + len - 1) / 64) ||
       (match e.kind with | .cl _ => e.loc.line == key / 512 | _ => false))

/-- A byte of the troupe's latest buffered store before a program order (R364). -/
def bufferedByte (es : List SBEntry) (seq key : Nat) : Option Byte :=
  es.reverse.findSome? fun e =>
    if (e.kind == .store || e.kind == .record) && decide (e.loc.key ≤ key) && decide (key < e.loc.key + 64) then
      ((e.bytes.filter fun b => b.1 == key - e.loc.key && decide (b.2.2 < seq)).getLast?).map fun b => b.2.1
    else none

/-- The troupe's view of some bytes: memory as its core reads it, under its own buffered stores (R350, R364). -/
def readOwn (s : State) (core : Nat) (t : Troupe) (seq : Nat) (l : Loc) (n : Nat) : State × List Byte :=
  let r := coreLoad (coreRequest s core (troupeKey s t) 0 l []) core l n
  let es := ownEntries s t
  (r.1, (List.range n).map fun i => (bufferedByte es seq (l.key + i)).getD (r.2.getD i 0))

/-- Lanes of an inline access whose answer comes revoked: their key was revoked after they were translated (R432). -/
def inlineRevoked (s : State) (x : Ctx) (locs : List (Nat × Loc)) : List Failure :=
  if isSup x.pos || !s.mgmt.revoked.contains (troupeKey s x.t) then []
  else (locs.filter fun e => e.2.area == .peer).map fun e => (e.1, 0x38, word e.2.va)

/-- An inline access waits for the troupe's earlier acquires and its own earlier accesses to the bytes (R361, R364). -/
def inlineReady (s : State) (x : Ctx) (locs : List (Loc × Nat)) : Bool :=
  x.t.acquires.isEmpty && locs.all fun e =>
    !sectorBusy s x.t x.t.seq e.1.key e.2 && !lineWaits s x.core e.1 && mayCross s x.core e.1 false &&
    (olderSymbols s x.core x.pos x.t.seq).all fun y => !readsSector y (e.1.key / 64)

/-- What follows a deferred load waits for its addresses (R150 item 2). -/
def afterDeferreds (s : State) (x : Ctx) (k : Out) : Out := if deferredOpen s x.core x.pos then waitHere s else k

/-- Every earlier store-buffer entry has been acknowledged, as a scope counts it (R362): below system scope an entry for
space 0x3 needs only to have been accepted, and counters of remote entries count at system scope (R366). -/
def entriesDone (s : State) (x : Ctx) (scope : Nat) : Bool :=
  (x.t.sb.all fun e => decide (scope < 4) && e.sent && e.loc.area == .host) &&
  (tabGet s.remote (x.t.group * 32 + x.t.tidx) []).isEmpty

/-- The effect of completing acquires on a core (R361 step 2): all objects of one instruction. -/
def acquireObjects (s : State) (core : Nat) (scope : Option Nat) (ptrs : List Word) : State :=
  match scope with
  | none => s
  | some sc => acquireApply s core sc (ptrs.map objectKey)

/-- A poisoned sector that is read kills the reader's gang (R454). -/
def noticePoison (s : State) (t : Troupe) (l : Loc) (n : Nat) : State :=
  if poisoned s l n then poisonKill s t.group else s

/-! ## Symbols -/

/-- A symbol with nothing asked for yet. -/
def blankSymbol (x : Ctx) (kind : LoadKind) (lanes : LaneMask) : Symbol :=
  { pos := x.pos, kind, lanes, arrived := 0, faulted := 0, causes := [], addrs := [], locs := [], replies := [], dep := none,
    depScale := [], depOff := [], seq := x.t.seq, acq := none, ptrs := [], key := 0 }

/-- The context with a new troupe or clause record. -/
def Ctx.withT (x : Ctx) (t : Troupe) : Ctx := { x with t }
def Ctx.withCl (x : Ctx) (cl : Clause) : Ctx := { x with cl }

/-- The next symbol number of a core. -/
def nextSymbol (s : State) (x : Ctx) : Nat := (coreOf s x.core).nextSym

/-- Takes a symbol entry for a load or atomic of this clause: it becomes an item of the clause's batch, takes its place
in program order, and an acquire is noted. -/
def takeSymbol (s : State) (x : Ctx) (y : Symbol) : State × Ctx :=
  let id := nextSymbol s x
  let s := modCore s x.core fun k => { k with symbols := tabPut k.symbols id y, nextSym := id + 1 }
  (s, (x.withT { x.t with seq := x.t.seq + 1,
                          acquires := if y.acq.isSome then x.t.acquires ++ [x.t.seq] else x.t.acquires }).withCl
        { x.cl with symbols := x.cl.symbols ++ [id] })

/-- A register pending on a symbol in some lanes: scale 1, offset 0 (R139). -/
def freshForm (lanes : LaneMask) (sym : Nat) : Reg := mkForm lanes sym (mkLanes fun _ => 1) (mkLanes fun _ => 0)

/-! ## Store-buffer entries -/

/-- The distinct numbers of a list in order of first appearance. -/
def firsts (l : List Nat) : List Nat := (distinct l.reverse).reverse

/-- Lane operations grouped by a unit of bytes: one entry each (R349). -/
def grouped (unit : Nat) (ops : List LaneOp) : List (List LaneOp) :=
  (firsts (ops.map fun o => o.loc.key / unit)).map fun k => ops.filter fun o => o.loc.key / unit == k

/-- Adds an entry to the troupe's buffer and to the clause's batch (R363). -/
def addEntry (x : Ctx) (cycle : Nat) (kind : SBKind) (loc : Loc) (bytes : List (Nat × Byte)) (ops : List LaneOp)
    (release : Option Nat) : Ctx :=
  let id := x.t.seq
  let e : SBEntry := { id, seq := id, kind, loc, bytes := bytes.map fun b => (b.1, b.2, id), ops, release, committed := cycle,
                       sent := false, granted := false }
  (x.withT { x.t with sb := x.t.sb ++ [e], seq := id + 1 }).withCl { x.cl with entries := x.cl.entries ++ [id] }

/-- The youngest entry, where a relaxed plain store to a sector merges into it (R363). -/
def mergeTarget (t : Troupe) (sector : Loc) (release : Option Nat) : Option SBEntry :=
  match t.sb.getLast? with
  | some e =>
    if release.isNone && e.release.isNone && e.kind == .store && !e.sent && e.loc.key == sector.key then some e else none
  | none => none

/-- One store to a sector: merged, or a new entry. -/
def addStore (x : Ctx) (cycle : Nat) (release : Option Nat) (sector : Loc) (bytes : List (Nat × Byte)) : Ctx :=
  match mergeTarget x.t sector release with
  | some e =>
    let n := x.t.seq
    let e' := { e with bytes := e.bytes ++ bytes.map fun b => (b.1, b.2, n) }
    (x.withT { x.t with sb := x.t.sb.dropLast ++ [e'], seq := n + 1 }).withCl
      { x.cl with entries := if x.cl.entries.contains e.id then x.cl.entries else x.cl.entries ++ [e.id] }
  | none => addEntry x cycle .store sector bytes [] release

/-- Stores of one instruction as bytes of sectors, in order of the first lane that names each. -/
def sectorStores (ws : List (Loc × List Byte)) : List (Loc × List (Nat × Byte)) :=
  (firsts (ws.map fun w => w.1.key / 64)).filterMap fun k =>
    let mine := ws.filter fun w => w.1.key / 64 == k
    mine.head?.map fun w => (w.1.align 64, mine.flatMap fun v =>
      (List.range v.2.length).map fun i => (v.1.key % 64 + i, v.2.getD i 0))

/-- New entries that some stores take when performed now. -/
def storeNeeds (t : Troupe) (release : Option Nat) (gs : List Loc) : Nat :=
  match gs with
  | [] => 0
  | g :: r => r.length + (if (mergeTarget t g release).isSome then 0 else 1)

/-- The store instructions' performance: the entries are taken (R351, R363). -/
def performStores (s : State) (x : Ctx) (n : Nat) (release : Option Nat) (ws : List (Loc × List Byte)) : Out :=
  afterDeferreds s x <|
    let gs := sectorStores ws
    if x.t.sb.length + storeNeeds x.t release (gs.map fun g => g.1) > 64 then waitHere s
    else
      let x := gs.foldl (fun x g => addStore x s.cycle release g.1 g.2) x
      done s x n x.cl

/-- A store that takes one entry for each write, and merges with none (R324). -/
def performRecords (s : State) (x : Ctx) (n : Nat) (ws : List (Loc × List Byte)) : Out :=
  if x.t.sb.length + ws.length > 64 then waitHere s
  else
    let x := ws.foldl (fun x w => addEntry x s.cycle .record w.1 ((List.range w.2.length).map fun i => (i, w.2.getD i 0)) [] none) x
    done s x n x.cl

/-- The check of a store: its sectors are counted; the first may merge while the clause has taken no entry. -/
def countStores (x : Ctx) (release : Option Nat) (locs : List Loc) (cl : Clause) : Clause :=
  let gs := (firsts (locs.map fun l => l.key / 64)).filterMap fun k =>
    (locs.find? fun l => l.key / 64 == k).map fun l => l.align 64
  { cl with needSB := cl.needSB + (if cl.needSB = 0 then storeNeeds x.t release gs else gs.length) }

/-- Atomics', updates' and other grouped entries taken for one instruction. -/
def performOps (s : State) (x : Ctx) (n unit : Nat) (kind : SBKind) (release : Option Nat) (ops : List LaneOp)
    (k : Ctx → Ctx) : Out :=
  afterDeferreds s x <|
    let gs := grouped unit ops
    if x.t.sb.length + gs.length > 64 then waitHere s
    else
      let x := gs.foldl (fun x g => match g with
        | [] => x
        | o :: _ => addEntry x s.cycle kind (o.loc.align unit) [] g release) x
      let x := k x
      done s x n x.cl

/-- Entries that grouped operations will take. -/
def countOps (unit : Nat) (locs : List Loc) (cl : Clause) : Clause :=
  { cl with needSB := cl.needSB + (firsts (locs.map fun l => l.key / unit)).length }

/-- The locations as a list. -/
def locsOf (t : Tab Loc) : List Loc := t.map fun e => e.2

/-- Lane operations of the active lanes at their locations, ascending. -/
def laneOps (x : Ctx) (val val2 : Nat → Word) : List LaneOp :=
  (maskLanes x.live).filterMap fun l => (tabGet? (found x) l).map fun loc => { lane := l, loc, val := val l, val2 := val2 l }

end Sys2Proof.Machine
end

