-- ==== Sys2Proof/Machine/Atomics.lean ====
section
/-!
DEFINITION. Returning atomics and updates (R354, R355).
-/

namespace Sys2Proof.Machine

/-- A returning atomic's shared form: its check counts a symbol and its entries; performed, each distinct sector takes an
entry (R349) and the destination becomes pending (R138). -/
def returning (f : FM) (s : State) (ops : List Operand) (kind : Nat → SBKind) (val val2 : State → Ctx → Nat → Word) : Out :=
  inClause s fun x =>
    let ty := f.ty.toNat
    let size := typeWidth ty / 8
    if x.live = 0 then done s x 2 x.cl
    else use s x (f.a :: ops) fun s x =>
      let addr := memAddr s x f size
      if checking x then
        checked x (reach s x .atomic size size (maskLanes (addressed s x f.a)) addr) 2 fun s x cl =>
          let cl := countOps 64 (locsOf (tabGet cl.xlat x.cl.cursor [])) cl
          { writeD x cl f.d (freshForm x.live (nextSymbol s x + cl.needSyms)) with needSyms := cl.needSyms + 1 }
      else
        let ops := laneOps x (val s x) (val2 s x)
        if x.t.sb.length + (grouped 64 ops).length > 64 || deferredOpen s x.core x.pos then waitHere s
        else
        let id := nextSymbol s x
        let y := { blankSymbol x (.atomic ty) x.live with acq := acquireScope f, ptrs := lanePtrs s x addr }
        let q := takeSymbol s x y
        performOps q.1 q.2 2 64 (kind id) (releaseScope f) ops fun z =>
          z.withCl (writeD z z.cl f.d (freshForm x.live id))

/-- `amo` and `amof` with a function (R354). -/
def amo (float : Bool) (fn : Nat) (f : FM) (s : State) : Out :=
  returning f s [f.e] (fun id => .atomic float fn f.ty.toNat id) (fun s x l => word (dataOf s x f.ty.toNat f.e l)) fun _ _ _ => 0

/-- `amo.add` (R354). -/
def execAmoAdd (f : FM) (s : State) : Out := amo false 0 f s
/-- `amo.mins` (R354). -/
def execAmoMins (f : FM) (s : State) : Out := amo false 1 f s
/-- `amo.minn` (R354). -/
def execAmoMinn (f : FM) (s : State) : Out := amo false 2 f s
/-- `amo.maxs` (R354). -/
def execAmoMaxs (f : FM) (s : State) : Out := amo false 3 f s
/-- `amo.maxn` (R354). -/
def execAmoMaxn (f : FM) (s : State) : Out := amo false 4 f s
/-- `amo.and` (R354). -/
def execAmoAnd (f : FM) (s : State) : Out := amo false 5 f s
/-- `amo.or` (R354). -/
def execAmoOr (f : FM) (s : State) : Out := amo false 6 f s
/-- `amo.xor` (R354). -/
def execAmoXor (f : FM) (s : State) : Out := amo false 7 f s
/-- `amo.exch` (R354). -/
def execAmoExch (f : FM) (s : State) : Out := amo false 8 f s
/-- `amof.add` (R354). -/
def execAmofAdd (f : FM) (s : State) : Out := amo true 0 f s
/-- `amof.min` (R354). -/
def execAmofMin (f : FM) (s : State) : Out := amo true 1 f s
/-- `amof.max` (R354). -/
def execAmofMax (f : FM) (s : State) : Out := amo true 2 f s
/-- `amof.exch` (R354). -/
def execAmofExch (f : FM) (s : State) : Out := amo true 3 f s

/-- `cas` (R354): the expected value is the destination register at clause start. -/
def execCas (f : FM) (s : State) : Out :=
  returning f s [f.d, f.e] (fun id => .cas f.ty.toNat id) (fun s x l => word (dataOf s x f.ty.toNat f.e l))
    fun s x l => word (dataOf s x f.ty.toNat f.d l)

/-- An update's shared form (R355): no result; each distinct sector takes an entry. -/
def update (float : Bool) (fn : Nat) (f : FM) (s : State) : Out :=
  inClause s fun x =>
    let ty := f.ty.toNat
    let acc := float && fn == 3
    let size := if acc then 4 else typeWidth ty / 8
    if x.live = 0 then done s x 2 x.cl
    else use s x [f.a, f.e] fun s x =>
      if checking x then
        checked x (reach s x .atomic size size (maskLanes (addressed s x f.a)) (memAddr s x f size)) 2 fun _ x cl =>
          countOps 64 (locsOf (tabGet cl.xlat x.cl.cursor [])) cl
      else
        performOps s x 2 64 (.update float fn ty) (releaseScope f)
          (laneOps x (fun l => word (dataOf s x ty f.e l * (if acc then 65536 else 1))) fun _ => 0) id

/-- `red.add` (R355). -/
def execRedAdd (f : FM) (s : State) : Out := update false 0 f s
/-- `red.mins` (R355). -/
def execRedMins (f : FM) (s : State) : Out := update false 1 f s
/-- `red.minn` (R355). -/
def execRedMinn (f : FM) (s : State) : Out := update false 2 f s
/-- `red.maxs` (R355). -/
def execRedMaxs (f : FM) (s : State) : Out := update false 3 f s
/-- `red.maxn` (R355). -/
def execRedMaxn (f : FM) (s : State) : Out := update false 4 f s
/-- `red.and` (R355). -/
def execRedAnd (f : FM) (s : State) : Out := update false 5 f s
/-- `red.or` (R355). -/
def execRedOr (f : FM) (s : State) : Out := update false 6 f s
/-- `red.xor` (R355). -/
def execRedXor (f : FM) (s : State) : Out := update false 7 f s
/-- `redf.add` (R355). -/
def execRedfAdd (f : FM) (s : State) : Out := update true 0 f s
/-- `redf.min` (R355). -/
def execRedfMin (f : FM) (s : State) : Out := update true 1 f s
/-- `redf.max` (R355). -/
def execRedfMax (f : FM) (s : State) : Out := update true 2 f s
/-- `redf.acc` (R355): a BF16 operand widened exactly to f32. -/
def execRedfAcc (f : FM) (s : State) : Out := update true 3 f s

/-! ## At the point of performance -/

/-- The new value of an atomic or update: function, old value, operand (R354, R355). -/
def atomicFn (float : Bool) (fn ty old v : Nat) : Nat :=
  let w := typeWidth ty
  if float then (if fn = 3 then v else mergeElem fn ty old v)
  else if fn = 0 then (old + v) % 2 ^ w
  else if fn ≤ 2 then mergeElem 1 ty old v
  else if fn ≤ 4 then mergeElem 2 ty old v
  else if fn = 5 then old &&& v
  else if fn = 6 then old ||| v
  else if fn = 7 then old ^^^ v
  else v

/-- The U pair that an update selects (R333); `red.and` and `red.xor` have none. -/
def updatePair (float : Bool) (fn ty : Nat) : Option (Nat × Nat) :=
  let wide := typeWidth ty == 64
  if float then some (if fn = 3 then (4, 13) else (fn, ty))
  else if fn = 0 then some (0, if wide then 3 else 2)
  else if fn = 1 || fn = 2 then some (1, ty)
  else if fn = 3 || fn = 4 then some (2, ty)
  else if fn = 6 then some (3, if wide then 11 else 10)
  else none

/-- An update that performs as an atomic: at the home, in M for private memory, or at a bank (R356). -/
def updateAt (s : State) (core : Nat) (float : Bool) (fn ty : Nat) (o : LaneOp) : State :=
  match updatePair float fn ty with
  | some (op, t) => (atomicAt s core o.loc (typeWidth t / 8) fun old => mergeElem op t old o.val.toNat).1
  | none => (atomicAt s core o.loc (typeWidth ty / 8) fun old => atomicFn float fn ty old o.val.toNat).1

end Sys2Proof.Machine
end

