-- ==== Sys2Proof/Machine/SyncWords.lean ====
section
/-!
DEFINITION. Sync words: arrivals and notices (R237 to R243), `sarm`, `swait`, `sadd` and `gsp` (R244 to R249).
-/

namespace Sys2Proof.Machine

/-- The fields of a sync word (R237). -/
structure SyncWord where
  target : Nat
  count : Nat
  gen : Nat
  flags : Nat

def syncOf (bs : List Byte) : SyncWord :=
  let n := leNat bs
  { target := bits n 31 0, count := bits n 63 32, gen := bits n 95 64, flags := bits n 127 96 }

def syncBytes (w : SyncWord) : List Byte := leBytes 4 w.target ++ leBytes 4 w.count ++ leBytes 4 w.gen ++ leBytes 4 w.flags

/-- The word at its home. -/
def syncAt (s : State) (l : Loc) : SyncWord := syncOf (peekBytes s l 16)

/-- The home reads the word in one step; a word that a racing access left undefined reads as a free value (R239). -/
def readSync (s : State) (l : Loc) : State × SyncWord :=
  let r := homeRead s l 16
  (r.1, syncOf (if s.racedWords.contains (l.key / 16) then (List.range 16).map (Config.racyByte s.moves) else r.2))

/-- Sets one flag bit. -/
def setFlag (flags i : Nat) (b : Bool) : Nat := flags - (if flags.testBit i then 2 ^ i else 0) + (if b then 2 ^ i else 0)

/-- STALE counted up, saturating (R241). -/
def countStale (flags : Nat) : Nat := flags - bits flags 15 8 * 256 + min (bits flags 15 8 + 1) 255 * 256

/-- A scratchpad location as a pointer that names its member (R241). -/
def scratchPtr (s : State) (l : Loc) : Word :=
  word (14 * 2 ^ 60 + ((gridOfGroup s l.owner).map fun g => l.owner % gangSize g).getD 0 * 2 ^ 52 + l.addr)

/-- A stale notice (R241): to the trap troupe of the owning core, or to the control node. A peer's word is the peer's. -/
def staleNotice (s : State) (l : Loc) : State :=
  match l.area with
  | .scratch => match groupAt s l.owner with
    | some g => raiseDelivery s g.core
        { kind := .notice, cause := 0x33, addr := scratchPtr s l, lanes := 0, pcs := [], subset := 0, pos := 0, group := l.owner,
          tidx := 0, key := ((gridAt s g.ticket).map gridKey).getD 0, void := false, syms := [] }
    | none => s
  | .peer => s
  | _ => send s (.event evStale (l.key % 2 ^ 64) 0 0)

/-- A match notice to the task scheduler of the home's die (R242). -/
def matchNotice (s : State) (l : Loc) (gen : Nat) : State :=
  match l.area with
  | .peer => s
  | _ => modDie s (homeDie s l) fun d => { d with notices := d.notices ++ [(l, gen)] }

/-- `advance` (R241): the word after a match. -/
def advanced (w : SyncWord) : SyncWord :=
  { w with gen := (w.gen + 1) % 2 ^ 32, count := 0, flags := if w.flags.testBit 0 then w.flags else setFlag w.flags 2 false }

/-- One arrival applied at the word's home (R241). -/
def arrive (s : State) (l : Loc) (g n : Nat) : State :=
  let r := readSync s l
  let s := r.1
  let w := r.2
  if !w.flags.testBit 2 || g % 2 ^ 32 ≠ w.gen then
    let s := homeWrite s l (syncBytes { w with flags := countStale w.flags })
    if w.flags.testBit 3 then staleNotice s l else s
  else
    let c := w.count + n % 2 ^ 32
    if c < w.target then homeWrite s l (syncBytes { w with count := c })
    else
      let w' := advanced (if c > w.target then { w with flags := setFlag w.flags 4 true } else w)
      let s := homeWrite s l (syncBytes w')
      if w.flags.testBit 1 then matchNotice s l w'.gen else s

/-- `sarm`'s effect at the home: the word afterwards (R245). -/
def armed (w : SyncWord) (v : Nat) : SyncWord :=
  let base := if v.testBit 35 then w.flags - bits w.flags 15 8 * 256 - (if w.flags.testBit 4 then 16 else 0) else w.flags
  { target := bits v 31 0, count := 0, gen := (w.gen + 1) % 2 ^ 32,
    flags := setFlag (setFlag (setFlag (setFlag base 0 (v.testBit 32)) 1 (v.testBit 33)) 3 (v.testBit 34)) 2 true }

/-! ## Instructions -/

/-- R244's translate phase: alignment, space, then R379; failures the instruction adds come after. -/
def reachSync (s : State) (x : Ctx) (kind : Access) (o : Operand) (addr : Nat → Word) : Reach :=
  (maskLanes (addressed s x o)).foldl (fun r l =>
    let p := addr l
    if p.toNat % 16 != 0 then { r with fails := r.fails ++ [(l, 0x03, p)] }
    else if bits p.toNat 63 60 ∉ [0, 2, 14] then { r with fails := r.fails ++ [(l, 0x20, p)] }
    else reachOne x kind 16 16 r l l p) ⟨s, [], [], 0⟩

/-- The troupe's own buffered accesses to a sector have performed: its order at one location (R364). -/
def sectorClear (t : Troupe) (l : Loc) : Bool :=
  t.sb.all fun e => e.kind == .submission || (e.loc.key / 64 != l.key / 64 && e.ops.all fun o => o.loc.key / 64 != l.key / 64)

/-- What a release waits for (R362). -/
def releaseReady (s : State) (x : Ctx) (scope : Option Nat) : Bool :=
  match scope with
  | none => true
  | some sc => loadsDone s x.core x.pos x.t.seq && entriesDone s x sc

/-- An inline operation at sync words or queues may perform. -/
def wordReady (s : State) (x : Ctx) (scope : Option Nat) (locs : List Loc) : Bool :=
  x.t.acquires.isEmpty && releaseReady s x scope && locs.all (sectorClear x.t) && locs.all (fun l => !lineWaits s x.core l && mayCross s x.core l true) &&
    locs.all fun l => (olderSymbols s x.core x.pos x.t.seq).all fun y => !readsSector y (l.key / 64)

/-- Lanes' operations at their words one after another: the state and a value for each lane. The core's L1 gives up its own copy of the
line, as for an atomic at its home (R238). -/
def eachWord (s : State) (x : Ctx) (op : State → Nat → Loc → State × Word) : State × Tab Word :=
  (maskLanes x.live).foldl (fun a l => match tabGet? (found x) l with
    | none => a
    | some loc =>
      let r := op (dropPlain (coreRequest a.1 x.core (troupeKey s x.t) 8 loc []) x.core loc.line) l loc
      (r.1, tabPut a.2 l r.2)) (s, [])

/-- `sarm` (R245). An operation under a revoked key is discarded with an event, and its result is free (R432). -/
def execSarm (f : FM) (s : State) : Out :=
  inClause s fun x =>
    if x.live = 0 then done s x 2 x.cl
    else use s x [f.d, f.a] fun s x =>
      let addr := memAddr s x f 16
      let v (l : Nat) : Nat := (word64 s x f.d l).toNat
      if checking x then
        let r := reachSync s x .sync f.a addr
        let bad := (maskLanes x.live).filter fun l => bits (v l) 63 36 != 0 || bits (v l) 31 0 == 0
        checked x { r with fails := r.fails ++ bad.map fun l => (l, 0x32, addr l) } 2 fun _ x cl =>
          writeLanes x cl f.e fun _ => 0
      else if !wordReady s x (releaseScope f) (locsOf (found x)) then waitHere s
      else
        let gone := (inlineRevoked s x (found x)).map fun q => q.1
        let r := eachWord s x fun s l loc =>
          if gone.contains l then (send s (.event evRevoked x.core (loc.va % 2 ^ 52) 0), word (leNat ((List.range 8).map fun i => Config.racyByte s.moves (8 * l + i)))) else
          let q := readSync s loc
          let w := armed q.2 (v l)
          ({ homeWrite q.1 loc (syncBytes w) with racedWords := q.1.racedWords.filter (· != loc.key / 16) }, word w.gen)
        done r.1 x 2 (writeLanes x x.cl f.e fun l => tabGet r.2 l 0)

/-- Words of the `swait` that ends a clause which has started. -/
def swaitWords (cl : Clause) : List Nat :=
  let n := cl.words.length - 2
  if cl.phase == .check || bits (cl.words.getD n 0) 31 25 != 0x5A then [] else (locsOf (tabGet cl.xlat n [])).map Loc.key

/-- Words that lanes of a core wait on at `swait`, or will once their clause commits: the entries of its watch table (R247). -/
def watchedWords (s : State) (core : Nat) : List Nat :=
  distinct ((coreOf s core).troupes.flatMap fun t =>
    (match t.2.clause with | some cl => swaitWords cl | none => []) ++
    t.2.threads.filterMap fun h => match h.2.st with | .watching w _ _ => some w.key | _ => none)

/-- `swait` (R246): its words need watch-table entries to start (R247). -/
def execSwait (f : FM) (s : State) : Out :=
  inClause s fun x =>
    if x.live = 0 then done s x 2 x.cl
    else use s x [f.d, f.a] fun s x =>
      if checking x then
        let r := reachSync s x .read f.a (memAddr s x f 16)
        let need := distinct (watchedWords s x.core ++ (locsOf r.ok).map Loc.key)
        if need.length > 256 && r.fails.isEmpty then .next (notStarted r.st x)
        else checked x r 2 fun _ _ cl => cl
      else
        let gens := mkLanes fun l => word ((word64 s x f.d l).toNat % 2 ^ 32)
        done s x 2 { x.cl with control := .swait (found x) gens (acquireScope f) }

/-- `sadd` (R248): one entry for each distinct word. -/
def execSadd (f : FM) (s : State) : Out :=
  inClause s fun x =>
    if x.live = 0 then done s x 2 x.cl
    else use s x [f.d, f.a, f.e] fun s x =>
      if checking x then
        checked x (reachSync s x .sync f.a (memAddr s x f 16)) 2 fun _ x cl =>
          countOps 16 (locsOf (tabGet cl.xlat x.cl.cursor [])) cl
      else
        performOps s x 2 16 .sadd (releaseScope f)
          (laneOps x (fun l => word ((word64 s x f.d l).toNat % 2 ^ 32)) fun l => word ((word64 s x f.e l).toNat % 2 ^ 32)) id

/-- `gsp` (R249). -/
def execGsp (f : FM) (s : State) : Out :=
  inClause s fun x =>
    if x.live = 0 then done s x 2 x.cl
    else use s x [f.a] fun s x =>
      let addr := memAddr s x f 16
      if checking x then
        checked x (reachSync s x .read f.a addr) 2 fun _ x cl => writeLanes x cl f.d fun _ => 0
      else settle s x (inlineRevoked s x (found x)) 0 [] fun s x =>
        if !wordReady s x none (locsOf (found x)) then waitHere s
        else
        let r := eachWord s x fun s _ loc =>
          let q := readSync s loc
          (q.1, word (q.2.gen * 2 ^ 32 + q.2.count))
        let s := acquireObjects r.1 x.core (acquireScope f) ((maskLanes x.live).map fun l => objectPtr s x (addr l))
        done s x 2 (writeLanes x x.cl f.d fun l => tabGet r.2 l 0)

end Sys2Proof.Machine
end

