-- ==== Sys2Proof/Machine/Queue.lean ====
section
/-!
DEFINITION. Queues in device memory (R57, R58) and `stq` (R89).
-/

namespace Sys2Proof.Machine

/-- The fields of a queue descriptor (R57). -/
structure QueueDesc where
  base : Nat
  capacity : Nat
  flags : Nat
  head : Nat
  tail : Nat
  rest : Nat

def queueOf (bs : List Byte) : QueueDesc :=
  let n := leNat bs
  { base := bits n 63 0, capacity := bits n 95 64, flags := bits n 127 96, head := bits n 191 128, tail := bits n 255 192,
    rest := bits n 511 256 }

def isPow2 (n : Nat) : Bool := (List.range 32).any fun i => n == 2 ^ i

/-- A pointer R57 accepts: space 0x0, 64-byte aligned. -/
def queuePtrOk (ptr : Word) : Bool := ptr.toNat % 64 == 0 && bits ptr.toNat 63 60 == 0

/-- The descriptor has the form of R57. -/
def queueOk (q : QueueDesc) : Bool :=
  q.base % 8 == 0 && bits q.base 63 60 == 0 && isPow2 q.capacity && decide (q.capacity ≤ 2 ^ 24) && bits q.flags 31 1 == 0 &&
    q.rest == 0

/-- The descriptor at its home. DESIGN CHOICE (notes/assumptions/42.md): what a plain store has left in head, tail or flags counts as the
queue's state, though R58 calls that state undefined: the bytes are the only state a queue has. -/
def queueAt (s : State) (l : Loc) : QueueDesc := queueOf (peekBytes s l 64)

def queueClosed (q : QueueDesc) : Bool := q.flags.testBit 0
/-- tail - head, modulo 2^64. -/
def queueHeld (q : QueueDesc) : Nat := (q.tail + 2 ^ 64 - q.head) % 2 ^ 64

/-- The address of entry n. -/
def entryPtr (q : QueueDesc) (n : Nat) : Word := word (q.base + 8 * (n % q.capacity))

/-- What an `stq` does. -/
inductive StqFn where
  | push | pop | peek
  deriving DecidableEq

/-- The status of one lane's operation on a queue (R89). -/
def stqStatus (fn : StqFn) (q : QueueDesc) : Nat :=
  let some_ := queueHeld q != 0
  if queueClosed q && !(fn != .push && some_) then 2
  else if fn = .push then (if queueHeld q = q.capacity then 1 else 0)
  else if some_ then 0 else 1

/-- The entry a lane's operation touches: a push writes at tail, a pop or peek reads at head. -/
def stqEntry (fn : StqFn) (q : QueueDesc) : Word := entryPtr q (if fn = .push then q.tail else q.head)

/-- The check of one lane (R89): descriptor form, then permissions, then those of the entry it would touch now. -/
def reachQueue (fn : StqFn) (x : Ctx) (r : Reach) (l : Nat) (ptr : Word) : Reach :=
  let bad (r : Reach) : Reach := { r with fails := r.fails ++ [(l, 0x31, ptr)] }
  if !queuePtrOk ptr then bad r
  else
    let r' := reachOne x (if fn = .peek then .read else .atomic) 64 64 r l l ptr
    match tabGet? r'.ok l with
    | none => r'
    | some loc =>
      let q := queueAt r'.st loc
      if !isPow2 q.capacity then bad r'
      else if stqStatus fn q = 0 then
        let e := reachOne x (if fn = .push then .write else .read) 8 8 r' 32 l (stqEntry fn q)
        { e with ok := tabDel e.ok 32 }
      else r'

/-- A queue entry's place is free of the troupe's own earlier accesses (R364), and its line of partials still to come (R344). -/
def entryClear (s : State) (x : Ctx) (e : Loc) : Bool :=
  sectorClear x.t e && !lineWaits s x.core e && mayCross s x.core e true &&
    (olderSymbols s x.core x.pos x.t.seq).all fun y => !readsSector y (e.key / 64)

/-- One lane's operation at the descriptor's home: `none` where the entry does not translate or waits for the troupe's own accesses, so that
the step waits. -/
def stqLane (fn : StqFn) (x : Ctx) (s : State) (l : Nat) (loc : Loc) (v : Word) : Option (State × Nat × Option Word) :=
  let r := homeRead (dropPlain (coreRequest s x.core (troupeKey s x.t) 4 loc []) x.core loc.line) loc 64
  let s := r.1
  let q := queueOf r.2
  let st := stqStatus fn q
  if st ≠ 0 then some (s, st, none)
  else
    match translate s (whoOf s x) (threadOf x.t l).wid (stqEntry fn q) 8 (if fn = .push then .write else .read) with
    | (_, .trap _ _) => none
    | (s, .ok e) =>
      if !entryClear s x e then none
      else
      let s := dropPlain (coreRequest s x.core (troupeKey s x.t) (if fn = .push then 1 else 0) e []) x.core e.line
      if fn = .push then
        some (homeWrite (homeWrite s e (leBytes 8 v.toNat)) (loc.plus 24) (leBytes 8 (q.tail + 1)), 0, none)
      else
        let d := homeRead s e 8
        let s := if fn = .pop then homeWrite d.1 (loc.plus 16) (leBytes 8 (q.head + 1)) else d.1
        some (s, 0, some (word (leNat d.2)))

/-- Every lane, ascending: the state, statuses and entries read. Lanes that name different descriptors are performed in the same
ascending order: DESIGN CHOICE, R89 gives them no order (notes/assumptions/30.md). -/
def stqAll (fn : StqFn) (x : Ctx) (v : Nat → Word) :
    List Nat → State → Tab Nat → Tab Word → Option (State × Tab Nat × Tab Word)
  | [], s, st, out => some (s, st, out)
  | l :: r, s, st, out =>
    match tabGet? (found x) l with
    | none => stqAll fn x v r s st out
    | some loc => match stqLane fn x s l loc (v l) with
      | none => none
      | some (s, n, w) => stqAll fn x v r s (tabPut st l n) (match w with | some w => tabPut out l w | none => out)

/-- A destination's lanes that receive a value; the others keep what the register holds. -/
def writeSome (x : Ctx) (cl : Clause) (d : Operand) (out : Tab Word) : Clause :=
  let old := match d with
    | .x n => (tabGet? cl.xw n.toNat).getD (regOf x.t n.toNat)
    | .k n => known fun _ => (tabGet? cl.kw n.toNat).getD (kOf x.t n.toNat)
    | _ => emptyReg
  writeD x cl (lateDest d) (mergeReg (maskOf fun l => (tabGet? out l).isSome) (known fun l => tabGet out l 0) old)

/-- `stq` (R89). -/
def stq (fn : StqFn) (f : FM) (s : State) : Out :=
  inClause s fun x =>
    if x.live = 0 then done s x 2 x.cl
    else use s x (if fn = .push then [f.d, f.a] else [f.a]) fun s x =>
      let addr := memAddr s x f 8
      if checking x then
        checked x ((maskLanes (addressed s x f.a)).foldl (fun r l => reachQueue fn x r l (addr l)) ⟨s, [], [], 0⟩) 2 fun _ x cl =>
          let cl := if fn = .push then cl else writeSome x cl f.d []
          writeLanes x cl (lateDest f.e) fun _ => 0
      else afterDeferreds s x <| settle s x (inlineRevoked s x (found x)) 0 [] fun s x =>
        if !wordReady s x (releaseScope f) (locsOf (found x)) then waitHere s
        else match stqAll fn x (word64 s x f.d) (maskLanes x.live) s [] [] with
          | none => waitHere s
          | some (s', st, out) =>
            let s' := acquireObjects s' x.core (acquireScope f) ((maskLanes x.live).map addr)
            let cl := if fn = .push then x.cl else writeSome x x.cl f.d out
            done s' x 2 (writeLanes x cl (lateDest f.e) fun l => word (tabGet st l 0))

/-- `stq.push` (R89). -/
def execStqPush (f : FM) (s : State) : Out := stq .push f s
/-- `stq.pop` (R89). -/
def execStqPop (f : FM) (s : State) : Out := stq .pop f s
/-- `stq.peek` (R89). -/
def execStqPeek (f : FM) (s : State) : Out := stq .peek f s

end Sys2Proof.Machine
end

