-- ==== Sys2Proof/Machine/Control.lean ====
section
/-!
DEFINITION. Control instructions and meetings (R86 to R89, R105 to R115, R405, R442).
-/

namespace Sys2Proof.Machine

/-! ## Branches -/

/-- Records the control instruction's effect (R24). -/
def setControl (x : Ctx) (c : Control) : Clause := { x.cl with control := c }

/-- The target of an S-format branch (R105). -/
def branchTarget (x : Ctx) (f : FS) : Word := x.cl.head + word (ofSigned 64 (4 * f.off.toInt))

/-- `br` (R105). -/
def execBr (f : FS) (s : State) : Out :=
  inClause s fun x => done s x 1 (setControl x (.goto (mkLanes fun _ => branchTarget x f)))

/-- `call` (R105): x63 takes the address of the next clause in sequence. -/
def execCall (f : FS) (s : State) : Out :=
  inClause s fun x =>
    done s x 1 (writeLanes x (setControl x (.goto (mkLanes fun _ => branchTarget x f))) (.x 63) fun _ => nextHead x.cl)

/-- The lanes whose register target lies outside the virtual space (R107). -/
def targetFails (x : Ctx) (target : Nat → Word) : List Failure :=
  (maskLanes x.live).filterMap fun l => if bits (target l).toNat 63 52 != 0 then some (l, 0x20, target l) else none

/-- A branch to checked register targets (R106, R107): a misaligned one is a decode trap of every lane of the subset (R35, R52). -/
def branchTo (s : State) (x : Ctx) (target : Nat → Word) : Out :=
  match (maskLanes x.live).find? fun l => (target l).toNat % 4 != 0 with
  | some l => raiseTrap s x 0x03 (target l) x.cl.subset
  | none => settle s x (targetFails x target) 0 [] fun s x => done s x 1 (setControl x (.goto (mkLanes target)))

/-- `brx` (R106). -/
def execBrx (f : FA) (s : State) : Out :=
  inClause s fun x => use s x [f.a, f.b] fun s x =>
    branchTo s x fun l => word64 s x f.a l + word64 s x f.b l * 4

/-- `ret` (R106). -/
def execRet (f : FA) (s : State) : Out :=
  inClause s fun x => use s x [f.a] fun s x => branchTo s x fun l => word64 s x f.a l

/-! ## Meetings -/

/-- A thread's packed meeting value (R99). -/
def packedMeet (h : Thread) : Word := word (h.join.toNat * 2 ^ 32 + h.meet.toNat)

/-- The grid's entry address; the trap troupe has no grid and counts from 0. -/
def entryOf (s : State) (t : Troupe) : Word := ((gridOfGroup s t.group).map recEntry).getD 0

/-- Records new meeting values by lane, and the old ones in the destination (R108). -/
def setMeet (s : State) (x : Ctx) (d : Operand) (new : Nat → Word) : Out :=
  let cl := writeLanes x x.cl d fun l => packedMeet (threadOf x.t l)
  done s x 2 { cl with meets := (maskLanes x.live).foldl (fun m l => tabPut m l (new l)) cl.meets }

/-- `meet xd, xa, label` (R108). TRAPADDR of a 0x09 raised by `meet` is the instruction's address: DESIGN CHOICE, R392 gives only a
held lane's (notes/assumptions/30.md). -/
def execMeet (f : FX) (s : State) : Out :=
  inClause s fun x => use s x [f.a] fun s x =>
    let off : Int := (x.cl.head.toNat : Int) + 4 * f.imm.toInt - (entryOf s x.t).toNat
    if off < -(2 ^ 31) ∨ 2 ^ 31 ≤ off then trapAll s x 0x09 x.instrAddr
    else setMeet s x f.d fun l => word ((word64 s x f.a l).toNat % 2 ^ 32 * 2 ^ 32 + ofSigned 32 off)

/-- `meet xd, xb` (R108). -/
def execMeetPacked (f : FX) (s : State) : Out :=
  inClause s fun x => use s x [f.b] fun s x =>
    let bad := (maskLanes x.live).filter fun l => (word64 s x f.b l).toNat % 4 != 0
    settle s x (bad.map fun l => (l, 0x09, x.instrAddr)) 0 [] fun s x => setMeet s x f.d (word64 s x f.b)

/-- Lanes of a troupe that have exited. -/
def exitedMask (t : Troupe) : LaneMask := ~~~liveLanes t

/-- `meetq` (R109). -/
def execMeetq (f : FC) (s : State) : Out :=
  inClause s fun x => use s x [f.a] fun s x =>
    let gone := x.cl.active ||| exitedMask x.t
    done s x 1 (writePred x x.cl f.q.toNat fun l =>
      BitVec.ofNat 32 (word64 s x f.a l).toNat &&& ~~~gone == 0)

/-! ## Barriers -/

/-- A thread where it stands in its gang. -/
structure Member where
  key : Nat
  core : Nat
  pos : Nat
  tidx : Nat
  lane : Nat
  th : Thread

/-- The keys of a group's gang. -/
def gangKeys (s : State) (key : Nat) : List Nat :=
  match groupAt s key with
  | none => []
  | some g => distinct (key :: g.gang.map fun e => e.2)

/-- Every thread position of a group. -/
def groupThreads (s : State) (key : Nat) : List Member :=
  match groupAt s key with
  | none => []
  | some g => g.troupes.flatMap fun e => match troupeAt s g.core e.2 with
    | none => []
    | some t => laneList.map fun l => ⟨key, g.core, e.2, e.1, l, threadOf t l⟩

def gangThreads (s : State) (key : Nat) : List Member := (gangKeys s key).flatMap (groupThreads s)

/-- The unit of a level that an identifier lies in (R68). -/
def unitOf (g : Grid) (level : Nat) (wid : Word) : Nat := wid.toNat / 2 ^ levelBits (gridShape g) level

/-- Troupe indices that exist in a group. -/
def troupeMask (g : Grid) : BitVec 32 := maskOf fun i => decide (i < troupeCount g)

/-- The lanes that raise 0x08 at a `bar` (R112). Masks are compared as the 32 bits presented: DESIGN CHOICE
(notes/assumptions/30.md). -/
def barFails (s : State) (x : Ctx) (g : Grid) (n : Nat) (lanes troupes : Nat → BitVec 32) : LaneMask :=
  let self := laneBit x.t.tidx
  let unit (l : Nat) : Nat := unitOf g n (threadOf x.t l).wid
  let waiting := (gangThreads s x.t.group).filterMap fun m => match m.th.st with
    | .waiting k a b => if k = n then some (unitOf g n m.th.wid, a, b) else none
    | _ => none
  maskOf fun l => x.live.getLsbD l &&
    (!(lanes l).getLsbD l || (troupes l &&& self) == 0 || (troupes l &&& troupeMask g) == 0 || lanes l == 0 ||
     (match waiting.find? fun w => w.1 == unit l with
      | some w => w.2.1 != lanes l || w.2.2 != troupes l
      | none => match (maskLanes x.live).find? fun k => unit k == unit l with
        | some k => lanes k != lanes l || troupes k != troupes l
        | none => false))

/-- `bar` (R110, R112). -/
def execBar (f : FX) (s : State) : Out :=
  inClause s fun x => use s x [f.a, f.b] fun s x =>
    if x.live = 0 then done s x 2 x.cl
    else match gridOfGroup s x.t.group with
      | none => trapAll s x 0x02 x.instrAddr
      | some g =>
        let n := f.imm.toNat % 8
        let lanes (l : Nat) : BitVec 32 := BitVec.ofNat 32 (word64 s x f.a l).toNat
        let troupes (l : Nat) : BitVec 32 := BitVec.ofNat 32 (word64 s x f.b l).toNat
        let bad := barFails s x g n lanes troupes
        if bad != 0 then raiseTrap s x 0x08 x.instrAddr bad
        else
          done s x 2 (setControl x (.bar n (mkLanes fun l => (lanes l).zeroExtend 64) (mkLanes fun l => (troupes l).zeroExtend 64)))

/-! ## Giving way -/

/-- `nap` (R115): cycles, clamped. -/
def execNap (f : FB) (s : State) : Out :=
  inClause s fun x => use s x [f.a] fun s x =>
    let d (l : Nat) : Int := max 0 (min (((word64 s x f.a l).toNat : Int) + f.imm.toInt) 65536)
    done s x 1 (setControl x (.nap (mkLanes fun l => word (d l).toNat)))

/-- `exit` (R86). -/
def execExitPlain (_f : FB) (s : State) : Out := inClause s fun x => done s x 1 (setControl x (.exit false))
/-- `exit.inherit` (R86). -/
def execExitInherit (_f : FB) (s : State) : Out := inClause s fun x => done s x 1 (setControl x (.exit true))

/-- `yield` (R87). -/
def execYieldPlain (_f : FA) (s : State) : Out := inClause s fun x => done s x 1 (setControl x .yieldPlain)

/-- The check of a yield's descriptor pointer (R57, R87). -/
def reachYield (s : State) (x : Ctx) (b : Nat) (ptr : Word) : Reach :=
  if queuePtrOk ptr then reachOne x .read 64 64 ⟨s, [], [], 0⟩ b b ptr else ⟨s, [], [(b, 0x31, ptr)], 0⟩

/-- `yield xa` (R87): the descriptor is checked before commit and read as the instruction performs. -/
def execYieldQueue (f : FA) (s : State) : Out :=
  inClause s fun x => use s x [f.a] fun s x =>
    match lowLane x.live with
    | none => done s x 1 x.cl
    | some b =>
      let ptr := word64 s x f.a b
      if checking x then
        checked x (reachLow s x f.a b fun s => reachYield s x b ptr) 1 fun _ _ cl => cl
      else match tabGet? (found x) b with
        | none => done s x 1 x.cl
        | some l =>
          if !(x.t.acquires.isEmpty && entryClear s x l) then waitHere s
          else
          let q := queueAt s l
          done s x 1 (setControl x (.yieldQueue l q.head q.tail (queueClosed q)))

/-! ## grow -/

/-- The die that a gang is dealt to (R70); a Minuet grid's gangs stand on die 0 (R81). -/
def gangDie (g : Grid) (gang : Nat) : Nat := if isMinuet g then 0 else gang % 4

/-- Deals gangs a to b - 1 of a grid to the dies (R70). -/
def dealGangs (s : State) (ticket a b : Nat) : State :=
  ((List.range (b - a)).map (· + a)).foldl (fun s i =>
    modDie s (((gridAt s ticket).map fun g => gangDie g i).getD 0) fun d => { d with pending := d.pending ++ [{ ticket, gang := i, requeued := false, saved := false, starts := [] }] }) s

/-- The arbiter's step of `grow` (R88): the old count, or all ones. DESIGN CHOICE (notes/assumptions/42.md): the trap troupe, which belongs to
no grid, gets all ones and changes nothing; R88 does not speak of it. -/
def growGrid (s : State) (ticket n : Nat) : State × Word :=
  match gridAt s ticket with
  | none => (s, -1)
  | some g =>
    if n % gangSize g = 0 && g.current + n ≤ recWord g 3 then
      let s := setGrid s ticket { g with current := g.current + n }
      let s := dealGangs s ticket (g.current / gangSize g) ((g.current + n) / gangSize g)
      ((unitWrite s (g.recordAddr + 0xC8) (leBytes 8 (g.current + n))).1, word g.current)
    else ((unitWrite s (g.recordAddr + 0xC8) (leBytes 8 g.current)).1, -1)

/-- `grow` (R88). -/
def execGrow (f : FA) (s : State) : Out :=
  inClause s fun x => use s x [f.a] fun s x =>
    match lowLane x.live with
    | none => done s x 1 x.cl
    | some b =>
      if checking x then done s x 1 (writeLanes x x.cl (lateDest f.d) fun _ => 0)
      else afterDeferreds s x <|
        if !x.t.sb.isEmpty || !(tabGet s.remote (x.t.group * 32 + x.t.tidx) []).isEmpty then waitHere s
        else
          let r := growGrid s (x.t.group / 2 ^ 64) (word64 s x f.a b).toNat
          done r.1 x 1 (writeLanes x x.cl (lateDest f.d) fun _ => r.2)

/-! ## trap and brk -/

/-- The operand of the lowest active lane. -/
def lowOperand (s : State) (x : Ctx) (o : Operand) : Word := ((lowLane x.live).map (word64 s x o)).getD 0

/-- `trap` (R405): the clause commits first (R37). -/
def execTrap (f : FB) (s : State) : Out :=
  inClause s fun x => use s x [f.a] fun s x => done s x 1 (setControl x (.trap f.imm.toNat (lowOperand s x f.a)))

/-- `brk` (R442): the clause commits first (R37). -/
def execBrk (f : FB) (s : State) : Out :=
  inClause s fun x => use s x [f.a] fun s x => done s x 1 (setControl x (.brk f.imm.toNat (lowOperand s x f.a)))

end Sys2Proof.Machine
end

