-- ==== Sys2Proof/Machine/System.lean ====
section
/-!
DEFINITION. Control registers (R396, R406), `tlbi` (R407), `tret` (R408), `ctx` (R409), and the trace unit (R446 to R448).
-/

namespace Sys2Proof.Machine

/-! ## Trace unit -/

/-- Writes bytes of space 0x0 for a unit outside the cores, sector by sector; false from the first piece that does not
translate. -/
def unitStore (s : State) (ptr : Word) (bs : List Byte) : State × Bool :=
  (pieces ptr bs.length).foldl (fun a p =>
    if a.2 then unitWrite a.1 (ptr + word p.1) ((bs.drop p.1).take p.2) else a) (s, true)

/-- A byte range of space 0x0 that a unit is to read waits for partials of peers (R344). -/
def unitWaits (s : State) (ptr : Word) (n : Nat) : Bool :=
  !s.zethes.peers.isEmpty && (pieces ptr n).any fun p => match (unitPlace s (ptr + word p.1) false false).2 with
    | some l => collapseWaits s l.line
    | none => false

/-- Writes a record of a job inside one page: where the page is unmapped or under migration the control node is asked for it, and the write
is owed until it is back (R313, R320). -/
def recordStore (s : State) (key unit : Nat) (ptr : Word) (bs : List Byte) : State :=
  if pageMapped s (bits ptr.toNat 51 0 / 65536) then (unitStore s ptr bs).1
  else
    let owed := (pieces ptr bs.length).map fun p => (ptr + word p.1, (bs.drop p.1).take p.2)
    send { s with owed := s.owed ++ owed } (.pageService ptr key unit)

/-- The trace unit stops without `trc.disarm` (R447). -/
def traceStop (s : State) (core : Nat) : State :=
  let s := modCore s core fun k => { k with trace := { k.trace with armed := false }, tracelost := word (2 ^ 32) }
  send s (.event evTrace core 0 0)

/-- Counts a dropped record (R447). -/
def traceDrop (s : State) (core : Nat) : State :=
  modCore s core fun k =>
    if k.tracelost.getLsbD 32 then
      { k with tracelost := setBits k.tracelost 31 0 (min (2 ^ 32 - 1) (bits k.tracelost.toNat 31 0 + 1)) }
    else k

/-- A record of R446. -/
def traceBytes (s : State) (core kind ordinal group : Nat) (payload : Word) : List Byte :=
  leBytes 8 s.cycle ++ leBytes 1 kind ++ leBytes 1 0 ++ leBytes 2 core ++ leBytes 4 ordinal ++ leBytes 8 group ++
    leBytes 8 payload.toNat

/-- One more record is in the buffer (R448). -/
def traceCount (s : State) (core : Nat) : State :=
  modCore s core fun k => { k with trace := { k.trace with written := k.trace.written + 1 } }

/-- Writes one record of an enabled kind, or drops it (R446, R447): the last place of the buffer, if it has one, takes the stop record, which
says that one record was lost by then (DESIGN CHOICE: the one whose place it takes, notes/assumptions/40.md). -/
def traceRecord (s : State) (core kind ordinal group : Nat) (payload : Word) : State :=
  let t := (coreOf s core).trace
  if !t.kinds.getLsbD (kind - 1) then s
  else if !t.armed then traceDrop s core
  else
    let at_ := t.base + word (32 * t.written)
    if 32 * (t.written + 1) ≥ t.length then
      let r := if 32 * (t.written + 1) ≤ t.length then unitStore s at_ (traceBytes s core 6 noOrdinal 0 1) else (s, false)
      traceDrop (traceStop (if r.2 then traceCount r.1 core else r.1) core) core
    else match unitStore s at_ (traceBytes s core kind ordinal group payload) with
      | (s, true) => traceCount s core
      | (s, false) => traceDrop (traceStop s core) core

/-- One page of a trace buffer is mapped with PIN set. -/
def pagePinned (s : State) (va : Nat) : Bool :=
  match walk s va with
  | some (_, e, _) => e.testBit 12
  | none => false

/-- The arm descriptor's layout (R448). -/
def armOk (d : Nat) : Bool :=
  let base := bits d 63 0
  let len := bits d 127 64
  base % 65536 == 0 && len % 65536 == 0 && bits d 133 128 == bits d 135 128 && bits d 191 141 == 0 &&
    decide (8 ≤ bits d 140 136) && bits d 511 192 == 0

/-- `trc.mark` (R448). -/
def execTrcMark (f : FX) (s : State) : Out :=
  inClause s fun x => use s x [f.a] fun s x =>
    match lowLane x.live with
    | none => done s x 2 x.cl
    | some b =>
      if checking x then done s x 2 x.cl
      else
        let ord := ((gridOfGroup s x.t.group).bind fun g => stopSite g x.cl.head x.cl.hdr.stop).getD f.imm.toNat
        let s := traceRecord s x.core 1 ord (x.t.group % 2 ^ 64) (word64 s x f.a b)
        done s x 2 x.cl

/-- `trc.arm` (R448): the descriptor is read as a load of the clause. -/
def execTrcArm (f : FX) (s : State) : Out :=
  inClause s fun x => use s x [f.a] fun s x =>
    match lowLane x.live with
    | none => done s x 2 x.cl
    | some b =>
      let ptr := word64 s x f.a b
      let formed := ptr.toNat % 64 == 0 && bits ptr.toNat 63 60 == 0
      let res (s : State) (n : Nat) : Out := done s x 2 (writeLanes x x.cl f.d fun _ => word n)
      if checking x then
        if formed then checked x (reachLow s x f.a b fun s => reach s x .read 64 64 [b] fun _ => ptr) 2 fun _ x cl => writeUnknown x cl f.d
        else done s x 2 (writeUnknown x x.cl f.d)
      else if (coreOf s x.core).trace.armed then res s 2
      else match tabGet? (found x) b with
        | none => res s 3
        | some l =>
          if !inlineReady s x [(l, 64)] then waitHere s
          else
            let r := readOwn s x.core x.t x.t.seq l 64
            let r := (noticePoison r.1 x.t l 64, r.2)
            let d := leNat r.2
            if !armOk d then res r.1 3
            else if (List.range (bits d 127 64 / 65536)).any (fun i => !pagePinned r.1 (bits d 63 0 + 65536 * i)) then res r.1 1
            else
              let t : Trace := { armed := true, base := word (bits d 63 0), length := bits d 127 64,
                                 kinds := BitVec.ofNat 8 (bits d 133 128), p := bits d 140 136, written := 0, nextPos := 0,
                                 due := s.cycle + 2 ^ bits d 140 136 }
              res (modCore r.1 x.core fun k => { k with trace := t, tracelost := 0 }) 0

/-- `trc.disarm` (R448). -/
def execTrcDisarm (f : FX) (s : State) : Out :=
  inClause s fun x =>
    if checking x || x.live = 0 then done s x 2 (writeUnknown x x.cl f.d)
    else
      let t := (coreOf s x.core).trace
      done (modCore s x.core fun k => { k with trace := { k.trace with armed := false } }) x 2
        (writeLanes x x.cl f.d fun _ => word t.written)

/-! ## Control registers -/

/-- The delivery in service, where it still acts (R398). -/
def liveService (s : State) (core : Nat) : Option Delivery :=
  match (coreOf s core).service with
  | some d => if d.void then none else some d
  | none => none

/-- The group whose `CAPTAB` is reached (R229). -/
def captabGroup (s : State) (core pos : Nat) (t : Troupe) : Option Nat :=
  if isSup pos then (liveService s core).map fun d => d.group else some t.group

/-- DEFL, HOLD and LEVEL (R422). -/
def injlvl (s : State) (core : Nat) : Word :=
  let h := throttleOf s (coreDie core) (coreStop core)
  word (min 2048 h.last * 65536 + (if h.level ≥ 4 then 256 else 0) + h.level)

/-- TRAPSRC (R396). -/
def trapsrc (core : Nat) (d : Delivery) : Word :=
  let kind := match d.kind with | .troupe => 0 | .park => 1 | .notice => 2 | .spill => 3
  word (d.group % 2 ^ 32 * 2 ^ 32 + d.pos % 64 * 2 ^ 26 + d.tidx * 2 ^ 21 + kind * 2 ^ 16 + core * 256)

/-- The value of a control register in a lane (R396). -/
def csrValue (s : State) (x : Ctx) (n l : Nat) : Word :=
  let k := coreOf s x.core
  let d := liveService s x.core
  let of (f : Delivery → Word) : Word := (d.map f).getD 0
  if n = 0x000 then x.t.mode
  else if n = 0x001 then x.t.inherited
  else if n = 0x002 then (((captabGroup s x.core x.pos x.t).bind (groupAt s)).map fun g => g.captab).getD 0
  else if n = 0x003 then injlvl s x.core
  else if n = 0x040 then of fun d => word d.cause
  else if n = 0x041 then of fun d => d.addr
  else if n = 0x042 then of fun d => laneOf d.pcs l
  else if n = 0x043 then of fun d => d.lanes.zeroExtend 64
  else if n = 0x044 then of (trapsrc x.core)
  else if n = 0x045 then k.trapvec
  else if n = 0x046 then word (k.lost * 65536 + min 0xFFFF k.deliveries.length)
  else if n = 0x049 then k.spillbase
  else if n = 0x080 then word s.cycle
  else if n = 0x081 then k.tracelost
  else if n = 0x082 then k.wdog
  else 0

/-- `csrr` (R406). -/
def execCsrr (f : FB) (s : State) : Out :=
  inClause s fun x =>
    if x.live = 0 then done s x 1 x.cl
    else done s x 1 (writeLanes x x.cl f.d fun l => csrValue s x f.imm.toNat l)

/-- A control register write kept for commit (R406). -/
def recordCsr (f : FB) (s : State) : Out :=
  inClause s fun x => use s x [f.a] fun s x =>
    match lowLane x.live with
    | none => done s x 1 x.cl
    | some b => done s x 1 { x.cl with csrw := tabDel x.cl.csrw f.imm.toNat ++ [(f.imm.toNat, word64 s x f.a b)] }

/-- `csrw` (R406). -/
def execCsrw (f : FB) (s : State) : Out := recordCsr f s
/-- `csrw PSREQ` (R396). -/
def execPsreq (f : FB) (s : State) : Out := recordCsr f s
/-- `csrw GANGKILL` (R396). -/
def execGangkillReg (f : FB) (s : State) : Out := recordCsr f s

/-- The gang of a group: ticket and gang index. -/
def gangOf (s : State) (key : Nat) : Nat × Nat :=
  (key / 2 ^ 64, match gridOfGroup s key with | some g => key % 2 ^ 64 / gangSize g | none => 0)

/-- A kill of a gang taken up after the running clause (R36, R455): cause in the low 8 bits, then the value reported. -/
def requestKill (s : State) (key cause value : Nat) : State :=
  let g := gangOf s key
  { s with agenda := .gangKill g.1 g.2 (cause + 256 * value) :: s.agenda }

/-- A control register written at commit (R396, R406): read-only fields are ignored. -/
def storeCsr (s : State) (core pos n : Nat) (v : Word) : State :=
  let k (f : CoreSt → CoreSt) : State := modCore s core f
  if n = 0x000 then modTroupe s core pos fun t => { t with mode := modeWrite v }
  else if n = 0x002 then
    match troupeAt s core pos with
    | none => s
    | some t => match captabGroup s core pos t with
      | none => s
      | some key => modGroup s key fun g => { g with captab := v &&& word (2 ^ 64 - 2 ^ 13 + 1) }
  else if n = 0x045 then k fun k => { k with trapvec := word (v.toNat / 4 * 4) }
  else if n = 0x046 then k fun k => { k with lost := bits v.toNat 31 16 }
  else if n = 0x047 then
    match liveService s core with
    | none => s
    | some d => send s (.pageService v d.key core)
  else if n = 0x048 then
    match liveService s core with
    | none => s
    | some d => if d.kind = .notice then s else requestKill s d.group 0x44 v.toNat
  else if n = 0x049 then k fun k => { k with spillbase := word (v.toNat / 65536 * 65536 + v.toNat % 2) }
  else if n = 0x081 then k fun k => { k with tracelost := word (bits v.toNat 32 0) }
  else if n = 0x082 then k fun k => { k with wdog := word (bits v.toNat 31 0) }
  else s

/-! ## tlbi -/

/-- Poison of a slot's and of a band's 64-byte sectors, as numbers of their own (R269, R454). -/
def slotPoison (key h sec : Nat) : Nat := 2 ^ 200 + (key * 64 + h) * 256 + sec
def bandPoison (key b sec : Nat) : Nat := 2 ^ 201 + (key * 64 + b) * 256 + sec
def addPoison (s : State) (ps : List Nat) : State := { s with poison := s.poison ++ ps.filter fun p => !s.poison.contains p }

/-- A slot or band, named by its first sector's number, holds no poison any more. -/
def endPoison (s : State) (first : Nat) : State := { s with poison := s.poison.filter fun p => p / 256 != first / 256 }

/-- Locations that a clause has translated for words still to perform. -/
def clauseLocs (cl : Clause) : List Loc :=
  (cl.xlat.filter fun e => cl.phase == .check || decide (cl.cursor ≤ e.1)).flatMap fun e => e.2.map fun q => q.2

/-- Locations that a started clause has kept for its end: of tile entries to be enqueued (R278), and of the words it will wait on. -/
def queuedLocs (cl : Clause) : List Loc :=
  (cl.tiles.flatMap fun r => match r with
    | .entry _ e => e.mem ++ e.notify.toList
    | .segment _ _ n _ => n.toList) ++
  (match cl.control with
   | .swait words _ _ => words.map fun e => e.2
   | .yieldQueue q _ _ _ => [q]
   | _ => [])

/-- Locations of buffered entries; one that comes from an image is translated again as it drains (R404). -/
def entryLocs (es : List SBEntry) : List Loc := (es.filter fun e => !e.again).flatMap fun e => e.loc :: e.ops.map fun o => o.loc

/-- Locations that a troupe's running clause, unless it is the one left out, and its store buffer still name. -/
def troupeLocs (t : Troupe) (left : Bool) : List Loc :=
  (match t.clause with | some cl => if left then [] else clauseLocs cl ++ queuedLocs cl | none => []) ++
    entryLocs t.sb

/-- Locations of a symbol whose answers are still to come. -/
def symbolLocs (y : Symbol) : List Loc :=
  (y.locs.filter fun e => (openLanes y).getLsbD e.1 || (y.kind == .image && openLanes y != 0)).map fun e => e.2

/-- Locations translated and not yet accessed: loads, started clauses, buffered entries, tile entries and their sync words (R233, R278,
R407), with the position they belong to. -/
def outstandingLocs (left : Option (Nat × Nat)) (c : Nat × CoreSt) : List (Nat × Loc) :=
  (c.2.symbols.flatMap fun y => (symbolLocs y.2).map fun l => (y.2.pos, l)) ++
    (c.2.troupes.flatMap fun t => (troupeLocs t.2 (left == some (c.1, t.1))).map fun l => (t.1, l)) ++
    ((c.2.tileHi ++ c.2.tileLo).flatMap fun e => (e.mem ++ e.notify.toList).map fun l => (e.issuer, l))

/-- Translations of accesses that have not performed, arrivals on their way to sync words and entries that a save left with the arbiter among
them (R366); the clause that asks is left out. -/
def outstandingVia (s : State) : List TlbEntry :=
  ((s.cores.flatMap fun c => (outstandingLocs s.focus c).map fun e => e.2) ++ s.arrivals.map (fun a => a.word) ++
    s.remote.flatMap fun r => entryLocs r.2).filterMap fun l => l.via

/-- An invalidation completes when no access translated under an entry it drops is outstanding (R407), whether a TLB still holds the entry or
not. -/
def tlbiQuiet (s : State) (p : TlbEntry → Bool) : Bool := (outstandingVia s).all fun e => !p e

/-- The same for a page: the entries that map an address of its 64 KiB. -/
def pageQuiet (s : State) (va : Nat) : Bool := tlbiQuiet s (tlbCovers va)

/-- `tlbi.page` (R407). -/
def execTlbiPage (f : FM) (s : State) : Out :=
  inClause s fun x => use s x [f.a] fun s x =>
    match lowLane x.live with
    | none => done s x 2 x.cl
    | some b =>
      let p := word64 s x f.a b
      if bits p.toNat 63 60 > 1 || bits p.toNat 59 52 != 0 then
        settle s x (sharedFails x [(b, 0x20, p)]) 0 [] fun s x => done s x 2 x.cl
      else if checking x then done s x 2 x.cl
      else if pageQuiet s (bits p.toNat 51 0) then done (invalidatePage s p) x 2 x.cl
      else waitHere s

/-- `tlbi.key` (R407). -/
def execTlbiKey (f : FM) (s : State) : Out :=
  inClause s fun x => use s x [f.a] fun s x =>
    match lowLane x.live with
    | none => done s x 2 x.cl
    | some b =>
      let idx := (word64 s x f.a b).toNat % 16
      if checking x then done s x 2 x.cl
      else if tlbiQuiet s (fun e => bits e.leaf 55 52 == idx) then done (invalidateKey s idx) x 2 x.cl
      else waitHere s

/-- `tlbi.all` (R407). -/
def execTlbiAll (_f : FM) (s : State) : Out :=
  inClause s fun x =>
    if checking x || x.live = 0 then done s x 2 x.cl
    else if tlbiQuiet s (fun _ => true) then done (invalidateAll s) x 2 x.cl
    else waitHere s

/-! ## tret and ctx -/

/-- `tret` (R408): a misaligned target is a supervisor fault that carries 0x03 (R397). -/
def execTret (f : FA) (s : State) : Out :=
  inClause s fun x => use s x [f.a] fun s x =>
    match f.a with
    | .zero => done s x 1 (setControl x (.tret none))
    | a =>
      let targets := mkLanes fun l => word64 s x a l
      let lanes := match liveService s x.core with
        | some d => if d.kind = DKind.troupe then maskLanes d.subset else []
        | none => []
      match (if x.live = 0 then none else lanes.find? fun l => (laneOf targets l).toNat % 4 != 0) with
      | some l => raiseTrap s x 0x03 (laneOf targets l) x.live
      | none => done s x 1 (setControl x (.tret (some targets)))

/-- The pointer of a `ctx` names a record: aligned, in space 0x0, and in a troupe or spill service (R409). -/
def ctxPtrOk (s : State) (x : Ctx) (p : Word) : Bool :=
  p.toNat % 4096 == 0 && bits p.toNat 63 52 == 0 &&
    (match (coreOf s x.core).service with
     | some d => d.kind == DKind.troupe || d.kind == DKind.spill
     | none => false)

/-- The pages of a troupe record (R409). -/
def recordPages (p : Word) : List Nat := (List.range 7).map fun i => min (p.toNat + 65536 * i) (p.toNat + 0x50FFF) / 65536

/-- The control instruction `ctx`, once its pointer is seen to be good; a record on a page that migration holds parks the clause's lanes with
0x16 (R391). -/
def startCtx (s : State) (x : Ctx) (p : Word) (c : Control) : Out :=
  if !ctxPtrOk s x p then raiseTrap s x 0x45 p x.live
  else match (recordPages p).find? (pageMoving s) with
    | some n =>
      if checking x then settle s x (sharedFails x [(0, 0x16, word (n * 65536))]) 0 [] fun s x => done s x 2 x.cl
      else done s x 2 (setControl x c)
    | none => done s x 2 (setControl x c)

/-- `ctx.save` (R409). -/
def execCtxSave (f : FX) (s : State) : Out :=
  inClause s fun x => use s x [f.a] fun s x =>
    let p := lowOperand s x f.a
    if x.live = 0 then done s x 2 x.cl
    else startCtx s x p (.ctxSave p)

/-- `ctx.restore` (R409). -/
def execCtxRestore (f : FX) (s : State) : Out :=
  inClause s fun x => use s x [f.a] fun s x =>
    let p := lowOperand s x f.a
    if x.live = 0 then done s x 2 x.cl
    else startCtx s x p (.ctxRestore p)

end Sys2Proof.Machine
end

