-- ==== Sys2Proof/Machine/Tile.lean ====
section
/-!
DEFINITION. Operand slots, the accumulator store, tile queues and the instructions of class tile (R251 to R291).
-/

namespace Sys2Proof.Machine

/-! ## Slots -/

/-- Fields of a slot tag (R253). -/
def slotState (t : Word) : Nat := bits t.toNat 2 0
def slotWritten (t : Word) : Nat := bits t.toNat 15 8
def slotK (t : Word) : Nat := bits t.toNat 26 16
def slotType (t : Word) : Nat := bits t.toNat 31 27
def slotReaders (t : Word) : Nat := bits t.toNat 42 32

/-- Width of a tile element (R255). -/
def tileWidth (ty : Nat) : Nat := if ty ≥ 18 then ty - 16 else typeWidth ty

/-- Bytes of a tile (R256). -/
def tileSize (t : Word) : Nat := 8 * slotK t * tileWidth (slotType t)

/-- A fresh tag: WRITTEN 0, state empty (R284). -/
def claimedTag (ty k : Nat) : Word := word (ty * 2 ^ 27 + k * 2 ^ 16 + 1)

/-- A tag with another READERS count: a full slot is in use while it is read (R254). -/
def withReaders (t : Word) (n : Nat) : Word :=
  let t := setBits t 42 32 n
  if slotState t = 3 && n > 0 then setBits t 2 0 4
  else if slotState t = 4 && n = 0 then setBits t 2 0 3
  else t

/-- K granularity and limit by type (R257). -/
def claimOk (ty k : Nat) : Bool :=
  let lim (g m : Nat) : Bool := k % g == 0 && decide (g ≤ k) && decide (k ≤ m)
  match ty with
  | 12 => lim 16 32
  | 14 => lim 16 128
  | 15 => lim 16 128
  | 16 => lim 16 256
  | 17 => lim 16 256
  | 18 => lim 32 1024
  | 19 => lim 32 672
  | 20 => lim 32 512
  | 21 => lim 32 384
  | 22 => lim 32 320
  | 23 => lim 32 288
  | 24 => lim 32 256
  | _ => false

def slotTag (g : Group) (h : Nat) : Word := tabGet g.slots h 0

/-- A 128-byte sub-block lands in a slot (R254, R256, R258); `none` where it is discarded. -/
def slotLand (g : Group) (h off : Nat) (bs : List Byte) : Option Group :=
  let t := slotTag g h
  if h ≥ g.nslots || !(slotState t == 1 || slotState t == 2) || off + 128 > tileSize t || off % 128 != 0 || bs.length != 128 then none
  else
    let w := tabGet g.slotWritten h []
    let w := if w.contains (off / 128) then w else off / 128 :: w
    let data := (List.range bs.length).foldl (fun d i => tabPut d (off + i) (bs.getD i 0)) (tabGet g.slotBytes h [])
    let t := setBits t 15 8 w.length
    let t := if w.length * 128 ≥ tileSize t then
        setBits t 2 0 (if slotReaders t > 0 then 4 else 3) else setBits t 2 0 2
    some { g with slots := tabPut g.slots h t, slotBytes := tabPut g.slotBytes h data, slotWritten := tabPut g.slotWritten h w }

/-- Element k of a line of a slot (R255). -/
def slotElem (g : Group) (h line k : Nat) : Nat :=
  let t := slotTag g h
  let w := tileWidth (slotType t)
  let at_ := line * (slotK t * w / 8) + w * k / 8
  let d := tabGet g.slotBytes h []
  leNat ((List.range 9).map fun i => tabGet d (at_ + i) 0) / 2 ^ (w * k % 8) % 2 ^ w

/-! ## Bands -/

/-- Band tags (R261): 0 F32, 1 F64, 2 F64U, 3 + 8w RAW(w). -/
def rawTag (w : Nat) : Nat := 3 + 8 * w
def isRaw (t : Nat) : Bool := t % 8 == 3

/-- The tag that a type gives a band (R288): f64, f32 or bfp. -/
def typeTag (ty : Nat) : Nat := if ty = 12 then 1 else if ty = 13 then 0 else rawTag (ty - 16)

/-- Retags a band; a write other than f64 into one band of a pair makes the other F32 (R261). -/
def retag (tags : Tab Nat) (b tag : Nat) : Tab Nat :=
  let old := tabGet tags b 0
  let tags := if tag = 1 then tabPut tags (b + 1) 2
    else if old = 1 then tabPut tags (b + 1) 0
    else if old = 2 then tabPut tags (b - 1) 0
    else tags
  tabPut tags b tag

/-- A cell of 32 bits, and of 64 over a pair (R260, R261). -/
def cellAt (g : Group) (b i j : Nat) : Nat := (tabGet (tabGet g.cells b []) (64 * i + j) 0).toNat
def pairAt (g : Group) (b i j : Nat) : Nat := cellAt g b i j + 2 ^ 32 * cellAt g (b + 1) i j

def setCell (g : Group) (b i j v : Nat) : Group :=
  { g with cells := tabPut g.cells b (tabPut (tabGet g.cells b []) (64 * i + j) (BitVec.ofNat 32 v)) }

def setPair (g : Group) (b i j v : Nat) : Group := setCell (setCell g b i j v) (b + 1) i j (v / 2 ^ 32)

/-- Replaces every cell of a band, or of a pair where wide. -/
def fillBand (g : Group) (b : Nat) (wide : Bool) (f : Nat → Nat → Nat) : Group :=
  let plane (part : Nat) : Tab (BitVec 32) :=
    (List.range 4096).map fun n => (n, BitVec.ofNat 32 (f (n / 64) (n % 64) / 2 ^ (32 * part)))
  let g' := { g with cells := tabPut g.cells b (plane 0) }
  if wide then { g' with cells := tabPut g'.cells (b + 1) (plane 1) } else g'

/-! ## Entries -/

/-- Fields of a `tmm` descriptor (R286). -/
def dGen (d : Word) : Nat := bits d.toNat 63 32
def dKB (d : Word) : Nat := bits d.toNat 26 18
def dBM (d : Word) : Nat := bits d.toNat 17 14
def dBH (d : Word) : Nat := bits d.toNat 13 9
def dAH (d : Word) : Nat := bits d.toNat 8 4
def dBand (d : Word) : Nat := bits d.toNat 3 0

/-- A resource an entry touches: group, whether it is a slot, number. -/
abbrev Res := Nat × Bool × Nat

/-- Bands of an entry, with the upper one of an f64 pair. -/
def pairOf (wide : Bool) (b : Nat) : List Nat := if wide then [b, b + 1] else [b]

/-- Segments not yet computed. -/
def openSegments (e : TileEntry) : List Segment := e.segments.filter fun q => !q.done

/-- Slots an entry has still to read. -/
def entrySlots (e : TileEntry) : List Res :=
  match e.op with
  | .tmm _ => (openSegments e).flatMap fun q => [(e.group, true, dAH q.desc), (q.bGroup, true, dBH q.desc)]
  | .opmSt => [(e.group, true, bits e.desc.toNat 4 0)]
  | _ => []

/-- What an entry reads, and what it writes (R264). -/
def entryReads (e : TileEntry) : List Res :=
  let bands (l : List Nat) : List Res := l.map fun b => (e.group, false, b)
  match e.op with
  | .tsa => bands [bits e.desc.toNat 7 4, dBand e.desc]
  | .accSt => bands (pairOf (e.fmts.1 == 12) (dBand e.desc))
  | .accCvst _ _ => bands (pairOf (e.fmts.1 == 12) (dBand e.desc))
  | .tmm bfp => entrySlots e ++ (if bfp then [] else bands (pairOf (e.fmts.1 == 12) (dBand e.desc)))
  | .opmSt => entrySlots e
  | _ => []

def entryWrites (e : TileEntry) : List Res :=
  let bands (l : List Nat) : List Res := l.map fun b => (e.group, false, b)
  match e.op with
  | .tmm _ => bands (pairOf (e.fmts.1 == 12) (dBand e.desc))
  | .tsa => bands [dBand e.desc]
  | .accZero => bands (pairOf (e.fmts.1 == 12) (dBand e.desc))
  | .accLd => bands (pairOf (e.fmts.1 == 12) (dBand e.desc))
  | .opmLd => [(e.group, true, bits e.desc.toNat 4 0)]
  | _ => []

/-- Every unretired entry of a core, in enqueue order. -/
def coreEntries (k : CoreSt) : List TileEntry := (k.tileHi ++ k.tileLo).mergeSort fun a b => decide (a.id ≤ b.id)

/-- Unretired entries of the package that belong to a group. -/
def groupEntries (s : State) (key : Nat) : List TileEntry :=
  match groupAt s key with
  | none => []
  | some g => (coreEntries (coreOf s g.core)).filter fun e => e.group == key

/-- Whether an unretired entry touches a band, or writes a slot, of a group. -/
def bandBusy (s : State) (key b : Nat) : Bool :=
  (groupEntries s key).any fun e => (entryReads e ++ entryWrites e).contains (key, false, b)
def slotWriter (s : State) (key h : Nat) : Bool := (groupEntries s key).any fun e => (entryWrites e).contains (key, true, h)

/-! ## Projected tags (R262) -/

/-- Band tags once some entries have retired. -/
def tagsAfter (es : List TileEntry) (g : Group) : Tab Nat :=
  es.foldl (fun t e => match e.op with
    | .tmm true => retag t (dBand e.desc) (typeTag e.fmts.1)
    | .accZero => retag t (dBand e.desc) (typeTag e.fmts.1)
    | .accLd => retag t (dBand e.desc) (typeTag e.fmts.1)
    | _ => t) g.bandTags

/-- Band tags once every enqueued entry of the group has retired. -/
def queuedBandTags (s : State) (key : Nat) (g : Group) : Tab Nat := tagsAfter (groupEntries s key) g

/-- Entries of the running clause's earlier words, which its commit will enqueue (R263). -/
def clauseEntries (cl : Clause) : List TileEntry :=
  cl.tiles.filterMap fun r => match r with | .entry _ e => some e | .segment _ _ _ _ => none

/-- With what earlier words of the clause change. -/
def projBandTag (s : State) (x : Ctx) (g : Group) (b : Nat) : Nat :=
  (tabGet? x.cl.bandTags b).getD (tabGet (tagsAfter (groupEntries s x.t.group ++ clauseEntries x.cl) g) b 0)

/-- The tags of a group's bands, as projected, all of them. -/
def projBandTags (s : State) (x : Ctx) (g : Group) : Tab Nat :=
  (List.range 16).map fun b => (b, projBandTag s x g b)

/-- A slot's projected tag (R262): a queued `opm.ld` leaves it full, unless the slot has been released since. -/
def projSlot (s : State) (x : Ctx) (key : Nat) (g : Group) (h : Nat) : Word :=
  let own : Option Word := if key = x.t.group then tabGet? x.cl.slotTags h else none
  let soon := key == x.t.group && (clauseEntries x.cl).any fun e => (entryWrites e).contains (key, true, h)
  own.getD (if slotState (slotTag g h) != 0 && (slotWriter s key h || soon) then setBits (slotTag g h) 2 0 3 else slotTag g h)

/-- The open entry of a band, if any. -/
def openEntry (s : State) (key b : Nat) : Option TileEntry :=
  (groupEntries s key).find? fun e => e.open_ && (entryWrites e).contains (key, false, b)

/-- Whether a band has an open entry once the clause's earlier words are enqueued. -/
def projOpen (s : State) (x : Ctx) (b : Nat) : Bool :=
  match tabGet? x.cl.openBands b with
  | some n => n == 1
  | none => (openEntry s x.t.group b).isSome

/-! ## The check of a tile instruction (R278, R280, R283) -/

/-- The memory range of an instruction: kind, length, and spaces allowed. -/
structure TileMem where
  kind : Access
  len : Nat
  spaces : List Nat

/-- Translates the range named by the b operand (R278). -/
def reachTile (s : State) (x : Ctx) (b : Nat) (ptr : Word) (m : TileMem) : Reach :=
  if ptr.toNat % 64 != 0 then ⟨s, [], [(b, 0x03, ptr)], 0⟩
  else if bits ptr.toNat 63 60 ∉ m.spaces then ⟨s, [], [(b, 0x20, ptr)], 0⟩
  else reachRange s x m.kind b ptr m.len

/-- Where a sync word's location is kept beside the pieces of a range. -/
def syncSlot : Nat := 2 ^ 20

/-- Adds the notifying sync word's check (R280). -/
def reachNotify (x : Ctx) (r : Reach) (b : Nat) (c : Option Word) : Reach :=
  match c with
  | none => r
  | some p =>
    if p.toNat % 16 != 0 then { r with fails := r.fails ++ [(b, 0x03, p)] }
    else if bits p.toNat 63 60 ∉ [0, 2, 14] then { r with fails := r.fails ++ [(b, 0x20, p)] }
    else reachOne x .sync 16 16 r syncSlot b p

/-- The notifying sync word's pointer: the c operand of the lowest active lane, unless it is ZERO. -/
def notifyPtr (s : State) (x : Ctx) (f : FX) (b : Nat) : Option Word :=
  match f.c with
  | .zero => none
  | o => some (word64 s x o b)

/-- One tile instruction's checks: causes of its own, its memory range, its sync word. -/
def tileChecked (s : State) (x : Ctx) (f : FX) (b : Nat) (causes : List Nat) (mem : Option TileMem)
    (k : Clause → Clause) : Out :=
  let r : Reach := match mem with
    | some m => if (addressed s x f.b).getLsbD b then reachTile s x b (word64 s x f.b b) m else ⟨s, [], [], 0⟩
    | none => ⟨s, [], [], 0⟩
  let r := if (addressed s x f.c).getLsbD b then reachNotify x r b (notifyPtr s x f b) else r
  let r := if x.cl.dead.getLsbD b then r else { r with fails := r.fails ++ causes.map fun c => (b, c, x.instrAddr) }
  checked x (shared x r) 2 fun _ _ cl => k cl

/-- Counts an entry in the queue that imm12 [0] names. -/
def countEntry (f : FX) (cl : Clause) : Clause :=
  if f.imm.getLsbD 0 then { cl with needHi := cl.needHi + 1 } else { cl with needLo := cl.needLo + 1 }

/-- The range's pieces in order. -/
def rangeLocs (x : Ctx) : List Loc := ((found x).filter fun e => e.1 != syncSlot).map fun e => e.2

/-- An entry as enqueued. -/
def newEntry (s : State) (x : Ctx) (op : TileOp) (desc : Word) (fmts : Nat × Nat) : TileEntry :=
  { id := (coreOf s x.core).nextEntry, op, group := x.t.group, issuer := x.pos, desc, mem := rangeLocs x,
    notify := tabGet? (found x) syncSlot, open_ := false, fmts, segments := [], mode := x.t.mode, scales := [],
    enqueued := s.cycle, eligible := 0, started := none, reruns := 0, job := none, steps := 0 }

/-- Changes the READERS of the slots in a list by one up or down. -/
def countReaders (s : State) (up : Bool) (rs : List Res) : State :=
  rs.foldl (fun s r => modGroup s r.1 fun g =>
    let t := slotTag g r.2.2
    { g with slots := tabPut g.slots r.2.2 (withReaders t (if up then slotReaders t + 1 else slotReaders t - 1)) }) s

/-- Puts an entry in a queue (R263) and counts it in READERS. -/
def enqueue (s : State) (core : Nat) (hi : Bool) (e : TileEntry) : State :=
  let s := modCore s core fun k =>
    let e := { e with id := k.nextEntry, enqueued := s.cycle }
    if hi then { k with tileHi := k.tileHi ++ [e], nextEntry := k.nextEntry + 1 }
    else { k with tileLo := k.tileLo ++ [e], nextEntry := k.nextEntry + 1 }
  countReaders s true (entrySlots e)

/-- A queued instruction performs: its clause's commit will enqueue its entry (R263). -/
def performEntry (s : State) (x : Ctx) (f : FX) (e : TileEntry) : Out :=
  done s x 2 { x.cl with tiles := x.cl.tiles ++ [.entry (f.imm.getLsbD 0) e] }

/-- A tile instruction with its lowest active lane and its group. -/
def tileInstr (s : State) (ops : List Operand) (k : State → Ctx → Nat → Group → Out) : Out :=
  inClause s fun x => use s x ops fun s x =>
    match lowLane x.live with
    | none => done s x 2 x.cl
    | some b => match groupAt s x.t.group with
      | none => trapAll s x 0x28 x.instrAddr
      | some g => k s x b g

/-! ## slot (R284, R285) -/

/-- A claim's effect on a handle: the projected tag while checking, the slot itself when performing. -/
def claimSlot (s : State) (x : Ctx) (d : Operand) (h : Nat) (tag : Word) : Out :=
  if checking x then done s x 2 (writeLanes x { x.cl with slotTags := tabPut x.cl.slotTags h tag } d fun _ => word h)
  else
    let s := modGroup s x.t.group fun g =>
      { g with slots := tabPut g.slots h tag, slotBytes := tabDel g.slotBytes h, slotWritten := tabDel g.slotWritten h }
    let s := endPoison s (slotPoison x.t.group h 0)
    done s x 2 (writeLanes x x.cl d fun _ => word h)

/-- Whether a claim request is well formed (R284, R257). -/
def requestOk (r : Word) : Bool :=
  bits r.toNat 63 19 == 0 && bits r.toNat 7 5 == 0 && claimOk (bits r.toNat 4 0) (bits r.toNat 18 8)

def requestTag (r : Word) : Word := claimedTag (bits r.toNat 4 0) (bits r.toNat 18 8)

/-- `slot.claim` (R284). -/
def execSlotClaim (f : FX) (s : State) : Out :=
  tileInstr s [f.a] fun s x b g =>
    let r := word64 s x f.a b
    if !requestOk r then trapAll s x 0x28 x.instrAddr
    else match (List.range g.nslots).find? fun h => slotState (projSlot s x x.t.group g h) == 0 with
      | none => done s x 2 (writeLanes x x.cl f.d fun _ => -1)
      | some h => claimSlot s x f.d h (requestTag r)

/-- A slot that nothing reads or writes (R284, R285). -/
def slotQuiet (s : State) (key : Nat) (g : Group) (h : Nat) : Bool := slotReaders (slotTag g h) == 0 && !slotWriter s key h

/-- `slot.claim` with retag (R284). -/
def execSlotClaimRetag (f : FX) (s : State) : Out :=
  tileInstr s [f.a, f.b] fun s x b g =>
    let r := word64 s x f.a b
    let h := (word64 s x f.b b).toNat
    if !requestOk r || h ≥ g.nslots || slotState (projSlot s x x.t.group g h) == 0 then trapAll s x 0x28 x.instrAddr
    else if checking x && !slotQuiet s x.t.group g h then .next (notStarted s x)
    else claimSlot s x f.d h (requestTag r)

/-- `slot.release` (R285). -/
def execSlotRelease (f : FX) (s : State) : Out :=
  tileInstr s [f.a] fun s x b g =>
    let h := (word64 s x f.a b).toNat
    if h ≥ g.nslots || slotState (projSlot s x x.t.group g h) == 0 then trapAll s x 0x28 x.instrAddr
    else if checking x then
      (if slotQuiet s x.t.group g h then done s x 2 { x.cl with slotTags := tabPut x.cl.slotTags h 0 }
       else .next (notStarted s x))
    else
      done (modGroup s x.t.group fun g =>
        { g with slots := tabPut g.slots h 0, slotBytes := tabDel g.slotBytes h, slotWritten := tabDel g.slotWritten h }) x 2 x.cl

/-- `slot.query` (R285). -/
def execSlotQuery (f : FX) (s : State) : Out :=
  tileInstr s [f.a] fun s x b g =>
    let h := (word64 s x f.a b).toNat
    if h ≥ g.nslots then trapAll s x 0x28 x.instrAddr
    else done s x 2 (writeLanes x x.cl f.d fun _ => slotTag g h)

/-! ## tmm (R286) -/

/-- The group a B reference names (R274): `none` is absent. -/
def bGroupOf (s : State) (key : Nat) (g : Group) (m : Nat) : Option Nat :=
  if m = 15 || m = g.member then some key
  else match gridOfGroup s key, tabGet? g.gang m with
    | some gr, some k =>
      if m < gangSize gr && (groupAt s k).isSome then some k else none
    | _, _ => none

/-- Compatible operands (R273). -/
def fmtsOk (bfp : Bool) (a b : Nat) : Bool :=
  if bfp then decide (18 ≤ a) && a == b
  else (a == b && (a == 12 || a == 14 || a == 15)) || ((a == 16 || a == 17) && (b == 16 || b == 17))

/-- Sum group size in k (R276). -/
def kGroup (ty : Nat) : Nat := if ty = 12 then 1 else if ty ≥ 16 then 64 else 32

/-- The causes a `tmm` raises against projected tags: descriptor, bfp, append and open, B's group. -/
def tmmCauses (tagOf : Nat → Nat → Word) (nslots : Nat → Nat) (bandTag : Nat → Nat) (nbands : Nat) (isOpen : Nat → Bool)
    (openFmts : Option (Nat × Nat)) (key : Nat) (bKey : Option Nat) (d : Word) (bfp app opn : Bool) : List Nat :=
  let ck (b : Bool) (c : Nat) : List Nat := if b then [c] else []
  match bKey with
  | none => [0x22]
  | some bk =>
    let ta := tagOf key (dAH d)
    let tb := tagOf bk (dBH d)
    let bad := dAH d ≥ nslots key || dBH d ≥ nslots bk || slotState ta == 0 || slotState tb == 0
    let a := slotType ta
    let b := slotType tb
    let wide := !bfp && a == 12
    let band := dBand d
    let k := dKB d
    let bands := pairOf wide band
    let reserved := bits d.toNat 31 27 != 0 || (bfp && bits d.toNat 26 23 != 0)
    ck bad 0x28 ++
    ck (band ≥ nbands || (!bad && wide && (band % 2 == 1 || band + 1 ≥ nbands))) 0x29 ++
    ck (!bad && (!fmtsOk bfp a b ||
      (if bfp then decide (32 * (k % 32 + 1) > min (slotK ta) (slotK tb))
       else k == 0 || decide (k > 256) || decide (k > min (slotK ta) (slotK tb)) || bandTag band != (if wide then 1 else 0)) ||
      (app && (match openFmts with | some q => q != (a, b) | none => false)))) 0x2A ++
    ck (reserved || (app && !isOpen band) || (!app && bands.any isOpen) || (opn && !bad && k % kGroup a != 0) ||
      (bfp && (app || opn))) 0x2B

/-- The formats of the entry a `tmm` appends to. -/
def projFmts (s : State) (x : Ctx) (b : Nat) : Option (Nat × Nat) :=
  (tabGet? x.cl.openFmts b).or ((openEntry s x.t.group b).map fun e => e.fmts)

/-- Appended segments not yet computed, with those of the clause (R276). -/
def waitingSegments (s : State) (x : Ctx) (b : Nat) : Nat :=
  (tabGet? x.cl.appended b).getD (((openEntry s x.t.group b).map fun e => (openSegments e).length).getD 0)

/-- Appends a segment to the open entry of a band; the closing one gives the arrival (R276, R280). -/
def appendSegment (s : State) (core key : Nat) (opn : Bool) (d : Word) (notify : Option Loc) (bGroup : Nat)
    (job : Option (Nat × Nat × Nat)) : State :=
  let upd (e : TileEntry) : TileEntry :=
    if e.open_ && (entryWrites e).contains (key, false, dBand d) then
      { e with segments := e.segments ++ [{ desc := d, done := false, bGroup, job }], open_ := opn,
               notify := if opn then none else notify,
               desc := if opn then e.desc else word (bits e.desc.toNat 31 0 + dGen d * 2 ^ 32) }
    else e
  let s := modCore s core fun k => { k with tileHi := k.tileHi.map upd, tileLo := k.tileLo.map upd }
  countReaders s true [(key, true, dAH d), (bGroup, true, dBH d)]

/-- The commit of a clause's queued tile instructions, in word order (R263, R276). -/
def enqueueAll (s : State) (x : Ctx) : State :=
  x.cl.tiles.foldl (fun s r => match r with
    | .entry hi e => enqueue s x.core hi e
    | .segment opn d n b => appendSegment s x.core x.t.group opn d n b none) s

/-- `tmm` and `tmm.bfp` (R286). -/
def tmm (bfp : Bool) (f : FX) (s : State) : Out :=
  tileInstr s [f.a, f.c] fun s x b g =>
    let d := word64 s x f.a b
    let key := x.t.group
    let opn := f.imm.getLsbD 1
    let app := f.imm.getLsbD 2
    let band := dBand d
    let bKey := bGroupOf s key g (dBM d)
    let bk := bKey.getD key
    let tagOf (k h : Nat) : Word := match groupAt s k with | some q => projSlot s x k q h | none => 0
    let fmts := (slotType (tagOf key (dAH d)), slotType (tagOf bk (dBH d)))
    if checking x then
      let causes := tmmCauses tagOf (fun k => ((groupAt s k).map fun q => q.nslots).getD 0) (projBandTag s x g) g.nbands
        (projOpen s x) (projFmts s x band) key bKey d bfp app opn
      if app && causes.isEmpty && waitingSegments s x band ≥ 8 then .next (notStarted s x)
      else tileChecked s x f b causes none fun cl =>
        let cl := if app then { cl with appended := tabPut cl.appended band (waitingSegments s x band + 1) }
          else if opn then { countEntry f cl with appended := tabPut cl.appended band 1 }
          else countEntry f cl
        let cl := if bfp then { cl with bandTags := retag (projBandTags s x g) band (rawTag (fmts.1 - 16)) } else cl
        if app || opn then
          let bands := pairOf (fmts.1 == 12) band
          { cl with openBands := bands.foldl (fun t q => tabPut t q (if opn then 1 else 0)) cl.openBands,
                    openFmts := tabPut cl.openFmts band fmts }
        else cl
    else if app then
      done s x 2 { x.cl with tiles := x.cl.tiles ++ [.segment opn d (tabGet? (found x) syncSlot) bk] }
    else
      let e := newEntry s x (.tmm bfp) d fmts
      performEntry s x f { e with open_ := opn, segments := [{ desc := d, done := false, bGroup := bk }],
                                  notify := if opn then none else e.notify }

/-- `tmm` (R286). -/
def execTmm (f : FX) (s : State) : Out := tmm false f s
/-- `tmm.bfp` (R286). -/
def execTmmBfp (f : FX) (s : State) : Out := tmm true f s

/-! ## tsa (R287) -/

/-- The causes a `tsa` raises. -/
def tsaCauses (bandTag : Nat → Nat) (nbands : Nat) (isOpen : Nat → Bool) (d : Word) : List Nat :=
  let raw := bits d.toNat 7 4
  let tgt := dBand d
  (if raw ≥ nbands || tgt ≥ nbands then [0x29] else []) ++
  (if !isRaw (bandTag raw) || bandTag tgt != 0 then [0x2A] else []) ++
  (if raw = tgt || bits d.toNat 31 8 != 0 || isOpen raw || isOpen tgt then [0x2B] else [])

/-- The bytes of an instruction's memory range, as loads of the clause read them. -/
def readRange (s : State) (x : Ctx) : State × List Byte :=
  (rangeLocs x).foldl (fun (a : State × List Byte) l =>
    let q := readOwn a.1 x.core x.t x.t.seq l 64
    (noticePoison q.1 x.t l 64, a.2 ++ q.2)) (s, [])

/-- `tsa` (R287): the scale vector is read during the clause (R279). -/
def execTsa (f : FX) (s : State) : Out :=
  tileInstr s [f.a, f.b, f.c] fun s x b g =>
    let d := word64 s x f.a b
    if checking x then
      tileChecked s x f b (tsaCauses (projBandTag s x g) g.nbands (projOpen s x) d) (some ⟨.read, 128, [0, 14]⟩) (countEntry f)
    else
      settle s x (inlineRevoked s x ((rangeLocs x).map fun l => (b, l))) 0 [] fun s x =>
      if !inlineReady s x ((rangeLocs x).map fun l => (l, 64)) then waitHere s
      else
        let r := readRange s x
        let e := newEntry r.1 x .tsa d (bits (projBandTag s x g (bits d.toNat 7 4)) 7 3 + 16, 13)
        performEntry r.1 x f { e with scales := r.2, mem := [] }

/-! ## acc (R288 to R290) -/

/-- The type field of an `acc` descriptor. -/
def dType (d : Word) : Nat := bits d.toNat 12 8

/-- The type codes a band takes (R288). -/
def bandType (ty : Nat) : Bool := ty == 12 || ty == 13 || (decide (18 ≤ ty) && decide (ty ≤ 24))

/-- The causes every queued `acc` function shares: band owned, descriptor, open entries; wide is an f64 pair, even asks for its lower band. -/
def accCauses (nbands : Nat) (isOpen : Nat → Bool) (d : Word) (wide : Bool) (badType : Bool) (even : Bool := wide) : List Nat :=
  let b := dBand d
  (if b ≥ nbands || (even && (b % 2 == 1 || b + 1 ≥ nbands)) then [0x29] else []) ++ (if badType then [0x2A] else []) ++
  (if bits d.toNat 31 13 != 0 || bits d.toNat 7 4 != 0 || (pairOf wide b).any isOpen then [0x2B] else [])

/-- `acc.zero` and `acc.ld` (R288): they set the band's tag. -/
def accSet (op : TileOp) (mem : Bool) (f : FX) (s : State) : Out :=
  tileInstr s (if mem then [f.a, f.b, f.c] else [f.a, f.c]) fun s x b g =>
    let d := word64 s x f.a b
    let wide := dType d == 12
    if checking x then
      tileChecked s x f b (accCauses g.nbands (projOpen s x) d wide (!bandType (dType d)))
        (if mem then some ⟨.read, if wide then 32768 else 16384, [0, 1, 14]⟩ else none) fun cl =>
          countEntry f { cl with bandTags := retag (projBandTags s x g) (dBand d) (typeTag (dType d)) }
    else performEntry s x f (newEntry s x op d (dType d, 0))

/-- `acc.zero` (R288). -/
def execAccZero (f : FX) (s : State) : Out := accSet .accZero false f s
/-- `acc.ld` (R288). -/
def execAccLd (f : FX) (s : State) : Out := accSet .accLd true f s

/-- `acc.st` (R288). -/
def execAccSt (f : FX) (s : State) : Out :=
  tileInstr s [f.a, f.b, f.c] fun s x b g =>
    let d := word64 s x f.a b
    let wide := dType d == 12
    if checking x then
      tileChecked s x f b (accCauses g.nbands (projOpen s x) d wide
          (!bandType (dType d) || projBandTag s x g (dBand d) != typeTag (dType d)) false)
        (some ⟨.write, if wide then 32768 else 16384, [0, 1, 14]⟩) (countEntry f)
    else performEntry s x f (newEntry s x .accSt d (dType d, 0))

/-- Bytes that `acc.cvst` writes (R289). -/
def cvstSize (ty : Nat) : Nat := if ty ≥ 18 then 512 * (ty - 16) + 128 else 4096 * typeWidth ty / 8

/-- Destination types of `acc.cvst` (R288). -/
def cvstType (ty : Nat) : Bool := decide (12 ≤ ty) && decide (ty ≤ 24)

/-- `acc.cvst` (R289): rounding codes 110 and 111 are refused. -/
def execAccCvst (f : FX) (s : State) : Out :=
  tileInstr s [f.a, f.b, f.c] fun s x b g =>
    let d := word64 s x f.a b
    let tag := projBandTag s x g (dBand d)
    let wide := tag == 1
    if f.rnd.toNat ≥ 6 then trapAll s x 0x02 x.instrAddr
    else if checking x then
      tileChecked s x f b (accCauses g.nbands (projOpen s x) d wide (!cvstType (dType d) || !(tag == 0 || tag == 1)))
        (some ⟨.write, cvstSize (dType d), [0, 1, 14]⟩) (countEntry f)
    else
      performEntry s x f (newEntry s x (.accCvst (resolveRnd x.t.mode f.rnd.toNat) f.sat) d (if wide then 12 else 13, dType d))

/-- The causes of a cell address (R290). -/
def cellCauses (s : State) (x : Ctx) (g : Group) (a : Word) : List Nat :=
  let band := bits a.toNat 9 0 / 64
  (if band ≥ g.nbands then [0x29] else []) ++ (if projBandTag s x g band = 2 then [0x2A] else []) ++
  (if bits a.toNat 63 22 != 0 || bits a.toNat 15 10 != 0 || projOpen s x band then [0x2B] else [])

/-- The bands that an access to a band's cells meets (R290): both of its pair while the tag is of f64, be it the one that stands or the projected
one, so that an entry that will retag the band is waited for, too. -/
def cellBands (s : State) (x : Ctx) (g : Group) (b : Nat) : List Nat :=
  let pair (t : Nat) : List Nat := if t = 1 then [b, b + 1] else if t = 2 then [b - 1, b] else [b]
  pair (tabGet g.bandTags b 0) ++ pair (projBandTag s x g b)

/-- `acc.rd` and `acc.wr` (R290): checks for every active lane, and the wait for a quiet band. -/
def accCell (f : FX) (s : State) (ops : List Operand) (k : State → Ctx → Group → Out) : Out :=
  tileInstr s ops fun s x _ g =>
    let fails := (maskLanes x.live).flatMap fun l => (cellCauses s x g (word64 s x f.a l)).map fun c => (l, c, x.instrAddr)
    settle s x fails 0 [] fun s x =>
      if checking x && (maskLanes x.live).any (fun l =>
          (cellBands s x g (bits (word64 s x f.a l).toNat 9 0 / 64)).any (bandBusy s x.t.group)) then .next (notStarted s x)
      else k s x g

/-- The value at a cell address (R290). -/
def readCell (g : Group) (a : Nat) : Nat :=
  let row := bits a 9 0
  let col := bits a 21 16
  let b := row / 64
  let i := row % 64
  if tabGet g.bandTags b 0 = 1 then pairAt g b i col
  else cellAt g b i col + (if col < 63 then 2 ^ 32 * cellAt g b i (col + 1) else 0)

/-- Writes a value at a cell address (R290). -/
def writeCell (g : Group) (a v : Nat) : Group :=
  let row := bits a 9 0
  let col := bits a 21 16
  let b := row / 64
  let i := row % 64
  if tabGet g.bandTags b 0 = 1 then setPair g b i col v
  else
    let g := setCell g b i col v
    if col < 63 then setCell g b i (col + 1) (v / 2 ^ 32) else g

/-- `acc.rd` (R290). -/
def execAccRd (f : FX) (s : State) : Out :=
  accCell f s [f.a] fun s x g => done s x 2 (writeLanes x x.cl f.d fun l => word (readCell g (word64 s x f.a l).toNat))

/-- `acc.wr` (R290): lanes in ascending order. -/
def execAccWr (f : FX) (s : State) : Out :=
  accCell f s [f.a, f.b] fun s x _ =>
    if checking x then done s x 2 x.cl
    else
      done (modGroup s x.t.group fun g => (maskLanes x.live).foldl (fun g l =>
        writeCell g (word64 s x f.a l).toNat (word64 s x f.b l).toNat) g) x 2 x.cl

/-! ## opm (R291) -/

/-- The causes of an `opm`: handle, projected state, reserved bits. -/
def opmCauses (s : State) (x : Ctx) (g : Group) (d : Word) (load : Bool) : List Nat :=
  let h := bits d.toNat 4 0
  let st := slotState (projSlot s x x.t.group g h)
  (if h ≥ g.nslots || (if load then st != 1 else !(st == 3 || st == 4)) then [0x28] else []) ++
  (if bits d.toNat 31 5 != 0 then [0x2B] else [])

/-- `opm.ld` and `opm.st` (R291). -/
def opm (load : Bool) (f : FX) (s : State) : Out :=
  tileInstr s [f.a, f.b, f.c] fun s x b g =>
    let d := word64 s x f.a b
    let h := bits d.toNat 4 0
    let t := projSlot s x x.t.group g h
    if checking x then
      tileChecked s x f b (opmCauses s x g d load) (some ⟨if load then .read else .write, tileSize t, [0, 1, 14]⟩) fun cl =>
        let cl := countEntry f cl
        if load then { cl with slotTags := tabPut cl.slotTags h (setBits t 2 0 3) } else cl
    else performEntry s x f (newEntry s x (if load then .opmLd else .opmSt) d (slotType t, 0))

/-- `opm.ld` (R291). -/
def execOpmLd (f : FX) (s : State) : Out := opm true f s
/-- `opm.st` (R291). -/
def execOpmSt (f : FX) (s : State) : Out := opm false f s

end Sys2Proof.Machine
end

