-- ==== Sys2Proof/Machine/Records.lean ====
section
/-!
DEFINITION. Records the part writes outside the registers: stamp and tile records (R320, R449), and
free bytes where the spec lays nothing out. Accessors of copy jobs.
-/

namespace Sys2Proof.Machine

/-- Bytes whose layout inside a record the spec does not give: free values. -/
def freeBytes (s : State) (from_ n : Nat) : List Byte := (List.range n).map fun i => Config.racyByte s.moves (from_ + i)

/-- The free value of a lane of a register. -/
def freeLane (s : State) (n l : Nat) : Word := word (leNat (freeBytes s (2048 * n + 8 * l) 8))

def zeroBytes (n : Nat) : List Byte := List.replicate n 0

/-! ## Jobs -/

def jobAt (s : State) (die n : Nat) : Option Job := (dieAt s die).jobs.find? fun j => j.number == n

def setJob (s : State) (die : Nat) (j : Job) : State :=
  modDie s die fun d => { d with jobs := d.jobs.map fun q => if q.number = j.number then j else q }

def dropJob (s : State) (die n : Nat) : State := modDie s die fun d => { d with jobs := d.jobs.filter fun q => q.number != n }

/-- Words of a card (R296). -/
def cardWord (j : Job) (i : Nat) : Nat := (j.card.getD i 0).toNat
def cardKind (j : Job) : Nat := bits (cardWord j 0) 3 0
def cardPrio (j : Job) : Nat := bits (cardWord j 0) 10 8
def cardKey (j : Job) : Nat := bits (cardWord j 0) 31 16
def waitGen (j : Job) : Nat := bits (cardWord j 0) 63 32

/-- Words of a follow-on block (R312). -/
def followWord (j : Job) (i : Nat) : Nat := (j.follow.getD i 0).toNat
def hasFollow (j : Job) : Bool := cardWord j 6 != 0

/-- The state code of a stamp record (R320). -/
def stampState : JobState → Nat
  | .held => 1
  | .accepted => 0
  | .running => 2
  | .stalled => 2
  | .complete => 3
  | .ended _ _ => 4

/-- The reasons of a stamp record. -/
def stampReasons : JobState → Nat × Nat
  | .ended a b => (a, b)
  | _ => (0, 0)

/-- Writes a job's stamp record, if its card names one (R320). -/
def writeStamp (s : State) (die : Nat) (j : Job) (retired : Nat) : State :=
  if cardWord j 7 = 0 then s
  else
    let r := stampReasons j.st
    recordStore s (cardKey j) (256 + die) (word (cardWord j 7))
      (leBytes 8 (j.number % 2 ^ 32 * 2 ^ 32 + r.2 * 2 ^ 24 + r.1 * 256 + stampState j.st) ++ leBytes 8 j.accepted ++
       leBytes 8 j.started ++ leBytes 8 j.lastWrite ++ leBytes 8 retired ++ leBytes 8 j.bytes ++ leBytes 8 j.enqueued ++
       leBytes 8 j.stalls)

/-- Writes the tile record of a chain at its stamp pointer (R449): state 3 retired, 4 ended. -/
def writeTileRecord (s : State) (stamp ticket core : Nat) (hi : Bool) (e : TileEntry) (steps state : Nat) : State :=
  if stamp = 0 then s
  else
    recordStore s (((gridOfGroup s e.group).map gridKey).getD 0) (256 + coreDie core) (word (stamp + 64))
      (leBytes 8 (ticket % 2 ^ 32 * 2 ^ 32 + min e.reruns 255 * 256 + state) ++ leBytes 8 e.enqueued ++ leBytes 8 e.eligible ++
       leBytes 8 (e.began.getD 0) ++ leBytes 8 s.cycle ++ leBytes 8 steps ++
       leBytes 8 (core + (if hi then 65536 else 0)) ++ zeroBytes 8)


/-- Sets a group's hang counter to zero (R451). -/
def calm (s : State) (key : Nat) : State := modGroup s key fun g => { g with hang := 0 }

end Sys2Proof.Machine
end

