-- ==== Sys2Proof/Machine/TileEvents.lean ====
section
/-!
DEFINITION. What tile entries compute (R268 to R272, R275, R288, R289, R291), when they start (R264, R265), and how they
retire (R266, R269, R276, R280).
-/

namespace Sys2Proof.Machine

/-! ## Products -/

/-- The exact sum of a group's products (R172, R173); `none` where a product or the sum is invalid. -/
def groupSum (fa fb : FFmt) (ps : List (Nat × Nat)) : Option FVal :=
  ps.foldl (fun a p => a.bind fun v => ((fa.val p.1).mul (fb.val p.2)).bind fun q => v.add q 1) (some (.fin true 0 0))

/-- A dot product's rounding: invalid and NaN give the canonical NaN (R171). -/
def dotRound (f : FFmt) (x : Option FVal) : Nat :=
  match x with
  | none => f.canon
  | some .nan => f.canon
  | some v => (fpOut f 1 false false v).1

/-- One group added to an f32 cell: the sum is rounded once, then the cell once (R172). -/
def addGroup (fa fb : FFmt) (cell : Nat) (ps : List (Nat × Nat)) : Nat :=
  let f := fmtOf 1
  match groupSum fa fb ps with
  | none => f.canon
  | some v => dotRound f ((f.val cell).add (f.val (dotRound f (some v))) 1)

/-- One fused f64 step (R172). -/
def addFused (cell a b : Nat) : Nat :=
  let f := fmtOf 0
  dotRound f (((f.val a).mul (f.val b)).bind fun q => (f.val cell).add q 1)

/-- A cell over the elements k0 to k1 - 1 of a line of A and a line of B (R270, R275). -/
def productCell (tyA tyB : Nat) (a b : Nat → Nat) (k0 k1 cell : Nat) : Nat :=
  if tyA = 12 then (List.range (k1 - k0)).foldl (fun c i => addFused c (a (k0 + i)) (b (k0 + i))) cell
  else
    let n := kGroup tyA
    (List.range (ceilDiv (k1 - k0) n)).foldl (fun c q =>
      let lo := k0 + n * q
      addGroup (fmtOf (tyA - 12)) (fmtOf (tyB - 12)) c
        ((List.range (min n (k1 - lo))).map fun i => (a (lo + i), b (lo + i)))) cell

/-- A float segment's effect on its band or pair, over k from k0 to k1 - 1. -/
def applyFloat (s : State) (e : TileEntry) (q : Segment) (k0 k1 : Nat) : State :=
  let d := q.desc
  match groupAt s e.group, groupAt s q.bGroup with
  | some g, some gb =>
    let wide := e.fmts.1 == 12
    let b := dBand e.desc
    let cell (i j : Nat) : Nat := if wide then pairAt g b i j else cellAt g b i j
    setGroup s e.group (fillBand g b wide fun i j =>
      productCell e.fmts.1 e.fmts.2 (slotElem g (dAH d) i) (slotElem gb (dBH d) j) k0 k1 (cell i j))
  | _, _ => s

/-- A BFP block column's effect (R271). -/
def applyBfp (s : State) (e : TileEntry) (q : Segment) : State :=
  let d := q.desc
  match groupAt s e.group, groupAt s q.bGroup with
  | some g, some gb =>
    let w := e.fmts.1 - 16
    let k0 := 32 * (dKB d % 32)
    let raw (i j : Nat) : Int := ((List.range 32).map fun k =>
      toSigned w (slotElem g (dAH d) i (k0 + k)) * toSigned w (slotElem gb (dBH d) j (k0 + k))).foldl (· + ·) 0
    let g' := fillBand g (dBand d) false fun i j => ofSigned 32 (raw i j)
    endPoison (setGroup s e.group { g' with bandTags := retag g.bandTags (dBand d) (rawTag w) }) (bandPoison e.group (dBand d) 0)
  | _, _ => s

/-- One cell of `tsa` (R272): a product that FP32 rounds to an infinity is that infinity (R173), any other enters the sum exactly, and the sum is
rounded once. DEDUCED (notes/assumptions/43.md): R173 calls a product infinite that is "placed above maxfinite", and R272 names `inf - inf` beside
the exact sum. -/
def scaleCell (w eA eB acc raw : Nat) : Nat :=
  let f := fmtOf 1
  if eA = 255 || eB = 255 || f.isNaN acc then f.canon
  else
    let r := toSigned 32 raw
    let p : FVal := .fin (decide (r < 0)) r.natAbs ((eA : Int) + eB - 254 - 2 * ((w : Int) - 2))
    let v := if f.isInf (dotRound f p) then f.val (dotRound f p) else p
    dotRound f ((f.val acc).add v 1)

/-- `tsa`'s effect (R272). -/
def applyTsa (s : State) (e : TileEntry) : State :=
  modGroup s e.group fun g =>
    let q := bits e.desc.toNat 7 4
    let b := dBand e.desc
    let sc (i : Nat) : Nat := (e.scales.getD i 0).toNat
    fillBand g b false fun i j => scaleCell (tabGet g.bandTags q 0 / 8) (sc i) (sc (64 + j)) (cellAt g b i j) (cellAt g q i j)

/-! ## Memory of entries (R279) -/

/-- Reads an entry's range at the homes or banks, sector by sector; a poisoned one is carried to the sectors that it names (R454). -/
def entryRead (s : State) (e : TileEntry) (n : Nat) (to_ : Nat → List Nat) : State × List Byte :=
  let bad (s : State) : List Nat := (List.range e.mem.length).filter fun i => poisoned s (e.mem.getD i default) 64
  let r := e.mem.foldl (fun (a : State × List Byte) l =>
    let q := homeRead a.1 l (64 - l.key % 64)
    (q.1, a.2 ++ q.2)) (s, [])
  (addPoison r.1 ((bad r.1).flatMap to_), r.2.take n)

/-- Writes an entry's range at the homes or banks, sector by sector. -/
def entryWrite (s : State) (e : TileEntry) (bs : List Byte) : State :=
  (e.mem.foldl (fun (a : State × List Byte) l =>
    let n := 64 - l.key % 64
    (homeWrite a.1 l (a.2.take n), a.2.drop n)) (s, bs)).1

/-- Bytes of a band or pair in the layout of `acc.ld` (R288). -/
def bandBytes (g : Group) (b : Nat) (wide : Bool) : List Byte :=
  (List.range 4096).flatMap fun n =>
    if wide then leBytes 8 (pairAt g b (n / 64) (n % 64)) else leBytes 4 (cellAt g b (n / 64) (n % 64))

/-- A band or pair from bytes in that layout. -/
def bandFrom (g : Group) (b : Nat) (wide : Bool) (bs : List Byte) : Group :=
  let n := if wide then 8 else 4
  fillBand g b wide fun i j => leNat ((bs.drop (n * (64 * i + j))).take n)

/-! ## Conversion out (R289) -/

/-- Flags of one block's conversion (R168): a signalling NaN, a non-zero cell that became zero, a cell whose value changed. -/
def bfpFlags (f : FFmt) (cells : List Nat) (b : Nat × List Nat × Bool) : Nat :=
  let fin := cells.all fun v => !f.isNaN v && !f.isInf v
  let lost := (List.range cells.length).any fun i => f.mag (cells.getD i 0) != 0 && b.2.1.getD i 0 == 0
  (if cells.any f.isSNaN then flNV else 0) ||| (if fin && lost then flUF else 0) |||
    (if (if fin then b.2.2 else cells.any fun v => !f.isNaN v) then flNX else 0)

/-- One row of the output: bytes, exponents, flags; a BFP block takes the cells as they are (R289). -/
def convertRow (e : TileEntry) (rnd : Nat) (sat : Bool) (cell : Nat → Nat) : List Byte × List Byte × Nat :=
  let src := e.fmts.1 - 12
  let fs := fmtOf src
  if e.fmts.2 ≥ 18 then
    let w := e.fmts.2 - 16
    let cells (q : Nat) : List Nat := (List.range 32).map fun j => cell (32 * q + j)
    let blk (q : Nat) : Nat × List Nat × Bool := bfpEncode w rnd ((cells q).map fs.val)
    let bytes (q : Nat) : List Byte := leBytes (4 * w) (packElems w 32 fun j => (blk q).2.1.getD j 0)
    (bytes 0 ++ bytes 1, leBytes 1 (blk 0).1 ++ leBytes 1 (blk 1).1, bfpFlags fs (cells 0) (blk 0) ||| bfpFlags fs (cells 1) (blk 1))
  else
    let dst := e.fmts.2 - 12
    let fd := fmtOf dst
    let r := (List.range 64).map fun j => convert fs fd rnd 0 sat (flushBit e.mode src) (flushBit e.mode dst) (cell j)
    (r.flatMap fun v => leBytes (fd.w / 8) v.1, [], (r.map fun v => v.2).foldl (· ||| ·) 0)

/-- `acc.cvst`'s output and its flags. -/
def convertBand (e : TileEntry) (rnd : Nat) (sat : Bool) (g : Group) : List Byte × Nat :=
  let b := dBand e.desc
  let rows := (List.range 64).map fun i =>
    convertRow e rnd sat fun j => if e.fmts.1 = 12 then pairAt g b i j else cellAt g b i j
  ((rows.flatMap fun r => r.1) ++ (rows.flatMap fun r => r.2.1), (rows.map fun r => r.2.2).foldl (· ||| ·) 0)

/-- Merges an entry's flags into its issuer's `MODE` (R289). -/
def mergeFlags (s : State) (core : Nat) (e : TileEntry) (fl : Nat) : State :=
  modTroupe s core e.issuer fun t =>
    if t.group = e.group && liveLanes t != 0 then { t with mode := modeMerge t.mode fl } else t

/-! ## Slots -/

/-- The notice of a discarded sub-block (R258): the slot reference as TRAPADDR. -/
def slotNotice (s : State) (key h off : Nat) : State :=
  match groupAt s key with
  | none => s
  | some g =>
    raiseDelivery s g.core
      { kind := .notice, cause := 0x28, addr := word (g.index % 2 ^ 32 * 2 ^ 32 + h % 32 * 2 ^ 24 + min off 0xFFFFFF), lanes := 0,
        pcs := [], subset := 0, pos := 0, group := key, tidx := 0, key := ((gridAt s g.ticket).map gridKey).getD 0, void := false, syms := [] }

/-- A sub-block written to a slot (R258): the state, and whether it was accepted. -/
def landBlock (s : State) (key h off : Nat) (bs : List Byte) : State × Bool :=
  match (groupAt s key).bind fun g => slotLand g h off bs with
  | some g => ({ setGroup s key g with poison := s.poison.filter fun p =>
      !(p == slotPoison key h (off / 64) || p == slotPoison key h (off / 64 + 1)) }, true)
  | none => (slotNotice s key h off, false)

/-- Bytes of a slot's tile. -/
def tileBytes (g : Group) (h : Nat) : List Byte :=
  (List.range (tileSize (slotTag g h))).map fun i => tabGet (tabGet g.slotBytes h []) i 0

/-! ## Effects -/

/-- The segment an entry computes now. -/
def nowSegment (e : TileEntry) : Segment := (openSegments e).headD { desc := e.desc, done := false, bGroup := e.group }

/-- k values of a segment (R275). -/
def segmentK (e : TileEntry) (q : Segment) : Nat := match e.op with | .tmm true => 32 | _ => dKB q.desc

/-- A band's sectors that a sector of memory goes to (R288): row i of 256 bytes, of 512 for a pair. -/
def bandSectors (key b : Nat) (wide : Bool) (i : Nat) : List Nat :=
  if wide then let q := 4 * (i / 8) + i % 8 / 2; [bandPoison key b q, bandPoison key (b + 1) q] else [bandPoison key b i]

/-- The bands that an entry writes whole hold no poison of their own any more. -/
def endBands (s : State) (key b : Nat) (wide : Bool) : State :=
  (pairOf wide b).foldl (fun s b => endPoison s (bandPoison key b 0)) s

/-- What an entry, or its current segment, does when it runs. A sub-block that lands carries the poison of its own sectors (R454). -/
def entryEffect (s : State) (core : Nat) (e : TileEntry) : State :=
  let b := dBand e.desc
  let wide := e.fmts.1 == 12
  match e.op with
  | .tmm true => applyBfp s e (nowSegment e)
  | .tmm false => applyFloat s e (nowSegment e) (16 * e.steps) (dKB (nowSegment e).desc)
  | .tsa => applyTsa s e
  | .accZero => modGroup (endBands s e.group b wide) e.group fun g => { fillBand g b wide (fun _ _ => 0) with bandTags := retag g.bandTags b (typeTag e.fmts.1) }
  | .accLd =>
    let r := entryRead (endBands s e.group b wide) e (if wide then 32768 else 16384) (bandSectors e.group b wide)
    modGroup r.1 e.group fun g => { bandFrom g b wide r.2 with bandTags := retag g.bandTags b (typeTag e.fmts.1) }
  | .accSt => match groupAt s e.group with
    | some g => entryWrite s e (bandBytes g b wide)
    | none => s
  | .accCvst rnd sat => match groupAt s e.group with
    | some g =>
      let r := convertBand e rnd sat g
      mergeFlags (entryWrite s e r.1) core e r.2
    | none => s
  | .opmLd =>
    let h := bits e.desc.toNat 4 0
    match groupAt s e.group with
    | some g =>
      let r := entryRead s e (tileSize (slotTag g h)) fun _ => []
      let bad (i : Nat) : Bool := poisoned r.1 (e.mem.getD i default) 64
      (List.range (r.2.length / 128)).foldl (fun s i =>
        let q := landBlock s e.group h (128 * i) ((r.2.drop (128 * i)).take 128)
        if q.2 then addPoison q.1 (([2 * i, 2 * i + 1].filter bad).map (slotPoison e.group h)) else q.1) r.1
    | none => s
  | .opmSt => match groupAt s e.group with
    | some g => entryWrite s e (tileBytes g (bits e.desc.toNat 4 0))
    | none => s

/-- Bytes an entry's notifying arrival counts (R280). -/
def notifyBytes (s : State) (e : TileEntry) : Nat :=
  let bands := 16384 * (if e.fmts.1 == 12 then 2 else 1)
  let tile := ((groupAt s e.group).map fun g => tileSize (slotTag g (bits e.desc.toNat 4 0))).getD 0
  match e.op with
  | .tmm true => 16384
  | .tsa => 16384
  | .accCvst _ _ => cvstSize e.fmts.2
  | .opmLd => tile
  | .opmSt => tile
  | _ => bands

/-! ## Starting -/

/-- The unit that serves an entry (R264): 0 array, 1 band unit, 2 slot port. -/
def unitFor (op : TileOp) : Nat := match op with | .tmm _ => 0 | .opmLd => 2 | .opmSt => 2 | _ => 1

/-- Core cycles of a step of 16 k (R251). -/
def stepCycles (ty : Nat) : Nat := if ty = 12 then 256 else if ty ≥ 18 then ty - 16 else if ty ≥ 16 then 8 else 16

/-- Steps of an entry's current segment still to do. -/
def stepsLeft (e : TileEntry) : Nat := ceilDiv (segmentK e (nowSegment e)) 16 - e.steps

/-- The array's entry has reached its last step (R264, R266). -/
def atLastStep (cycle : Nat) (e : TileEntry) : Bool :=
  match e.started with
  | none => true
  | some t => decide (cycle ≥ t + (if e.fmts.1 = 12 then 32 else if e.fmts.1 ≥ 18 then 0 else 16) + (stepsLeft e - 1) * stepCycles e.fmts.1)

/-- The entry has something to compute. -/
def hasWork (e : TileEntry) : Bool := match e.op with | .tmm _ => !(openSegments e).isEmpty | _ => true

/-- Slots that the entry reads now. -/
def nowSlots (e : TileEntry) : List Res :=
  match e.op with
  | .tmm _ => [(e.group, true, dAH (nowSegment e).desc), ((nowSegment e).bGroup, true, dBH (nowSegment e).desc)]
  | _ => entrySlots e

/-- An earlier entry touches what the entry writes, or writes what it touches (R264). -/
def conflicts (early e : TileEntry) : Bool :=
  ((entryWrites early).any fun r => (entryReads e ++ entryWrites e).contains r) ||
  (entryReads early).any fun r => (entryWrites e).contains r

/-- The access that an entry makes to its range (R278). -/
def rangeAccess : TileOp → Access
  | .accSt => .write
  | .accCvst _ _ => .write
  | .opmSt => .write
  | _ => .read

/-- An entry's places in memory are known: those of a restored one may not have been when its image was read (R404). -/
def placesKnown (e : TileEntry) : Bool := (e.mem ++ e.notify.toList).all fun l => l.area != .lost

/-- R264. No entry of a gang that is being saved or killed starts any more: its tile work comes to its stopping point (R292, R403). -/
def entryEligible (s : State) (core : Nat) (e : TileEntry) : Bool :=
  let all := coreEntries (coreOf s core)
  e.started.isNone && hasWork e && placesKnown e && ((groupAt s e.group).map fun g => g.closing) != some true &&
  (nowSlots e).all (fun r => match groupAt s r.1 with
    | some g => slotState (slotTag g r.2.2) == 3 || slotState (slotTag g r.2.2) == 4
    | none => false) &&
  (all.all fun q => !(decide (q.id < e.id) && conflicts q e)) &&
  all.all fun q => q.started.isNone || unitFor q.op != unitFor e.op || (unitFor e.op == 0 && atLastStep s.cycle q)

/-- Changes an entry of a core. -/
def modEntry (s : State) (core id : Nat) (f : TileEntry → TileEntry) : State :=
  let up (l : List TileEntry) : List TileEntry := l.map fun e => if e.id = id then f e else e
  modCore s core fun k => { k with tileHi := up k.tileHi, tileLo := up k.tileLo }

/-- The entry the sequencer starts (R265): whether it stands in the high queue, and which. -/
def chooseEntry (k : CoreSt) (ok : TileEntry → Bool) : Option (Bool × TileEntry) :=
  let old (l : List TileEntry) : Option TileEntry := ((l.filter ok).mergeSort fun a b => decide (a.id ≤ b.id)).head?
  match old k.tileHi, old k.tileLo with
  | some h, none => some (true, h)
  | some h, some l => if k.hiStreak ≥ 7 then some (false, l) else some (true, h)
  | none, some l => some (false, l)
  | none, none => none

/-- An entry's places are looked for again where the restore did not find them (R404). -/
def findPlaces (s : State) (core : Nat) (e : TileEntry) : State :=
  let w : Who := ⟨core, false, ((gridOfGroup s e.group).map gridKey).getD 0, e.group⟩
  let m := e.mem.foldl (fun (a : State × List Loc) l => let q := refind a.1 w l 64 (rangeAccess e.op); (q.1, a.2 ++ [q.2])) (s, [])
  match e.notify with
  | none => modEntry m.1 core e.id fun e => { e with mem := m.2 }
  | some l => let q := refind m.1 w l 16 .sync; modEntry q.1 core e.id fun e => { e with mem := m.2, notify := some q.2 }

/-- TILE_ENTRY_START (R265): the eligible entries note their time; one starts. -/
def execTileEntryStart (core : Nat) (s : State) : Out :=
  let s := ((coreEntries (coreOf s core)).filter fun e => !placesKnown e).foldl (fun s e => findPlaces s core e) s
  let s := (coreEntries (coreOf s core)).foldl (fun s e =>
    if entryEligible s core e && e.eligible = 0 then modEntry s core e.id fun e => { e with eligible := s.cycle } else s) s
  match chooseEntry (coreOf s core) (entryEligible s core) with
  | none => .next s
  | some (hi, e) =>
    let s := modEntry s core e.id fun e => { e with started := some s.cycle, began := some (e.began.getD s.cycle) }
    .next (modCore s core fun k => { k with hiStreak := if hi then k.hiStreak + 1 else 0 })

/-! ## Retirement -/

/-- Marks the computed segment, and gives its slots back (R276). -/
def closeSegment (e : TileEntry) : TileEntry :=
  let rec go : List Segment → List Segment
    | [] => []
    | q :: r => if q.done then q :: go r else { q with done := true } :: r
  { e with segments := go e.segments, steps := 0, started := none }

/-- Steps of a whole entry, for its tile record (R449). -/
def allSteps (e : TileEntry) : Nat := e.past + ((e.segments.map fun q => ceilDiv (segmentK e q) 16).foldl (· + ·) 0)

/-- Steps that an entry which ends before its time has computed: those of whole segments, those written back before a save, and those that its
current run has had the time for (R266, R449). -/
def stepsRan (cycle : Nat) (e : TileEntry) : Nat :=
  let whole := ((e.segments.filter fun q => q.done).map fun q => ceilDiv (segmentK e q) 16).foldl (· + ·) 0
  let run := match e.started with
    | some t => min (stepsLeft e) ((cycle - t - (if e.fmts.1 ≥ 18 then 0 else if e.fmts.1 = 12 then 32 else 16)) / stepCycles e.fmts.1)
    | none => 0
  e.past + whole + e.steps + run

/-- The tile records of an entry: its own, and those of follow-ons that appended to it (R449). -/
def entryRecords (s : State) (core : Nat) (hi : Bool) (e : TileEntry) (state : Nat) : State :=
  let n := if state = 3 then allSteps e else stepsRan s.cycle e
  let s := match e.job with
    | none => s
    | some (stamp, ticket) => writeTileRecord s stamp ticket core hi e n state
  e.segments.foldl (fun s q => match q.job with
    | none => s
    | some (stamp, ticket, at_) => writeTileRecord s stamp ticket core hi { e with enqueued := at_ } n state) s

/-- The entry leaves its queue: arrival, trace record, tile record (R266, R280, R446, R449). -/
def retireEntry (s : State) (core : Nat) (e : TileEntry) : State :=
  let hi := (coreOf s core).tileHi.any fun q => q.id == e.id
  let s := match e.notify with
    | none => s
    | some l => { s with arrivals := s.arrivals ++ [{ word := l, gen := dGen e.desc, bytes := notifyBytes s e, key := ((gridOfGroup s e.group).map gridKey).getD 0 }] }
  let s := modCore s core fun k => { k with tileHi := k.tileHi.filter (fun q => q.id != e.id), tileLo := k.tileLo.filter fun q => q.id != e.id }
  let s := traceRecord s core 5 noOrdinal (e.group % 2 ^ 64) (word (e.reruns + (s.cycle - e.began.getD s.cycle) * 2 ^ 32))
  calm (entryRecords s core hi e 3) e.group

/-- Sectors of a slot that hold elements k0 to k1 - 1 of its lines. -/
def lineSectors (t : Word) (k0 k1 : Nat) : List Nat :=
  let w := tileWidth (slotType t)
  let line := slotK t * w / 8
  distinct ((List.range 64).flatMap fun i =>
    let lo := (i * line + w * k0 / 8) / 64
    (List.range ((i * line + ceilDiv (w * k1) 8 - 1) / 64 + 1 - lo)).map (lo + ·))

/-- Sectors of slots and bands that the entry reads now (R269). -/
def readSectors (s : State) (e : TileEntry) : List Nat :=
  let q := nowSegment e
  let tag (r : Res) : Word := ((groupAt s r.1).map fun g => slotTag g r.2.2).getD 0
  let slot (r : Res) : List Nat :=
    (match e.op with
     | .tmm true => lineSectors (tag r) (32 * (dKB q.desc % 32)) (32 * (dKB q.desc % 32) + 32)
     | .tmm false => lineSectors (tag r) (16 * e.steps) (dKB q.desc)
     | _ => List.range (tileSize (tag r) / 64)).map (slotPoison r.1 r.2.2)
  (nowSlots e).flatMap slot ++
    ((entryReads e).filter fun r => !r.2.1).flatMap fun r => (List.range 256).map (bandPoison r.1 r.2.2)

/-- A poisoned slot or band word that the entry reads (R269, R454). -/
def readsPoison (s : State) (e : TileEntry) : Bool := e.badScales || !s.poison.isEmpty && (readSectors s e).any s.poison.contains

/-- An entry that has run with its checks passed; poison that it consumes kills the gang (R454). -/
def finishEntry (s : State) (core : Nat) (e : TileEntry) : State :=
  if readsPoison s e then poisonKill s e.group
  else
  let s := countReaders (entryEffect s core e) false (nowSlots e)
  match e.op with
  | .tmm _ =>
    let e' := closeSegment e
    if !e'.open_ && (openSegments e').isEmpty then retireEntry s core { e' with started := e.started }
    else modEntry s core e.id fun _ => e'
  | _ => retireEntry s core e

/-- A checksum mismatch (R269): the entry runs again; the second one kills the gang. -/
def mismatch (s : State) (core : Nat) (e : TileEntry) : State :=
  if e.reruns = 0 then
    modDie (modEntry s core e.id fun e => { e with reruns := e.reruns + 1, started := some s.cycle }) (coreDie core) fun d =>
      { d with reruns := d.reruns + 1 }
  else requestKill s e.group 0x41 0

/-- Core cycles that an entry takes at least, without the latency of its memory (R266). -/
def entryTime (e : TileEntry) : Nat :=
  let move := if e.fmts.1 = 12 then 32 else 16
  match e.op with
  | .tmm _ => (if e.fmts.1 ≥ 18 then 0 else move) + stepsLeft e * stepCycles e.fmts.1 + 8 + move
  | .tsa => 8
  | .accZero => move / 2
  | .accLd => 8 + e.mem.length / 4
  | .accSt => 8 + e.mem.length / 4
  | .accCvst _ _ => 8 + e.mem.length / 4
  | .opmLd => e.mem.length / 4
  | .opmSt => e.mem.length / 4

/-- An entry's unit has had the time that its work takes. -/
def workDone (cycle : Nat) (e : TileEntry) : Bool :=
  match e.started with
  | some t => decide (cycle ≥ t + entryTime e)
  | none => false

/-- TILE_ENTRY_RETIRE (R266, R269). -/
def execTileEntryRetire (core id : Nat) (fault : Bool) (s : State) : Out :=
  match (coreEntries (coreOf s core)).find? fun e => e.id == id && workDone s.cycle e with
  | none => .next s
  | some e => match fault, e.op with
    | true, .tmm _ => .next (mismatch s core e)
    | _, _ => .next (finishEntry s core e)

end Sys2Proof.Machine
end

