-- ==== Sys2Proof/Machine/Boundary.lean ====
section
/-!
DEFINITION. The end of a clause: commit (R31, R119, R121, R122, R168), its batch (R28), its control instruction (R24), and
the clause boundary: meetings (R100 to R102), barriers (R111, R113), halts (R441).
-/

namespace Sys2Proof.Machine

/-! ## Commit -/

/-- A register after the active lanes took a result (R121). -/
def commitReg (live active : LaneMask) (new old : Reg) : Reg :=
  let m := mergeReg active new old
  if m.entry == .pending && pendMask m != 0 then encodeForm live m else encodeReg live m.vals

/-- x registers: written ones take their results, marked ones read zero in the active lanes (R121, R122); with no active lane
nothing changes (R22). -/
def commitRegs (t : Troupe) (cl : Clause) : Troupe :=
  if cl.active = 0 then t
  else
  let live := formatLanes t
  let regs := cl.xw.foldl (fun a e => tabPut a e.1 (commitReg live cl.active e.2 (tabGet a e.1 emptyReg))) t.regs
  let marks := cl.marks.filter fun n => (tabGet? cl.xw n).isNone
  { t with regs := marks.foldl (fun a n => tabPut a n (commitReg live cl.active (known fun _ => 0) (tabGet a n emptyReg))) regs }

/-- Predicates and meetings of the active lanes. -/
def commitThreads (t : Troupe) (cl : Clause) : Troupe :=
  modThreads t cl.active fun l h =>
    let preds := cl.pw.foldl (fun p e => if e.2.getLsbD l then p ||| BitVec.ofNat 7 (1 <<< e.1) else p &&& ~~~BitVec.ofNat 7 (1 <<< e.1)) h.preds
    match tabGet? cl.meets l with
    | none => { h with preds }
    | some m => { h with preds, meet := BitVec.ofNat 32 m.toNat, join := BitVec.ofNat 32 (m.toNat / 2 ^ 32) }

/-- Registers that a trailer names, by operand code (R27): a k register holds no pending value (R138). -/
def trailerRegs (w : Nat) : List Nat :=
  [bits w 23 17, bits w 16 10, bits w 9 3].filter fun c => decide (c ≠ 120)

/-- The batch of a clause with a trailer joins its track; complete batches leave (R28). -/
def joinBatch (s : State) (core : Nat) (t : Troupe) (cl : Clause) : Troupe :=
  let t := closeBatches s core t
  if cl.hdr.trailer && cl.active != 0 then
    let k := bits cl.trailerWord 2 0
    let b : Batch := { symbols := cl.symbols, entries := cl.entries, regs := trailerRegs cl.trailerWord }
    { t with tracks := tabPut t.tracks k (tabGet t.tracks k [] ++ [b]) }
  else t

/-- Symbols that registers, and what a running clause has recorded or taken, refer to (R151). -/
def usedSymbols (t : Troupe) : List Nat :=
  let of (rs : Tab Reg) : List Nat := rs.filterMap fun e => if pendMask e.2 != 0 then some e.2.sym else none
  of t.regs ++ (match t.clause with | some cl => of cl.xw ++ of cl.temps ++ cl.symbols | none => [])

/-- Symbols of a troupe that nothing refers to and no answer will reach are returned (R151, R153, R156): a deferred load refers to
its address symbol while a lane of it has not issued. -/
def sweepSymbols (s : State) (core pos : Nat) : State :=
  match troupeAt s core pos with
  | none => s
  | some t =>
    let used := usedSymbols t
    let mine := (coreOf s core).symbols.filter fun e => e.2.pos == pos
    let deps := mine.filterMap fun e =>
      if (maskOf fun l => laneOf e.2.depScale l != 0) &&& (openLanes e.2 ||| e.2.faulted) != 0 then e.2.dep else none
    let keep (e : Nat × Symbol) : Bool := e.2.pos != pos || openLanes e.2 != 0 || used.contains e.1 || deps.contains e.1
    modCore s core fun k => { k with symbols := k.symbols.filter keep }

/-- Instructions of a clause's words. -/
def clauseInstrs (cl : Clause) : List (Nat × Instr) :=
  match cutWords 24 0 cl.words with
  | none => []
  | some c => c.filterMap fun e => (decode e.2.1 e.2.2).map fun i => (e.1, i)

/-- Spills under way of registers that take a new value are abandoned: the image is of the old value (R126). -/
def dropSpills (s : State) (core pos : Nat) (regs : List Nat) : State :=
  modCore s core fun k => { k with spills := k.spills.filter fun e => !(e.1 == pos && regs.contains e.2) }

/-- The commit of a clause (R31): registers, predicates, meetings, tile entries, control registers, flags, batch, program counters. DESIGN
CHOICE (notes/assumptions/42.md): a clause that both writes `MODE` and raises flags stores the value first and ORs its flags into it; R168
and R406 put both at commit in no order. -/
def commitClause (s : State) (x : Ctx) : State :=
  let cl := x.cl
  let t := commitThreads (commitRegs (closeBatches s x.core x.t) cl) cl
  let t := { t with kregs := cl.kw.foldl (fun a e => tabPut a e.1 e.2) t.kregs }
  let site := (gridOfGroup s t.group).bind fun g => stopSite g cl.head cl.hdr.stop
  let t := modThreads t cl.subset fun _ h => { h with pc := nextHead cl, site := (site.map (· + 1)).getD h.site, seen := false }
  let t := { t with clause := none }
  let t := if cl.hdr.cls = 2 || cl.hdr.cls = 4 then { t with nextStart := max t.nextStart (s.cycle + 4) } else t
  let s := enqueueAll (setTroupe s x.core x.pos t) x
  let s := dropSpills s x.core x.pos ((cl.xw.map fun e => e.1) ++ cl.marks)
  let s := cl.csrw.foldl (fun s e => storeCsr s x.core x.pos e.1 e.2) s
  let s := modTroupe s x.core x.pos fun t => { t with mode := modeMerge t.mode cl.flags }
  let s := modTroupe s x.core x.pos fun t => joinBatch s x.core t cl
  let s := sweepSymbols s x.core x.pos
  let s := modGrid s (t.group / 2 ^ 64) fun g => if isMinuet g then { g with clk := g.clk + (clauseInstrs cl).length } else g
  calm (clauseOver { s with focus := none } t.group) t.group

/-! ## Meetings (R100 to R102) -/

/-- The meeting address of a thread. -/
def meetAddr (s : State) (t : Troupe) (h : Thread) : Word := entryOf s t + word (ofSigned 64 (toSigned 32 h.meet.toNat))

/-- Whether a clause header stands at an address (R100). DESIGN CHOICE (notes/assumptions/42.md): at an address whose page does not
translate none does, and the thread does not hold: it meets the fault as its clause is fetched. -/
def headerAt (s : State) (w : Who) (addr : Word) : Bool :=
  match peekWord s w addr with
  | some h => headerOk h
  | none => false

/-- Runnable threads at an armed meeting address that is a clause header become held (R100). -/
def holdThreads (s : State) (core pos : Nat) (t : Troupe) : Troupe :=
  let w : Who := if isSup pos then ⟨core, true, 0, 0⟩ else ⟨core, false, troupeKey s t, t.group⟩
  { t with threads := tabMap t.threads fun _ h =>
      if h.st == .runnable && h.join != 0 && h.pc == meetAddr s t h && headerAt s w h.pc then { h with st := .held } else h }

/-- A held thread that R101 releases. -/
def meetReleases (t : Troupe) (l : Nat) : Bool :=
  let h := threadOf t l
  h.st == .held && (maskLanes h.join).all fun n =>
    n == l || (threadOf t n).st == .exited || ((threadOf t n).st == .held && (threadOf t n).pc == h.pc)

/-- A clause boundary of a troupe: threads hold, all releasable threads are released together, and a troupe that can make
no progress takes 0x09 (R100 to R102). -/
def settleTroupe (s : State) (core pos : Nat) : State :=
  match troupeAt s core pos with
  | none => s
  | some t =>
    if t.clause.isSome then s
    else
      let t := holdThreads s core pos t
      let m := maskOf (meetReleases t)
      let t := modThreads t m fun _ h => { h with st := .runnable, join := 0 }
      let s := setTroupe s core pos t
      let live := liveLanes t
      if m = 0 && live != 0 && !t.suspended && (maskLanes live).all fun l => (threadOf t l).st == .held then
        takeTrap s core pos 0x09 (((lowLane live).map fun l => (threadOf t l).pc).getD 0) live live
          (mkLanes fun l => (threadOf t l).pc) []
      else s

/-! ## Barriers (R111, R113) -/

/-- The participants of the barrier that a thread waits at, other threads of its unit named by its masks. -/
def participants (g : Grid) (ms : List Member) (n unit : Nat) (lanes troupes : BitVec 32) : List Member :=
  ms.filter fun q => unitOf g n q.th.wid == unit && lanes.getLsbD q.lane && troupes.getLsbD q.tidx

/-- Whether the barrier a thread waits at is complete. -/
def barrierDone (g : Grid) (ms : List Member) (m : Member) : Bool :=
  match m.th.st with
  | .waiting n a b => (participants g ms n (unitOf g n m.th.wid) a b).all fun q =>
      match q.th.st with | .exited => true | .waiting k _ _ => k == n | _ => false
  | _ => false

/-- Whether a level's barrier reaches beyond one group (R110). -/
def gangLevel (g : Grid) (n : Nat) : Bool := decide (n > shapeGroup (gridShape g))

/-- Releases every waiter of the gang's complete barriers at once (R111), with the acquire of R113. -/
def completeBarriers (s : State) (key : Nat) : State :=
  match gridOfGroup s key with
  | none => s
  | some g =>
    let ms := gangThreads s key
    (ms.filter (barrierDone g ms)).foldl (fun s m =>
      let s := modTroupe s m.core m.pos fun t => modThreads t (laneBit m.lane) fun _ h => { h with st := .runnable }
      match m.th.st with
      | .waiting n _ _ => if gangLevel g n then applyInvals s m.core fun _ => true else s
      | _ => s) s

/-! ## Triggers and halts (R441, R444) -/

/-- The kind-10 flit of a trigger: byte 0 of its payload is 1, byte 1 the number, bytes 8 to 15 the origin time (R444; the layout is the
model's, notes/assumptions/19.md). -/
def triggerFlit (n t0 : Nat) : Flit :=
  { (default : Flit) with kind := 10, len := 15, payload := leBytes 1 1 ++ leBytes 1 n ++ zeroBytes 6 ++ leBytes 8 t0, parts := 1 }

/-- Sends a trigger to every stop of the package (R444): one flit to each, of which the record keeps which blocks have taken it. -/
def raiseTrigger (s : State) (n : Nat) : State :=
  { s with fabric := { s.fabric with
      triggers := s.fabric.triggers ++ [{ number := n, t0 := s.cycle, reached := [], flit := triggerFlit n s.cycle }] } }

/-- A halt request for a group (R441): an earlier one stands. -/
def requestHalt (s : State) (key : Nat) : State :=
  modGroup s key fun g => { g with haltReq := some (g.haltReq.getD s.cycle) }

/-- The stop site that a subset stands at (R439). -/
def siteAt (s : State) (core : Nat) (t : Troupe) (pc : Word) : Option Nat :=
  (gridOfGroup s t.group).bind fun g =>
    (peekWord s ⟨core, false, gridKey g, t.group⟩ pc).bind fun h => stopSite g pc (h.testBit 15)

/-- Whether a troupe stops now for its group's halt request (R441). -/
def haltsNow (s : State) (core : Nat) (t : Troupe) : Bool :=
  match (groupAt s t.group).bind fun g => g.haltReq with
  | none => false
  | some at_ => t.clause.isNone && !t.halted &&
      (decide (s.cycle ≥ at_ + 65536) || (subsetsOf t).all fun q => (siteAt s core t (threadOf t q.2.1).pc).isSome)

/-- Halts a troupe; its group is halted with its last troupe (R441). -/
def haltTroupe (s : State) (core pos : Nat) : State :=
  match troupeAt s core pos with
  | none => s
  | some t =>
    let s := setTroupe s core pos { t with halted := true }
    let s := traceRecord s core 3 (((subsetsOf t).head?.bind fun q => siteAt s core t (threadOf t q.2.1).pc).getD noOrdinal) (t.group % 2 ^ 64) 0
    modGroup s t.group fun g =>
      { g with halted := g.troupes.all fun e => match troupeAt s g.core e.2 with | some q => q.halted | none => true }

def checkHalt (s : State) (core pos : Nat) : State :=
  match troupeAt s core pos with
  | none => s
  | some t => if haltsNow s core t then haltTroupe s core pos else s

/-- Breakpoint ordinals of a grid (R478): the BRKSET words. -/
def breakpointHits (g : Grid) (ordinal : Nat) : List Word := (g.breakpoints.filter fun e => bits e.2.toNat 15 0 == ordinal).map fun e => e.2

/-- Runnable lanes that have come to where they stand since it was last looked, by a clause or by waking (R441). -/
def newcomers (t : Troupe) : LaneMask := maskOf fun l => (threadOf t l).st == .runnable && !(threadOf t l).seen

/-- Subsets that have reached a stop site with a breakpoint (R441, R444). -/
def checkBreakpoints (s : State) (core pos : Nat) : State :=
  match troupeAt s core pos with
  | none => s
  | some t => match gridOfGroup s t.group with
    | none => s
    | some g =>
      if g.breakpoints.isEmpty || t.clause.isSome || newcomers t = 0 then s
      else
        let s := modTroupe s core pos fun t => modThreads t (newcomers t) fun _ h => { h with seen := true }
        let pcs := distinct ((maskLanes (newcomers t)).map fun l => (threadOf t l).pc.toNat)
        let hits := pcs.flatMap fun p => match siteAt s core t (word p) with
          | none => []
          | some i => breakpointHits g i
        let s := if hits.isEmpty then s else requestHalt s t.group
        hits.foldl (fun s w => if w.getLsbD 19 then raiseTrigger s (bits w.toNat 23 20) else s) s

/-! ## Yielding (R87) -/

/-- The mark of a yield whose ready troupes are still to be told apart: the step that follows does so (R87). -/
def yieldMark : Nat := 255

/-- The subset that yields (R87): until the slot's ready troupes have started; in Minuet for one turn (R81). -/
def yieldLanes (s : State) (core pos : Nat) (lanes : LaneMask) : State :=
  match troupeAt s core pos with
  | none => s
  | some t =>
    let st : ThreadState :=
      if minuetTroupe s t then .yielded [yieldMark] (t.turns + 2)
      else .yielded [yieldMark] (tabGet (coreOf s core).slotIssues (slotOf s core pos) 0 + 64)
    setTroupe s core pos (modThreads t lanes fun _ h => { h with st })

/-! ## Regroup arrivals (R225) -/

/-- A thread of a troupe that is halted for debug. -/
def haltedThread (s : State) (m : Member) : Bool := ((troupeAt s m.core m.pos).map fun t => t.halted) == some true

/-- Function, descriptor and clause address of an arrived thread; `none` where it has not arrived (R224). -/
def arrivedWhat (s : State) (m : Member) : Option (Nat × Nat × Nat) :=
  match m.th.st with
  | .arrived fn range _ _ head _ => if haltedThread s m then none else some (fn, range, head)
  | _ => none

/-- Threads of a group that differ from the lowest-positioned arrived thread, once all have arrived, trap; a group whose threads
agree takes its place with the Quadrille unit (R225, R228). -/
def settleRegroup (s : State) (key : Nat) : State :=
  let ms := (groupThreads s key).filter fun m => m.th.st != .exited
  let what := arrivedWhat s
  let site (m : Member) : Word := match m.th.st with
    | .arrived _ _ _ _ _ a => word a
    | _ => 0
  let sorted := ms.mergeSort fun a b => decide (32 * a.tidx + a.lane ≤ 32 * b.tidx + b.lane)
  match sorted with
  | [] => s
  | m0 :: _ =>
    if sorted.any fun m => (what m).isNone then s
    else
      let bad := sorted.filter fun m => what m != what m0
      if bad.isEmpty then modCore s m0.core fun k => { k with quad := joinWait k.quad key }
      else (distinct (bad.map fun m => m.pos)).foldl (fun s p =>
        let mine := bad.filter fun m => m.pos == p
        let lanes := maskOf fun l => mine.any fun m => m.lane == l
        let head (l : Nat) : Word := ((((mine.find? fun m => m.lane == l).bind what).map fun w => word w.2.2)).getD 0
        let s := modTroupe s m0.core p fun t => modThreads t lanes fun l h => { h with st := .runnable, pc := head l }
        takeTrap s m0.core p 0x0A ((mine.head?.map site).getD 0) lanes lanes (mkLanes head) []) s

/-! ## Control instructions after commit (R24) -/

/-- Sets the active lanes' state. -/
def setStates (s : State) (x : Ctx) (f : Nat → Thread → Thread) : State :=
  modTroupe s x.core x.pos fun t => modThreads t x.cl.active f

/-- One lane at `swait` (R246): it waits unless its word already differs. -/
def waitWord (s : State) (x : Ctx) (l : Nat) (w : Loc) (gen : Nat) (acq : Option Nat) : State :=
  let r := readSync (dropPlain s x.core w.line) w
  if r.2.gen ≠ gen then acquireObjects r.1 x.core acq [objectPtr r.1 x (if w.area = .scratch then scratchPtr r.1 w else word w.va)]
  else modTroupe r.1 x.core x.pos fun t => modThreads t (laneBit l) fun _ h => { h with st := .watching w gen acq }

/-- `brk` (R442): a halt request and event where debug is enabled, the event naming the stop site of the next clause (R440); a bound trigger is
sent. -/
def breakHere (s : State) (x : Ctx) (tag : Nat) (operand : Word) : State :=
  match gridOfGroup s x.t.group with
  | none => s
  | some g =>
    if !g.debug then s
    else
      let s := requestHalt s x.t.group
      let s := send s (.halt (x.t.group / 2 ^ 64) (x.t.group % 2 ^ 64) tag operand (nextHead x.cl)
        ((siteAt s x.core x.t (nextHead x.cl)).getD noOrdinal))
      (s.mgmt.trigcfg.filter fun e => e.2.getLsbD 25 && bits e.2.toNat 24 16 == tag).foldl (fun s e => raiseTrigger s e.1) s

/-- A register of a kept range as some lanes exit: a fault ends with the exit (R156), and the lane keeps a free value. -/
def keepLanes (s : State) (core n : Nat) (lanes : LaneMask) (r : Reg) : Reg :=
  let lost := faultedIn s core r &&& lanes
  if lost = 0 then r
  else { dropLanes lost r with
    vals := mkLanes fun l => if lost.getLsbD l then freeLane s n l else laneOf r.vals l }

/-- Lanes that have exited need no arrival in the registers they leave; an inherited range is kept for a successor (R86, R130,
R158). The trap troupe's lanes keep theirs for the next delivery (R393). -/
def leaveRegs (s : State) (core pos : Nat) (lanes : LaneMask) (keep : Bool) : State :=
  match troupeAt s core pos with
  | none => s
  | some t =>
    if isSup pos then s
    else
      let kept := if keep then ((gridOfGroup s t.group).map inheritRange).getD [] else []
      let regs := tabMap t.regs fun n r => if kept.contains n then keepLanes s core n lanes r else dropLanes lanes r
      sweepSymbols (setTroupe s core pos { t with regs }) core pos

/-- The spill or refill that a served spill delivery named is tried again (R408). -/
def retryMove (s : State) (core : Nat) (d : Option Delivery) : State :=
  match d.bind fun d => d.move.map fun m => (d.pos, m) with
  | some (pos, n, false) =>
    if ((troupeAt s core pos).map fun t => (regOf t n).entry == .resident) == some true then startSpill s core pos n else s
  | some (pos, n, true) => { s with agenda := .refill core pos n :: s.agenda }
  | none => s

/-- The control instruction's effect, but for `ctx` (R24). -/
def controlEffect (s : State) (x : Ctx) : State :=
  match x.cl.control with
  | .none => s
  | .goto targets => setStates s x fun l h => { h with pc := laneOf targets l }
  | .bar n lanes troupes =>
    let s := match gridOfGroup s x.t.group with
      | some g => if gangLevel g n then applyInvals s x.core fun _ => true else s
      | none => s
    completeBarriers (setStates s x fun l h =>
      { h with st := .waiting n (BitVec.ofNat 32 (laneOf lanes l).toNat) (BitVec.ofNat 32 (laneOf troupes l).toNat) }) x.t.group
  | .nap cycles => setStates s x fun l h =>
      let d := (laneOf cycles l).toNat
      if d = 0 then h else { h with st := .napping (if minuetTroupe s x.t then x.t.turns + 1 + d else s.cycle + d) }
  | .swait words gens acq => (maskLanes x.cl.active).foldl (fun s l => match tabGet? words l with
      | some w => waitWord s x l w (laneOf gens l).toNat acq
      | none => s) s
  | .exit keep =>
    settleRegroup (completeBarriers
      (leaveRegs (setStates s x fun _ h => { h with st := .exited, keep }) x.core x.pos x.cl.active keep) x.t.group) x.t.group
  | .yieldPlain => yieldLanes s x.core x.pos x.cl.active
  | .yieldQueue q head tail closed => setStates s x fun _ h =>
      { h with st := .yieldedOn q head tail closed (if minuetTroupe s x.t then x.t.turns + 65537 else s.cycle + 65536) }
  | .trap code operand =>
    if x.cl.active = 0 then s
    else takeTrap s x.core x.pos code operand x.cl.active x.cl.active (mkLanes fun _ => nextHead x.cl) []
  | .brk tag operand => if x.cl.active = 0 then s else breakHere s x tag operand
  | .tret targets => if x.cl.active = 0 then s else retryMove (returnFromTrap s x.core targets) x.core (liveService s x.core)
  | .regroup fn range dest keys site => settleRegroup (setStates s x fun l h =>
      { h with st := .arrived fn range dest (laneOf keys l).toNat x.cl.head.toNat site }) x.t.group
  | .ctxSave _ => s
  | .ctxRestore _ => s

/-- The clause boundary after a clause. -/
def boundary (s : State) (x : Ctx) : State :=
  let s := settleTroupe s x.core x.pos
  checkHalt (checkBreakpoints s x.core x.pos) x.core x.pos

end Sys2Proof.Machine
end

