-- ==== Sys2Proof/Machine/StoreBuffer.lean ====
section
/-!
DEFINITION. What a store-buffer entry does at its point of performance (R351, R353 to R356, R248).
-/

namespace Sys2Proof.Machine

/-- `cl` (R353): no effect in spaces 0x3 and 0xE. -/
def clEffect (s : State) (core fn : Nat) (l : Loc) : State :=
  let line := l.line
  if l.area = .host || l.area = .scratch then s
  else
    let s := applyOwn s core line
    if fn = 0 then
      (if uAnywhere s line then collapseLine s line
       else match lineAt s core line with
         | some n => if isOwned n.st then demote s core line .e else s
         | none => s)
    else if fn = 1 then
      match lineAt s core line with
      | some n => if isU n.st then ackEviction (evictU s core line) core line
        else if isEvicting n.st then ackEviction s core line else giveUp s core line
      | none => s
    else if fn = 2 then collapseLine s line
    else
      let s := collapseLine s line
      (holders s line (· == .m)).foldl (fun s c => demote s c line .e) s

/-- An update selects a U state (R356): cached memory of spaces 0x0 and 0x2, and a pair of R333. -/
def updateInU (e : SBEntry) (o : LaneOp) : Option (Nat × Nat) :=
  match e.kind with
  | .update fl fn ty => if cached o.loc && o.loc.space != 15 then updatePair fl fn ty else none
  | _ => none

/-- A permission granted to a core for a group's update: the copy is held under the key of its grid (R336, R346). -/
def grantFor (s : State) (core group op ty : Nat) (l : Loc) : State :=
  let key := ((gridOfGroup s group).map gridKey).getD 0
  modCore (grantU s core op ty l) core fun k => { k with l1 := k.l1.map fun e => if e.1 = l.line then (e.1, { e.2 with key }) else e }

/-- One lane of an update (R337, R356). -/
def updateLane (core : Nat) (e : SBEntry) (float : Bool) (fn ty : Nat) (s : State) (o : LaneOp) : State :=
  match updateInU e o with
  | some (op, t) =>
    if holdsU s core o.loc.line op t then updateCopy s core op t o.loc o.val.toNat else updateAt s core float fn ty o
  | none => updateAt s core float fn ty o

/-- One lane of a returning atomic: its old value (R354). -/
def atomicLane (core ty : Nat) (f : LaneOp → Nat → Nat) (a : State × Tab Word) (o : LaneOp) : State × Tab Word :=
  let r := atomicAt a.1 core o.loc (typeWidth ty / 8) (f o)
  (r.1, tabPut a.2 o.lane (extElem ty r.2))

/-- The bytes of a store entry, the newest of each. -/
def storeTab (e : SBEntry) : Tab Byte := e.bytes.foldl (fun t b => tabPut t b.1 b.2.1) []

/-- The bytes an entry changes as it performs. -/
def entryBytes (e : SBEntry) : List Loc :=
  let ops (n : Nat) : List Loc := e.ops.flatMap fun o => (List.range n).map o.loc.plus
  match e.kind with
  | .store => (storeTab e).map fun b => e.loc.plus b.1
  | .record => (storeTab e).map fun b => e.loc.plus b.1
  | .update _ _ ty => ops (typeWidth ty / 8)
  | .atomic _ _ ty _ => ops (typeWidth ty / 8)
  | .cas ty _ => ops (typeWidth ty / 8)
  | .sadd => ops 16
  | .cl _ => []
  | .submission => []

/-- Program order of the newest operation of an entry: a store that merged is younger than the entry (R363). -/
def newest (e : SBEntry) : Nat := e.bytes.foldl (fun m b => max m b.2.2) e.seq

/-- A byte of an entry as a load of an earlier program order finds it: the entry's own older byte, or what its home holds; `none` where the
entry changes the byte no later than the load. -/
def byteBefore (s : State) (e : SBEntry) (seq : Nat) (l : Loc) : Option Byte :=
  let mine := e.bytes.filter fun b => e.loc.key + b.1 == l.key
  if e.seq ≤ seq && !(mine.any fun b => decide (seq < b.2.2)) then none
  else some ((((mine.filter fun b => decide (b.2.2 ≤ seq)).getLast?).map fun b => b.2.1).getD ((peekBytes s l 1).headD 0))

/-- Open lanes of a symbol that have not been translated: of a deferred load reissued after a fault (R156). -/
def unissued (y : Symbol) : LaneMask := maskOf fun l => (openLanes y).getLsbD l && (tabGet? y.locs l).isNone

/-- A deferred load that is faulted in some lane, or reissued and not yet translated, still reads at its place in program order (R150): it keeps the bytes that a later
store of its troupe changes, as they stood. -/
def noteShadow (s : State) (core pos : Nat) (e : SBEntry) : State :=
  modCore s core fun k => { k with symbols := tabMap k.symbols fun _ y =>
    if y.pos == pos && y.dep.isSome && (y.faulted != 0 || unissued y != 0) && decide (y.seq < newest e) then
      { y with shadow := (entryBytes e).foldl (fun t l => match byteBefore s e y.seq l with
          | some b => if (tabGet? t l.key).isSome then t else tabPut t l.key b
          | none => t) y.shadow }
    else y }

/-- The sync words that operations a store can meet are under way for: arrivals, another troupe's `sadd` or an older one of its own, threads
that wait at a word (R239). Of operations yet to come, which only an order of later events could rule out, none counts
(notes/assumptions/34.md). -/
def wordsUnderWay (s : State) (e : SBEntry) : List Nat :=
  s.arrivals.map (fun a => a.word.key / 16) ++ s.cores.flatMap fun c => c.2.troupes.flatMap fun t =>
    ((t.2.sb.filter fun q => q.kind == .sadd && (!t.2.sb.contains e || decide (q.seq < e.seq))).flatMap fun q => q.ops.map fun o => o.loc.key / 16) ++
    t.2.threads.filterMap fun h => match h.2.st with
      | .watching w _ _ => some (w.key / 16)
      | _ => none

/-- A plain store or an atomic that meets an operation on a sync word leaves the word undefined until the next `sarm` (R239). -/
def noteRace (s : State) (e : SBEntry) : State :=
  if e.kind == .sadd then s
  else
    let hit := (distinct ((entryBytes e).map fun l => l.key / 16)).filter (wordsUnderWay s e).contains
    if hit.isEmpty then s else { s with racedWords := distinct (s.racedWords ++ hit) }

/-- What an entry does where it performs. -/
def performEntryOp (s : State) (core : Nat) (e : SBEntry) : State × Tab Word :=
  match e.kind with
  | .store => (coreStore s core e.loc (storeTab e), [])
  | .record => (coreStore s core e.loc (storeTab e), [])
  | .update fl fn ty => (e.ops.foldl (updateLane core e fl fn ty) s, [])
  | .atomic fl fn ty _ => e.ops.foldl (atomicLane core ty fun o old => atomicFn fl fn ty old o.val.toNat) (s, [])
  | .cas ty _ => e.ops.foldl (atomicLane core ty fun o old => if old = o.val2.toNat then o.val.toNat else old) (s, [])
  | .cl fn => (clEffect s core fn e.loc, [])
  | .sadd => (e.ops.foldl (fun s o => arrive (dropPlain s core o.loc.line) o.loc o.val2.toNat o.val.toNat) s, [])
  | .submission => (s, [])

/-- An entry performs; a returning atomic's old values by lane. -/
def performBuffered (s : State) (core : Nat) (e : SBEntry) : State × Tab Word := performEntryOp (noteRace s e) core e

end Sys2Proof.Machine
end

