-- ==== Sys2Proof/Machine/Arrival.lean ====
section
/-!
DEFINITION. What a symbol's values do when they come: resolution (R145, R153), the deferred loads behind them (R149, R154, R156),
acquires (R361).
-/

namespace Sys2Proof.Machine

/-! ## Resolution -/

/-- A register after a symbol's values arrived in some lanes (R145, R153), and the flags of the replays. -/
def resolveReg (live : LaneMask) (sym : Nat) (vals : Tab Word) (r : Reg) : Reg × Nat :=
  if r.entry == .pending && r.sym == sym then
    let q := vals.foldl (fun a e => let w := resolveLane a.1 e.1 e.2; (w.1, a.2 ||| w.2)) (r, 0)
    (settleReg live q.1, q.2)
  else (r, 0)

/-- A table of registers resolved. -/
def resolveTab (live : LaneMask) (sym : Nat) (vals : Tab Word) (t : Tab Reg) : Tab Reg × Nat :=
  t.foldr (fun e a => let q := resolveReg live sym vals e.2; ((e.1, q.1) :: a.1, q.2 ||| a.2)) ([], 0)

/-- Every register and clause temporary of a troupe resolved; replayed operations set their flags (R145), those of a running clause's own
results as it commits (R168). -/
def resolveTroupe (sym : Nat) (vals : Tab Word) (t : Troupe) : Troupe :=
  let live := formatLanes t
  let regs := resolveTab live sym vals t.regs
  let cl := t.clause.map fun cl =>
    let temps := resolveTab live sym vals cl.temps
    let xw := resolveTab live sym vals cl.xw
    addFlags { cl with temps := temps.1, xw := xw.1 } (temps.2 ||| xw.2)
  { t with regs := regs.1, clause := cl, mode := modeMerge t.mode regs.2 }

/-! ## Deferred loads -/

/-- Who a troupe's accesses are for. -/
def troupeWho (s : State) (core pos : Nat) (t : Troupe) : Who :=
  if isSup pos then ⟨core, true, 0, 0⟩ else ⟨core, false, troupeKey s t, t.group⟩

/-- The bytes one lane of a symbol reads. -/
def kindSize : LoadKind → Nat
  | .element ty => typeWidth ty / 8
  | .lower ty _ => 2 * (typeWidth ty / 8)
  | .upper ty _ => 2 * (typeWidth ty / 8)
  | .image => 264
  | .atomic ty => typeWidth ty / 8

/-- A lane's address, once it is known: through the address form of a deferred load, or as the instruction gave it. -/
def laneAddress (y : Symbol) (l : Nat) : Option Word :=
  if y.dep.isSome then (if laneOf y.depScale l = 0 then some (laneOf y.depOff l) else none) else tabGet? y.ptrs l

/-- Lanes of a symbol become faulted with a cause and address (R154). -/
def faultLane (y : Symbol) (l cause : Nat) (a : Word) : Symbol :=
  { y with faulted := y.faulted ||| laneBit l, causes := tabPut y.causes l cause, addrs := tabPut y.addrs l a }

/-- A fault of a lane passes to the deferred loads whose address it was (R154). -/
def spreadFault (s : State) (core : Nat) : Nat → Nat → Nat → Nat → Word → State
  | 0, _, _, _, _ => s
  | fuel + 1, sym, l, cause, a =>
    let ds := (coreOf s core).symbols.filter fun e =>
      e.2.dep == some sym && (openLanes e.2).getLsbD l && laneOf e.2.depScale l != 0
    ds.foldl (fun s e => spreadFault (setSymbol s core e.1 (faultLane e.2 l cause a)) core fuel e.1 l cause a) s

/-- A symbol's lane is faulted, and every deferred load behind it. -/
def raiseFault (s : State) (core sym l cause : Nat) (a : Word) : State :=
  match symbolAt s core sym with
  | none => s
  | some y => spreadFault (setSymbol s core sym (faultLane y l cause a)) core 32 sym l cause a

/-- A lane whose address is known and not yet translated: it translates and issues, or faults (R149, R154). -/
def issueLane (s : State) (core sym l : Nat) : State :=
  match symbolAt s core sym with
  | none => s
  | some y => match troupeAt s core y.pos, laneAddress y l with
    | some t, some a =>
      let size := kindSize y.kind
      if a.toNat % size ≠ 0 then raiseFault s core sym l 0x03 a
      else match translate s (troupeWho s core y.pos t) (threadOf t l).wid a size .read with
        | (s, .ok loc) => setSymbol s core sym { y with locs := tabPut y.locs l loc }
        | (s, .trap c b) => raiseFault s core sym l c b
    | _, _ => s

/-- The deferred loads whose address symbol arrives in a lane compute their addresses and issue (R149); one that is faulted there issues as
it is reissued (R156). -/
def issueDeferred (s : State) (core sym l : Nat) (v : Word) : State :=
  let ds := (coreOf s core).symbols.filter fun e =>
    e.2.dep == some sym && (openLanes e.2 ||| e.2.faulted).getLsbD l && laneOf e.2.depScale l != 0
  ds.foldl (fun s e =>
    let y := { e.2 with depScale := (mkLanes fun i => if i = l then 0 else laneOf e.2.depScale i),
                        depOff := (mkLanes fun i => if i = l then laneOf e.2.depScale l * v + laneOf e.2.depOff l else laneOf e.2.depOff i) }
    let s := setSymbol s core e.1 y
    if (openLanes y).getLsbD l then issueLane s core e.1 l else s) s

/-! ## Arrival -/

/-- A symbol's values arrive: registers resolve, then the deferred loads behind them issue (R153). -/
def deliver (s : State) (core sym : Nat) (vals : Tab Word) : State :=
  match symbolAt s core sym with
  | none => s
  | some y =>
    let m := maskOf fun l => (tabGet? vals l).isSome
    let s := setSymbol s core sym { y with arrived := y.arrived ||| m }
    let s := modTroupe s core y.pos (resolveTroupe sym vals)
    vals.foldl (fun s e => issueDeferred s core sym e.1 e.2) s

/-- An acquire whose lanes have all been answered is complete (R361); symbols that nothing waits for return. -/
def finishSymbol (s : State) (core sym : Nat) : State :=
  match symbolAt s core sym with
  | none => s
  | some y =>
    let s := if y.acq.isSome && openLanes y == 0 then
        modTroupe (acquireObjects s core y.acq (y.ptrs.map fun e => e.2)) core y.pos fun t =>
          { t with acquires := t.acquires.filter fun n => n != y.seq }
      else s
    sweepSymbols s core y.pos

/-- The deferred loads of a troupe whose addresses are known and that have not issued, in the order in which they were made (R156, R158). -/
def issueKnown (s : State) (core pos : Nat) : State :=
  let ys := ((coreOf s core).symbols.filter fun e => e.2.pos == pos && e.2.dep.isSome).mergeSort fun a b => decide (a.2.seq ≤ b.2.seq)
  ys.foldl (fun s e => laneList.foldl (fun s l => match symbolAt s core e.1 with
    | some y => if (openLanes y).getLsbD l && (laneAddress y l).isSome && (tabGet? y.locs l).isNone then issueLane s core e.1 l else s
    | none => s) s) s

/-- Answers that came with a save image are delivered before the first clause (R404). -/
def deliverImages (s : State) (core pos : Nat) : State :=
  let ys := (coreOf s core).symbols.filter fun e => e.2.pos == pos && !isAtomicKind e.2.kind && !e.2.replies.isEmpty
  ys.foldl (fun s e => finishSymbol (deliver s core e.1 e.2.replies) core e.1) s

end Sys2Proof.Machine
end

