-- ==== Sys2Proof/Machine/Context.lean ====
section
/-!
DEFINITION. Saved context: the full-save image (R399, R400), the troupe record and its parts (R401, R402), what a restore
checks and rebuilds (R404, R137, R158, R292), and `ctx` (R409).
-/

namespace Sys2Proof.Machine

/-! ## Locations -/

/-- A location as a pointer. -/
def pointerOf (s : State) (l : Loc) : Word := if l.area = .lost then word l.addr else if l.area = .scratch then scratchPtr s l else word l.va

/-- A location as a pointer from which it can be found again: an image holds it in this form (R402). -/
def imagePtr (s : State) (l : Loc) : Word :=
  if l.area = .scratch then scratchPtr s l
  else if l.area = .lost then word l.addr
  else if l.space = 3 && l.via.isSome then word (l.va % 2 ^ 52)
  else if l.space = 2 then word l.va
  else word (l.space * 2 ^ 60 + l.va % 2 ^ 52)

/-- A location translated again (R404). -/
def relocate (s : State) (w : Who) (l : Loc) (size : Nat) (kind : Access) : State × Xlat :=
  if l.space = 14 then (s, .ok l) else locate s w (imagePtr s l) size kind

/-! ## Lane records (R401) -/

/-- The state code of a lane record; a save, unlike a dump, writes naps, yields and parked lanes as runnable. -/
def stateCode (dump : Bool) : ThreadState → Nat
  | .runnable => 0
  | .held => 1
  | .waiting _ _ _ => 2
  | .napping _ => if dump then 3 else 0
  | .yielded _ _ => if dump then 4 else 0
  | .yieldedOn _ _ _ _ _ => if dump then 4 else 0
  | .parked _ => if dump then 5 else 0
  | .exited => 6
  | .watching _ _ _ => 7
  | .arrived _ _ _ _ _ _ => 8

/-- An optional scope as a number. -/
def scopeCode (o : Option Nat) : Nat := match o with | none => 0 | some n => n + 1
def scopeOf (n : Nat) : Option Nat := if n = 0 then none else some (n - 1)

/-- Bytes 24 to 47 of a lane record. What R401 gives no place for stands in the barrier bytes, which a state other than 2 leaves free:
`exit.inherit`, a release's acquire, the arrived clause's head and instruction (DESIGN CHOICE, notes/assumptions/41.md). -/
def stateBytes (s : State) (h : Thread) : List Byte :=
  match h.st with
  | .waiting n a b => leBytes 4 n ++ leBytes 4 a.toNat ++ leBytes 4 b.toNat ++ zeroBytes 12
  | .exited => leBytes 12 (if h.keep then 1 else 0) ++ zeroBytes 12
  | .watching w gen acq => leBytes 12 (scopeCode acq) ++ leBytes 4 gen ++ leBytes 8 (pointerOf s w).toNat
  | .arrived fn range dest key head site => leBytes 8 head ++ leBytes 4 (site - head) ++ leBytes 4 (range % 2 ^ 13) ++
      leBytes 8 (fn % 256 + dest % 128 * 256 + key % 512 * 65536)
  | _ => zeroBytes 24

def laneRecord (s : State) (core : Nat) (t : Troupe) (held dump : Bool) (l : Nat) : List Byte :=
  let h := threadOf t l
  leBytes 8 h.pc.toNat ++ leBytes 8 (packedMeet h).toNat ++ leBytes 4 (stateCode dump h.st) ++
    leBytes 4 ((siteAt s core t h.pc).getD noOrdinal) ++ stateBytes s h ++ leBytes 1 h.preds.toNat ++ leBytes 1 0 ++
    leBytes 2 (if held then h.orig else 0) ++ zeroBytes 12

/-! ## Register, symbol and other records (R402) -/

def padTo (n : Nat) (bs : List Byte) : List Byte := bs ++ zeroBytes (n - bs.length)

/-- The number of a chain operation's kind. -/
def chainCode (k : ChainKind) : Nat := match k with | .add => 0 | .sub => 1 | .rsub => 2 | .mul => 3 | .fma => 4
def chainKindOf (n : Nat) : Option ChainKind := [.add, .sub, .rsub, .mul, .fma][n]?

/-- A recorded operation in two bytes: kind, flags, rounding mode (R402). -/
def chainWord (o : ChainOp) : Nat :=
  chainCode o.kind + (if o.negP then 8 else 0) + (if o.negK then 16 else 0) + (if o.negC then 32 else 0) + (if o.pIsA then 64 else 0) + o.mode * 128

/-- Values fit the format and base that an entry is held in (R118). -/
def heldFits (f : Nat) (b : Word) (vs : List Word) : Bool :=
  if f = 4 then true else if f = 0 then vs.all (· == b) else deltasFit (8 * 2 ^ (f - 1)) b vs

/-- The image of an entry of a pending register, in the format it is held in (R120, R144); encoded afresh where lanes that have settled since
no longer fit it. -/
def entryImage (live : LaneMask) (held : Option (Nat × Word)) (v : Lanes) : List Byte :=
  match held with
  | some (f, b) =>
    if heldFits f b ((maskLanes live).map (laneOf v)) then imageFields f b (mkLanes fun l => if live.getLsbD l then laneOf v l else b)
    else imageOf live v
  | none => imageOf live v

/-- A register record: an image per field; a spilled register is saved from the spill area (R137). The bytes that R402 does not lay out, and
the lanes of a chain's first entry that have settled, are the model's own layout (DESIGN CHOICE, notes/assumptions/41.md). -/
def regRecord (s : State) (core : Nat) (live : LaneMask) (num : Nat → Nat) (n : Nat) (r : Reg) : List Byte :=
  let img (i : Nat) (v : Lanes) : List Byte := padTo 264 (entryImage live r.fmts[i]? v)
  match r.entry with
  | .empty => zeroBytes 16 ++ padTo 264 (imageOf 0 [])
  | .resident => leBytes 16 1 ++ padTo 264 (regImage r)
  | .spilled => leBytes 16 1 ++ (match (readSpill s core r.home n).2 with
      | .inr bs => padTo 264 (bs.take 264)
      | .inl _ => padTo 264 (imageOf 0 []))
  | .pending =>
    if r.chain.isEmpty then leBytes 16 (2 + 256 * num r.sym) ++ img 0 r.scale ++ img 1 r.vals
    else
      let fields := match chainEntries r.chain with
        | [] => []
        | f :: rest => laneMerge r.pend f r.vals :: rest
      leBytes 3 (3 + 256 * num r.sym + 65536 * r.chain.length) ++ padTo 6 (r.chain.flatMap fun o => leBytes 2 (chainWord o)) ++
        leBytes 4 r.pend.toNat ++ zeroBytes 3 ++ (List.range fields.length).flatMap fun i => img i (fields.getD i [])

/-- What a symbol is for, in the spare bytes of its record: kind, type, other half, acquire, whether it is reissued at `tret`, its batch. -/
def symbolWord (y : Symbol) (num : Nat → Nat) (again : Bool) (batch : Option Nat) : Nat :=
  let k : Nat × Nat × Nat := match y.kind with
    | .element ty => (0, ty, 0)
    | .lower ty o => (1, ty, num o)
    | .upper ty o => (2, ty, num o)
    | .image => (3, 0, 0)
    | .atomic ty => (4, ty, 0)
  k.1 + 8 * k.2.1 + 256 * k.2.2 + 2 ^ 15 * scopeCode y.acq + (if again then 2 ^ 18 else 0) +
    (match batch with | none => 0 | some b => 2 ^ 19 + 2 ^ 20 * b)

/-- The address a lane's record gives: the recorded fault's, else the pending lane's. -/
def laneRecordAddr (s : State) (y : Symbol) (l : Nat) : Word :=
  (tabGet? y.addrs l).getD (match tabGet? y.locs l with
    | some loc => imagePtr s loc
    | none => tabGet y.ptrs (if y.kind = .image then 0 else l) 0)

def symbolRecord (s : State) (num : Nat → Nat) (again : Bool) (batch : Option Nat) (y : Symbol) : List Byte :=
  leBytes 4 (openLanes y).toNat ++ leBytes 4 y.arrived.toNat ++ leBytes 4 y.faulted.toNat ++ leBytes 4 (symbolWord y num again batch) ++
    laneList.flatMap fun l => leBytes 8 (laneRecordAddr s y l).toNat ++ leBytes 8 (tabGet y.causes l 0)

/-- A deferred load's record: address symbol, type, lanes, own symbol, place among the buffered entries, address form (R402). -/
def deferredRecord (num : Nat → Nat) (own before : Nat) (y : Symbol) : List Byte :=
  leBytes 1 ((y.dep.map num).getD 0) ++ leBytes 1 (match y.kind with | .element ty => ty | _ => 0) ++ leBytes 8 y.offset.toNat ++ leBytes 4 y.lanes.toNat ++
    leBytes 1 own ++ leBytes 1 before ++ zeroBytes 16 ++
    laneList.flatMap fun l => leBytes 8 (laneOf y.depScale l).toNat ++ leBytes 8 (laneOf y.depOff l - y.offset).toNat

/-- What an entry does, in the bytes of its record: kind and function, type. -/
def entryCode (k : SBKind) : Nat × Nat :=
  match k with
  | .store => (0, 0)
  | .record => (1, 0)
  | .update fl fn ty => (2 + 16 * fn, ty + if fl then 32 else 0)
  | .cl fn => (3 + 16 * fn, 0)
  | .sadd => (4, 0)
  | .submission => (5, 0)
  | .atomic fl fn ty _ => (6 + 16 * fn, ty + if fl then 32 else 0)
  | .cas ty _ => (7, ty)

def entryKindOf (a b : Nat) : Option SBKind :=
  match a % 16 with
  | 0 => some .store
  | 1 => some .record
  | 2 => some (.update (b.testBit 5) (a / 16) (b % 32))
  | 3 => some (.cl (a / 16))
  | 4 => some .sadd
  | 5 => some .submission
  | _ => none

/-- A store-buffer record (R402): pointer, key, data, mask, kind, order, scope, and the batches that count it. -/
def entryRecord (s : State) (key batches : Nat) (e : SBEntry) : List Byte :=
  let data := e.bytes.foldl (fun t b => tabPut t b.1 b.2.1) ([] : Tab Byte)
  let mask := (List.range 64).foldl (fun m i => if (tabGet? data i).isSome then m + 2 ^ i else m) 0
  let c := entryCode e.kind
  leBytes 8 (imagePtr s e.loc).toNat ++ leBytes 2 key ++ (List.range 64).map (fun i => tabGet data i 0) ++ leBytes 8 mask ++
    leBytes 1 c.1 ++ leBytes 1 c.2 ++ leBytes 1 (scopeCode e.release) ++ leBytes 1 e.ops.length ++ leBytes 6 batches ++ zeroBytes 4

/-- The lane operations of an entry: pointer and two values each. -/
def opsRecord (s : State) (e : SBEntry) : List Byte :=
  e.ops.flatMap fun o => leBytes 8 (imagePtr s o.loc).toNat ++ leBytes 8 o.val.toNat ++ leBytes 8 o.val2.toNat

/-- A troupe's live symbols, in record order. -/
def troupeSymbols (s : State) (core pos : Nat) : List (Nat × Symbol) := (coreOf s core).symbols.filter fun e => e.2.pos == pos

/-- Deferred loads whose address forms are still needed: those that have not issued in every lane, and those that a reissue may make so
(R156, R158). -/
def deferredOnes (s : State) (core pos : Nat) : List (Nat × Symbol) :=
  (troupeSymbols s core pos).filter fun e => e.2.dep.isSome && (openLanes e.2 ||| e.2.faulted) != 0

/-- Batches of a track in record order. -/
def savedBatches (s : State) (core : Nat) (t : Troupe) (track : Nat) : List Batch := (openBatches s core t track).take 8

/-- Every batch of a troupe with its number in the image. -/
def numberedBatches (s : State) (core : Nat) (t : Troupe) : List (Nat × Batch) :=
  (List.range 6).flatMap fun k => let bs := savedBatches s core t k; (List.range bs.length).map fun i => (8 * k + i, bs.getD i default)

/-- The batches that count a symbol, and, as a mask, those that count an entry. -/
def symbolBatch (bs : List (Nat × Batch)) (id : Nat) : Option Nat := (bs.find? fun b => b.2.symbols.contains id).map fun b => b.1
def entryBatches (bs : List (Nat × Batch)) (id : Nat) : Nat :=
  bs.foldl (fun m b => if b.2.entries.contains id then m ||| 2 ^ b.1 else m) 0

/-- Entries of a troupe that its record holds, the oldest first: a sent one stays with the arbiter (R366, R401). -/
def savedSb (t : Troupe) : List SBEntry := t.sb.filter fun e => !e.sent

/-- A batch word (R401): items still outstanding. -/
def batchWord (s : State) (core : Nat) (t : Troupe) (b : Batch) : Nat :=
  let open_ := (b.symbols.filter fun i => match symbolAt s core i with | some y => openLanes y != 0 | none => false).length +
    (b.entries.filter fun i => (ownEntries s t).any fun e => e.id == i).length
  2 ^ 31 + b.regs.getD 0 120 * 2 ^ 22 + b.regs.getD 1 120 * 2 ^ 15 + b.regs.getD 2 120 * 2 ^ 8 + min open_ 255

/-- A queued delivery of a troupe, not yet taken (R398). -/
def queuedTrap (s : State) (core pos : Nat) : Option Delivery :=
  (coreOf s core).deliveries.find? fun d => d.kind == .troupe && d.pos == pos && !d.void

/-- A reassembly image (R402): one line's bytes that have come for a symbol and are not delivered. -/
structure LineImage where
  sym : Nat
  line : Word
  data : Tab Byte

/-- A symbol's answers that have come and are not delivered, by the line they were read from. -/
def lineImages (s : State) (id : Nat) (y : Symbol) : List LineImage :=
  let part : Option (Nat × Nat) := match y.kind with
    | .element ty => some (typeWidth ty / 8, 0)
    | .lower ty _ => some (typeWidth ty / 8, 0)
    | .upper ty _ => some (typeWidth ty / 8, typeWidth ty / 8)
    | _ => none
  match part with
  | none => []
  | some (n, off) =>
    let got := (maskLanes (openLanes y)).filterMap fun l => match tabGet? y.replies l, tabGet? y.locs l with
      | some v, some loc => some (imagePtr s loc, v)
      | _, _ => none
    (distinct (got.map fun e => e.1.toNat / 512)).map fun q =>
      { sym := id, line := word (q * 512), data := (got.filter fun e => e.1.toNat / 512 == q).foldl (fun t e =>
          (List.range n).foldl (fun t i => tabPut t (e.1.toNat % 512 + off + i) ((leBytes n e.2.toNat).getD i 0)) t) [] }

def lineImageRecord (num : Nat → Nat) (t : Troupe) (q : LineImage) : List Byte :=
  (List.range 512).map (fun i => tabGet q.data i 0) ++ leBytes 1 15 ++ leBytes 1 (num q.sym) ++
    leBytes 2 (((t.regs.find? fun e => pendMask e.2 != 0 && e.2.sym == q.sym).map fun e => e.1).getD 120) ++ leBytes 8 q.line.toNat ++ zeroBytes 4

/-- Bytes that a faulted deferred load must still find as they stood (R150): those of its record, and those that a buffered entry on
both sides of it has changed since. -/
def savedShadow (s : State) (t : Troupe) (y : Symbol) : Tab Byte :=
  t.sb.foldl (fun a e =>
    if y.seq < newest e && (e.sent || e.seq < y.seq) then
      (entryBytes e).foldl (fun a l => match byteBefore s e y.seq l with
        | some b => if (tabGet? a l.key).isSome then a else tabPut a l.key b
        | none => a) a
    else a) y.shadow

/-- A shadow byte: symbol, value, area, member of the scratchpad's group, address. -/
def shadowRecord (s : State) (num : Nat) (e : Nat × Byte) : List Byte :=
  let a : Nat × Nat × Nat :=
    if e.1 < 2 ^ 130 then (0, 0, e.1)
    else if e.1 < 2 ^ 131 then (1, 0, e.1 - 2 ^ 130)
    else if e.1 < 2 ^ 132 then (2, 0, e.1 - 2 ^ 131)
    else (3, ((groupAt s ((e.1 - 2 ^ 132) / 2 ^ 20)).map fun g => g.member).getD 0, e.1 % 2 ^ 20)
  leBytes 1 num ++ [e.2] ++ leBytes 1 a.1 ++ leBytes 1 a.2.1 ++ leBytes 4 1 ++ leBytes 8 a.2.2

/-- Some thread still has the ticket that its `regroup` gave (R227). -/
def hasTickets (t : Troupe) : Bool := t.threads.any fun h => h.2.ticket != 0

def controlBlock (s : State) (core pos : Nat) (t : Troupe) (images shadows : Nat) : List Byte :=
  let syms := troupeSymbols s core pos
  let track (k : Nat) : List Byte :=
    let b := savedBatches s core t k
    (List.range 8).flatMap fun i => leBytes 4 (match b[i]? with | some b => batchWord s core t b | none => 0)
  let d := queuedTrap s core pos
  (List.range 32).flatMap (fun n => leBytes 8 (kOf t n).toNat) ++ leBytes 8 t.mode.toNat ++ leBytes 8 t.inherited.toNat ++
    (List.range 6).flatMap track ++
    leBytes 8 (syms.length + 256 * (deferredOnes s core pos).length + 65536 * (savedSb t).length +
      2 ^ 24 * (t.sb.filter fun e => e.sent).length + 2 ^ 32 * images + 2 ^ 41 * (t.turnLane % 32) +
      (if hasTickets t then 2 ^ 47 else 0) + 2 ^ 48 * shadows) ++
    (match d with
     | some d => leBytes 8 (d.cause % 256 + 256 + d.subset.toNat * 2 ^ 32) ++ leBytes 8 d.addr.toNat ++ leBytes 8 d.lanes.toNat
     | none => zeroBytes 24) ++ zeroBytes 0x210

/-- Where a record has room for what R401 gives no place: behind the reassembly images, behind the symbol records, and in the fields that the
records of registers not pending leave unused. The lane operations of entries, deferred loads past the 32nd, shadow bytes and
the tickets of threads stand there one after another (DESIGN CHOICE, notes/assumptions/41.md). -/
def freeAreas (images syms : Nat) (settled : Nat → Bool) : List (Nat × Nat) :=
  ((0x30000 + 528 * images, 528 * (256 - images)) :: (0x19C00 + 528 * syms, 528 * (128 - syms)) ::
    ((List.range 64).filter settled).map fun n => (0xC00 + 1600 * n + 280, 1320)).filter fun e => e.2 != 0

/-- Bytes over areas, each filled before the next. -/
def spreadOver : List (Nat × Nat) → List Byte → List (Nat × List Byte)
  | [], _ => []
  | e :: r, bs => if bs.isEmpty then [] else (e.1, bs.take e.2) :: spreadOver r (bs.drop e.2)

/-- The part of areas that n bytes over them take. -/
def areasOf : List (Nat × Nat) → Nat → List (Nat × Nat)
  | [], _ => []
  | e :: r, n => if n = 0 then [] else (e.1, min e.2 n) :: areasOf r (n - e.2)

def areasSize (as : List (Nat × Nat)) : Nat := (as.map fun e => e.2).sum

/-- The images and shadow bytes of a troupe. -/
def troupeImages (s : State) (core pos : Nat) : List LineImage := (troupeSymbols s core pos).flatMap fun e => lineImages s e.1 e.2
def troupeShadows (s : State) (core pos : Nat) (t : Troupe) : List (Nat × Nat × Byte) :=
  (deferredOnes s core pos).flatMap fun e => (savedShadow s t e.2).map fun q => (e.1, q)

/-- A symbol's number in a troupe's record. -/
def symbolNum (s : State) (core pos id : Nat) : Nat := ((troupeSymbols s core pos).findIdx? fun e => e.1 == id).getD 0

/-- The records of a troupe's deferred loads. -/
def deferredRecords (s : State) (core pos : Nat) (t : Troupe) : List (List Byte) :=
  let num := symbolNum s core pos
  let before (y : Symbol) : Nat := ((savedSb t).filter fun e => decide (e.seq < y.seq)).length
  (deferredOnes s core pos).map fun e => deferredRecord num (num e.1) (before e.2) e.2

/-- What stands in a record's free areas. -/
def extraBytes (s : State) (core pos : Nat) (t : Troupe) : List Byte :=
  (savedSb t).flatMap (opsRecord s) ++ ((deferredRecords s core pos t).drop 32).flatMap id ++
    ((troupeShadows s core pos t).flatMap fun e => shadowRecord s (symbolNum s core pos e.1) e.2) ++
    (if hasTickets t then laneList.flatMap fun l => leBytes 4 (threadOf t l).ticket else [])

def troupeAreas (s : State) (core pos : Nat) (t : Troupe) : List (Nat × Nat) :=
  freeAreas (troupeImages s core pos).length (troupeSymbols s core pos).length fun n => (regOf t n).entry != .pending

/-- The troupe record as pieces at offsets (R401). -/
def troupeChunks (s : State) (core pos : Nat) (t : Troupe) (dump : Bool) : List (Nat × List Byte) :=
  let syms := troupeSymbols s core pos
  let num := symbolNum s core pos
  let held := ((groupAt s t.group).map fun g => g.posRecord).getD false
  let live := liveLanes t
  let bs := numberedBatches s core t
  let again := ((queuedTrap s core pos).map fun d => d.syms).getD []
  let sb := savedSb t
  let images := troupeImages s core pos
  let recs (at_ : Nat → Nat) (l : List (List Byte)) : List (Nat × List Byte) :=
    (List.range l.length).map fun i => (at_ i, l.getD i [])
  (0, controlBlock s core pos t images.length (troupeShadows s core pos t).length) :: recs (0x400 + 64 * ·) (laneList.map (laneRecord s core t held dump)) ++
    recs (0xC00 + 1600 * ·) ((List.range 64).map fun n => regRecord s core live num n (regOf t n)) ++
    recs (0x19C00 + 528 * ·) (syms.map fun e => symbolRecord s num (again.contains e.1) (symbolBatch bs e.1) e.2) ++
    recs (0x2A400 + 544 * ·) ((deferredRecords s core pos t).take 32) ++
    recs (0x2E800 + 96 * ·) (sb.map fun e => entryRecord s (troupeKey s t) (entryBatches bs e.id) e) ++
    recs (0x30000 + 528 * ·) (images.map (lineImageRecord num t)) ++
    spreadOver (troupeAreas s core pos t) (extraBytes s core pos t)

/-- Writes pieces at offsets from a base; false at the first that does not translate. -/
def writeChunks (s : State) (base : Word) (cs : List (Nat × List Byte)) : State × Bool :=
  cs.foldl (fun a c => if a.2 then unitStore a.1 (base + word c.1) c.2 else a) (s, true)

/-- Every spilled register can be read back for the record (R137). DESIGN CHOICE: where one cannot, the save is given up as R79 says of a
write that faults (notes/assumptions/41.md): R137 says only that the save reads them. -/
def spillsRead (s : State) (core : Nat) (t : Troupe) : Bool :=
  t.regs.all fun e => e.2.entry != .spilled || (match (readSpill s core e.2.home e.1).2 with | .inr _ => true | .inl _ => false)

/-- The parts of a record that have a bounded place fit in it. -/
def recordFits (s : State) (core pos : Nat) (t : Troupe) : Bool :=
  decide ((troupeSymbols s core pos).length ≤ 128) && decide ((savedSb t).length ≤ 64) && decide ((troupeImages s core pos).length ≤ 256) &&
    decide ((troupeShadows s core pos t).length < 65536) &&
    decide ((extraBytes s core pos t).length ≤ areasSize (troupeAreas s core pos t))

/-- Parked lanes are saved as runnable and execute their clause again (R398): the faulted loads it consumed are reissued first (R156). -/
def reissueParked (s : State) (core : Nat) (t : Troupe) : State :=
  t.parks.foldl (fun s k => reissue s core k.syms k.lanes) s

/-- Writes a troupe record (R401); false where a page fails. -/
def saveTroupe (s : State) (core pos : Nat) (t : Troupe) (base : Word) (dump : Bool) : State × Bool :=
  if !spillsRead s core t || !recordFits s core pos t then (s, false)
  else writeChunks s base (troupeChunks (if dump then s else reissueParked s core t) core pos t dump)

/-! ## The group's image (R399, R400) -/

/-- The lowest lane of the next subset of a troupe (R81). -/
def turnLaneOf (s : State) (g : Group) (tidx : Nat) : Nat :=
  (((tabGet? g.troupes tidx).bind (troupeAt s g.core)).bind fun t => (minuetSubsets t).head?.map fun q => q.2.1).getD 0

/-- What an entry does, as numbers: operation, rounding, saturation. -/
def tileOpCode (o : TileOp) : Nat × Nat × Bool :=
  match o with
  | .tmm bfp => (if bfp then 1 else 0, 0, false)
  | .tsa => (2, 0, false)
  | .accZero => (3, 0, false)
  | .accLd => (4, 0, false)
  | .accSt => (5, 0, false)
  | .accCvst r sat => (6, r, sat)
  | .opmLd => (7, 0, false)
  | .opmSt => (8, 0, false)

def tileOpOf (n rnd : Nat) (sat : Bool) : Option TileOp :=
  [.tmm false, .tmm true, .tsa, .accZero, .accLd, .accSt, .accCvst rnd sat, .opmLd, .opmSt][n]?

/-- Steps of segments already computed. -/
def pastSteps (e : TileEntry) : Nat :=
  e.past + ((e.segments.filter fun q => q.done).map fun q => ceilDiv (segmentK e q) 16).foldl (· + ·) 0

/-- What follows the entries (R292, R399): open segments; computed ones and entries that a job's tile record waits for (R449); scale
vectors. Each with its kind and its entry's number. -/
def segmentRecord (s : State) (kind i : Nat) (q : Segment) : List Byte :=
  leBytes 1 kind ++ leBytes 1 i ++ leBytes 1 (((groupAt s q.bGroup).map fun g => g.member).getD 0) ++ leBytes 5 0 ++ leBytes 8 q.desc.toNat ++
    (match q.job with
     | some (stamp, ticket, at_) => leBytes 8 stamp ++ leBytes 4 ticket ++ leBytes 4 1 ++ leBytes 8 at_
     | none => zeroBytes 24) ++ zeroBytes 24

/-- An entry that is one segment of its own: its record says all of it. -/
def ownSegment (e : TileEntry) : Bool :=
  !e.open_ && (match e.segments with | [q] => q.desc == e.desc && !q.done && q.job.isNone | _ => false)

/-- The open segments of an entry (R292). -/
def segmentRecords (s : State) (i : Nat) (e : TileEntry) : List (List Byte) :=
  if ownSegment e then [] else (openSegments e).map (segmentRecord s 0 i)

/-- What else an entry holds. -/
def extraRecords (s : State) (i : Nat) (e : TileEntry) : List (List Byte) :=
  ((e.segments.filter fun q => q.done && q.job.isSome).map (segmentRecord s 1 i)) ++
    (match e.job with
     | some (stamp, ticket) => [segmentRecord s 2 i { desc := 0, done := true, bGroup := e.group, job := some (stamp, ticket, 0) }]
     | none => []) ++
    (List.range (ceilDiv e.scales.length 48)).map fun n =>
      leBytes 1 3 ++ leBytes 1 i ++ leBytes 1 ((e.scales.drop (48 * n)).take 48).length ++ zeroBytes 5 ++ padTo 56 ((e.scales.drop (48 * n)).take 48)

/-- A saved entry (R292): R399 gives it 64 bytes and no layout (DESIGN CHOICE, notes/assumptions/41.md). -/
def tileRecord (s : State) (g : Group) (hi : Bool) (e : TileEntry) : List Byte :=
  let c := tileOpCode e.op
  let flag (b : Bool) (n : Nat) : Nat := if b then n else 0
  let issuer := if e.issuer = 64 then 64 else ((g.troupes.find? fun p => p.2 == e.issuer).map fun p => p.1).getD 0
  leBytes 1 (c.1 + flag c.2.2 16 + flag hi 32 + flag e.open_ 64 + flag e.notify.isSome 128) ++ leBytes 1 (c.2.1 + flag e.began.isSome 8 + flag e.badScales 16) ++
    leBytes 1 e.fmts.1 ++ leBytes 1 e.fmts.2 ++ leBytes 1 issuer ++ leBytes 1 e.reruns ++ leBytes 2 e.steps ++ leBytes 8 e.desc.toNat ++
    leBytes 8 ((e.mem.head?.map fun l => (imagePtr s l).toNat).getD 0) ++ leBytes 8 ((e.notify.map fun l => (imagePtr s l).toNat).getD 0) ++
    leBytes 6 e.enqueued ++ leBytes 6 e.eligible ++ leBytes 6 (e.began.getD 0) ++ leBytes 4 e.mode.toNat ++ leBytes 4 (pastSteps e) ++
    leBytes 1 (if ownSegment e then ((e.segments.head?.bind fun q => groupAt s q.bGroup).map fun g => g.member + 1).getD 0 else 0) ++
    leBytes 2 (extraRecords s 0 e).length ++ zeroBytes 2 ++ leBytes 1 1

/-- The entries of a group and their open segments, which the header counts (R400), and what follows them. -/
def countedRecords (s : State) (g : Group) (key : Nat) : List (List Byte) :=
  let es := groupEntries s key
  let hi (e : TileEntry) : Bool := (coreOf s g.core).tileHi.any fun q => q.id == e.id
  es.map (fun e => tileRecord s g (hi e) e) ++ (List.range es.length).flatMap fun i => segmentRecords s i (es.getD i default)

def tileRecords (s : State) (g : Group) (key : Nat) : List (List Byte) :=
  let es := groupEntries s key
  countedRecords s g key ++ (List.range es.length).flatMap fun i => extraRecords s i (es.getD i default)

def groupHeader (s : State) (g : Group) (gr : Grid) (key : Nat) : List Byte :=
  let es := groupEntries s key
  let turn := isMinuet gr && gr.turnGroup = g.index
  let seqWord : Nat := match es.findIdx? fun e => decide (e.steps > 0) with
    | some i => (es.map fun e => e.steps).getD i 0 % 65536 + i * 65536 + 2 ^ 31
    | none => 0
  leBytes 8 1 ++ leBytes 8 g.index ++
    leBytes 8 (g.ntroupes + g.nslots * 256 + g.nbands * 65536 + g.scratchSize * 2 ^ 32) ++
    leBytes 8 (if turn then gr.turnTroupe % 64 + turnLaneOf s g gr.turnTroupe % 32 * 2 ^ 32 else 0) ++
    leBytes 8 (if isMinuet gr then gr.clk else 0) ++ leBytes 8 seqWord ++ leBytes 8 g.captab.toNat ++
    leBytes 8 (if g.posRecord then 1 else 0) ++ (List.range 32).flatMap (fun h => leBytes 8 (slotTag g h).toNat) ++
    (List.range 16).flatMap (fun b => leBytes 8 (tabGet g.bandTags b 0)) ++ leBytes 8 (countedRecords s g key).length ++
    leBytes 8 ((if g.halted then 1 else 0) + (if gr.debug then 2 else 0)) ++ zeroBytes (0x1000 - 0x1D0)

/-- Where a troupe's record lies in an image. -/
def recordBase (base : Word) (tidx : Nat) : Word := base + word (0x1000 + tidx * 0x51000)

/-- The bitmap of a filling slot (R256), at the end of the place of the entries (DESIGN CHOICE, notes/assumptions/41.md). -/
def writtenAt (h : Nat) : Nat := 0xB44E00 + 16 * h
def writtenMask (g : Group) (h : Nat) : Nat := (distinct (tabGet g.slotWritten h [])).foldl (fun m i => m + 2 ^ i) 0

/-- The group's own parts of the image. -/
def groupChunks (s : State) (g : Group) (gr : Grid) (key : Nat) : List (Nat × List Byte) :=
  (0, groupHeader s g gr key) :: (0xA21000, (List.range g.scratchSize).map (cellGet g.scratch)) ::
    (((List.range g.nslots).filter fun h => slotState (slotTag g h) != 0).map fun h => (0xA81000 + h * 0x4000, tileBytes g h)) ++
    ((List.range g.nbands).map fun b => (0xB01000 + b * 0x4000, bandBytes g b false)) ++
    [(0xB41000, (tileRecords s g key).flatMap id)] ++
    (((List.range g.nslots).filter fun h => slotState (slotTag g h) == 2).map fun h => (writtenAt h, leBytes 16 (writtenMask g h)))

/-- Writes a group's image (R399); false where a write to the save area faults (R79). -/
def saveGroup (s : State) (key : Nat) (base : Word) (dump : Bool) : State × Bool :=
  match groupAt s key, gridOfGroup s key with
  | some g, some gr =>
    let r := g.troupes.foldl (fun (a : State × Bool) e => if a.2 then
        (match troupeAt a.1 g.core e.2 with
         | some t => saveTroupe a.1 g.core e.2 t (recordBase base e.1) dump
         | none => a) else a) (s, true)
    if r.2 && decide ((tileRecords s g key).length ≤ 248) then writeChunks r.1 base (groupChunks s g gr key) else (r.1, false)
  | _, _ => (s, true)

/-- The image of a group in its grid's save area (R79, R399). -/
def imageBase (g : Grid) (index : Nat) : Word := word (saveArea g + index * 0x5000000)

/-- Entries of a group that are running. -/
def runningEntries (s : State) (key : Nat) : List TileEntry := (groupEntries s key).filter fun e => e.started.isSome

/-- The steps of an array entry's segment done by now, in whole completed groups (R292). -/
def stepsDone (s : State) (e : TileEntry) : Nat :=
  let n := kGroup e.fmts.1
  let per := if n = 1 then 1 else n / 16
  let load := if n = 1 then 32 else 16
  let ran := if s.cycle < e.started.getD s.cycle + load then 0 else (s.cycle - e.started.getD s.cycle - load) / stepCycles e.fmts.1 + 1
  let total := ceilDiv (dKB (nowSegment e).desc) 16
  let at_ := min (e.steps + ran) total
  max e.steps (if at_ = total then total else at_ / per * per)

/-- A running entry comes to its stopping point: an array entry's completed groups are verified and written back, other entries finish
(R292); poison that it has consumed kills the gang (R454). -/
def stopEntry (s : State) (core : Nat) (e : TileEntry) : State :=
  match e.op with
  | .tmm false =>
    if readsPoison s e then poisonKill s e.group
    else
      let steps := stepsDone s e
      let s := applyFloat s e (nowSegment e) (16 * e.steps) (min (dKB (nowSegment e).desc) (16 * steps))
      modEntry s core e.id fun e => { e with steps, started := none }
  | .tmm true => modEntry s core e.id fun e => { e with started := none }
  | _ => finishEntry s core e

/-- The tile work of a group stops (R292). -/
def stopTiles (s : State) (key : Nat) : State :=
  match groupAt s key with
  | none => s
  | some g => (runningEntries s key).foldl (fun s e => stopEntry s g.core e) s

/-! ## Restoring (R404) -/

/-- A little-endian field of some bytes. -/
def fieldAt (bs : List Byte) (at_ n : Nat) : Nat := leNat ((bs.drop at_).take n)

def zerosAt (bs : List Byte) (at_ n : Nat) : Bool := ((bs.drop at_).take n).all fun b => b == 0

/-- A thread from a lane record; `none` is a reserved code or field. -/
def threadFrom (s : State) (w : Who) (bs : List Byte) : Option (State × Thread) :=
  let code := fieldAt bs 16 4
  let h := { exitedThread with pc := word (fieldAt bs 0 8), meet := BitVec.ofNat 32 (fieldAt bs 8 4), join := BitVec.ofNat 32 (fieldAt bs 12 4),
                               preds := BitVec.ofNat 7 (fieldAt bs 48 1), orig := fieldAt bs 50 2 }
  let more := zerosAt bs 36 12
  if !zerosAt bs 52 12 || !zerosAt bs 49 1 || fieldAt bs 48 1 ≥ 128 then none
  else if code = 0 && more then some (s, { h with st := .runnable })
  else if code = 1 && more then some (s, { h with st := .held })
  else if code = 2 && more && fieldAt bs 24 4 < 8 then
    some (s, { h with st := .waiting (fieldAt bs 24 4) (BitVec.ofNat 32 (fieldAt bs 28 4)) (BitVec.ofNat 32 (fieldAt bs 32 4)) })
  else if code = 6 && more then some (s, { h with st := .exited, keep := fieldAt bs 24 1 == 1 })
  else if code = 7 then
    let q := findAgain s w (word (fieldAt bs 40 8)) 16 .read
    some (q.1, { h with st := .watching q.2 (fieldAt bs 36 4) (scopeOf (fieldAt bs 24 1)) })
  else if code = 8 && bits (fieldAt bs 40 8) 63 25 == 0 && bits (fieldAt bs 40 8) 15 15 == 0 && fieldAt bs 36 4 < 2 ^ 13 then
    let head := fieldAt bs 24 8
    let what := fieldAt bs 40 8
    some (s, { h with st := .arrived (bits what 7 0) (fieldAt bs 36 4) (bits what 14 8) (bits what 24 16) head (head + fieldAt bs 32 4) })
  else none

/-- The threads of a record. -/
def threadsFrom (s : State) (w : Who) (bs : List Byte) : Option (State × Tab Thread) :=
  laneList.foldl (fun a l => match a with
    | none => none
    | some (s, ts) => match threadFrom s w ((bs.drop (64 * l)).take 64) with
      | none => none
      | some (s, h) => some (s, ts ++ [(l, h)])) (some (s, []))

/-- The lanes of an image field. -/
def fieldLanes (bs : List Byte) (at_ : Nat) (live : LaneMask) : Option Lanes :=
  let img := (bs.drop at_).take 264
  if imageOk (img.headD 255) then some (mkLanes fun l => if live.getLsbD l then imageLane img l else 0) else none

/-- Every field holds an image, and its lanes. -/
def fieldsLanes (bs : List Byte) (live : LaneMask) (n : Nat) : Option (List Lanes) :=
  (List.range n).foldl (fun a i => a.bind fun l => (fieldLanes bs (16 + 264 * i) live).map fun v => l ++ [v]) (some [])

/-- The operations of a chain from their words, each taking its known operands from the fields in order. -/
def chainFrom : List Nat → List Lanes → Option (List ChainOp)
  | [], _ => some []
  | w :: r, f :: fs =>
    match chainKindOf (w % 8) with
    | none => none
    | some k =>
      let o : ChainOp := { kind := k, known := f, addend := if k = .fma then fs.headD [] else [], negP := w.testBit 3, negK := w.testBit 4,
                           negC := w.testBit 5, mode := w / 128, pIsA := w.testBit 6 }
      (chainFrom r (if k = .fma then fs.drop 1 else fs)).map (o :: ·)
  | _ :: _, [] => none

/-- A register from its record (R402): its entries are encoded afresh (R119, R137). -/
def regFrom (live : LaneMask) (first nsyms : Nat) (bs : List Byte) : Option Reg :=
  let kind := fieldAt bs 0 1
  let sym := first + fieldAt bs 1 1
  let whole (r : Reg) : Reg := if pendMask r = 0 then encodeReg live r.vals else encodeForm live r
  if kind = 0 then some emptyReg
  else if kind = 1 then (fieldLanes bs 16 live).map (encodeReg live)
  else if fieldAt bs 1 1 ≥ nsyms then none
  else if kind = 2 then
    match fieldLanes bs 16 live, fieldLanes bs 280 live with
    | some sc, some off => some (whole { emptyReg with entry := .pending, sym, scale := sc, vals := off })
    | _, _ => none
  else if kind = 3 && 1 ≤ fieldAt bs 2 1 && fieldAt bs 2 1 ≤ 3 then
    let ws := (List.range (fieldAt bs 2 1)).map fun i => fieldAt bs (3 + 2 * i) 2
    match fieldsLanes bs live (ws.map fun w => if w % 8 = 4 then 2 else 1).sum with
    | none => none
    | some fs => (chainFrom ws fs).map fun chain =>
        whole { emptyReg with entry := .pending, sym, chain, vals := fs.headD [], pend := BitVec.ofNat 32 (fieldAt bs 9 4) &&& live }
  else none

/-- Granules of the images of a record's registers: a restore reserves them (R137). -/
def recordNeed (regs : List Byte) : Nat :=
  ((List.range 64).map fun n =>
    let field (i : Nat) : Nat := fmtGranules (fieldAt regs (1600 * n + 16 + 264 * i) 1)
    match fieldAt regs (1600 * n) 1 with
    | 0 => 0
    | 1 => field 0
    | 2 => max 4 (field 0 + field 1)
    | _ =>
      let words := (List.range (min 3 (fieldAt regs (1600 * n + 2) 1))).map fun i => fieldAt regs (1600 * n + 3 + 2 * i) 2
      max 4 ((List.range (words.map fun w => if w % 8 = 4 then 2 else 1).sum).map field).sum).sum

/-- The registers of a record. -/
def regsFrom (live : LaneMask) (first nsyms : Nat) (bs : List Byte) : Option (Tab Reg) :=
  (List.range 64).foldl (fun a n => a.bind fun rs =>
    (regFrom live first nsyms ((bs.drop (1600 * n)).take 1600)).map fun r => rs ++ [(n, r)]) (some [])

/-- The number of program orders between two buffered entries of a restored troupe: deferred loads stand between them. -/
def seqStep : Nat := 129

/-- What a symbol stands for, from the spare word of its record. -/
def kindFrom (first w : Nat) : LoadKind :=
  let ty := bits w 7 3
  let o := first + bits w 14 8
  match w % 8 with
  | 0 => .element ty
  | 1 => .lower ty o
  | 2 => .upper ty o
  | 3 => .image
  | _ => .atomic ty

/-- A symbol from its record (R402); its place in program order is among those before the first buffered entry, unless a deferred load's
record says another (R158). -/
def symbolFrom (pos first base i : Nat) (bs : List Byte) : Symbol :=
  let mask (at_ : Nat) : LaneMask := BitVec.ofNat 32 (fieldAt bs at_ 4)
  let w := fieldAt bs 12 4
  let addr (l : Nat) : Word := word (fieldAt bs (16 + 16 * l) 8)
  let faulted := mask 8
  { pos, kind := kindFrom first w, lanes := mask 0 ||| mask 4 ||| mask 8, arrived := mask 4, faulted,
    causes := (maskLanes faulted).map fun l => (l, fieldAt bs (24 + 16 * l) 8), addrs := (maskLanes faulted).map fun l => (l, addr l),
    locs := [], replies := [], dep := none, depScale := [], depOff := [], seq := base + i, acq := scopeOf (bits w 17 15),
    ptrs := if w % 8 = 3 then [(0, addr ((lowLane (mask 0 ||| mask 8)).getD 0))] else (maskLanes (mask 0 ||| mask 8)).map fun l => (l, addr l), key := 0 }

/-- A deferred load's address form and place in program order, from its record (R158). -/
def deferredFrom (first base : Nat) (bs : List Byte) (y : Symbol) : Symbol :=
  let offset := word (fieldAt bs 2 8)
  { y with dep := some (first + fieldAt bs 0 1), seq := base + seqStep * fieldAt bs 15 1 + fieldAt bs 14 1, ptrs := [], offset,
           depScale := (mkLanes fun l => word (fieldAt bs (32 + 16 * l) 8)),
           depOff := mkLanes fun l => word (fieldAt bs (40 + 16 * l) 8) + offset }

/-- A buffered entry from its record, its pointers translated for the troupe's own loads; it is translated again as it drains (R404). -/
def entryFrom (s : State) (w : Who) (id : Nat) (bs ops : List Byte) : Option (State × SBEntry) :=
  match entryKindOf (fieldAt bs 82 1) (fieldAt bs 83 1) with
  | none => none
  | some kind =>
    let q := findAgain s w (word (fieldAt bs 0 8)) 1 .read
    let r := (List.range (fieldAt bs 85 1)).foldl (fun (a : State × List LaneOp) i =>
      let l := findAgain a.1 w (word (fieldAt ops (24 * i) 8)) 1 .read
      (l.1, a.2 ++ [{ lane := i, loc := l.2, val := word (fieldAt ops (24 * i + 8) 8), val2 := word (fieldAt ops (24 * i + 16) 8) }])) (q.1, [])
    let mask := fieldAt bs 74 8
    some (r.1, { id, seq := id, kind, loc := q.2, ops := r.2, release := scopeOf (fieldAt bs 84 1), committed := s.cycle, sent := false,
                 granted := false, again := true, batches := fieldAt bs 86 6,
                 bytes := ((List.range 64).filter mask.testBit).map fun i => (i, bs.getD (10 + i) 0, id) })

/-- The parts of a record that its counts name: symbols, deferred loads, entries, their operations, images, shadow bytes, tickets. -/
structure RecordParts where
  symbols : List (List Byte)
  deferred : List (List Byte)
  entries : List (List Byte × List Byte)
  images : List (List Byte)
  shadows : List (List Byte)
  tickets : List Byte

/-- Reads pieces of one size; `none` where one does not read. -/
def readPieces (s : State) (base : Word) (size : Nat) (ats : List Nat) : State × Option (List (List Byte)) :=
  ats.foldl (fun a at_ => match a.2 with
    | none => a
    | some l => match unitBytes a.1 (base + word at_) size with
      | (s, none) => (s, none)
      | (s, some bs) => (s, some (l ++ [bs]))) (s, some [])

/-- Reads areas one after another. -/
def readAreas (s : State) (base : Word) (as : List (Nat × Nat)) : State × Option (List Byte) :=
  as.foldl (fun a e => match a.2 with
    | none => a
    | some l => match unitBytes a.1 (base + word e.1) e.2 with
      | (s, none) => (s, none)
      | (s, some bs) => (s, some (l ++ bs))) (s, some [])

/-- Cuts bytes into pieces of some lengths. -/
def cutBytes : List Nat → List Byte → List (List Byte)
  | [], _ => []
  | n :: r, bs => bs.take n :: cutBytes r (bs.drop n)

/-- The parts that the counts of a record name; its free areas follow from its register records. -/
def readParts (s : State) (base : Word) (counts : Nat) (regs : List Byte) : State × Option RecordParts :=
  let ats (n : Nat) (f : Nat → Nat) : List Nat := (List.range n).map f
  let deferred := bits counts 15 8
  let y := readPieces s base 528 (ats (bits counts 7 0) (0x19C00 + 528 * ·))
  let d := readPieces y.1 base 544 (ats (min deferred 32) (0x2A400 + 544 * ·))
  let e := readPieces d.1 base 96 (ats (bits counts 23 16) (0x2E800 + 96 * ·))
  let m := readPieces e.1 base 528 (ats (bits counts 40 32) (0x30000 + 528 * ·))
  let sizes := ((e.2.getD []).map fun r => 24 * fieldAt r 85 1) ++ List.replicate (deferred - 32) 544 ++ List.replicate (bits counts 63 48) 16 ++
    (if counts.testBit 47 then [128] else [])
  let areas := freeAreas (bits counts 40 32) (bits counts 7 0) fun n => fieldAt regs (1600 * n) 1 ≤ 1
  let h := if sizes.sum ≤ areasSize areas then readAreas m.1 base (areasOf areas sizes.sum) else (m.1, none)
  (h.1, match y.2, d.2, e.2, m.2, h.2 with
    | some y, some d, some e, some m, some h =>
      let more := cutBytes sizes h
      some { symbols := y, deferred := d ++ (more.drop e.length).take (deferred - 32), entries := e.zip (more.take e.length), images := m,
             shadows := (more.drop (e.length + (deferred - 32))).take (bits counts 63 48),
             tickets := if counts.testBit 47 then more.getLastD [] else [] }
    | _, _, _, _, _ => none)

/-- The entries of a record in their order. -/
def entriesFrom (s : State) (w : Who) (base : Nat) (es : List (List Byte × List Byte)) : Option (State × List SBEntry) :=
  (List.range es.length).foldl (fun a i => a.bind fun q =>
    (entryFrom q.1 w (base + seqStep * (i + 1)) (es.getD i ([], [])).1 (es.getD i ([], [])).2).map fun r => (r.1, q.2 ++ [r.2])) (some (s, []))

/-- The location key of a shadow byte. -/
def shadowKey (g : Option Group) (bs : List Byte) : Nat :=
  let a := fieldAt bs 8 8
  match fieldAt bs 2 1 with
  | 0 => a
  | 1 => 2 ^ 130 + a
  | 2 => 2 ^ 131 + a
  | _ => 2 ^ 132 + ((g.bind fun g => tabGet? g.gang (fieldAt bs 3 1)).getD 0) * 2 ^ 20 + a

/-- A reassembly image is delivered to its symbol (R404): each pending lane that reads from its line has its answer. -/
def giveImage (bs : List Byte) (y : Symbol) : Symbol :=
  let line := fieldAt bs 516 8 / 512
  let part : Option (Nat × Nat) := match y.kind with
    | .element ty => some (ty, 0)
    | .lower ty _ => some (ty, 0)
    | .upper ty _ => some (ty, typeWidth ty / 8)
    | _ => none
  match part with
  | none => y
  | some (ty, off) =>
    let mine := (maskLanes (openLanes y)).filter fun l => (tabGet y.ptrs l 0).toNat / 512 == line
    { y with replies := mine.foldl (fun r l =>
        tabPut r l (extElem ty (fieldAt bs ((tabGet y.ptrs l 0).toNat % 512 + off) (typeWidth ty / 8)))) y.replies }

/-- The symbols of a record under new numbers. -/
def symbolsFrom (pos first base : Nat) (g : Option Group) (p : RecordParts) : Tab Symbol :=
  let ys : Tab Symbol := (List.range p.symbols.length).map fun i => (first + i, symbolFrom pos first base i (p.symbols.getD i []))
  let ys := p.deferred.foldl (fun t bs => let n := first + fieldAt bs 14 1
    match tabGet? t n with | some y => tabPut t n (deferredFrom first base bs y) | none => t) ys
  let ys := p.images.foldl (fun t bs => let n := first + fieldAt bs 513 1
    match tabGet? t n with | some y => tabPut t n (giveImage bs y) | none => t) ys
  p.shadows.foldl (fun t bs => let n := first + fieldAt bs 0 1
    match tabGet? t n with
    | some y => tabPut t n { y with shadow := tabPut y.shadow (shadowKey g bs) (bs.getD 1 0) }
    | none => t) ys

/-- The batches of a track: their registers, and the symbols and entries that count in them; a sent entry that stayed with the arbiter
still counts (R366). -/
def tracksFrom (first : Nat) (p : RecordParts) (entries : List SBEntry) (bs : List Byte) : Tab (List Batch) :=
  (List.range 6).map fun k => (k, (List.range 8).filterMap fun i =>
    let w := fieldAt bs (0x110 + 32 * k + 4 * i) 4
    if !w.testBit 31 then none
    else some {
      symbols := (List.range p.symbols.length).filterMap fun n =>
        let v := fieldAt (p.symbols.getD n []) 12 4
        if v.testBit 19 && bits v 25 20 == 8 * k + i then some (first + n) else none
      entries := (entries.filter fun e => e.batches.testBit (8 * k + i)).map fun e => e.id
      regs := [bits w 28 22, bits w 21 15, bits w 14 8].filter fun c => c != 120 })

/-- The delivery of a record (R401): the lanes resume where their records say; loads marked so are reissued at `tret` (R156). -/
def deliveryFrom (s : State) (pos first : Nat) (t : Troupe) (p : RecordParts) (bs : List Byte) : Option Delivery :=
  let w := fieldAt bs 0x1D8 8
  if !w.testBit 8 then none
  else
    let again := (List.range p.symbols.length).filterMap fun n =>
      if (fieldAt (p.symbols.getD n []) 12 4).testBit 18 then some (first + n) else none
    some (deliveryOf s .troupe (w % 256) (word (fieldAt bs 0x1E0 8)) (BitVec.ofNat 32 (fieldAt bs 0x1E8 8)) (BitVec.ofNat 32 (w / 2 ^ 32))
      (mkLanes fun l => (threadOf t l).pc) pos t again)

/-- The reserved fields of a control block (R401, R167, R131). -/
def controlFits (bs : List Byte) : Bool :=
  let counts := fieldAt bs 0x1D0 8
  zerosAt bs 0x1F0 0x210 && bits (fieldAt bs 0x108 8) 63 33 == 0 && bits (fieldAt bs 0x100 8) 63 13 == 0 && bits (fieldAt bs 0x100 8) 7 6 == 0 &&
    bits counts 46 46 == 0 && bits counts 7 0 ≤ 128 && bits counts 15 8 ≤ 128 && bits counts 23 16 ≤ 64 && bits counts 40 32 ≤ 256 &&
    bits (fieldAt bs 0x1D8 8) 31 9 == 0 && bits (fieldAt bs 0x1E8 8) 63 32 == 0 &&
    (List.range 48).all fun i => bits (fieldAt bs (0x110 + 4 * i) 4) 30 29 == 0

/-- A troupe's sent entries stay with the arbiter, with the batches that count them (R366). -/
def leaveSent (s : State) (core slot : Nat) (t : Troupe) : State :=
  let bs := numberedBatches s core t
  let mark (e : SBEntry) : SBEntry := { e with batches := entryBatches bs e.id }
  let old := (tabGet s.remote slot []).map mark
  let sent := (t.sb.filter fun e => e.sent).map mark
  if (old ++ sent).isEmpty then s else { s with remote := tabPut s.remote slot (old ++ sent) }

/-- Rebuilds a troupe from its record, on a position (R404, R137, R158): `none` where the record does not read or is malformed. The core's
queued invalidations are applied, so that the troupe's loads there find no line older than what it has loaded or stored (R364). What the
record has no place for begins as in a new troupe: in the order of R92 the troupe and its threads have not started a clause yet
(DESIGN CHOICE, notes/assumptions/41.md). -/
def restoreTroupe (s : State) (core pos : Nat) (t0 : Troupe) (base : Word) : Option State :=
  let slot := t0.group * 32 + t0.tidx
  let s := leaveSent s core slot t0
  match unitBytes s base 0xC00 with
  | (_, none) => none
  | (s, some bs) => if !controlFits bs then none
    else match unitBytes s (base + 0xC00) 0x19000 with
    | (_, none) => none
    | (s, some rs) => match readParts s base (fieldAt bs 0x1D0 8) rs with
      | (_, none) => none
      | (s, some p) =>
        let first := (coreOf s core).nextSym
        let w : Who := ⟨core, false, troupeKey s t0, t0.group⟩
        let away := tabGet s.remote slot []
        let from_ := away.foldl (fun m e => max m (newest e + 1)) t0.seq
        match threadsFrom s w (bs.drop 0x400) with
        | none => none
        | some (s, threads) =>
          let live := maskOf fun l => (tabGet threads l exitedThread).st != .exited
          let threads := threads.map fun h => (h.1, { h.2 with ticket := fieldAt p.tickets (4 * h.1) 4 })
          match regsFrom live first p.symbols.length rs, entriesFrom s w from_ p.entries with
          | some regs, some (s, sb) =>
            let syms := symbolsFrom pos first from_ (groupAt s t0.group) p
            let t : Troupe := { t0 with
              threads, regs, kregs := ((List.range 32).map fun n => (n, word (fieldAt bs (8 * n) 8))),
              mode := modeWrite (word (fieldAt bs 0x100 8)), inherited := word (fieldAt bs 0x108 8),
              tracks := tracksFrom first p (away ++ sb) bs, sb, parks := [], seq := from_ + seqStep * (sb.length + 2),
              acquires := (syms.filter fun e => e.2.acq.isSome && openLanes e.2 != 0).map fun e => e.2.seq,
              turnLane := bits (fieldAt bs 0x1D0 8) 46 41, lastStart := 0, blocked := [], clause := none }
            let d := deliveryFrom s pos first t p bs
            let s := modCore s core fun k =>
              { k with symbols := (k.symbols.filter fun e => e.2.pos != pos) ++ syms, nextSym := first + syms.length,
                       spills := k.spills.filter (fun e => e.1 != pos), deliveries := k.deliveries ++ d.toList }
            let s := applyInvals s core fun _ => true
            some (issueKnown (deliverImages (setTroupe s core pos { t with suspended := t0.suspended || d.isSome }) core pos) core pos)
          | _, _ => none

/-- Granules that the restore of a record reserves (R137). -/
def restoreNeed (s : State) (base : Word) : Nat :=
  match unitBytes s (base + 0xC00) 0x19000 with
  | (_, some regs) => recordNeed regs
  | (_, none) => 0

/-- The reserved fields of a header's slot tags (R253), band tags (R261) and `CAPTAB` (R229) are zero. -/
def tagsFit (bs : List Byte) : Bool :=
  bits (fieldAt bs 0x30 8) 12 1 == 0 &&
    ((List.range 32).all fun h => let t := fieldAt bs (0x40 + 8 * h) 8; bits t 63 43 == 0 && bits t 7 3 == 0) &&
    (List.range 16).all fun b => bits (fieldAt bs (0x140 + 8 * b) 8) 63 8 == 0

/-- A group header's reserved fields, and its shape, which is the group's own (R400). -/
def headerFits (g : Group) (bs : List Byte) : Bool :=
  fieldAt bs 0 8 == 1 && fieldAt bs 8 8 == g.index &&
    fieldAt bs 0x10 8 == g.ntroupes + g.nslots * 256 + g.nbands * 65536 + g.scratchSize * 2 ^ 32 &&
    bits (fieldAt bs 0x18 8) 63 37 == 0 && bits (fieldAt bs 0x18 8) 31 6 == 0 && bits (fieldAt bs 0x28 8) 63 32 == 0 &&
    bits (fieldAt bs 0x28 8) 30 24 == 0 && fieldAt bs 0x38 8 ≤ 1 && fieldAt bs 0x1C0 8 ≤ 248 && fieldAt bs 0x1C8 8 ≤ 3 && tagsFit bs &&
    zerosAt bs 0x1D0 (0x1000 - 0x1D0)

/-- Claimed slots of a header. -/
def claimedSlots (g : Group) (bs : List Byte) : List Nat :=
  (List.range g.nslots).filter fun h => bits (fieldAt bs (0x40 + 8 * h) 8) 2 0 != 0

/-- Reads the slots of an image. -/
def slotsFrom (s : State) (g : Group) (base : Word) (bs : List Byte) : Option (State × Tab (Tab Byte)) :=
  (claimedSlots g bs).foldl (fun a h => a.bind fun q =>
    match unitBytes q.1 (base + word (0xA81000 + h * 0x4000)) (tileSize (word (fieldAt bs (0x40 + 8 * h) 8))) with
    | (_, none) => none
    | (s, some d) => some (s, q.2 ++ [(h, (List.range d.length).map fun i => (i, d.getD i 0))])) (some (s, []))

/-- Reads the bands of an image. -/
def bandsFrom (s : State) (g : Group) (base : Word) : Option (State × Group) :=
  (List.range g.nbands).foldl (fun a b => a.bind fun q =>
    match unitBytes q.1 (base + word (0xB01000 + b * 0x4000)) 16384 with
    | (_, none) => none
    | (s, some d) => some (s, bandFrom q.2 b false d)) (some (s, g))

/-- The bitmaps of the filling slots of an image (R256); a full slot has every sub-block. -/
def writtenFrom (s : State) (g : Group) (base : Word) (bs : List Byte) : State × Tab (List Nat) :=
  (claimedSlots g bs).foldl (fun a h =>
    let t := word (fieldAt bs (0x40 + 8 * h) 8)
    if slotState t = 2 then
      match unitBytes a.1 (base + word (writtenAt h)) 16 with
      | (s, some m) => (s, a.2 ++ [(h, (List.range 128).filter (leNat m).testBit)])
      | (s, none) => (s, a.2)
    else if slotState t = 1 then a
    else (a.1, a.2 ++ [(h, List.range (tileSize t / 128))])) (s, [])

/-- Bytes of memory that an entry names (R278), from its operation, type and slot. -/
def entryLen (g : Group) (op : TileOp) (fmts : Nat × Nat) (desc : Word) : Nat :=
  let wide := fmts.1 == 12
  match op with
  | .accLd => if wide then 32768 else 16384
  | .accSt => if wide then 32768 else 16384
  | .accCvst _ _ => cvstSize fmts.2
  | .opmLd => tileSize (slotTag g (bits desc.toNat 4 0))
  | .opmSt => tileSize (slotTag g (bits desc.toNat 4 0))
  | _ => 0

/-- The range that an entry of an image names, piece by piece. -/
def rangeAgain (s : State) (w : Who) (ptr : Word) (len : Nat) (kind : Access) : State × List Loc :=
  (List.range (ceilDiv len 64)).foldl (fun a i =>
    let r := findAgain a.1 w (ptr + word (64 * i)) (min 64 (len - 64 * i)) kind
    (r.1, a.2 ++ [r.2])) (s, [])

/-- A segment from its record: kind, entry, and the segment. -/
def segmentFrom (g : Group) (bs : List Byte) : Nat × Nat × Segment :=
  let kind := fieldAt bs 0 1
  (kind, fieldAt bs 1 1,
    { desc := word (fieldAt bs 8 8), done := kind != 0, bGroup := tabGet g.gang (fieldAt bs 2 1) (groupKey g.ticket g.index),
      job := if fieldAt bs 28 4 = 1 then some (fieldAt bs 16 8, fieldAt bs 24 4, fieldAt bs 32 8) else none })

/-- An entry from its record and those that follow; `none` is a malformed one. -/
def tileFrom (s : State) (w : Who) (g : Group) (i seqWord : Nat) (bs : List Byte) (more : List (List Byte)) : Option (State × Bool × TileEntry) :=
  let c := fieldAt bs 0 1
  let r := fieldAt bs 1 1
  let fmts := (fieldAt bs 2 1, fieldAt bs 3 1)
  let desc := word (fieldAt bs 8 8)
  match tileOpOf (c % 16) (r % 8) (c.testBit 4) with
  | none => none
  | some op =>
    let mine := more.filter fun m => fieldAt m 1 1 == i
    let segs := (mine.filter fun m => fieldAt m 0 1 < 3).map (segmentFrom g)
    let own : List Segment := if fieldAt bs 58 1 = 0 then []
      else [{ desc, done := false, bGroup := tabGet g.gang (fieldAt bs 58 1 - 1) (groupKey g.ticket g.index) }]
    let mem := rangeAgain s w (word (fieldAt bs 16 8)) (entryLen g op fmts desc) (rangeAccess op)
    let note := findAgain mem.1 w (word (fieldAt bs 24 8)) 16 .sync
    let issuer := fieldAt bs 4 1
    some (note.1, c.testBit 5,
      { id := 0, op, group := groupKey g.ticket g.index, issuer := if issuer = 64 then 64 else tabGet g.troupes issuer 64, desc, mem := mem.2,
        notify := if c.testBit 7 then some note.2 else none, open_ := c.testBit 6, fmts,
        segments := own ++ (segs.filter fun q => q.1 == 1).map (fun q => q.2.2) ++ (segs.filter fun q => q.1 == 0).map fun q => q.2.2,
        mode := word (fieldAt bs 50 4),
        scales := (mine.filter fun m => fieldAt m 0 1 == 3).flatMap fun m => (m.drop 8).take (fieldAt m 2 1),
        enqueued := fieldAt bs 32 6, eligible := fieldAt bs 38 6, started := none, reruns := fieldAt bs 5 1,
        job := (segs.find? fun q => q.1 == 2).bind fun q => q.2.2.job.map fun j => (j.1, j.2.1),
        steps := if seqWord.testBit 31 && bits seqWord 23 16 == i then bits seqWord 15 0 else fieldAt bs 6 2,
        began := if r.testBit 3 then some (fieldAt bs 44 6) else none, past := fieldAt bs 54 4,
        badScales := r.testBit 4 })

/-- The entries of an image, each with whether it stands in the high queue (R292, R400). -/
def tilesFrom (s : State) (w : Who) (g : Group) (bs : List Byte) (rs : List (List Byte)) : Option (State × List (Bool × TileEntry)) :=
  let n := (rs.takeWhile fun r => fieldAt r 63 1 == 1).length
  let es := rs.take n
  (List.range n).foldl (fun a i => a.bind fun q =>
    (tileFrom q.1 w g i (fieldAt bs 0x28 8) (es.getD i []) (rs.drop n)).map fun r => (r.1, q.2 ++ [r.2])) (some (s, []))

/-- The records that a header counts, and those that its entries say follow. -/
def tileBlock (s : State) (base : Word) (n : Nat) : State × Option (List (List Byte)) :=
  let read (n : Nat) : State × Option (List (List Byte)) := readPieces s (base + 0xB41000) 64 ((List.range n).map (64 * ·))
  match (read n).2 with
  | none => (s, none)
  | some rs =>
    let more := ((rs.takeWhile fun r => fieldAt r 63 1 == 1).map fun r => fieldAt r 59 2).sum
    if n + more ≤ 248 then read (n + more) else (s, none)

/-- The entries return to their queues in saved order (R292). -/
def requeueEntries (s : State) (g : Group) (es : List (Bool × TileEntry)) : State :=
  es.foldl (fun s e => modCore s g.core fun k =>
    let n := { e.2 with id := k.nextEntry }
    if e.1 then { k with tileHi := k.tileHi ++ [n], nextEntry := k.nextEntry + 1 }
    else { k with tileLo := k.tileLo ++ [n], nextEntry := k.nextEntry + 1 }) s

/-- A Minuet rotation continues where it stood (R81): the count, and, where the turn is this group's, its troupe. -/
def restoreTurn (s : State) (g : Group) (bs : List Byte) : State :=
  modGrid s g.ticket fun gr => if isMinuet gr then
    { gr with clk := fieldAt bs 0x20 8,
              turnTroupe := if gr.turnGroup = g.index then bits (fieldAt bs 0x18 8) 5 0 else gr.turnTroupe } else gr

/-- Rebuilds the troupes of a group from their records. -/
def restoreTroupes (s : State) (g : Group) (base : Word) (halted : Bool) : Option State :=
  g.troupes.foldl (fun a e => a.bind fun s => match troupeAt s g.core e.2 with
    | none => none
    | some t => (restoreTroupe s g.core e.2 t (recordBase base e.1)).map fun s =>
        modTroupe s g.core e.2 fun t =>
          let t := { t with halted }
          modThreads t (-1) fun l h =>
            { h with wid := word (g.index * (32 * g.ntroupes) + (if g.posRecord then h.orig else 32 * e.1 + l)) }) (some s)

/-- Rebuilds an admitted group from its image (R404, R236, R292); `none` where it is malformed or does not read. Its threads that had arrived
at a regroup count as arrived (R401). -/
def restoreGroup (s : State) (key : Nat) (base : Word) : Option State :=
  match groupAt s key with
  | none => none
  | some g => match unitBytes s base 0x1000 with
    | (_, none) => none
    | (s, some bs) =>
      if !headerFits g bs then none
      else match unitBytes s (base + 0xA21000) g.scratchSize with
        | (_, none) => none
        | (s, some sp) => match slotsFrom s g base bs with
          | none => none
          | some (s, slotBytes) => match bandsFrom s g base, tileBlock s base (fieldAt bs 0x1C0 8) with
            | some (s, g), (_, some rs) =>
              let written := writtenFrom s g base bs
              let halted := (fieldAt bs 0x1C8 8).testBit 0
              let g := { g with
                scratch := cellsPut [] 0 sp, slotBytes, slotWritten := written.2,
                slots := ((List.range 32).map fun h => (h, word (fieldAt bs (0x40 + 8 * h) 8))),
                bandTags := ((List.range 16).map fun b => (b, fieldAt bs (0x140 + 8 * b) 8)),
                captab := word (fieldAt bs 0x30 8), posRecord := fieldAt bs 0x38 8 == 1,
                halted, haltReq := if halted then some s.cycle else none }
              let s := restoreTurn (setGroup written.1 key g) g bs
              match tilesFrom s ⟨g.core, false, ((gridOfGroup s key).map gridKey).getD 0, key⟩ g bs rs with
              | none => none
              | some (s, es) => (restoreTroupes (requeueEntries s g es) g base halted).map fun s => settleRegroup s key
            | _, _ => none

/-! ## ctx (R409) -/

/-- The lanes of a symbol whose answers have come, or that ask for nothing yet. -/
def answeredLanes (y : Symbol) : LaneMask :=
  (maskOf fun l => laneOf y.depScale l != 0) ||| (if isAtomicKind y.kind || y.kind = .image then 0 else maskOf fun l => (tabGet? y.replies l).isSome)

/-- The troupe has nothing under way that a save waits for (R366, R158, R403 step 2). -/
def troupeSettled (s : State) (core pos : Nat) : Bool :=
  match troupeAt s core pos with
  | none => true
  | some t => t.clause.isNone && t.sb.all (fun e => !e.sent || e.loc.area == .host || e.loc.area == .peer) &&
      (troupeSymbols s core pos).all fun e => openLanes e.2 &&& ~~~answeredLanes e.2 == 0

/-- Every page of a record is mapped; one that migration holds is waited for (R391). -/
def recordMapped (s : State) (p : Word) : Bool := (recordPages p).all fun n => pageMapped s n || pageMoving s n

/-- What `ctx` does at the end of its clause: a fault's state, or the state after; a void service acts on nothing (R398). -/
def ctxEffect (s : State) (core : Nat) (c : Control) : Option State :=
  match liveService s core, c with
  | some d, .ctxSave p => match troupeAt s core d.pos with
    | none => some s
    | some t => match saveTroupe s core d.pos t p false with
      | (s, true) => some s
      | (_, false) => none
  | some d, .ctxRestore p => match troupeAt s core d.pos with
    | none => some s
    | some t => restoreTroupe s core d.pos t p
  | _, _ => some s

end Sys2Proof.Machine
end

