-- ==== Sys2Proof/Machine/Quadrille.lean ====
section
/-!
DEFINITION. The Quadrille unit: `regroup`, `regroup.restore` and `regroup.capupd` (R223 to R230), and the move.
-/

namespace Sys2Proof.Machine

/-! ## Range and table -/

/-- Fields of a range descriptor (R223). -/
def rangeOk (r : Nat) : Bool := bits r 63 13 == 0 && decide (bits r 5 0 ≤ bits r 11 6)
def rangeRegs (r : Nat) : List Nat := (List.range 64).filter fun n => decide (bits r 5 0 ≤ n) && decide (n ≤ bits r 11 6)
def rangeCap (r : Nat) : Bool := r.testBit 12

/-- The capacity table's address (R229). -/
def captabBase (g : Group) : Word := word (g.captab.toNat / 8192 * 8192)
def captabOn (g : Group) : Bool := g.captab.getLsbD 0

/-- The check of the 8 KiB table (R230): every active lane shares it. DESIGN CHOICE (notes/assumptions/43.md): where `CAPTAB.BASE` has address
bits [63:60] set, the pointer is taken in the space they name, like any other; R229 says only that it lies in space 0x0. -/
def reachTable (s : State) (x : Ctx) (g : Group) : Reach := shared x (reachRange s x .atomic ((lowLane x.cl.active).getD 0) (captabBase g) 8192)

/-! ## Arriving (R223 to R225) -/

/-- `regroup` and `regroup.restore`: the checks, made at clause start only (R225), then the arrival as a control instruction. DESIGN CHOICE
(notes/assumptions/43.md): the trap troupe, which belongs to no group, traps with 0x0A. -/
def regroup (fn : Nat) (f : FX) (s : State) : Out :=
  inClause s fun x => use s x (if fn = 0 then [f.a, f.b] else [f.b]) fun s x =>
    match lowLane x.live with
    | none => done s x 2 x.cl
    | some b => match groupAt s x.t.group with
      | none => trapAll s x 0x0A x.instrAddr
      | some g =>
        let r := (word64 s x f.b b).toNat
        let cap := fn = 0 && rangeCap r
        if checking x && (!rangeOk r || (rangeCap r && !captabOn g) || g.posRecord != (fn == 1)) then trapAll s x 0x0A x.instrAddr
        else useRegs s x ((rangeRegs r).map (regOf x.t)) fun s x =>
          let cl := setControl x (.regroup fn r f.d.code (mkLanes fun l => if fn = 0 then word64 s x f.a l else 0) x.instrAddr.toNat)
          if checking x && cap then checked x (reachTable s x g) 2 fun _ _ cl' => { cl' with control := cl.control }
          else done s x 2 cl

/-- `regroup` (R223). -/
def execRegroup (f : FX) (s : State) : Out := regroup 0 f s
/-- `regroup.restore` (R223). -/
def execRegroupRestore (f : FX) (s : State) : Out := regroup 1 f s

/-! ## The capacity update (R230) -/

/-- One entry's new limit, ewma, and whether the limit changed. -/
def capEntry (limit minimum maximum load ewma : Nat) : Nat × Nat × Bool :=
  let e : Int := (ewma : Int) + ((256 * load : Nat) - (ewma : Int)) / 8
  let lim := min (max (ceilDiv (5 * e.toNat) 1024) minimum) maximum
  (lim, ofSigned 32 e, lim != limit)

/-- Updates one entry at its home; the count of changes. The core's own copy goes first, as for every access it makes there (R356). -/
def updateEntry (core : Nat) (a : State × Nat) (l : Loc) : State × Nat :=
  let r := homeRead (dropPlain a.1 core l.line) l 20
  let w (i : Nat) : Nat := leNat ((r.2.drop (4 * i)).take 4)
  let n := capEntry (w 0) (w 1) (w 2) (w 3) (w 4)
  (homeWrite (homeWrite r.1 l (leBytes 4 n.1)) (l.plus 12) (leBytes 4 0 ++ leBytes 4 n.2.1), a.2 + (if n.2.2 then 1 else 0))

/-- The 256 entries of a table from its pieces of 64 bytes. -/
def tableEntries (ls : List Loc) : List Loc := ls.flatMap fun l => [l, l.plus 32]

/-- `regroup.capupd` (R230). -/
def execRegroupCapupd (f : FX) (s : State) : Out :=
  inClause s fun x =>
    match lowLane x.live with
    | none => done s x 2 x.cl
    | some _ => match groupAt s x.t.group with
      | none => trapAll s x 0x0A x.instrAddr
      | some g =>
        if checking x && !captabOn g then trapAll s x 0x0A x.instrAddr
        else if checking x then checked x (reachTable s x g) 2 fun _ x cl => writeLanes x cl f.d fun _ => 0
        else afterDeferreds s x <|
          if !(loadsDone s x.core x.pos x.t.seq && x.t.acquires.isEmpty && entriesDone s x 4) then waitHere s
          else
            let r := (tableEntries (locsOf (found x))).foldl (updateEntry x.core) (s, 0)
            done r.1 x 2 (writeLanes x x.cl f.d fun _ => word r.2)

/-! ## Placement (R226) -/

/-- One thread's place. -/
structure Placed where
  pos : Nat
  key : Nat
  to_ : Nat
  own : Bool
  overLimit : Bool
  displaced : Bool
  deriving DecidableEq

/-- Threads that do not get a troupe of their own: key, position, over limit, displaced. -/
abbrev Rest := List (Nat × Nat × Bool × Bool)

/-- Places the keys in ascending order; the rest follow densely (R226). -/
def placeKeys (troupes : Nat) : List (Nat × List Nat) → Nat → Rest → List Placed
  | [], slot, u =>
    let sorted := u.mergeSort fun a b => decide (min a.1 256 * 2048 + a.2.1 ≤ min b.1 256 * 2048 + b.2.1)
    (List.range sorted.length).map fun i =>
      let e := sorted.getD i (0, 0, false, false)
      { pos := e.2.1, key := e.1, to_ := 32 * slot + i, own := false, overLimit := e.2.2.1, displaced := e.2.2.2 }
  | (k, a) :: rest, slot, u =>
    let left := u.length + ((rest.map fun e => e.2.length).foldl (· + ·) 0)
    let n := ceilDiv a.length 32
    if slot + n + ceilDiv left 32 ≤ troupes then
      ((List.range a.length).map fun i =>
        { pos := a.getD i 0, key := k, to_ := 32 * slot + i, own := true, overLimit := false, displaced := false }) ++
        placeKeys troupes rest (slot + n) u
    else placeKeys troupes rest slot (u ++ a.map fun p => (k, p, false, true))

/-- The placement of threads given as (position, xa[8:0]) in ascending position. -/
def placement (troupes : Nat) (limit : Nat → Nat) (ts : List (Nat × Nat)) : List Placed :=
  let keys := (List.range 256).filter fun k => ts.any fun t => t.2 == k
  let of (k : Nat) : List Nat := (ts.filter fun t => t.2 == k).map fun t => t.1
  let admitted := keys.filterMap fun k =>
    let a := (of k).take (limit k)
    if a.isEmpty then none else some (k, a)
  let over_ : Rest := keys.flatMap fun k => ((of k).drop (limit k)).map fun p => (k, p, true, false)
  let free : Rest := (ts.filter fun t => decide (t.2 ≥ 256)).map fun t => (t.2, t.1, false, false)
  placeKeys troupes admitted 0 (over_ ++ free)

/-- The ticket of a placed thread (R226): all unkeyed threads rank together. -/
def ticketOf (ts : List (Nat × Nat)) (p : Placed) : Nat :=
  let same := ts.filter fun t => if p.key ≥ 256 then decide (t.2 ≥ 256) else t.2 == p.key
  let rank := (same.filter fun t => decide (t.1 < p.pos)).length
  (if p.overLimit then 2 ^ 31 else 0) + (if p.displaced then 2 ^ 30 else 0) + (if p.key ≥ 256 then 2 ^ 29 else 0) +
    p.key * 2 ^ 20 + rank * 2 ^ 10 + p.pos

/-! ## The move (R224, R227) -/

/-- The troupes of a group with their positions. -/
def groupTroupes (s : State) (g : Group) : List (Nat × Nat × Troupe) :=
  g.troupes.filterMap fun e => (troupeAt s g.core e.2).map fun t => (e.1, e.2, t)

/-- The troupes of a Minuet grid's rotation: core, position, group index, troupe index (R81). A troupe whose threads have all exited stays
in it while it is resident, and forfeits its turn once its last clause is complete. -/
def rotation (s : State) (ticket : Nat) : List (Nat × Nat × Nat × Nat) :=
  let all := (s.groups.filter fun e => e.2.ticket == ticket).flatMap fun e =>
    (groupTroupes s e.2).map fun q => (e.2.core, q.2.1, e.2.index, q.1)
  all.mergeSort fun a b => decide (a.2.2.1 < b.2.2.1) || (a.2.2.1 == b.2.2.1 && decide (a.2.2.2 ≤ b.2.2.2))

/-- A Minuet grid stands between rotations: the turn is the first troupe's, and not taken. -/
def betweenRotations (s : State) (ticket : Nat) (g : Grid) : Bool :=
  match (rotation s ticket).head? with
  | none => true
  | some r => r.2.2.1 == g.turnGroup && r.2.2.2 == g.turnTroupe && !g.turnUsed

/-- A thread of the group with where it stands: position in the group, its state. -/
def memberPos (m : Member) : Nat := 32 * m.tidx + m.lane

/-- The arrived threads: function, range, destination and key of each; `none` where one has not arrived. A thread halted for debug
has not (R224). -/
def arrivedAll (s : State) (key : Nat) : Option (List (Member × Nat × Nat × Nat × Nat)) :=
  let ms := (groupThreads s key).filter fun m => m.th.st != .exited
  let q := ms.filterMap fun m => match m.th.st with
    | .arrived fn range dest k _ _ => if haltedThread s m then none else some (m, fn, range, dest, k)
    | _ => none
  if q.length = ms.length && !q.isEmpty then some (q.mergeSort fun a b => decide (memberPos a.1 ≤ memberPos b.1)) else none

/-- A troupe may take part in the move (R224): the range of one whose lanes have all exited travels with no thread. DEDUCED
(notes/assumptions/43.md): a register of the range that the arriving clause itself leaves pending is waited for here, R146's use being of what stands at
its start; in a lane that is faulted nothing surfaces, and the move waits for as long as the fault stands. -/
def moveReady (s : State) (core pos range : Nat) : Bool :=
  match troupeAt s core pos with
  | none => true
  | some t => t.clause.isNone && !t.suspended && t.sb.isEmpty && t.acquires.isEmpty && loadsDone s core pos t.seq &&
      (List.range 6).all (fun k => (openBatches s core t k).isEmpty) &&
      (liveLanes t == 0 || (rangeRegs range).all fun n => (regOf t n).entry != .spilled && pendMask (regOf t n) &&& liveLanes t == 0)

/-- Locations of the capacity table's entries for the unit, sector by sector; `none` where a page fails. DESIGN CHOICE
(notes/assumptions/43.md): they are translated again as the move takes place, which waits while a page does not translate; R230 gives only the check
at the clause's start. -/
def tableLocs (s : State) (g : Group) (gr : Grid) : State × Option (List Loc) :=
  (List.range 128).foldl (fun a i => match a.2 with
    | none => a
    | some ls => match translate a.1 ⟨g.core, false, gridKey gr, groupKey g.ticket g.index⟩ 0 (captabBase g + word (64 * i)) 64 .atomic with
      | (s, .ok l) => (s, some (ls ++ [l]))
      | (s, .trap _ _) => (s, none)) (s, some [])

/-- What each thread's register holds before the move. -/
def movedValue (s : State) (core : Nat) (m : Member) (n : Nat) : Word :=
  match troupeAt s core m.pos with
  | some t => laneOf (regOf t n).vals m.lane
  | none => 0

/-- One thread's move. -/
structure Move where
  m : Member
  to_ : Nat
  p6 : Bool
  ticket : Nat
  dest : Nat

/-- Where the threads that have exited go: on a regroup to the positions that no thread moves to, ascending, each with its original
position; on a restore back to that position (R227). -/
def exitedMoves (s : State) (key : Nat) (g : Group) (restore : Bool) (mv : List Move) : List (Nat × Thread) :=
  let gone := ((groupThreads s key).filter fun m => m.th.st == .exited).mergeSort fun a b => decide (memberPos a ≤ memberPos b)
  if restore then gone.map fun m => (m.th.orig, { m.th with orig := 0 })
  else
    let free := (List.range (32 * g.ntroupes)).filter fun p => !(mv.any fun q => q.to_ == p)
    (free.zip gone).map fun e => (e.1, { e.2.th with orig := memberPos e.2 })

/-- A troupe after the move: its threads, registers of the range, and the destination (R227). -/
def movedTroupe (s : State) (core tidx range : Nat) (mv : List Move) (gone : List (Nat × Thread)) (t : Troupe) : Troupe :=
  let at_ (l : Nat) : Option Move := mv.find? fun q => q.to_ == 32 * tidx + l
  let threads := laneList.map fun l => (l, match at_ l with
    | none => tabGet gone (32 * tidx + l) exitedThread
    | some q => { q.m.th with st := .runnable, meet := 0, join := 0, keep := false, orig := memberPos q.m, ticket := q.ticket,
                              preds := if q.p6 then 64 else 0 })
  let live := maskOf fun l => (at_ l).isSome
  let moved := (rangeRegs range).map fun n =>
    (n, encodeReg live (mkLanes fun l => match at_ l with | some q => movedValue s core q.m n | none => 0))
  let dest := ((mv.head?).map fun q => q.dest).getD 120
  let regs := if dest < 64 then
      tabPut moved dest (encodeReg live (mkLanes fun l => match at_ l with | some q => word q.ticket | none => 0)) else moved
  let first := mv.find? fun q => q.m.tidx == tidx
  let kregs := match first with
    | some q => if 72 ≤ dest && dest ≤ 103 then tabPut t.kregs (dest - 72) (word q.ticket) else t.kregs
    | none => t.kregs
  { t with threads, regs, kregs }

/-- The whole move. -/
def performMove (s : State) (key : Nat) (g : Group) (range : Nat) (restore : Bool) (mv : List Move) : State :=
  let s0 := s
  let gone := exitedMoves s key g restore mv
  let s := g.troupes.foldl (fun s e => modTroupe s g.core e.2 (movedTroupe s0 g.core e.1 range mv gone)) s
  let s := g.troupes.foldl (fun s e => sweepSymbols (dropSpills s g.core e.2 (List.range 64)) g.core e.2) s
  let s := modCore s g.core fun k => { k with quad := k.quad.filter (· != key) }
  modGroup s key fun g => { g with posRecord := !restore }

/-- Adds each present key's count to its load (R226). -/
def addLoads (s : State) (core : Nat) (locs : List Loc) (ts : List (Nat × Nat)) : State :=
  let es := tableEntries locs
  (List.range 256).foldl (fun s k =>
    let n := (ts.filter fun t => t.2 == k).length
    if n = 0 then s
    else
      let l := (es.getD k default).plus 12
      let r := homeRead (dropPlain s core l.line) l 4
      homeWrite r.1 l (leBytes 4 (leNat r.2 + n))) s

/-- `regroup`'s move, with the table where CAP is 1; `none` while the table does not translate. The acquire at package scope (R230) names
no object: it applies every queued invalidation, those tagged with any entry's object among them (R361). -/
def regroupMove (s : State) (key : Nat) (g : Group) (q : List (Member × Nat × Nat × Nat × Nat)) (range : Nat) : Option State :=
  let ts := q.map fun e => (memberPos e.1, e.2.2.2.2 % 512)
  let go (s : State) (limit : Nat → Nat) : State :=
    let ps := placement g.ntroupes limit ts
    let mv := q.map fun e =>
      match ps.find? fun p => p.pos == memberPos e.1 with
      | some p => { m := e.1, to_ := p.to_, p6 := !p.own, ticket := ticketOf ts p, dest := e.2.2.2.1 }
      | none => { m := e.1, to_ := memberPos e.1, p6 := true, ticket := 0, dest := e.2.2.2.1 }
    performMove s key g range false mv
  if !rangeCap range then some (go s fun _ => 1024)
  else match gridOfGroup s key with
    | none => none
    | some gr => match tableLocs s g gr with
      | (_, none) => none
      | (s, some ls) =>
        let s := applyInvals s g.core fun _ => true
        let es := tableEntries ls
        let limit (k : Nat) : Nat := leNat (peekBytes s (es.getD k default) 4)
        some (go (addLoads s g.core ls ts) limit)

/-- `regroup.restore`'s move (R227). -/
def restoreMove (s : State) (key : Nat) (g : Group) (q : List (Member × Nat × Nat × Nat × Nat)) (range : Nat) : State :=
  performMove s key g range true (q.map fun e =>
    { m := e.1, to_ := e.1.th.orig, p6 := false, ticket := e.1.th.ticket, dest := e.2.2.2.1 })

/-- The x registers a move writes in each troupe: its range, and a destination outside it (R223, R227). -/
def movedRegs (range dest : Nat) : List Nat := rangeRegs range ++ (if dest < 64 && !(rangeRegs range).contains dest then [dest] else [])

/-- Whether the granules the move needs are there (R228): those its registers free, the troupes' own minimums, and free granules
beyond every minimum; holdings are counted as given. -/
def moveFits (k : CoreSt) (g : Group) (range dest : Nat) (held : Nat × Troupe → Nat) : Bool :=
  let need := g.ntroupes * (movedRegs range dest).length * 4
  let mine := (g.troupes.map fun e => match tabGet? k.troupes e.2 with | some t => max (held (e.2, t)) t.regmin | none => 0).foldl (· + ·) 0
  let all := ((programTroupes k).map fun e => max (held e) e.2.regmin).foldl (· + ·) 0
  decide (need ≤ mine + (8064 - all - retainedHolding k))

/-- R125 for a move: every register of the range counts as named, and every troupe of the group waits. -/
def relieveMove (s : State) (key : Nat) (g : Group) (range dest : Nat) : State :=
  g.troupes.foldl (fun s e => relieve s g.core e.2 (fun k => moveFits k g range dest (holdingAfter k)) fun e =>
    keptRegs 64 [] e ++ (if e.2.group = key then movedRegs range dest else [])) s

/-- The unit moves a core's groups in the order of their last arrivals (R228), a Minuet grid's between rotations. -/
def moveTurn (s : State) (key : Nat) (g : Group) : Bool :=
  (match (coreOf s g.core).quad.find? fun q => (arrivedAll s q).isSome with | some q => q == key | none => true) &&
    (match gridOfGroup s key with | some gr => !isMinuet gr || betweenRotations s g.ticket gr | none => true)

/-- QUADRILLE_MOVE (R224, R226 to R228): the unit moves the group's threads once every one of them has arrived. -/
def execQuadrilleMove (ticket group : Nat) (s : State) : Out :=
  let key := groupKey ticket group
  match groupAt s key, arrivedAll s key with
  | some g, some q =>
    let fn := (q.map fun e => e.2.1).headD 0
    let range := (q.map fun e => e.2.2.1).headD 0
    let dest := (q.map fun e => e.2.2.2.1).headD 120
    if q.any (fun e => arrivedWhat s e.1 != ((q.head?).bind fun f => arrivedWhat s f.1)) then .next (settleRegroup s key)
    else if !moveTurn s key g || !(g.troupes.all fun e => moveReady s g.core e.2 range) then .next s
    else if !moveFits (coreOf s g.core) g range dest (fun e => holding e.2) then .next (relieveMove s key g range dest)
    else if fn = 1 then .next (restoreMove s key g q range)
    else match regroupMove s key g q range with
      | some s' => .next s'
      | none => .next s
  | _, _ => .next s

end Sys2Proof.Machine
end

