-- ==== Sys2Proof/Machine/ClauseEvents.lean ====
section
/-!
DEFINITION. The events of issue: clauses start (R29, R92) and retire (R30), waiting threads wake (R87, R115, R246), the trap
troupe takes a delivery (R393 to R395), spills and refills (R126, R127), parked lanes retry (R390).
-/

namespace Sys2Proof.Machine

/-! ## Starting and retiring -/

/-- A word that a lane waits on cannot be read now: its line waits (R344), its link does (R430), or its key is revoked (R432). -/
def pollStays (s : State) (core pos : Nat) (w : Loc) : Bool :=
  lineWaits s core w || !mayCross s core w true ||
    (w.area == .peer && ((troupeAt s core pos).map fun t => s.mgmt.revoked.contains (troupeKey s t)) == some true)

/-- A lane that waits on a word which has advanced is released, with its acquire (R246). -/
def pollLane (s : State) (core pos lane : Nat) : State :=
  match (troupeAt s core pos).map fun t => (threadOf t lane).st with
  | some (.watching w gen acq) =>
    let f := match troupeAt s core pos with
      | some t => refind s ⟨core, false, troupeKey s t, t.group⟩ w 16 .read
      | none => (s, w)
    let s := if f.2 = w then f.1 else modTroupe f.1 core pos fun t => modThreads t (laneBit lane) fun _ h => { h with st := .watching f.2 gen acq }
    let w := f.2
    if w.area = .lost || pollStays s core pos w then s
    else
    let r := readSync (dropPlain s core w.line) w
    if r.2.gen = gen then r.1
    else
      let s := modTroupe r.1 core pos fun t => modThreads t (laneBit lane) fun _ h => { h with st := .runnable }
      acquireObjects s core acq [pointerOf s w]
  | _ => s

/-- Every waiting lane of a troupe at its clause boundary (R246). -/
def pollTroupe (s : State) (core pos : Nat) : State :=
  match troupeAt s core pos with
  | some t => if t.clause.isSome then s else
      (laneList.filter fun l => match (threadOf t l).st with | .watching _ _ _ => true | _ => false).foldl (fun s l => pollLane s core pos l) s
  | none => s

/-- Clause boundaries of a slot's troupes, before a choice (R100 to R102, R246, R441). A Minuet troupe's waits end at its turn. -/
def settleSlot (s : State) (core slot : Nat) : State :=
  ((coreOf s core).troupes.filter fun e => e.1 / 16 == slot || e.1 == 64).foldl (fun s e =>
    let s := if minuetTroupe s e.2 then s else pollTroupe s core e.1
    checkHalt (checkBreakpoints (settleTroupe s core e.1) core e.1) core e.1) s

/-- CLAUSE_START (R29, R92): the slot's first ready candidate starts. -/
def execClauseStart (core slot : Nat) (s : State) : Out :=
  if s.cycle < tabGet (coreOf s core).slotBusy slot 0 then .next s
  else
    let s := settleSlot s core slot
    .next (startFirst s core slot (candidates s core slot))

/-- A `ctx` waits for the saved troupe's answers (R409), and for a migration of its record's pages (R391). -/
def ctxReady (s : State) (x : Ctx) (p : Word) : Bool :=
  !((recordPages p).any (pageMoving s)) && !unitWaits s p 0x51000 && (match liveService s x.core with | some d => troupeSettled s x.core d.pos | none => true)

/-- What the end of the clause waits for: a barrier's or regroup's fence (R113, R224), the acquires before a read of a word (R361), a saved
troupe's answers (R409). -/
def controlReady (s : State) (x : Ctx) : Bool :=
  let fence := loadsDone s x.core x.pos x.t.seq && x.t.sb.isEmpty && x.t.acquires.isEmpty && entriesDone s x 1
  match x.cl.control with
  | .bar _ _ _ => x.cl.active == 0 || fence
  | .regroup _ _ _ _ _ => x.cl.active == 0 || fence
  | .swait _ _ _ => x.t.acquires.isEmpty
  | .ctxSave p => ctxReady s x p
  | .ctxRestore p => ctxReady s x p
  | _ => true

/-- The pointer of a `ctx`. -/
def ctxPtr (c : Control) : Word := match c with | .ctxSave p => p | .ctxRestore p => p | _ => 0

/-- The lanes whose barrier masks differ now from those of threads that have come to wait since (R112). -/
def lateBarFails (s : State) (x : Ctx) : LaneMask :=
  match x.cl.control, gridOfGroup s x.t.group with
  | .bar n lanes troupes, some g =>
    barFails s x g n (fun l => BitVec.ofNat 32 (laneOf lanes l).toNat) fun l => BitVec.ofNat 32 (laneOf troupes l).toNat
  | _, _ => 0

/-- The address of the clause's last instruction, of two words. -/
def lastPairAddr (cl : Clause) : Word := cl.head + word (4 * (cl.words.length - 1))

/-- The words waited on have entries in the core's table (R247). -/
def watchOk (s : State) (core : Nat) : Bool := decide ((watchedWords s core).length ≤ 256)

/-- A restored state is within a core's tables: words waited on, and symbol entries (R151, R247). -/
def tablesOk (s : State) (core : Nat) : Bool := watchOk s core && decide (usedEntries (coreOf s core) ≤ 1024)

/-- The retirement of a clause (R30): its writes commit, then its control instruction acts (R24, R409). DESIGN CHOICE (notes/assumptions/42.md):
a `bar`'s masks are compared with those of waiting threads as it performs and once more here, after its fence, against threads that have come
to wait since (R112); what its clause has performed by then, a `sadd` or `sarm`, stands. A `ctx.restore` whose registers
do not fit the pool waits while pressure is relieved (R125, R137). -/
def retireClause (s : State) (x : Ctx) : State :=
  let c := commitClause s x
  let finish (s : State) : State := boundary (controlEffect s x) x
  let context (p : Word) (ok : Bool) : State :=
    if x.cl.active = 0 then finish c
    else match (if ok then ctxEffect c x.core x.cl.control else none) with
      | some s => finish s
      | none => squash s x 0x45 p x.cl.active []
  match x.cl.control with
  | .ctxSave p => context p (recordMapped s p)
  | .ctxRestore p =>
    let q := context p (recordMapped s p)
    let need := ((liveService s x.core).map fun d => (d.pos, restoreNeed s p)).toList
    if x.cl.active = 0 || (decide (poolTakes need (coreOf q x.core) ≤ 8064) && tablesOk q x.core) then q
    else relieveFor { s with focus := none } q x.core need
  | .bar _ _ _ => if lateBarFails s x = 0 then finish c else squash s x 0x08 (lastPairAddr x.cl) (lateBarFails s x) []
  | _ => finish c

/-- CLAUSE_RETIRE (R30): a clause whose replies have arrived commits; a clause that waits is taken up again. -/
def execClauseRetire (core pos : Nat) (s : State) : Out :=
  match troupeAt s core pos with
  | none => .next { s with focus := none }
  | some t => match t.clause with
    | none => .next { s with focus := none }
    | some cl =>
      let x : Ctx := ⟨core, pos, t, cl⟩
      if cl.phase != .retire then .next { s with focus := some (core, pos) }
      else if !cl.replies.isEmpty || !controlReady s x then .next { s with focus := none }
      else .next (retireClause s x)

/-! ## Waking -/

/-- A thread's state, if it is there. -/
def threadAt (s : State) (core pos lane : Nat) : Option Thread := (troupeAt s core pos).map fun t => threadOf t lane

/-- Makes lanes runnable. -/
def wake (s : State) (core pos : Nat) (lanes : LaneMask) : State :=
  modTroupe s core pos fun t => modThreads t lanes fun _ h => { h with st := .runnable }

/-- The clock a wait counts: core cycles, or turns in Minuet (R81). -/
def waitClock (s : State) (core pos : Nat) : Nat :=
  match troupeAt s core pos with
  | none => s.cycle
  | some t => if minuetTroupe s t then t.turns else s.cycle

/-- NAP_EXPIRY (R115). -/
def execNapExpiry (core pos lane : Nat) (s : State) : Out :=
  match threadAt s core pos lane with
  | some h => match h.st with
    | .napping til => if waitClock s core pos ≥ til then .next (wake s core pos (laneBit lane)) else .next s
    | _ => .next s
  | none => .next s

/-- Whether a yielded thread is ready (R87). -/
def yieldOver (s : State) (core pos : Nat) (st : ThreadState) : Bool :=
  match st with
  | .yielded others til =>
    (match troupeAt s core pos with
      | some t => if minuetTroupe s t then decide (t.turns ≥ til)
                  else others.isEmpty || decide (tabGet (coreOf s core).slotIssues (slotOf s core pos) 0 ≥ til)
      | none => false)
  | .yieldedOn q head tail closed til =>
    let d := queueAt s q
    d.head != head || d.tail != tail || queueClosed d != closed || decide (waitClock s core pos ≥ til)
  | _ => false

/-- The lanes of a yielded subset: those that yielded with a lane. -/
def yieldedWith (t : Troupe) (lane : Nat) : LaneMask := maskOf fun l => (threadOf t l).st == (threadOf t lane).st

/-- YIELD_END (R87): the whole subset is ready again. -/
def execYieldEnd (core pos lane : Nat) (s : State) : Out :=
  match troupeAt s core pos with
  | some t => if yieldOver s core pos (threadOf t lane).st then .next (wake s core pos (yieldedWith t lane)) else .next s
  | none => .next s

/-- WATCH_POLL (R246, R247): a lane whose word has advanced is released, with its acquire. -/
def execWatchPoll (core pos lane : Nat) (s : State) : Out :=
  .next (pollLane s core pos lane)

/-- PARK_RETRY_TIMEOUT (R390). -/
def execParkRetryTimeout (core pos park : Nat) (s : State) : Out :=
  match troupeAt s core pos with
  | none => .next s
  | some t => match t.parks.find? fun k => k.id == park with
    | some k => match k.retry with
      | some til => if s.cycle ≥ til then .next (wakePark s core pos k) else .next s
      | none => .next s
    | none => .next s

/-! ## The supervisor (R393 to R395) -/

/-- The trap troupe starts at TRAPVEC with all lanes, as a troupe starts: `MEET` and `JOIN` are zero,
`MODE` is 1 (R99, R167, R393). -/
def startSupervisor (s : State) (core : Nat) : State :=
  modTroupe s core 64 fun t => modThreads { t with clause := none, mode := 1 } (-1) fun _ h =>
    { h with st := .runnable, pc := (coreOf s core).trapvec, meet := 0, join := 0 }

/-- The next delivery is taken up; a trace record of kind 4 (R446). -/
def beginService (s : State) (core : Nat) (d : Delivery) (rest : List Delivery) : State :=
  let s := modCore s core fun k => { k with deliveries := rest, service := some d }
  let s := traceRecord s core 4 noOrdinal (d.group % 2 ^ 64) (word d.cause)
  startSupervisor s core

/-- TRAP_DELIVERY (R395). -/
def execTrapDelivery (core : Nat) (s : State) : Out :=
  let k := coreOf s core
  match k.service, k.deliveries with
  | none, d :: rest => if k.supStopped then .next s else .next (beginService s core d rest)
  | _, _ => .next s

/-- TRAPRST (R397): the interrupted delivery begins again; with none in service the trap troupe only may run again. -/
def execTraprst (core : Nat) (s : State) : Out :=
  if (coreOf s core).supStopped then
    let s := modCore s core fun k => { k with supStopped := false }
    .next (if (coreOf s core).service.isSome then startSupervisor s core else s)
  else .next s

/-! ## Spills (R126, R127) -/

/-- SPILL_ACK (R126): the register becomes spilled and its granules return; while a running clause names it, it waits. -/
def execSpillAck (core n : Nat) (s : State) : Out :=
  match (coreOf s core).spills[n]? with
  | none => .next s
  | some (pos, reg) =>
    if ((troupeAt s core pos).bind fun t => t.clause.map fun cl => (clauseNamed cl).contains reg) == some true then .next s
    else
    let s := modCore s core fun k => { k with spills := k.spills.eraseIdx n }
    .next (modTroupe s core pos fun t =>
      if (regOf t reg).entry == .resident then { t with regs := tabPut t.regs reg { emptyReg with entry := .spilled, home := pos } } else t)

/-- The registers that the next clause of each of a troupe's runnable subsets names, and those of a regroup's range: a spilled one is
wanted back (R127, R224). -/
def wantedSets (s : State) (core : Nat) (t : Troupe) : List (List Nat) :=
  (subsetsOf t).map (fun q =>
    let w : Who := ⟨core, false, troupeKey s t, t.group⟩
    let head := (threadOf t q.2.1).pc
    match fetchWords s w 1 head with
    | (s, .inr [h]) => match fetchWords s w (bits h 4 0) (head + 4) with
      | (_, .inr ws) => (clauseNamed (newClause head (headerOf h) ws 0 0 0 0 0 []))
      | _ => []
    | _ => []) ++
  t.threads.filterMap fun h => match h.2.st with
    | .arrived _ range _ _ _ _ => some (rangeRegs range)
    | _ => none

/-- The register read back and re-encoded (R127); a failing translation is 0x17 (R128). -/
def refillReg (s : State) (core pos reg : Nat) : State :=
  match readSpill s core (((troupeAt s core pos).map fun t => (regOf t reg).home).getD pos) reg with
  | (s, .inl a) => spillFault s core pos reg true a
  | (s, .inr img) => modTroupe s core pos fun t =>
      { t with regs := tabPut t.regs reg (encodeReg (formatLanes t) (mkLanes (imageLane img))) }

/-- REFILL (R127): it takes its granules as a clause's reservation, relieving pressure first. -/
def execRefill (core pos reg : Nat) (s : State) : Out :=
  match troupeAt s core pos with
  | none => .next s
  | some t =>
    match (wantedSets s core t).find? fun named => named.contains reg with
    | none => .next s
    | some named =>
      if (regOf t reg).entry != .spilled || t.suspended then .next s
      else if !regsFit (coreOf s core) pos t 4 then
        .next (relieveClause (modCore s core fun k => { k with waitRegs := joinWait k.waitRegs pos }) core pos 4 named)
      else .next (refillReg s core pos reg)

end Sys2Proof.Machine
end

