-- ==== Sys2Proof/Machine/Copy.lean ====
section
/-!
DEFINITION. Job cards, tensor records (R296 to R302) and their traversals (R301), `cpy`, `cpq` and `trec` (R322 to R324), and
the acceptance of a card (R304, R305).
-/

namespace Sys2Proof.Machine

/-! ## Instructions -/

/-- The check of a card pointer (R322). -/
def reachCard (s : State) (x : Ctx) (o : Operand) (addr : Nat → Word) : Reach :=
  (maskLanes (addressed s x o)).foldl (fun r l =>
    let p := addr l
    if p.toNat % 128 != 0 then { r with fails := r.fails ++ [(l, 0x03, p)] }
    else if bits p.toNat 63 60 ∉ [0, 14] then { r with fails := r.fails ++ [(l, 0x20, p)] }
    else reachOne x .read 128 128 r l l p) ⟨s, [], [], 0⟩

/-- `cpy` and `cpq.send` (R322, R323): one submission for each active lane, through the store buffer. -/
def submit (remote : Bool) (f : FM) (s : State) : Out :=
  inClause s fun x =>
    if x.live = 0 then done s x 2 x.cl
    else use s x [f.a, f.e] fun s x =>
      let addr := memAddr s x f 128
      let g (l : Nat) : Nat := (word64 s x f.e l).toNat
      if checking x then
        let r := reachCard s x f.a addr
        let bad := (maskLanes x.live).filter fun l => g l / 2 ^ (if remote then 34 else 32) != 0
        checked x { r with fails := r.fails ++ bad.map fun l => (l, 0x34, addr l) } 2 fun _ x cl =>
          writeLanes x { cl with needSB := cl.needSB + (maskLanes x.live).length } (lateDest f.d) fun _ => 0
      else
        afterDeferreds s x <|
          let lanes := maskLanes x.live
          if x.t.sb.length + lanes.length > 64 then waitHere s
          else
            let x := x.withCl (writeLanes x x.cl (lateDest f.d) fun _ => 0)
            let x := lanes.foldl (fun x l => match tabGet? (found x) l with
              | none => x
              | some loc =>
                let die := if remote then g l / 2 ^ 32 else coreDie x.core
                let id := x.t.seq
                let op : LaneOp := { lane := l, loc, val := word (g l % 2 ^ 32), val2 := word die }
                let x := addEntry x s.cycle .submission loc [] [op] (releaseScope f)
                x.withCl { x.cl with replies := x.cl.replies ++ [(id, (lateDest f.d).code)] }) x
            done s x 2 x.cl

/-- `cpy` (R322). -/
def execCpy (f : FM) (s : State) : Out := submit false f s
/-- `cpq.send` (R322). -/
def execCpqSend (f : FM) (s : State) : Out := submit true f s

/-- `cpq.status` (R323): free window entries. -/
def execCpqStatus (f : FM) (s : State) : Out :=
  inClause s fun x => use s x [f.a] fun s x =>
    let bad := (maskLanes x.live).filter fun l => (word64 s x f.a l).toNat / 4 != 0
    settle s x (bad.map fun l => (l, 0x34, word64 s x f.a l)) 0 [] fun s x =>
      if checking x then done s x 2 (writeUnknown x x.cl f.d)
      else done s x 2 (writeLanes x x.cl f.d fun l => word (512 - (dieAt s ((word64 s x f.a l).toNat % 4)).jobs.length))

/-- The record with field F replaced (R324): offset and length of the field. -/
def trecField (fn : Nat) : Nat × Nat :=
  if fn = 0 then (0, 8) else if fn ≤ 6 then (0x10 + 2 * (fn - 1), 2) else if fn ≤ 12 then (0x1C + 4 * (fn - 7), 4) else (0x0C, 4)

def replaceField (rec : List Byte) (fn : Nat) (v : Word) : List Byte :=
  let p := trecField fn
  rec.take p.1 ++ leBytes p.2 v.toNat ++ rec.drop (p.1 + p.2)

/-- `trec` (R324): source locations at the lanes, target locations 32 further on. -/
def execTrec (f : FX) (s : State) : Out :=
  inClause s fun x =>
    if x.live = 0 then done s x 2 x.cl
    else use s x [f.a, f.b, f.c] fun s x =>
      let ok (r : Reach) (l : Nat) (p : Word) (kind : Access) (i : Nat) : Reach :=
        if p.toNat % 64 != 0 then { r with fails := r.fails ++ [(l, 0x03, p)] }
        else if bits p.toNat 63 60 ∉ [0, 14] then { r with fails := r.fails ++ [(l, 0x20, p)] }
        else reachOne x kind 64 64 r i l p
      if checking x then
        let r := (maskLanes x.cl.active).foldl (fun r l =>
          let r := if (addressed s x f.a).getLsbD l then ok r l (word64 s x f.a l) .read l else r
          if (addressed s x f.c).getLsbD l then ok r l (word64 s x f.c l) .write (32 + l) else r) ⟨s, [], [], 0⟩
        checked x r 2 fun _ x cl => { cl with needSB := cl.needSB + (maskLanes x.live).length }
      else afterDeferreds s x <|
        let src := (found x).filter fun e => decide (e.1 < 32)
        settle s x (inlineRevoked s x src) 0 [] fun s x =>
        if !inlineReady s x (src.map fun e => (e.2, 64)) then waitHere s
        else
          let r := src.foldl (fun (a : State × List (Loc × List Byte)) e =>
            let q := readOwn a.1 x.core x.t x.t.seq e.2 64
            match tabGet? (found x) (32 + e.1) with
            | none => a
            | some t => (noticePoison q.1 x.t e.2 64, a.2 ++ [(t, replaceField q.2 (f.imm.toNat % 16) (word64 s x f.b e.1))])) (s, [])
          performRecords r.1 x 2 r.2

/-! ## Tensor records (R299 to R302) -/

/-- The fields of a tensor record. -/
structure Tensor where
  base : Nat
  expoff : Nat
  slot : Bool
  dims : Nat
  ty : Nat
  size : List Nat
  stride : List Int
  tile : List Nat
  reserved : Nat

def tensorOf (ws : List Word) : Tensor :=
  let n := (List.range ws.length).foldl (fun a i => a + (ws.getD i 0).toNat * 2 ^ (64 * i)) 0
  let field (at_ len : Nat) : Nat := n / 2 ^ (8 * at_) % 2 ^ (8 * len)
  let c := field 8 8
  { base := field 0 8, expoff := bits c 63 32, slot := c.testBit 8, dims := bits c 7 5, ty := bits c 4 0,
    size := (List.range 6).map fun d => field (0x10 + 2 * d) 2,
    stride := ((List.range 6).map fun d => toSigned 32 (field (0x1C + 4 * d) 4)),
    tile := ((List.range 6).map fun d => field (0x34 + 2 * d) 2), reserved := bits c 31 9 }

def isBfp (ty : Nat) : Bool := decide (18 ≤ ty)

/-- Extents of the used dimensions. -/
def Tensor.extent (r : Tensor) (d : Nat) : Nat := r.size.getD d 0 + 1
def Tensor.count (r : Tensor) : Nat := ((List.range r.dims).map r.extent).foldl (· * ·) 1
/-- Elements of one outer slice (R303). -/
def Tensor.sliceCount (r : Tensor) : Nat := ((List.range (r.dims - 1)).map r.extent).foldl (· * ·) 1

/-- Indices of the tiles of dimensions 0 to n - 1, and of the elements inside, in the order of R301: offsets of the elements. -/
def tileStarts (r : Tensor) (d : Nat) : List Nat :=
  let t := min (r.tile.getD d 0 + 1) (r.extent d)
  (List.range (ceilDiv (r.extent d) t)).map (· * t)

/-- Offsets within one tile, dimension 0 fastest. -/
def insideTile (r : Tensor) : Nat → List Nat → Int → List Int
  | 0, _, o => [o]
  | n + 1, starts, o =>
    let st := starts.getD n 0
    let t := min (r.tile.getD n 0 + 1) (r.extent n - st)
    (List.range t).flatMap fun i => insideTile r n starts (o + (st + i : Nat) * r.stride.getD n 0)

/-- All tiles, the highest dimension outermost. -/
def overTiles (r : Tensor) (n : Nat) : Nat → List Nat → List Int
  | 0, starts => insideTile r n starts 0
  | d + 1, starts => (tileStarts r d).flatMap fun st => overTiles r n d (st :: starts)

/-- Element offsets of a record's first n dimensions in traversal order (R301). -/
def traversal (r : Tensor) (n : Nat) : List Int := overTiles r n n []

/-- R299, R300 and, for a destination, R302. -/
def tensorOk (r : Tensor) (dst : Bool) : Bool :=
  let unused := (List.range 6).all fun d => decide (d < r.dims) || (r.size.getD d 0 == 0 && r.stride.getD d 0 == 0 && r.tile.getD d 0 == 0)
  let w := tileWidth r.ty
  let bfp := !isBfp r.ty ||
    (r.stride.getD 0 0 == 1 && r.extent 0 % 32 == 0 && (List.range (r.dims - 1)).all fun d => r.stride.getD (d + 1) 0 % 32 == 0)
  let slot := !r.slot ||
    (dst && bits r.base 63 40 == 0 && bits r.base 7 5 == 0 && r.expoff == 0 && r.count * w % 1024 == 0 &&
     (let o := traversal r r.dims; (List.range o.length).all fun n => o.getD n 0 == (n : Int)))
  r.reserved == 0 && decide (1 ≤ r.dims) && decide (r.dims ≤ 6) && decide (r.ty ≤ 24) && (isBfp r.ty || r.expoff == 0) && unused && bfp && slot

/-! ## Acceptance (R304, R305) -/

/-- Who accesses for a job (R310): its engine, or with 16 its die's scheduler. -/
def jobWho (die engine key group : Nat) : Who := ⟨engineUnit die engine, false, key, group⟩

/-- Bytes read for the scheduler in pieces of at most 64; `none` on any fault. -/
def cardBytes (s : State) (w : Who) (ptr : Word) (n : Nat) : State × Option (List Byte) :=
  (pieces ptr n).foldl (fun a p => match a.2 with
    | none => a
    | some bs => match translate a.1 w 0 (ptr + word p.1) p.2 .read with
      | (s, .trap _ _) => (s, none)
      | (s, .ok l) => let r := homeRead s l p.2; (r.1, some (bs ++ r.2))) (s, some [])

/-- A pointer's alignment and space, then its bytes (reason 0x01). -/
def cardBlock (s : State) (w : Who) (ptr align n : Nat) : State × Option (List Byte) :=
  if ptr % align != 0 || bits ptr 63 60 ∉ [0, 14] then (s, none) else cardBytes s w (word ptr) n

/-- Whole 64-bit words of some bytes. -/
def wordsOf (bs : List Byte) : List Word := (List.range (bs.length / 8)).map fun i => word (leNat ((bs.drop (8 * i)).take 8))

/-- A region word's form (reason 0x05). -/
def regionOk (r : Nat) : Bool :=
  bits r 59 44 == 0 || (!r.testBit 43 && (bits r 63 60 == 0 || (bits r 63 60 == 14 && bits r 38 10 == 0)))

/-- The card's own form (reason 0x02). -/
def cardOk (c : List Word) : Bool :=
  let w (i : Nat) : Nat := (c.getD i 0).toNat
  let kind := bits (w 0) 3 0
  decide (kind < 7) && bits (w 0) 15 11 == 0 && bits (w 0) 7 4 == 0 && (kind != 4 || w 1 == 0) && (!(kind ≤ 1) || w 3 == 0)

/-- The arrival or wait word's check (reason 0x09). -/
def wordFails (s : State) (w : Who) (ptr : Nat) (kind : Access) : State × Bool :=
  if ptr = 0 then (s, false)
  else if ptr % 16 != 0 || bits ptr 63 60 ∉ [0, 2, 14] then (s, true)
  else match translate s w 0 (word ptr) 16 kind with
    | (s, .ok _) => (s, false)
    | (s, .trap _ _) => (s, true)

/-- The stamp record's check (reason 0x01, R320, R449): its whole length takes writes. -/
def stampFails (s : State) (w : Who) (ptr : Nat) (len : Nat) : State × Bool :=
  if ptr = 0 then (s, false)
  else if ptr % 64 != 0 || bits ptr 63 60 != 0 then (s, true)
  else (pieces (word ptr) len).foldl (fun a p =>
    if a.2 then a else match translate a.1 w 0 (word (ptr + p.1)) p.2 .write with
      | (s, .ok _) => (s, false)
      | (s, .trap _ _) => (s, true)) (s, false)

/-- Fields of a collective descriptor (R315). -/
def collMembers (ws : List Word) : Nat := (ws.getD 0 0).toNat % 2 ^ 32
def collRank (ws : List Word) : Nat := (ws.getD 0 0).toNat / 2 ^ 32
def collId (ws : List Word) : Nat := (ws.getD 1 0).toNat % 2 ^ 32
def collOp (ws : List Word) : Nat := (ws.getD 1 0).toNat / 2 ^ 32
def collRing (ws : List Word) (p : Nat) : Nat := (ws.getD (2 + p / 8) 0).toNat / 2 ^ (8 * (p % 8)) % 256
/-- Q of R315: elements of a chunk. -/
def chunkSize (n members : Nat) : Nat := 64 * ceilDiv n (64 * members)
def chunkLen (n members c : Nat) : Nat := min (chunkSize n members) (n - c * chunkSize n members)

/-- R315 and R317 (reason 0x07). -/
def collOk (kind : Nat) (ptr : Nat) (ws : List Word) (src dst : Tensor) : Bool :=
  let m := collMembers ws
  bits ptr 63 60 == 0 && decide (2 ≤ m) && decide (m ≤ 32) && decide (collRank ws < m) &&
    (collOp ws == 0 || (collOp ws == 1 && kind == 5)) && ((List.range 32).all fun p => decide (p < m) || collRing ws p == 0) &&
    ws.getD 6 0 == 0 && !dst.slot && bits dst.base 63 60 == 0 && (kind == 5 || src.count == chunkLen dst.count m (collRank ws))

/-- R303's types and counts (reason 0x04). -/
def kindOk (kind : Nat) (src dst idx : Tensor) : Bool :=
  let outer (r : Tensor) : Nat := r.extent (r.dims - 1)
  if kind ≤ 1 then src.ty == dst.ty && src.count == dst.count
  else if kind ≤ 3 then
    src.ty == dst.ty && src.sliceCount == dst.sliceCount && idx.dims == 1 && (idx.ty == 6 || idx.ty == 7) &&
      idx.count == (if kind = 2 then outer dst else outer src)
  else if kind = 4 then true
  else if kind = 5 then src.ty == dst.ty && (src.ty == 13 || src.ty == 15) && src.count == dst.count
  else src.ty == dst.ty

/-- R312's form of a follow-on block (reason 0x08). -/
def followOk (ws : List Word) : Bool :=
  let c := (ws.getD 0 0).toNat
  let code := bits c 4 3
  code != 3 && bits c 31 5 == 0 &&
    (if code = 2 then bits c 2 1 == 0 && bits (ws.getD 2 0).toNat 5 0 == 0 && bits (ws.getD 2 0).toNat 63 60 == 0 else ws.getD 2 0 == 0)

/-- Everything the scheduler reads for a card, or the reason it refuses it (R305), in the order of the checks. -/
def validate (s : State) (die : Nat) (q : Submission) (c : List Word) : State × (Nat ⊕ Job) :=
  let w (i : Nat) : Nat := (c.getD i 0).toNat
  let kind := bits (w 0) 3 0
  let gkey := ((gridAt s q.ticket).map gridKey).getD 0
  let who := jobWho die 16 gkey q.group
  if !cardOk c then (s, .inl 2)
  else if !((List.range 8).all fun i => regionOk (w (8 + i))) then (s, .inl 5)
  else if bits (w 0) 31 16 != gkey then (s, .inl 6)
  else
    let a := wordFails s who (w 4) .sync
    let b := wordFails a.1 who (w 5) .read
    if a.2 || b.2 then (b.1, .inl 9)
    else
      let src := if kind = 4 then (b.1, some []) else cardBlock b.1 who (w 1) 64 64
      let dst := cardBlock src.1 who (w 2) 64 64
      let aux := if kind = 2 || kind = 3 || kind ≥ 5 then cardBlock dst.1 who (w 3) 64 64 else (dst.1, some [])
      let fol := if w 6 = 0 then (aux.1, some []) else cardBlock aux.1 who (w 6) 32 32
      let st := stampFails fol.1 who (w 7) (if w 6 = 0 then 64 else 128)
      match src.2, dst.2, aux.2, fol.2, st with
      | some sb, some db, some ab, some fb, (s, false) =>
        let sr := tensorOf (wordsOf sb)
        let dr := tensorOf (wordsOf db)
        let ar := tensorOf (wordsOf ab)
        if (kind != 4 && !tensorOk sr false) || !tensorOk dr true || ((kind == 2 || kind == 3) && !tensorOk ar false) then (s, .inl 3)
        else if !kindOk kind sr dr ar then (s, .inl 4)
        else if kind ≥ 5 && !collOk kind (w 3) (wordsOf ab) sr dr then (s, .inl 7)
        else if w 6 != 0 && !followOk (wordsOf fb) then (s, .inl 8)
        else
          (s, .inr { number := (dieAt s die).nextJob, card := c, srcRec := wordsOf sb, dstRec := wordsOf db, auxRec := wordsOf ab,
                     index := [], follow := wordsOf fb, group := q.group, ticket := q.ticket, gen := q.gen, st := .accepted,
                     engine := none, built := false, todo := [], scales := [], bytes := 0, discarded := false, accepted := s.cycle,
                     started := 0, lastWrite := 0, enqueued := 0, stalls := 0, stalledAt := 0, stallPage := none,
                     followed := 0, contributed := [], final := [], ovf := false, nan := false })
      | _, _, _, _, _ => (st.1, .inl 1)

/-- A held job's test (R307): still short of its generation. -/
def stillHeld (want gen : Nat) : Bool :=
  let d := (want + 2 ^ 32 - gen % 2 ^ 32) % 2 ^ 32
  decide (1 ≤ d) && decide (d < 2 ^ 31)

/-- The location of a job's wait word; `none` for none, or where it does not translate. -/
def waitLoc (s : State) (die : Nat) (j : Job) : Option Loc :=
  if cardWord j 5 = 0 then none
  else match (translate s (jobWho die 16 (cardKey j) j.group) 0 (word (cardWord j 5)) 16 .read).2 with
    | .ok l => some l
    | .trap _ _ => none

/-- A validated job enters the window, held or not (R304, R307), and its stamp is written. -/
def acceptJob (s : State) (die : Nat) (j : Job) : State :=
  let held := match waitLoc s die j with
    | some l => stillHeld (waitGen j) (syncAt s l).gen
    | none => false
  let j := { j with st := if held then .held else .accepted }
  writeStamp (modDie s die fun d => { d with jobs := d.jobs ++ [j], nextJob := d.nextJob + 1 }) die j 0

/-- A destination by its operand code. -/
def operandAt (code : Nat) : Operand :=
  if code < 64 then .x (BitVec.ofNat 6 code)
  else if code < 72 then .c (BitVec.ofNat 3 (code - 64))
  else if code < 104 then .k (BitVec.ofNat 5 (code - 72))
  else .zero

/-- The reply of R305 reaches the clause: its lane's destination takes the status, and the entry is freed. -/
def replyStatus (s : State) (q : Submission) (status : Word) : State :=
  match troupeAt s q.core q.pos with
  | none => s
  | some t =>
    if t.group != q.group || !(t.sb.any fun e => e.id == q.entry && e.kind == .submission) then s
    else
      let t := { t with sb := t.sb.filter fun e => e.id != q.entry }
      match t.clause with
      | none => setTroupe s q.core q.pos t
      | some cl => match cl.replies.find? fun r => r.1 == q.entry with
        | none => setTroupe s q.core q.pos t
        | some r =>
          let x : Ctx := ⟨q.core, q.pos, t, cl⟩
          let d := operandAt r.2
          let cl := match d with
            | .k n => if lowLane x.live == some q.lane then { cl with kw := tabPut cl.kw n.toNat status } else cl
            | .x n =>
              let v := mergeReg (laneBit q.lane) (known fun _ => status) ((tabGet? cl.xw n.toNat).getD (regOf t n.toNat))
              { cl with xw := tabPut cl.xw n.toNat v }
            | _ => cl
          setTroupe s q.core q.pos { t with clause := some { cl with replies := cl.replies.filter fun e => e.1 != q.entry } }

/-- CARD_ACCEPTANCE (R304, R305): the oldest card that has reached the die. -/
def execCardAcceptance (die : Nat) (s : State) : Out :=
  match (dieAt s die).inbox with
  | [] => .next s
  | q :: rest =>
    let s := modDie s die fun d => { d with inbox := rest }
    if (dieAt s die).jobs.length ≥ 512 then .next (replyStatus s q 1)
    else
      let c0 := homeRead s q.card 64
      let c1 := homeRead c0.1 (q.card.plus 64) 64
      match validate c1.1 die q (wordsOf (c0.2 ++ c1.2)) with
      | (s, .inl reason) => .next (replyStatus s q (word (reason * 256 + 2)))
      | (s, .inr j) => .next (replyStatus (acceptJob s die j) q (word (j.number % 2 ^ 32 * 65536)))

end Sys2Proof.Machine
end

