-- ==== Sys2Proof/Machine/Residency.lean ====
section
/-!
DEFINITION. What residency shares: which jobs name a group (R67, R321), a core's free resources (R15, R123, R128), placing and
admitting gangs (R72, R74, R91, R129, R130), returning a group's resources, requeueing (R70) and killing gangs (R455 to R457), and
the end of a grid (R66, R67, R85).
-/

namespace Sys2Proof.Machine

/-! ## Jobs that name a group -/

/-- The key of a gang member's group, from the group that a job's pointers are relative to. -/
def memberKey (g : Grid) (group m : Nat) : Nat :=
  let idx := group % 2 ^ 64
  groupKey (group / 2 ^ 64) (idx / gangSize g * gangSize g + (if m = 15 then idx % gangSize g else m))

/-- Groups whose scratchpad, slots or sync words a job names, or that its follow-on goes to. -/
def jobKeys (s : State) (j : Job) : List Nat :=
  match gridAt s j.ticket with
  | none => []
  | some g =>
    let ptr (p : Nat) : List Nat := if bits p 63 60 = 14 then [memberKey g j.group (bits p 55 52)] else []
    let region (r : Nat) : List Nat :=
      if bits r 59 44 != 0 && bits r 63 60 == 14 then [memberKey g j.group (bits r 42 39)] else []
    let dst := tensorOf j.dstRec
    let slot : List Nat := if dst.slot then [groupKey j.ticket (bits dst.base 39 8)] else []
    let target := groupKey j.ticket (followWord j 0 / 2 ^ 32)
    let note : List Nat :=
      if hasFollow j && bits (followWord j 3) 63 60 = 14 then [memberKey g target (bits (followWord j 3) 55 52)] else []
    let follow : List Nat := if hasFollow j then [target] else []
    ptr (cardWord j 4) ++ ptr (cardWord j 5) ++ note ++ (List.range 8).flatMap (fun i => region (cardWord j (8 + i))) ++ slot ++ follow

/-- Every job of the package, with its die. -/
def allJobs (s : State) : List (Nat × Job) := s.dies.flatMap fun d => d.2.jobs.map fun j => (d.1, j)

/-- Jobs that name one of some groups. -/
def jobsNaming (s : State) (keys : List Nat) : List (Nat × Job) :=
  (allJobs s).filter fun e => (jobKeys s e.2).any keys.contains

/-- A held job whose wait word lies in a group's scratchpad (R308). -/
def heldOnWord (s : State) (key : Nat) (j : Job) : Bool :=
  j.st == .held && bits (cardWord j 5) 63 60 == 14 && (match gridAt s j.ticket with
    | some g => memberKey g j.group (bits (cardWord j 5) 55 52) == key
    | none => false)

/-! ## Retirement (R67) -/

/-- No arrival for a sync word in a group's scratchpad is on its way (R236). -/
def arrivalsDone (s : State) (key : Nat) : Bool := s.arrivals.all fun a => a.word.area != .scratch || a.word.owner != key

/-- No started clause of the package is about to enqueue an entry that reads a slot of the group (R274). -/
def readersDone (s : State) (key : Nat) : Bool :=
  s.cores.all fun c => c.2.troupes.all fun t => match t.2.clause with
    | none => true
    | some cl => cl.tiles.all fun r => match r with
      | .entry _ e => (entrySlots e).all fun q => q.1 != key
      | .segment _ _ _ b => b != key

/-- Words and queue descriptors that waiting threads have translated and go on reading (R233, R246), with their troupes' positions. -/
def watchedLocs (k : CoreSt) : List (Nat × Loc) :=
  k.troupes.flatMap fun t => t.2.threads.filterMap fun h => match h.2.st with
    | .watching w _ _ => some (t.1, w)
    | .yieldedOn q _ _ _ _ => some (t.1, q)
    | _ => none

/-- No access that a troupe outside the group translated against its scratchpad is still to perform (R233), and no entry is still to
read its slots (R274). -/
def strangersDone (s : State) (key : Nat) (g : Group) : Bool :=
  ((List.range g.nslots).all fun h => slotReaders (slotTag g h) == 0) && readersDone s key &&
  s.cores.all fun c => (outstandingLocs none c ++ watchedLocs c.2).all fun e =>
    e.2.area != .scratch || e.2.owner != key || (c.1 == g.core && g.troupes.any fun t => t.2 == e.1)

/-- Everything of R67 and R233 but the copy jobs. -/
def groupDrained (s : State) (key : Nat) : Bool :=
  match groupAt s key with
  | none => false
  | some g =>
    (groupTroupes s g).all (fun e => e.2.2.clause.isNone && liveLanes e.2.2 == 0 && e.2.2.sb.isEmpty &&
      (tabGet s.remote (key * 32 + e.1) []).isEmpty) && (groupEntries s key).isEmpty && arrivalsDone s key && strangersDone s key g

/-- R67 holds, but for jobs held on words in its own scratchpad (R308). -/
def onlyHeldJobs (s : State) (key : Nat) : Bool :=
  groupDrained s key && (jobsNaming s [key]).all fun e => heldOnWord s key e.2

/-- The group's range is to be retained (R86, R130). -/
def retains (s : State) (gr : Grid) (g : Group) : Bool :=
  inherits gr && (groupTroupes s g).all fun e => laneList.all fun l => (threadOf e.2.2 l).keep

/-- A retained range waits for its pending entries (R130); a lane that has exited holds no fault (R156). -/
def rangeSettled (s : State) (gr : Grid) (g : Group) : Bool :=
  !retains s gr g || (groupTroupes s g).all fun e => (inheritRange gr).all fun n =>
    pendMask (regOf e.2.2 n) &&& ~~~faultedIn s g.core (regOf e.2.2 n) == 0

/-- A register of the range as it is kept: a lane whose load faulted holds a free value. -/
def keptReg (s : State) (t : Troupe) (n : Nat) : Reg :=
  let r := regOf t n
  if r.entry == .pending then
    encodeReg (keptLanes t) (mkLanes fun l => if (pendMask r).getLsbD l then freeLane s n l else laneOf r.vals l)
  else r

/-- Keeps the range for a successor: four sets at most, the oldest going first (R130). -/
def retainRange (s : State) (gr : Grid) (g : Group) : State :=
  if retains s gr g then
    let sets := (groupTroupes s g).map fun e => (e.1, (inheritRange gr).map fun n => (n, keptReg s e.2.2 n))
    modCore s g.core fun k => { k with retained := (k.retained ++ [(⟨g.ticket, g.index, sets⟩ : Retained)]).drop (k.retained.length + 1 - 4) }
  else s

/-- Takes a group off its core: threads, symbols, deliveries, parked lanes, scratchpad, slots, bands and tile entries go. A
delivery of it in service acts on nothing from now on (R398). -/
def removeGroup (s : State) (key : Nat) : State :=
  match groupAt s key with
  | none => s
  | some g =>
    let at_ := g.troupes.map fun e => e.2
    let reads := (groupEntries s key).flatMap entrySlots
    let s := countReaders s false (reads.filter fun r => r.1 != key)
    let s := modCore s g.core fun k =>
      { k with
        troupes := k.troupes.filter fun e => !at_.contains e.1,
        symbols := k.symbols.filter fun e => !at_.contains e.2.pos,
        deliveries := k.deliveries.filter fun d => d.kind == .notice || d.group != key,
        service := k.service.map fun d => if d.kind != .notice && d.group == key then { d with void := true } else d,
        passed := k.passed.filter fun e => !at_.contains e.1,
        waitRegs := k.waitRegs.filter fun p => !at_.contains p,
        waitSyms := k.waitSyms.filter fun p => !at_.contains p,
        quad := k.quad.filter (· != key),
        spills := k.spills.filter fun e => !at_.contains e.1,
        tileHi := k.tileHi.filter fun e => e.group != key,
        tileLo := k.tileLo.filter fun e => e.group != key }
    let own := ((List.range 32).map fun h => slotPoison key h 0 / 256) ++ (List.range 16).map fun b => bandPoison key b 0 / 256
    let focus := match s.focus with
      | some (c, p) => if c = g.core && at_.contains p then none else s.focus
      | none => none
    { s with focus, groups := tabDel s.groups key, arrivals := s.arrivals.filter fun a => a.word.area != .scratch || a.word.owner != key,
             poison := s.poison.filter fun p =>
        !own.contains (p / 256) && !(decide (Loc.key ⟨.scratch, 0, key, true, 14, 0, none⟩ / 64 ≤ p) && decide (p < Loc.key ⟨.scratch, 0, key + 1, true, 14, 0, none⟩ / 64)) }

/-- The sync words of a scratchpad that is no more are no longer undefined (R239); a saved group takes its words with it (R236). -/
def forgetWords (s : State) (key : Nat) : State :=
  { s with racedWords := s.racedWords.filter fun w => w * 16 / 2 ^ 20 != (2 ^ 132 + key * 2 ^ 20) / 2 ^ 20 }

/-- A region flush or a gang kill takes a group off its core: its queued deliveries are discarded, and those in service are void, notices among
them (R398). -/
def discardGroup (s : State) (key : Nat) : State :=
  let core (k : CoreSt) : CoreSt :=
    { k with deliveries := k.deliveries.filter fun d => d.group != key
             service := k.service.map fun d => if d.group == key then { d with void := true } else d }
  forgetWords (removeGroup { s with cores := tabMap s.cores fun _ k => core k } key) key

/-! ## The end of a grid -/

/-- Writes a grid's status word (R66), and the count of groups retired where asked. -/
def writeStatus (s : State) (g : Grid) (ticket state reason : Nat) (retired : Option Nat) : State :=
  let s := (unitStore s (g.recordAddr + 0xC0) (leBytes 8 (ticket * 2 ^ 32 + reason * 256 + state))).1
  match retired with
  | none => s
  | some n => (unitStore s (g.recordAddr + 0xD0) (leBytes 8 n)).1

/-- Sets the closed flag of a queue (R85). -/
def closeQueue (s : State) (ptr : Nat) : State :=
  if ptr = 0 then s
  else match unitLoc s (word ptr) true with
    | (s, none) => s
    | (s, some l) =>
      let r := homeRead s (l.plus 12) 4
      homeWrite r.1 (l.plus 12) (leBytes 4 (leNat r.2 ||| 1))

/-- A grid ends with a state: its status is written, a notice sent, its retained ranges dropped, its output queue closed, and
its lanes in a Minuet rotation gone (R66, R85, R130). -/
def endGrid (s : State) (ticket state : Nat) : State :=
  match gridAt s ticket with
  | none => s
  | some g =>
    let s := writeStatus s g ticket state 0 (some g.retired.length)
    let s := setGrid s ticket { g with status := state }
    let s := send s (.completion ticket state 0)
    let s := { s with cores := tabMap s.cores fun _ k => { k with retained := k.retained.filter fun r => r.ticket != ticket } }
    if isStage g then closeQueue s (recWord g 11) else s

/-- A group counts as retired; the grid completes with its last one (R67). -/
def noteRetired (s : State) (ticket index : Nat) : State :=
  let s := modGrid s ticket fun g => if g.retired.contains index then g else { g with retired := index :: g.retired }
  match gridAt s ticket with
  | none => s
  | some g => if g.status = 1 && g.retired.length ≥ g.current then endGrid s ticket (if g.contained then 4 else 2) else s

/-! ## A core's resources (R15) -/

/-- What a core holds for its groups: positions, register minimums or holdings above them, scratchpad, slots, bands. -/
def coreGroups (s : State) (core : Nat) : List Group := (s.groups.filter fun e => e.2.core == core).map fun e => e.2

/-- Free positions of a slot. -/
def freePositions (k : CoreSt) (slot : Nat) : List Nat :=
  ((List.range 16).map fun i => 16 * slot + i).filter fun p => (tabGet? k.troupes p).isNone

/-- The set a group of a grid would inherit on a core (R130). -/
def inheritedSet (k : CoreSt) (ticket : Nat) : Option Retained := k.retained.find? fun r => r.ticket == ticket

/-- Granules a new group's minimums take from the free pool: inherited ones count towards them. -/
def minimumNeed (k : CoreSt) (ticket : Nat) (g : Grid) : Nat :=
  ((List.range (troupeCount g)).map fun t =>
    regminOf g - (match inheritedSet k ticket with
      | some r => regGranules (tabGet r.sets t [])
      | none => 0)).foldl (· + ·) 0

/-- Free granules beyond every resident troupe's unused minimum. -/
def sparePool (k : CoreSt) : Nat := freeGranules k - ((programTroupes k).map fun e => unusedMin e.2).foldl (· + ·) 0

/-- x registers that an instruction writes. -/
def writtenX (i : Instr) : List Nat :=
  let r (d : DRole) (o : Operand) : List Operand := if d ∈ [.dest, .late, .plain, .lateX, .destXK, .valLate] then [o] else []
  xNumbers (match i.fmt with
    | .A f => r i.spec.d f.d
    | .B f => r i.spec.d f.d
    | .X f => r i.spec.d f.d
    | .L f => r i.spec.d f.d
    | .M f => r i.spec.d f.d ++ r i.spec.e f.e
    | .S _ => if i.spec.op = 0x62 then [.x 63] else []
    | _ => [])

/-- The most granules that an instruction's destination may reserve (R123): a symbol or an integer form 8, a whole f64 chain 24. -/
def mostFor (i : Instr) : Nat :=
  if i.spec.op ∈ [0x40, 0x41, 0x47, 0x50, 0x51, 0x52] then 8
  else match i.spec.fwd with | .none => 4 | .f64 => 24 | _ => 8

/-- The most granules that a clause of some instructions may reserve (R123): for the registers it writes, and for those it only marks, which
may still be pending in other lanes. -/
def clauseMost (is : List Instr) : Nat :=
  let written := distinct (is.flatMap writtenX)
  let marked := (distinct (is.flatMap marksOf)).filter fun n => !written.contains n
  (written.map fun n => ((is.filter fun i => (writtenX i).contains n).map mostFor).foldl max 0).foldl (· + ·) 0 + 24 * marked.length

/-- The instructions of a clause's words. -/
def wordsInstrs (ws : List Nat) : List Instr := ((cutWords 24 0 ws).getD []).filterMap fun e => decode e.2.1 e.2.2

/-- The most granules that a clause of a kernel may reserve: clause by clause from an address, up to the first word that is no clause header. -/
def kernelMost (s : State) : Nat → Word → Nat
  | 0, _ => 0
  | fuel + 1, a => match (unitBytes s a 4).2 with
    | none => 0
    | some h =>
      let hdr := headerOf (leNat h)
      if !headerOk (leNat h) then 0
      else match (unitBytes s (a + 4) (4 * hdr.count)).2 with
        | none => 0
        | some bs =>
          max (clauseMost (wordsInstrs ((List.range hdr.count).map fun i => leNat ((bs.drop (4 * i)).take 4))))
            (kernelMost s fuel (a + word (4 * (1 + hdr.count + if hdr.trailer then 1 else 0))))

/-- The largest reservation of a clause of the kernels on a core and of one more (R128). How the device knows it the spec does not say; the
model takes the most that R123 allows each clause, over the clauses that stand one after the other from the kernel's entry (DEDUCED,
notes/assumptions/38.md). -/
def kernelNeed (s : State) (core : Nat) (g : Grid) : Nat :=
  ((residentGrids s core).map fun t => kernelMost s 4096 (((gridAt s t).map recEntry).getD 0)).foldl max (kernelMost s 4096 (recEntry g))

/-- R15 on one core for n groups of a grid that need some granules, and R128's rule while no spill area is enabled. -/
def fitsMany (s : State) (g : Grid) (core n room : Nat) : Bool :=
  let k := coreOf s core
  let gs := coreGroups s core
  let sum (f : Group → Nat) : Nat := (gs.map f).foldl (· + ·) 0
  decide (n * troupeCount g ≤ ((List.range 4).map fun i => (freePositions k i).length).foldl (· + ·) 0) &&
    decide (room ≤ sparePool k) &&
    decide (sum (fun q => q.scratchSize) + n * scratchOf g ≤ 384 * 1024) && decide (sum (fun q => q.nslots) + n * slotsOf g ≤ 32) &&
    decide (sum (fun q => q.nbands) + n * bandsOf g ≤ 16) &&
    (k.spillbase.getLsbD 0 ||
      decide (((programTroupes k).map fun e => e.2.regmin).foldl (· + ·) 0 + n * (troupeCount g * regminOf g) + kernelNeed s core g ≤ 8064))

/-- R15 for one new group. -/
def fits (s : State) (ticket : Nat) (g : Grid) (core : Nat) : Bool := fitsMany s g core 1 (minimumNeed (coreOf s core) ticket g)

/-- R15 for n saved groups at once: they inherit nothing. -/
def fitsSaved (s : State) (g : Grid) (n core : Nat) : Bool := fitsMany s g core n (n * (troupeCount g * regminOf g))

/-! ## Placing a gang (R72, R81) -/

/-- The cores of a block, by member. -/
def blockCores (die a b n : Nat) : List Nat := (List.range n).map fun m => 64 * die + 8 * (2 * a + m / 2) + 2 * b + m % 2

/-- A gang's members that have not retired: the others are not admitted again (R67, R78, R79). -/
def liveMembers (g : Grid) (gang : Nat) : List Nat :=
  (List.range (gangSize g)).filter fun m => !g.retired.contains (gang * gangSize g + m)

/-- The saved gangs of a grid that wait on a die. -/
def savedGangs (s : State) (die ticket : Nat) : List PendingGang :=
  (dieAt s die).pending.filter fun p => p.ticket == ticket && p.saved

/-- The gangs that come back with a saved gang: of a Minuet grid all its saved ones, together (R465). -/
def comingBack (s : State) (die ticket : Nat) (g : Grid) (p : PendingGang) : List PendingGang :=
  if isMinuet g then savedGangs s die ticket else [p]

/-- Where a gang goes on a die, by member. A Minuet grid stands on one core of die 0 (R81); saved, it comes back whole, on the
lowest-numbered core that can take all of it (R465). -/
def placeGang (s : State) (ticket : Nat) (g : Grid) (p : PendingGang) (die : Nat) : Option (List Nat) :=
  if isMinuet g then
    if die ≠ 0 then none
    else if p.saved then ((List.range 64).find? (fitsSaved s g (savedGangs s die ticket).length)).map fun c => [c]
    else match g.minuetCore with
    | some c => if fits s ticket g c then some [c] else none
    | none => ((List.range 64).find? (fits s ticket g)).map fun c => [c]
  else if p.saved && gangSize g = 1 then
    (((List.range 64).map (64 * die + ·)).find? (fitsSaved s g 1)).map fun c => [c]
  else if gangSize g = 1 then
    let cs := ((List.range 64).map (64 * die + ·)).filter (fits s ticket g)
    match cs.find? fun c => (inheritedSet (coreOf s c) ticket).isSome with
    | some c => some [c]
    | none => cs.head?.map fun c => [c]
  else
    (List.range 16).findSome? fun i =>
      let b := blockCores die (i / 4) (i % 4) (gangSize g)
      if (liveMembers g p.gang).all fun m => if p.saved then fitsSaved s g 1 (b.getD m 0) else fits s ticket g (b.getD m 0) then some b else none

/-- A troupe's position: the slot with the most free positions (R91), and of it the lowest: DESIGN CHOICE (notes/assumptions/43.md), R91
gives only the slot. -/
def nextPosition (k : CoreSt) (taken : List Nat) : Nat :=
  let free (i : Nat) : List Nat := (freePositions k i).filter fun p => !taken.contains p
  let best := (List.range 4).foldl (fun b i => if (free i).length > (free b).length then i else b) 0
  (free best).headD 0

def positionsFor (k : CoreSt) (n : Nat) : List Nat := (List.range n).foldl (fun a _ => a ++ [nextPosition k a]) []

/-! ## Admission (R74, R129, R130) -/

/-- A thread as it starts. -/
def startThread (g : Grid) (start : Word) (index tidx lane : Nat) : Thread :=
  { exitedThread with pc := start, st := .runnable, wid := word (index * 2 ^ groupBits g + 32 * tidx + lane), orig := 32 * tidx + lane }

/-- A troupe as it starts: arguments in k0 to k7, `MODE` 1 (R129, R167), and an inherited range (R130, R131). -/
def startTroupe (s : State) (g : Grid) (start : Word) (key index tidx : Nat) (inh : Option Retained) : Troupe :=
  let got := inh.bind fun r => (tabGet? r.sets tidx).map fun regs => (r.pred, regs)
  { trapTroupe with
    group := key, tidx, regmin := regminOf g,
    threads := laneList.map (fun l => (l, startThread g start index tidx l)),
    kregs := (List.range 8).map (fun i => (i, g.record.getD (16 + i) 0)),
    regs := (match got with | some r => r.2 | none => []),
    inherited := (match got with | some r => word (r.1 % 2 ^ 32 * 2 + 1) | none => 0),
    turns := 0, nextStart := s.cycle }

/-- Admits one group to a core (R74): scratchpad and bands zero, slots free. -/
def admitGroup (s : State) (ticket : Nat) (g : Grid) (index core : Nat) (start : Word) (gang : Tab Nat) (saved : Bool) : State :=
  let key := groupKey ticket index
  let k := coreOf s core
  let inh := if saved then none else inheritedSet k ticket
  let ps := positionsFor k (troupeCount g)
  let gr : Group :=
    { ticket, index, member := index % gangSize g, core, gang, ntroupes := troupeCount g,
      troupes := (List.range ps.length).map fun t => (t, ps.getD t 0), scratch := [], scratchSize := scratchOf g,
      nslots := slotsOf g, slots := [], slotBytes := [], slotWritten := [], nbands := bandsOf g, bandTags := [], cells := [],
      captab := 0, posRecord := false, hang := 0, haltReq := none, halted := false, closing := false }
  let s := (List.range ps.length).foldl (fun s t => setTroupe s core (ps.getD t 0) (startTroupe s g start key index t inh)) s
  let s := match inh with
    | some r => modCore s core fun k => { k with retained := (match takeFirst (fun q => q.ticket == r.ticket) k.retained with
        | some (_, rest) => rest
        | none => k.retained) }
    | none => s
  setGroup s key gr

/-- The keys of a gang's members. -/
def gangTab (ticket : Nat) (g : Grid) (gang : Nat) : Tab Nat :=
  (List.range (gangSize g)).map fun m => (m, groupKey ticket (gang * gangSize g + m))

/-- Admits a gang's members at once (R72). -/
def admitGang (s : State) (ticket : Nat) (g : Grid) (p : PendingGang) (cores : List Nat) : State :=
  let s := (liveMembers g p.gang).foldl (fun s m =>
    admitGroup s ticket g (p.gang * gangSize g + m) (cores.getD m 0) (p.starts.getD m (recEntry g)) (gangTab ticket g p.gang) p.saved) s
  if isMinuet g then
    modGrid s ticket fun q => { q with minuetCore := cores.head?, turnGroup := if g.minuetCore.isNone then p.gang else q.turnGroup }
  else s

/-! ## Queues of pending gangs (R70, R73) -/

/-- A gang goes back ahead of its grid's unstarted gangs, among the requeued ones by index. -/
def requeue (s : State) (die : Nat) (p : PendingGang) : State :=
  modDie s die fun d =>
    let mine := d.pending.filter fun q => q.ticket == p.ticket
    let back := (p :: mine.filter fun q => q.requeued).mergeSort fun a b => decide (a.gang ≤ b.gang)
    { d with pending := d.pending.filter (fun q => q.ticket != p.ticket) ++ back ++ mine.filter fun q => !q.requeued }

/-- A die's pending grids in the order of R73. -/
def pendingGrids (s : State) (die : Nat) : List (Nat × Grid) :=
  let ts := firsts ((dieAt s die).pending.map fun p => p.ticket)
  (ts.filterMap fun t => (gridAt s t).map fun g => (t, g)).mergeSort fun a b =>
    decide (priorityOf b.2 < priorityOf a.2) || (priorityOf a.2 == priorityOf b.2 && decide (a.2.order ≤ b.2.order))

/-- A grid's next gang on a die. -/
def nextGang (s : State) (die ticket : Nat) : Option PendingGang := (dieAt s die).pending.find? fun p => p.ticket == ticket

def dropPending (s : State) (die ticket gang : Nat) : State :=
  modDie s die fun d => { d with pending := d.pending.filter fun p => !(p.ticket == ticket && p.gang == gang) }

/-! ## Draining buffered entries (R78, R404) -/

/-- The kind of check an entry's accesses take. -/
def entryAccess (k : SBKind) : Access :=
  match k with
  | .store => .write
  | .record => .write
  | .update _ _ _ => .atomic
  | .atomic _ _ _ _ => .atomic
  | .cas _ _ => .atomic
  | .cl _ => .read
  | .sadd => .sync
  | .submission => .read

/-- An entry of a restored troupe is translated again as it drains (R404): the entry, or the cause that stops it. -/
def renewEntry (s : State) (w : Who) (e : SBEntry) : State × (Nat ⊕ SBEntry) :=
  let kind := entryAccess e.kind
  match relocate s w e.loc 1 kind with
  | (s, .trap c _) => (s, .inl c)
  | (s, .ok loc) =>
    let r := e.ops.foldl (fun (a : State × Option Nat × List LaneOp) o =>
      match relocate a.1 w o.loc 1 kind with
      | (s, .ok l) => (s, a.2.1, a.2.2 ++ [{ o with loc := l }])
      | (s, .trap c _) => (s, some (a.2.1.getD c), a.2.2)) (s, none, [])
    match r.2.1 with
    | some c => (r.1, .inl c)
    | none => (r.1, .inr { e with loc, ops := r.2.2, again := false })

/-- A card goes to its die's scheduler (R323). -/
def sendCard (s : State) (core pos : Nat) (t : Troupe) (e : SBEntry) : State :=
  match e.ops with
  | [] => s
  | o :: _ =>
    let q : Submission := { core, pos, lane := o.lane, entry := e.id, group := t.group, ticket := t.group / 2 ^ 64, card := o.loc,
                            gen := o.val.toNat }
    modDie s o.val2.toNat fun d => { d with inbox := d.inbox ++ [q] }

/-- An entry with no buffer left to wait in stands with the arbiter until it performs (R78, R366). -/
def keepRemote (s : State) (slot : Nat) (e : SBEntry) : State :=
  { s with remote := tabPut s.remote slot (tabGet s.remote slot [] ++ [e]) }

/-- An entry under a revoked key that would leave the package is discarded with an event (R432). -/
def leavesRevoked (s : State) (key : Nat) (e : SBEntry) : Bool :=
  e.loc.area == .peer && s.mgmt.revoked.contains (((gridOfGroup s key).map gridKey).getD 0)

/-- A draining entry performs, an update that has no copy yet once it is granted one (R336). One whose line waits, or whose link does, stands with the
arbiter until it does not (R344, R358, R430). -/
def drainNow (s : State) (core key tidx : Nat) (e : SBEntry) : State :=
  if leavesRevoked s key e then send s (.event evRevoked core (e.loc.va % 2 ^ 52) 0)
  else if lineWaits s core e.loc || e.ops.any (fun o => lineWaits s core o.loc) || !mayCross s core e.loc true then
    keepRemote s (key * 32 + tidx) e
  else
  let s := coreRequest s core (((gridOfGroup s key).map gridKey).getD 0) (if e.kind == .store then 1 else 4) e.loc ((storeTab e).map fun b => b.2)
  let s := e.ops.foldl (fun s o => match updateInU e o with
    | some (op, ty) => if holdsU s core o.loc.line op ty then s else grantFor s core key op ty o.loc
    | none => s) s
  (performBuffered s core e).1

/-- A restored entry that drains is translated again first (R404): with 0x16 it waits, any other cause discards it with an event. -/
def drainAgain (s : State) (core key tidx : Nat) (e : SBEntry) : State :=
  match renewEntry s ⟨core, false, ((gridOfGroup s key).map gridKey).getD 0, key⟩ e with
  | (s, .inr e) => drainNow s core key tidx e
  | (s, .inl c) =>
    if c = 0x16 then keepRemote s (key * 32 + tidx) e else send s (.event evRestore core c (pointerOf s e.loc).toNat)

/-- One buffered entry of a flushed group drains (R78): a card not yet sent goes to its scheduler. -/
def drainEntry (s : State) (core pos : Nat) (t : Troupe) (e : SBEntry) : State :=
  if e.kind == .submission then (if e.sent then s else sendCard s core pos t e)
  else if e.again then drainAgain s core t.group t.tidx e
  else drainNow s core t.group t.tidx e

/-- Buffered entries of a flushed group drain to their homes (R78). -/
def drainGroup (s : State) (key : Nat) : State :=
  match groupAt s key with
  | none => s
  | some g => (groupTroupes s g).foldl (fun s e => e.2.2.sb.foldl (fun s q => drainEntry s g.core e.2.1 e.2.2 q) s) s

/-! ## Ending jobs -/

/-- Writes a collective's STATUS at its retirement (R315, R318). -/
def writeCollStatus (s : State) (die : Nat) (j : Job) (lost : Bool) : State :=
  if cardKind j < 5 then s
  else
    let v := 1 + (if j.ovf then 2 else 0) + (if j.nan then 4 else 0) + (if lost then 8 else 0)
    recordStore s (cardKey j) (256 + die) (word (cardWord j 3 + 0x38)) (leBytes 8 v)

/-- A job that ends with a reason (R313): its stamp, an event, its window entry. -/
def endJob (s : State) (die : Nat) (j : Job) (reason reason2 : Nat) : State :=
  let s := writeCollStatus s die j (reason == 0x84)
  let s := writeStamp s die { j with st := .ended reason reason2 } s.cycle
  let s := send s (.event evJob j.number reason reason2)
  calm (dropJob s die j.number) j.group

/-! ## Kills (R455 to R457) -/

/-- Resident members of a gang. -/
def gangResident (s : State) (ticket : Nat) (g : Grid) (gang : Nat) : List Nat :=
  ((gangTab ticket g gang).map fun e => e.2).filter fun k => (groupAt s k).isSome

/-- The sets that a gang's members left for successors go with it (R137). -/
def dropRetained (s : State) (ticket : Nat) (g : Grid) (gang : Nat) : State :=
  { s with cores := tabMap s.cores fun _ k =>
    { k with retained := k.retained.filter fun r => !(r.ticket == ticket && r.pred / gangSize g == gang) } }

/-- Tile records of a group's follow-on entries that end with it (R449): state 4. -/
def failEntries (s : State) (key : Nat) : State :=
  match groupAt s key with
  | none => s
  | some g => (groupEntries s key).foldl (fun s e =>
      entryRecords s g.core ((coreOf s g.core).tileHi.any fun q => q.id == e.id) e 4) s

/-- The tile records of follow-ons whose entries a killed gang's save images hold (R449, R456). -/
def failSaved (s : State) (key : Nat) : State :=
  let s := (tabGet s.savedTiles key []).foldl (fun s e => entryRecords s e.core e.hi e.entry 4) s
  { s with savedTiles := tabDel s.savedTiles key }

/-- Takes a killed member off its core: its sent entries complete (R455 step 2). -/
def killMember (s : State) (key : Nat) : State :=
  match groupAt s key with
  | none => s
  | some g =>
    let sent := (groupTroupes s g).flatMap fun e => (e.2.2.sb.filter fun q => q.sent).map fun q => (e.1, q)
    discardGroup (failEntries (sent.foldl (fun s e => drainNow s g.core key e.1 e.2) s) key) key

/-- A gang that is not relaunched: its groups count as retired (R457). -/
def retireGang (s : State) (ticket : Nat) (g : Grid) (gang : Nat) : State :=
  let s := modGrid s ticket fun q => { q with contained := true }
  (List.range (gangSize g)).foldl (fun s m => noteRetired s ticket (gang * gangSize g + m)) s

/-- Whether a gang is still there to be killed: resident, saved or pending. -/
def gangAlive (s : State) (ticket : Nat) (g : Grid) (gang : Nat) : Bool :=
  !(gangResident s ticket g gang).isEmpty || s.dies.any fun d => d.2.pending.any fun p => p.ticket == ticket && p.gang == gang

/-- The kill's records: its own and, of a cause that kills in place of a delivery, the trap's, in the black box; and its event (R450, R457). -/
def noteKill (s : State) (die core ticket gang reason : Nat) : State :=
  let s := blackBox s die core (reason % 256) gang reason
  let s := if 0x40 ≤ reason % 256 && reason % 256 ≤ 0x44 then blackBox s die core 4 gang (reason % 256) else s
  send s (.event (reason % 256) ticket gang (reason / 256))

/-- Where a gang stands: die and first core. -/
def gangSeat (s : State) (ticket : Nat) (g : Grid) (gang : Nat) : Nat × Nat :=
  match (gangResident s ticket g gang).head?.bind (groupAt s) with
  | some q => (coreDie q.core, q.core)
  | none => (gangDie g gang, 0)

/-- A member runs a clause (R36). -/
def gangRunning (s : State) (ticket : Nat) (g : Grid) (gang : Nat) : Bool :=
  (gangResident s ticket g gang).any fun k => match groupAt s k with
    | some q => (groupTroupes s q).any fun e => e.2.2.clause.isSome
    | none => false

/-- A kill begins: its record, and no new clause of the members (R455 step 1). -/
def beginKill (s : State) (ticket : Nat) (g : Grid) (gang reason : Nat) : State :=
  let at_ := gangSeat s ticket g gang
  let s := noteKill s at_.1 at_.2 ticket gang reason
  let s := (gangResident s ticket g gang).foldl (fun s k => modGroup s k fun q => { q with closing := true }) s
  modGrid s ticket fun q => { q with dying := tabPut q.dying gang reason }

/-- Kills of a gang that were asked for before this one was carried out are recorded and have no other effect (R455). -/
def recordOthers (s : State) (die core ticket gang : Nat) : State :=
  let reason (m : Instr) : Option Nat := match m with
    | .gangKill t g r => if t = ticket ∧ g = gang ∧ r ≠ goOnKill then some r else none
    | .poisonConsumed t g => if t = ticket ∧ g = gang then some 0x40 else none
    | _ => none
  let mine (m : Instr) : Bool := match m with
    | .gangKill t g _ => t == ticket && g == gang
    | .poisonConsumed t g => t == ticket && g == gang
    | _ => false
  (s.agenda.filterMap reason).foldl (fun s r => blackBox s die core (r % 256) gang r) { s with agenda := s.agenda.filter fun m => !mine m }

/-- The kill is carried out (R455): unsent entries, tile work and retained sets are discarded, jobs end with 0x83, the resources
return, and the gang, retired members and all, is relaunched at most three times (R457). -/
def carryKill (s : State) (ticket : Nat) (g : Grid) (gang : Nat) : State :=
  let keys := (gangTab ticket g gang).map fun e => e.2
  let at_ := gangSeat s ticket g gang
  let s := recordOthers s at_.1 at_.2 ticket gang
  let s := (jobsNaming s keys).foldl (fun s e => endJob s e.1 e.2 0x83 0) s
  let s := keys.foldl failSaved s
  let s := dropRetained (keys.foldl killMember s) ticket g gang
  let s := { s with dies := tabMap s.dies fun _ d =>
    { d with pending := d.pending.filter fun p => !(p.ticket == ticket && p.gang == gang) } }
  let n := tabGet g.killed gang 0 + 1
  let again := isRelaunchable g && decide (n ≤ 3)
  let s := modGrid s ticket fun q =>
    { q with killed := tabPut q.killed gang n, dying := tabDel q.dying gang,
             retired := if again then q.retired.filter (fun i => i / gangSize g != gang) else q.retired }
  let s := raiseTrigger s (Config.containmentTrigger 0 % 16)
  if again then
    requeue (blackBox s at_.1 at_.2 0 gang 0) at_.1 { ticket, gang, requeued := true, saved := false, starts := [] }
  else retireGang s ticket g gang

/-- GANG_KILL (R36, R455): the gang dies once no member runs a clause; a kill that comes while one waits is only recorded. -/
def execGangKill (ticket gang reason : Nat) (s : State) : Out :=
  match gridAt s ticket with
  | none => .next s
  | some g =>
    if !gangAlive s ticket g gang then .next s
    else
      let running := gangRunning s ticket g gang
      match tabGet? g.dying gang with
      | some _ =>
        let s := if reason = goOnKill then s else let at_ := gangSeat s ticket g gang; blackBox s at_.1 at_.2 (reason % 256) gang reason
        .next (if running then s else carryKill s ticket g gang)
      | none => if reason = goOnKill then .next s else
        let s := beginKill s ticket g gang reason
        .next (if running then s else carryKill s ticket g gang)

/-- POISON_CONSUMED (R454): the consumer's gang is killed with cause 0x40. -/
def execPoisonConsumed (ticket gang : Nat) (s : State) : Out := execGangKill ticket gang 0x40 s

end Sys2Proof.Machine
end

