-- ==== Sys2Proof/Machine/JobEvents.lean ====
section
/-!
DEFINITION. Copy jobs at work: start (R309), layout of their writes (R300 to R303, R314), accesses (R310, R311), follow-ons
(R312), retirement and errors (R313, R318), holds (R307, R308) and collectives (R315 to R317, R433).
-/

namespace Sys2Proof.Machine

/-! ## Laying out a job's writes -/

/-- Element offsets of a record in traversal order. -/
def offsets (r : Tensor) : List Int := traversal r r.dims

/-- A byte address: base plus a signed count, modulo 2^64 (R300). One that leaves base's space faults when the engine reaches it; it
stands in a space that no access has, so that its cause is 0x20 (DEDUCED, notes/assumptions/36.md). -/
def addrOf (base : Nat) (o : Int) : Word :=
  let a := word base + word (ofSigned 64 o)
  if bits a.toNat 63 60 = bits base 63 60 then a else setBits a 63 60 0xC

/-- The bytes of one element of a plain type. -/
def elemBytes (base w : Nat) (o : Int) : List Word := (List.range (w / 8)).map fun i => addrOf base (o * (w / 8 : Nat) + (i : Nat))

/-- Bytes of a plain copy: destination, source. -/
def plainPairs (dst src : Tensor) (ps : List (Int × Int)) : List (Word × ByteSrc) :=
  ps.flatMap fun p =>
    (elemBytes dst.base (tileWidth dst.ty) p.1).zip ((elemBytes src.base (tileWidth src.ty) p.2).map ByteSrc.at)

/-- Blocks of a BFP record: mantissas and exponent (R162, R300). -/
def blockBytes (r : Tensor) (b : Int) : List Word :=
  (List.range (4 * tileWidth r.ty)).map fun i => addrOf r.base (b * (4 * tileWidth r.ty : Nat) + (i : Nat))
def exponentAt (r : Tensor) (b : Int) : Word := addrOf r.base ((r.expoff : Nat) + b)

/-- Bit k of a BFP element's mantissa (R162, R300): its byte and its place in it. -/
def mantissaBit (r : Tensor) (o : Int) (k : Nat) : Word × Nat :=
  let n := tileWidth r.ty * (o % 32).toNat + k
  (addrOf r.base (o / 32 * (4 * tileWidth r.ty : Nat) + (n / 8 : Nat)), n % 8)

/-- The element that each of a destination block's 32 takes: the last paired with it, so that the highest slice remains (R303). -/
def blockElems (ps : List (Int × Int)) (b : Int) : List (Option Int) :=
  let mine := (ps.filter fun p => p.1 / 32 == b).reverse
  (List.range 32).map fun e => (mine.find? fun p => p.1 == b * 32 + (e : Nat)).map fun p => p.2

/-- Eight bits as a byte: a byte of memory where they are one, in order. A bit that no element gives is one of `free`. -/
def byteOf (bs : List (Option (Word × Nat))) (free : Byte) : ByteSrc :=
  match bs with
  | some p :: _ => if bs == (List.range 8).map fun k => some (p.1, k) then .at p.1 else .bits bs free
  | _ => .bits bs free

/-- Byte i of a block's mantissas, moved as they stand from the elements paired with the block's own. -/
def movedByte (src : Tensor) (els : List (Option Int)) (free : Byte) (i : Nat) : ByteSrc :=
  let w := tileWidth src.ty
  byteOf ((List.range 8).map fun k => (els.getD ((8 * i + k) / w) none).map fun o => mantissaBit src o ((8 * i + k) % w)) free

/-- Distinct blocks in order of first appearance. -/
def firstBlocks : List Int → List Int → List Int
  | [], seen => seen.reverse
  | b :: r, seen => firstBlocks r (if seen.contains b then seen else b :: seen)

/-- An element where a record holds it. -/
def blockElem (r : Tensor) (o : Int) : BlockElem :=
  .mem (addrOf r.base (o / 32 * (4 * tileWidth r.ty : Nat))) (o % 32).toNat (exponentAt r (o / 32))

/-- What a block's mantissa bytes and, last, its exponent come from: one source block's elements move with its exponent; elements of
several blocks, or of a block written in part, are encoded together as R174 does (DESIGN CHOICE, rounding to nearest even:
notes/assumptions/32.md). -/
def blockSource (dst src : Tensor) (ps : List (Int × Int)) (b : Int) : List ByteSrc :=
  let w := tileWidth src.ty
  let mine := blockElems ps b
  let els := mine.filterMap fun o => o
  let q := els.headD 0 / 32
  if els.length = 32 && els.all fun o => o / 32 == q then
    (List.range (4 * w)).map (movedByte src mine 0) ++ [.at (exponentAt src q)]
  else
    let all := (List.range 32).map fun e => match mine.getD e none with
      | some o => blockElem src o
      | none => blockElem dst (b * 32 + (e : Nat))
    (List.range (4 * w + 1)).map fun i => .enc w i all

/-- Bytes of a BFP copy to memory: every block's mantissas, then the exponents. -/
def blockPairs (dst src : Tensor) (ps : List (Int × Int)) : List (Word × ByteSrc) :=
  let bs := (firstBlocks (ps.map fun p => p.1 / 32) []).map fun b => (b, blockSource dst src ps b)
  bs.flatMap (fun e => (blockBytes dst e.1).zip e.2) ++
    bs.map fun e => (exponentAt dst e.1, e.2.getD (4 * tileWidth src.ty) (.val 0))

/-- Mantissas of a BFP copy to a slot, which takes no exponents (R302). The bits that a block written in part does not get are free
(notes/assumptions/32.md). -/
def slotBlocks (moves : Nat) (dst src : Tensor) (ps : List (Int × Int)) : List (Word × ByteSrc) :=
  (firstBlocks (ps.map fun p => p.1 / 32) []).flatMap fun b =>
    ((blockBytes dst b).zip (List.range (4 * tileWidth src.ty))).map fun e =>
      (e.1, movedByte src (blockElems ps b) (Config.racyByte moves e.1.toNat) e.2)

/-- Destination and source bytes of paired elements; a slot takes bytes at offsets from 0 (R302). -/
def copyPairs (moves : Nat) (dst src : Tensor) (ps : List (Int × Int)) : List (Word × ByteSrc) :=
  let d := if dst.slot then { dst with base := 0 } else dst
  if isBfp dst.ty then (if dst.slot then slotBlocks moves d src ps else blockPairs d src ps) else plainPairs d src ps

/-- Bytes of constant elements (R303 fill). -/
def fillPairs (dst : Tensor) (pattern : Nat) : List (Word × ByteSrc) :=
  let d := if dst.slot then { dst with base := 0 } else dst
  let w := tileWidth d.ty
  if isBfp d.ty then
    let bs := firstBlocks ((offsets d).map fun o => o / 32) []
    let mant := leBytes (4 * w) (packElems w 32 fun _ => pattern)
    bs.flatMap (fun b => (blockBytes d b).zip (mant.map ByteSrc.val)) ++
      (if dst.slot then [] else bs.map fun b => (exponentAt d b, .val (BitVec.ofNat 8 (bits pattern 63 56))))
  else (offsets d).flatMap fun o => (elemBytes d.base w o).zip ((leBytes (w / 8) (pattern % 2 ^ w)).map ByteSrc.val)

/-- Cuts bytes into flits: runs of contiguous bytes within one aligned 128-byte span (R314). -/
def cutFlits : List (Word × ByteSrc) → Option JobFlit → List JobFlit
  | [], none => []
  | [], some f => [f]
  | (a, v) :: r, none => cutFlits r (some { dst := a, src := [v] })
  | (a, v) :: r, some f =>
    if a = f.dst + word f.src.length && a.toNat % 128 != 0 then cutFlits r (some { f with src := f.src ++ [v] })
    else f :: cutFlits r (some { dst := a, src := [v] })

/-- Cuts bytes of a slot into whole aligned sub-blocks, the last pairing of a byte holding (R258, R302, R303). A byte of a touched
sub-block that the job does not write is a free value (notes/assumptions/32.md). -/
def slotFlits (s : State) (ps : List (Word × ByteSrc)) : List JobFlit :=
  let last := ps.reverse
  (firsts (ps.map fun p => p.1.toNat / 128)).map fun b =>
    { dst := word (128 * b),
      src := (List.range 128).map fun i => match last.find? fun p => p.1 == word (128 * b + i) with
        | some p => p.2
        | none => .val (Config.racyByte s.moves (128 * b + i)) }

/-- Element pairs of a gather or scatter: outer slices by index (R303). -/
def slicePairs (gather : Bool) (dst src : Tensor) (idx : List Nat) : List (Int × Int) :=
  let inner (r : Tensor) : List Int := traversal r (r.dims - 1)
  let top (r : Tensor) : Int := r.stride.getD (r.dims - 1) 0
  let pairs := (inner dst).zip (inner src)
  (List.range idx.length).flatMap fun i =>
    let n := idx.getD i 0
    pairs.map fun p =>
      if gather then (p.1 + (i : Nat) * top dst, p.2 + (n : Nat) * top src)
      else (p.1 + (n : Nat) * top dst, p.2 + (i : Nat) * top src)

/-! ## Accesses (R310, R311) -/

/-- Whether a byte range in space 0x0, 0x1 or 0xE lies within a footprint region. -/
def inRegion (g : Option Grid) (group : Nat) (r ptr len : Nat) : Bool :=
  let sp := bits ptr 63 60
  bits r 59 44 != 0 &&
    (if sp = 14 then
       match g with
       | none => false
       | some g => bits r 63 60 == 14 && memberKey g group (bits r 42 39) == memberKey g group (bits ptr 55 52) &&
           decide (bits r 9 0 * 512 ≤ bits ptr 18 0) && decide (bits ptr 18 0 + len ≤ (bits r 9 0 + bits r 59 44) * 512)
     else bits r 63 60 == 0 && decide (bits r 42 0 * 512 ≤ bits ptr 51 0) &&
       decide (bits ptr 51 0 + len ≤ (bits r 42 0 + bits r 59 44) * 512))

/-- The footprint's check (R311): spaces 0x2 and 0x3 lie outside every footprint. -/
def footprintOk (s : State) (j : Job) (write : Bool) (ptr : Word) (len : Nat) : Bool :=
  if bits ptr.toNat 63 60 ∈ [0, 1, 14] then
    (List.range (if write then 4 else 8)).any fun i =>
      inRegion (gridAt s j.ticket) j.group (cardWord j (if write then 12 + i else 8 + i)) ptr.toNat len
  else true

/-- What a job's access meets: a location, a page to wait for (R310), or a reason that ends the job (R313). -/
inductive Reached where
  | at (l : Loc)
  | stall (cause : Nat) (ptr : Word)
  | ends (reason : Nat)

/-- Who accesses for a job: the engine that runs it (R310), or its scheduler. -/
def engineWho (die : Nat) (j : Job) : Who := jobWho die (j.engine.getD 16) (cardKey j) j.group

/-- One access of a job. -/
def jobAccess (s : State) (die : Nat) (j : Job) (write : Bool) (ptr : Word) (len : Nat) : State × Reached :=
  if !footprintOk s j write ptr len then (s, .ends 0x80)
  else match translate s (engineWho die j) 0 ptr len (if write then .write else .read) with
    | (s, .ok l) => (s, .at l)
    | (s, .trap c a) => if c = 0x10 || c = 0x16 then (s, .stall c a) else (s, .ends c)

/-- The arrival word's location (R314). -/
def arrivalLoc (s : State) (die : Nat) (j : Job) : State × Option Reached :=
  if cardWord j 4 = 0 then (s, none)
  else match translate s (engineWho die j) 0 (word (cardWord j 4)) 16 .sync with
    | (s, .ok l) => (s, some (.at l))
    | (s, .trap c a) => if c = 0x10 || c = 0x16 then (s, some (.stall c a)) else (s, some (.ends c))

/-- The bytes of a block from the one that holds an element's first mantissa bit to the one that holds its last. -/
def elemBytesOf (w : Nat) (block : Word) (index : Nat) : List Word :=
  (List.range ((w * index + w - 1) / 8 - w * index / 8 + 1)).map fun k => block + word (w * index / 8 + k)

/-- The addresses an element, and a byte, are read from. -/
def BlockElem.reads (w : Nat) : BlockElem → List Word
  | .mem b i x => elemBytesOf w b i ++ [x]
  | .lit _ _ => []

def ByteSrc.reads : ByteSrc → List Word
  | .at a => [a]
  | .val _ => []
  | .bits bs _ => (bs.filterMap fun b => b.map fun p => p.1).eraseDups
  | .enc w _ els => (els.flatMap (BlockElem.reads w)).eraseDups

/-- The mantissa and the exponent of an element, its sources read. -/
def BlockElem.parts (vals : Tab Byte) (w : Nat) : BlockElem → Nat × Nat
  | .mem b i x =>
    (leNat ((elemBytesOf w b i).map fun a => tabGet vals a.toNat 0) / 2 ^ (w * i % 8) % 2 ^ w, (tabGet vals x.toNat 0).toNat)
  | .lit m x => (m, x)

/-- The value of an element read for encoding (R162). -/
def elemValue (vals : Tab Byte) (w : Nat) (e : BlockElem) : FVal :=
  let p := e.parts vals w
  let m := toSigned w p.1
  if p.2 = 255 then .nan else .fin (decide (m < 0)) m.natAbs ((p.2 : Int) - 127 - ((w : Int) - 2))

/-- A destination byte, its sources read. Elements of one exponent keep their mantissas and the exponent; others are encoded together
(notes/assumptions/32.md). -/
def ByteSrc.value (vals : Tab Byte) : ByteSrc → Byte
  | .at a => tabGet vals a.toNat 0
  | .val b => b
  | .bits bs free => BitVec.ofNat 8 ((List.range 8).foldl (fun n k => n + 2 ^ k * (match bs.getD k none with
      | some b => (tabGet vals b.1.toNat 0).toNat / 2 ^ b.2 % 2
      | none => free.toNat / 2 ^ k % 2)) 0)
  | .enc w i els =>
    let ps := els.map fun e => e.parts vals w
    let x := (ps.headD (0, 0)).2
    if ps.all fun p => p.2 == x then BitVec.ofNat 8 (if i < 4 * w then packElems w 32 (fun e => (ps.getD e (0, 0)).1) / 2 ^ (8 * i) else x)
    else
    let r := bfpEncode w 1 (els.map (elemValue vals w))
    BitVec.ofNat 8 (if i < 4 * w then packElems w 32 (fun e => r.2.1.getD e 0) / 2 ^ (8 * i) else r.1)

/-- Runs of consecutive source addresses: address and length within 64-byte sectors. -/
def sourceRuns : List Word → List (Word × Nat)
  | [] => []
  | a :: r => match sourceRuns r with
    | (b, n) :: t => if b = a + 1 && b.toNat % 64 != 0 then (a, n + 1) :: t else (a, 1) :: (b, n) :: t
    | [] => [(a, 1)]

/-- The locations of some runs, or the first thing in the way. -/
def reachRuns (s : State) (die : Nat) (j : Job) : List (Word × Nat) → State × (Reached ⊕ List (Word × Nat × Loc))
  | [] => (s, .inr [])
  | (a, n) :: r => match jobAccess s die j false a n with
    | (s, .at l) => match reachRuns s die j r with
      | (s, .inr ls) => (s, .inr ((a, n, l) :: ls))
      | q => q
    | (s, x) => (s, .inl x)

/-- Source bytes read at the homes: value by address, and whether any is poisoned. -/
def readRuns (s : State) (ls : List (Word × Nat × Loc)) : State × Tab Byte × Bool :=
  ls.foldl (fun a q =>
    let r := homeRead a.1 q.2.2 q.2.1
    (r.1, a.2.1 ++ (List.range q.2.1).map (fun i => ((q.1 + word i).toNat, r.2.getD i 0)), a.2.2 || poisoned r.1 q.2.2 q.2.1))
    (s, [], false)

/-- The slot a job writes: target group and handle (R302). -/
def slotTarget (j : Job) : Option (Nat × Nat) :=
  let d := tensorOf j.dstRec
  if d.slot then some (groupKey j.ticket (bits d.base 39 8), bits d.base 4 0) else none

/-- Everything one flit needs: its sources, its destination, the arrival word. -/
structure FlitPlan where
  runs : List (Word × Nat × Loc)
  dst : Option Loc
  word : Option Loc

def planFlit (s : State) (die : Nat) (j : Job) (f : JobFlit) : State × (Reached ⊕ FlitPlan) :=
  match reachRuns s die j (sourceRuns (f.src.flatMap ByteSrc.reads)) with
  | (s, .inl x) => (s, .inl x)
  | (s, .inr runs) =>
    let d := if (slotTarget j).isSome then (s, (none : Option Reached)) else
      let r := jobAccess s die j true f.dst f.src.length
      (r.1, some r.2)
    match d with
    | (s, some (.stall c a)) => (s, .inl (.stall c a))
    | (s, some (.ends c)) => (s, .inl (.ends c))
    | (s, d) =>
      let dst := match d with | some (.at l) => some l | _ => none
      match arrivalLoc s die j with
      | (s, none) => (s, .inr ⟨runs, dst, none⟩)
      | (s, some (.at l)) => (s, .inr ⟨runs, dst, some l⟩)
      | (s, some x) => (s, .inl x)

/-- The blocks that a flit's bytes are encoded from. -/
def encBlocks (f : JobFlit) : List (List BlockElem) :=
  (f.src.filterMap fun b => match b with | .enc _ _ els => some els | _ => none).eraseDups

/-- Whether an earlier flit still has to write one of the bytes of a scatter, so that the highest slice remains (R303), or an element
that the flit keeps of a block written in part. -/
def scatterWaits (j : Job) (n : Nat) : Bool :=
  match j.todo[n]? with
  | none => false
  | some f =>
    let bs := encBlocks f
    let kept := (f.src.filter fun b => match b with | .enc _ _ _ => true | _ => false).flatMap ByteSrc.reads
    (j.todo.take n).any fun q =>
      (cardKind j == 3 && decide (q.dst.toNat < f.dst.toNat + f.src.length) && decide (f.dst.toNat < q.dst.toNat + q.src.length)) ||
        ((encBlocks q).all (fun b => !bs.contains b) && kept.any fun a => decide (q.dst.toNat ≤ a.toNat) && decide (a.toNat < q.dst.toNat + q.src.length))

/-- A block encoded from several is encoded once: what one flit read holds for the flits with the block's other bytes. -/
def fixBlocks (f : JobFlit) (vals : Tab Byte) (bad : Bool) (todo : List JobFlit) : List JobFlit :=
  let bs := encBlocks f
  if bs.isEmpty then todo
  else todo.map fun q =>
    if (encBlocks q).any bs.contains then
      { q with src := q.src.map (fun b => match b with
          | .enc w i els => if bs.contains els then .val ((ByteSrc.enc w i els).value vals) else b
          | b => b), poison := q.poison || bad }
    else q

/-- The bytes of a flit, its sources read. -/
def flitBytes (f : JobFlit) (vals : Tab Byte) : List Byte := f.src.map (ByteSrc.value vals)

/-- Pages that addresses reach first, at most 64. -/
def pagesAhead (as : List Word) : List Nat :=
  (firsts ((as.filter fun a => bits a.toNat 63 61 == 0).map fun a => bits a.toNat 51 0 / 65536)).take 64

/-- Source elements that a collective has still to contribute, and destination elements that it has still to write: first bytes. -/
def chunksAhead (j : Job) : List Word × List Word :=
  let src := tensorOf j.srcRec
  let dst := tensorOf j.dstRec
  let m := collMembers j.auxRec
  let first (r : Tensor) (o : Int) : Word :=
    if isBfp r.ty then addrOf r.base (o / 32 * (4 * tileWidth r.ty : Nat)) else addrOf r.base (o * (tileWidth r.ty / 8 : Nat))
  let left (r : Tensor) (gone : List Nat) : List Word :=
    let os := offsets r
    (List.range m).flatMap fun c => if gone.contains c then [] else
      ((os.drop (c * chunkSize dst.count m)).take (chunkLen dst.count m c)).map (first r)
  if cardKind j = 5 then (left src j.contributed, left dst j.final)
  else if cardKind j = 6 then ((if j.contributed.isEmpty then (offsets src).map (first src) else []), left dst j.final)
  else ([], [])

/-- The engine has the pages of both traversals ahead walked (R310): what fails is left until it is reached. -/
def walkAhead (s : State) (die : Nat) (j : Job) : State :=
  let ahead (as : List Word) (s : State) : State :=
    (pagesAhead as).foldl (fun s p => (lookup s (engineUnit die (j.engine.getD 16)) (p * 65536)).1) s
  let more := chunksAhead j
  let s := ahead ((j.todo.flatMap fun f => f.src.flatMap ByteSrc.reads) ++ more.1) s
  if (slotTarget j).isSome then s else ahead ((j.todo.map fun f => f.dst) ++ more.2) s

/-- A flit to the next member's copy of a collective's destination (R315): this member's destination does not receive it. -/
def isCopy (j : Job) (f : JobFlit) : Bool := decide (cardKind j ≥ 5) && bits f.dst.toNat 63 60 == 2

/-- One flit performs (R302, R303, R314, R454): a discarded slot write makes no arrival, and poison is not delivered to the host. -/
def performFlit (s : State) (die : Nat) (j : Job) (n : Nat) (f : JobFlit) (p : FlitPlan) : State :=
  let s := p.runs.foldl (fun s r => requestTo s (cardKey j) 0 r.2.2 []) s
  let s := p.dst.toList.foldl (fun s l => requestTo s (cardKey j) 1 l []) s
  let q := readRuns s p.runs
  let r := (q.1, q.2.1, q.2.2 || f.poison)
  let bs := flitBytes f r.2.1
  let landed : State × Bool := match slotTarget j, p.dst with
    | some (key, h), _ =>
      let q := landBlock r.1 key h f.dst.toNat bs
      (if r.2.2 && q.2 then addPoison q.1 [slotPoison key h (f.dst.toNat / 64), slotPoison key h (f.dst.toNat / 64 + 1)] else q.1, q.2)
    | none, some l =>
      if r.2.2 && l.area == .host then (send r.1 (.event evPoison (cardKey j) (l.addr % 2 ^ 52) 0), true) else
      let s := homeWrite r.1 l bs
      (if r.2.2 then addPoison s ((List.range (bs.length / 64 + 2)).filterMap fun i =>
          if (l.key / 64 + i) * 64 < l.key + bs.length then some (l.key / 64 + i) else none) else s, true)
    | none, none => (r.1, false)
  let s := landed.1
  let s := match p.word with
    | some w => if landed.2 && !isCopy j f then { s with arrivals := s.arrivals ++ [{ word := w, gen := j.gen, bytes := bs.length, key := cardKey j }] } else s
    | none => s
  let j := { j with todo := fixBlocks f r.2.1 r.2.2 (j.todo.eraseIdx n), bytes := j.bytes + (if landed.2 && !isCopy j f then bs.length else 0),
                    discarded := j.discarded || !landed.2, lastWrite := if landed.2 then s.cycle else j.lastWrite }
  walkAhead (setJob s die j) die j

/-- A collective job makes no progress until every member's job has been accepted (R315). -/
def hasJoined (s : State) (j : Job) : Bool :=
  decide (cardKind j < 5) || j.joined || Config.collectiveJoined s.moves (collId j.auxRec)

/-! ## Index lists -/

/-- The index list of a gather or scatter, read whole (R303), and whether poison was in it. -/
def readIndex (s : State) (die : Nat) (j : Job) : State × (Reached ⊕ List Nat × Bool) :=
  let r := tensorOf j.auxRec
  let w := tileWidth r.ty
  let bytes := (offsets r).flatMap (elemBytes r.base w)
  match reachRuns s die j (sourceRuns bytes) with
  | (s, .inl x) => (s, .inl x)
  | (s, .inr ls) =>
    let v := readRuns s ls
    (v.1, .inr ((offsets r).map (fun o => leNat ((elemBytes r.base w o).map fun a => tabGet v.2.1 a.toNat 0)), v.2.2))

/-- Every index lies within the outer extent. -/
def indexOk (j : Job) (idx : List Nat) : Bool :=
  let r := tensorOf (if cardKind j = 2 then j.srcRec else j.dstRec)
  idx.all fun n => decide (n < r.extent (r.dims - 1))

/-! ## Collectives (R315 to R317) -/

/-- Element pairs of this member's own chunk in a collective-gather. -/
def ownChunk (j : Job) : List (Int × Int) :=
  let d := tensorOf j.dstRec
  let m := collMembers j.auxRec
  let c := collRank j.auxRec
  ((offsets d).drop (c * chunkSize d.count m)).zip (offsets (tensorOf j.srcRec))

/-- The writes of a job, laid out once its index list is read. -/
def layout (s : State) (j : Job) (idx : List Nat) : List JobFlit :=
  let dst := tensorOf j.dstRec
  let src := tensorOf j.srcRec
  let kind := cardKind j
  let ps :=
    if kind ≤ 1 then copyPairs s.moves dst src ((offsets dst).zip (offsets src))
    else if kind ≤ 3 then copyPairs s.moves dst src (slicePairs (kind == 2) dst src idx)
    else if kind = 4 then fillPairs dst (cardWord j 3)
    else if kind = 6 then copyPairs s.moves dst src (ownChunk j)
    else []
  if dst.slot then slotFlits s ps else cutFlits ps none

/-- What the layout of a job meets: nothing, a page, or a reason (R303: an index beyond the extent is 0x86). -/
def prepare (s : State) (die : Nat) (j : Job) : State × (Reached ⊕ Job) :=
  if cardKind j = 2 || cardKind j = 3 then
    match readIndex s die j with
    | (s, .inl x) => (s, .inl x)
    | (s, .inr (idx, bad)) =>
      let fs := layout s j idx
      if indexOk j idx then
        (s, .inr { j with built := true, index := idx, todo := if bad then fs.map fun f => { f with poison := true } else fs })
      else (s, .inl (.ends 0x86))
  else (s, .inr { j with built := true, todo := layout s j [] })

/-- A job is laid out where its index list can be read; otherwise it stays as it is. -/
def build (s : State) (die : Nat) (j : Job) : State :=
  match prepare s die j with
  | (s, .inr j) => walkAhead (setJob s die j) die j
  | (s, .inl _) => setJob s die j

/-- The engine has reached flit n of those still to write: nothing stands in the way of an earlier one (R310, R313). -/
def reachedFlit (s : State) (die : Nat) (j : Job) (n : Nat) : Bool :=
  (j.todo.take n).all fun f => match (planFlit s die j f).2 with | .inr _ => true | .inl _ => false

/-- The locations that a flit reads and writes. -/
def planLocs (p : FlitPlan) : List Loc := p.runs.map (fun r => r.2.2) ++ p.dst.toList

/-- A line that a flit reads or writes waits for partials of peers (R344) or for a way of its home slice (R328), or a request of it for the
links (R429, R430). -/
def planWaits (s : State) (p : FlitPlan) : Bool :=
  (planLocs p).any fun l => collapseWaits s l.line || (l.area == .device && l2Waits s (homeDie s l) l.line) || (l.area == .peer && !linkOpen s l)

/-- A running job's access is performed where nothing is in its way; a job whose index list could not be read before is laid out. -/
def engineAccess (s : State) (die n i : Nat) : State :=
  match jobAt s die n with
  | none => s
  | some j =>
    if j.st != .running then s
    else if !j.built then build s die j
    else match j.todo[i]? with
    | none => s
    | some f =>
      if scatterWaits j i || !hasJoined s j || !reachedFlit s die j i then s
      else
        let j := { j with joined := true }
        match planFlit (setJob s die j) die j f with
        | (s, .inr p) => if planWaits s p then s else performFlit s die j i f p
        | (s, .inl _) => s

/-- SLOT_WRITE (R258): a sub-block of a job reaches its slot. -/
def execSlotWrite (die n i : Nat) (s : State) : Out :=
  match jobAt s die n with
  | some j => if (slotTarget j).isSome then .next (engineAccess s die n i) else .next s
  | none => .next s

/-! ## Scheduling (R306, R309) -/

/-- Regions that share a line, each with the group its member numbers are relative to. -/
def regionsMeet (s : State) (a b : Job) (ra rb : Nat) : Bool :=
  let fix (j : Job) (r : Nat) : Nat × Nat × Nat :=
    if bits r 63 60 = 14 then
      ((match gridAt s j.ticket with | some g => memberKey g j.group (bits r 42 39) + 1 | none => 0), bits r 9 0, bits r 59 44)
    else (0, bits r 42 0, bits r 59 44)
  let p := fix a ra
  let q := fix b rb
  p.2.2 != 0 && q.2.2 != 0 && bits ra 63 60 == bits rb 63 60 && p.1 == q.1 && decide (p.2.1 < q.2.1 + q.2.2) && decide (q.2.1 < p.2.1 + p.2.2)

/-- Job J depends on the earlier job I (R306). -/
def dependsOn (s : State) (j i : Job) : Bool :=
  let reads := (List.range 4).map (8 + ·)
  let writes := (List.range 4).map (12 + ·)
  let meet (xs ys : List Nat) : Bool := xs.any fun x => ys.any fun y => regionsMeet s i j (cardWord i x) (cardWord j y)
  meet writes reads || meet reads writes || meet writes writes

/-- R309: accepted, not held, and R306. -/
def jobEligible (s : State) (d : DieSt) (j : Job) : Bool :=
  j.st == .accepted && (d.jobs.takeWhile fun i => i.number != j.number).all fun i => !dependsOn s j i

/-- The engines in use. -/
def busyEngines (d : DieSt) : List Nat := d.jobs.filterMap fun j => j.engine

/-- JOB_START (R309). -/
def execJobStart (die : Nat) (s : State) : Out :=
  let d := dieAt s die
  let ready := (d.jobs.filter (jobEligible s d)).mergeSort fun a b => decide (cardPrio b ≤ cardPrio a)
  match (List.range 16).find? fun e => !(busyEngines d).contains e, ready.head? with
  | some e, some j =>
    let j := { j with st := .running, engine := some e, started := s.cycle }
    .next (build (writeStamp (setJob s die j) die j 0) die j)
  | _, _ => .next s

/-! ## Collective data -/

/-- Destination elements of a chunk, in the order of R301. -/
def chunkElems (j : Job) (c : Nat) : List Int :=
  let d := tensorOf j.dstRec
  ((offsets d).drop (c * chunkSize d.count (collMembers j.auxRec))).take (chunkLen d.count (collMembers j.auxRec) c)

/-- A chunk of a BFP destination that tiles split blocks for: its elements are not whole blocks one after another. -/
def splitChunk (j : Job) (c : Nat) : Bool :=
  isBfp (tensorOf j.dstRec).ty && (let os := chunkElems j c
    (List.range os.length).any fun k => os.getD k 0 != os.getD (k / 32 * 32) 0 / 32 * 32 + (k % 32 : Nat))

/-- Bytes of one element of a split chunk on the links: the mantissa, then its exponent. -/
def splitWidth (w : Nat) : Nat := ceilDiv w 8 + 1

/-- A member's own values of a chunk, where they can be read, and whether poison was among them: element values of its own data (R316),
or the chunk's bytes as every member writes them (R317); of a split chunk, its elements one by one. -/
def ownValues (s : State) (die : Nat) (j : Job) (c : Nat) : State × (Reached ⊕ List Byte × Bool) :=
  let src := tensorOf j.srcRec
  let m := collMembers j.auxRec
  let w := tileWidth src.ty
  let split := cardKind j != 5 && splitChunk j c
  let elems := (offsets src).map (blockElem src)
  let bytes : List ByteSrc :=
    if cardKind j = 5 then
      (((offsets src).drop (c * chunkSize src.count m)).take (chunkLen src.count m c)).flatMap fun o => (elemBytes src.base w o).map .at
    else if split then []
    else (copyPairs s.moves (tensorOf j.dstRec) src ((chunkElems j c).zip (offsets src))).map fun p => p.2
  match reachRuns s die j (sourceRuns (if split then (elems.flatMap (BlockElem.reads w)).eraseDups else bytes.flatMap ByteSrc.reads)) with
  | (s, .inl x) => (s, .inl x)
  | (s, .inr ls) =>
    let v := readRuns s ls
    (v.1, .inr (if split then elems.flatMap (fun e => let p := e.parts v.2.1 w; leBytes (splitWidth w - 1) p.1 ++ leBytes 1 p.2)
      else bytes.map (ByteSrc.value v.2.1), v.2.2))

/-- Bytes as elements of a width. -/
def elements (w : Nat) (bs : List Byte) : List Word :=
  (List.range (bs.length / (w / 8))).map fun i => word (leNat ((bs.drop (i * (w / 8))).take (w / 8)))

/-- The adder of a Zethes port (R433): one rounding, mode 001. -/
def addWire (ty : Nat) (a b : Word) : Word :=
  let f := fmtOf (ty - 12)
  word (dotRound f ((f.val a.toNat).add (f.val b.toNat) 1))

/-- Values in wire format (R316). -/
def wireBytes (j : Job) (vals : List Word) : List Byte := vals.flatMap fun v => leBytes (tileWidth (tensorOf j.srcRec).ty / 8) v.toNat

/-- Bytes sent on to the next member of the ring. -/
def sendOn (s : State) (j : Job) (c : Nat) (bs : List Byte) : State :=
  let m := collMembers j.auxRec
  let next := collRing j.auxRec ((collRank j.auxRec + 1) % m)
  let flits := (List.range ((bs.length + 127) / 128)).map fun i =>
    let p := (bs.drop (128 * i)).take 128
    ({ (default : Flit) with kind := 1, key := cardKey j, len := p.length - 1, payload := p, parts := 1, poison := j.tainted.contains c } : Flit)
  let s := { s with zethes := { s.zethes with sent := s.zethes.sent ++ [(next, collId j.auxRec, c, bs)] } }
  sendPacket s next 0 (cardKey j) flits

/-- The destination bytes of a chunk of whole blocks or plain elements in traversal order; exponents last. -/
def chunkBytes (d : Tensor) (os : List Int) : List Word :=
  if isBfp d.ty then
    let bks := firstBlocks (os.map fun o => o / 32) []
    bks.flatMap (blockBytes d) ++ bks.map (exponentAt d)
  else os.flatMap (elemBytes d.base (tileWidth d.ty))

/-- The bytes of a split chunk's blocks, with the elements that belong to other chunks kept. -/
def splitPairs (d : Tensor) (os : List Int) (bs : List Byte) : List (Word × ByteSrc) :=
  let w := tileWidth d.ty
  let n := splitWidth w
  let elem (b : Int) (e : Nat) : BlockElem := match os.findIdx? fun o => o == b * 32 + (e : Nat) with
    | some k => .lit (leNat ((bs.drop (n * k)).take (n - 1)) % 2 ^ w) (bs.getD (n * k + n - 1) 0).toNat
    | none => blockElem d (b * 32 + (e : Nat))
  let bks := (firstBlocks (os.map fun o => o / 32) []).map fun b => (b, (List.range 32).map (elem b))
  bks.flatMap (fun e => (blockBytes d e.1).zip ((List.range (4 * w)).map fun i => .enc w i e.2)) ++
    bks.map fun e => (exponentAt d e.1, .enc w (4 * w) e.2)

/-- How many bytes a chunk has on the links. -/
def chunkLength (j : Job) (c : Nat) : Nat :=
  if splitChunk j c then (chunkElems j c).length * splitWidth (tileWidth (tensorOf j.dstRec).ty)
  else (chunkBytes (tensorOf j.dstRec) (chunkElems j c)).length

/-- The writes of a chunk's final values to a copy of the destination. -/
def finalFlits (j : Job) (d : Tensor) (c : Nat) (bs : List Byte) : List JobFlit :=
  let os := chunkElems j c
  let fs := cutFlits (if splitChunk j c then splitPairs d os bs else (chunkBytes d os).zip (bs.map ByteSrc.val)) none
  if j.tainted.contains c then fs.map fun f => { f with poison := true } else fs

/-- The next member's copy of the destination: space 0x2, its package, the same offset (R315). -/
def nextCopy (j : Job) : Tensor :=
  let d := tensorOf j.dstRec
  let pkg := collRing j.auxRec ((collRank j.auxRec + 1) % collMembers j.auxRec)
  { d with base := 2 * 2 ^ 60 + pkg * 2 ^ 52 + bits d.base 51 0 }

/-- A chunk's final values go to the next member, and into its copy of the destination (R315). -/
def passOn (s : State) (j : Job) (c : Nat) (bs : List Byte) : State × List JobFlit := (sendOn s j c bs, finalFlits j (nextCopy j) c bs)

/-- This member has a chunk's final values: it writes them, and passes them on while the next member lacks them. -/
def finishChunk (s : State) (die : Nat) (j : Job) (c : Nat) (bs : List Byte) : State :=
  let r := if collOp j.auxRec = 0 && (collRank j.auxRec + 1) % collMembers j.auxRec != c then passOn s j c bs else (s, [])
  setJob r.1 die { j with final := c :: j.final, todo := j.todo ++ finalFlits j (tensorOf j.dstRec) c bs ++ r.2 }

/-- An infinity in wire format, and a NaN. -/
def wireInf (j : Job) (v : Word) : Bool :=
  let f := fmtOf ((tensorOf j.srcRec).ty - 12)
  v.toNat % 2 ^ (f.w - 1) == f.infMag
def wireNaN (j : Job) (v : Word) : Bool := (fmtOf ((tensorOf j.srcRec).ty - 12)).isNaN v.toNat

/-- The exceptions of adding contributions to running values (R318): an infinity of finite operands, and a NaN. -/
def noteSums (j : Job) (data own vals : List Word) : Job :=
  let n := (List.range vals.length).any fun i =>
    wireInf j (vals.getD i 0) && !wireInf j (data.getD i 0) && !wireInf j (own.getD i 0)
  { j with ovf := j.ovf || n, nan := j.nan || vals.any (wireNaN j) }

/-- The exceptions that final values received show (R318): of an infinity where this member's own value was finite, whether the other
operands were is a free value. -/
def noteFinals (s : State) (j : Job) (own vals : List Word) : Job :=
  let n := (List.range vals.length).any fun i => wireInf j (vals.getD i 0) && !wireInf j (own.getD i 0)
  { j with ovf := j.ovf || (n && Config.remoteOverflow s.moves), nan := j.nan || vals.any (wireNaN j) }

/-- A contribution that holds poison taints its chunk (R313). -/
def taint (j : Job) (c : Nat) (bad : Bool) : Job := if bad then { j with tainted := c :: j.tainted } else j

/-- A chunk of a reduce: this member starts it, adds its contribution, or receives its final values (R316). -/
def reduceChunk (s : State) (die : Nat) (j : Job) (c : Nat) (data : List Word) : State :=
  let m := collMembers j.auxRec
  let r := collRank j.auxRec
  let src := tensorOf j.srcRec
  let w := tileWidth src.ty
  let full := data.length == chunkLen src.count m c
  match ownValues s die j c with
  | (s, .inl _) => s
  | (s, .inr (bs, bad)) =>
    let own := elements w bs
    let mine := taint { j with contributed := c :: j.contributed } c bad
    if j.contributed.contains c then
      (if full && r != c && !j.final.contains c && collOp j.auxRec = 0 then finishChunk s die (noteFinals s j own data) c (wireBytes j data)
       else s)
    else if (c + 1) % m = r then sendOn (setJob s die mine) mine c bs
    else if !full then s
    else
      let vals := (data.zip own).map fun p => addWire src.ty p.1 p.2
      let mine := noteSums mine data own vals
      if r = c then finishChunk s die mine c (wireBytes j vals) else sendOn (setJob s die mine) mine c (wireBytes j vals)

/-- A chunk of a gather: the own one is sent, another's is written and passed on (R317). Data is eight bytes a word, and covers the
chunk. -/
def gatherChunk (s : State) (die : Nat) (j : Job) (c : Nat) (data : List Word) : State :=
  let r := collRank j.auxRec
  if j.final.contains c then s
  else if c = r then
    match ownValues s die j c with
    | (s, .inl _) => s
    | (s, .inr (bs, bad)) =>
      let j := taint j c bad
      let r := passOn s j c bs
      setJob r.1 die { j with contributed := c :: j.contributed, final := c :: j.final, todo := j.todo ++ r.2 }
  else
    let n := chunkLength j c
    if data.length != (n + 7) / 8 then s else finishChunk s die j c ((data.flatMap fun v => leBytes 8 v.toNat).take n)

/-- ZETHES_ADDER (R433, R316, R317). -/
def execZethesAdder (die n c : Nat) (data : List Word) (s : State) : Out :=
  match jobAt s die n with
  | none => .next s
  | some j =>
    if j.st != .running || !j.built || c ≥ collMembers j.auxRec || !hasJoined s j then .next s
    else
      let j := { j with joined := true }
      if cardKind j = 5 then .next (reduceChunk (setJob s die j) die j c data)
      else if cardKind j = 6 then .next (gatherChunk (setJob s die j) die j c data)
      else .next s

/-- Chunks whose final values a member writes (R316). -/
def neededChunks (j : Job) : List Nat :=
  if cardKind j = 5 && collOp j.auxRec = 1 then [collRank j.auxRec] else List.range (collMembers j.auxRec)

/-- A collective has made every contribution and received every chunk it writes. -/
def collectiveDone (j : Job) : Bool :=
  cardKind j < 5 ||
    ((neededChunks j).all j.final.contains &&
     (cardKind j == 6 || (List.range (collMembers j.auxRec)).all j.contributed.contains))

/-- COLLECTIVE_LOST (R318): no route, or a revoked key. -/
def execCollectiveLost (die n : Nat) (s : State) : Out :=
  match jobAt s die n with
  | none => .next s
  | some j => if cardKind j ≥ 5 then .next (endJob s die j 0x84 0) else .next s

/-- A job whose key is revoked ends (R313); a collective ends as lost (R318). -/
def endRevoked (s : State) (die : Nat) (j : Job) : State :=
  if cardKind j ≥ 5 then endJob s die j 0x84 0 else endJob s die j 0x38 0

/-! ## Pages and errors -/

/-- The notifying sync word of a follow-on (R280): a location, none, a cause, or a page to wait for, as the group's own instruction
parks. -/
def followNotify (s : State) (j : Job) (g : Group) (key : Nat) : State × (Reached ⊕ Option Loc) :=
  let p := followWord j 3
  if p = 0 then (s, .inr none)
  else if p % 16 != 0 then (s, .inl (.ends 0x03))
  else if bits p 63 60 ∉ [0, 2, 14] then (s, .inl (.ends 0x20))
  else match translate s ⟨g.core, false, cardKey j, key⟩ 0 (word p) 16 .sync with
    | (s, .ok l) => (s, .inr (some l))
    | (s, .trap c a) => (s, .inl (if c = 0x10 || c = 0x16 then .stall c a else .ends c))

/-- The target group of a follow-on. -/
def followKey (j : Job) : Nat := groupKey j.ticket (followWord j 0 / 2 ^ 32)

/-- Every write is performed. -/
def writesDone (j : Job) : Bool := j.built && j.todo.isEmpty && collectiveDone j

/-- The sectors of a follow-on's scale vector, and whether poison was in them. -/
def scaleRead (s : State) (die : Nat) (j : Job) : State × (Reached ⊕ List Byte × Bool) :=
  let p := followWord j 2
  (List.range 2).foldl (fun a i => match a.2 with
    | .inl _ => a
    | .inr (bs, bad) => match jobAccess a.1 die j false (word (p + 64 * i)) 64 with
      | (s, .at l) => let r := homeRead s l 64; (r.1, .inr (bs ++ r.2, bad || poisoned r.1 l 64))
      | (s, x) => (s, .inl x)) (s, .inr ([], false))

/-- What stands in the way of a write of the scheduler. -/
def writeWay (s : State) (die : Nat) (j : Job) (ptr n : Nat) : State × Option Reached :=
  match translate s (jobWho die 16 (cardKey j) j.group) 0 (word ptr) n .write with
  | (s, .ok _) => (s, none)
  | (s, .trap c a) => (s, some (if c = 0x10 || c = 0x16 then .stall c a else .ends c))

/-- What stands in the way of the last writes of a job: its stamp record's, and of a collective its STATUS (R313, R318). -/
def stampWay (s : State) (die : Nat) (j : Job) : State × Option Reached :=
  let r := if cardKind j < 5 then (s, none) else writeWay s die j (cardWord j 3 + 0x38) 8
  match r with
  | (s, none) => if cardWord j 7 = 0 then (s, none) else writeWay s die j (cardWord j 7) 64
  | r => r

/-- Everything of R313 but the stamp record. -/
def allButStamp (j : Job) : Bool := writesDone j && !j.discarded && (!hasFollow j || j.followed == 2)

/-- What stands in the way of a job's next step: the index list, flit n once it is reached, a chunk counted on from the flits, the
scale vector, the follow-on's notifying word, or the stamp record. -/
def obstacle (s : State) (die : Nat) (j : Job) (n : Nat) : Option Reached :=
  if !j.built then (match (prepare s die j).2 with | .inl x => some x | .inr _ => none)
  else match j.todo[n]? with
    | some f => if !reachedFlit s die j n then none else (match (planFlit s die j f).2 with | .inl x => some x | .inr _ => none)
    | none =>
      if cardKind j ≥ 5 && !collectiveDone j then
        (match (ownValues s die j (n - j.todo.length)).2 with | .inl x => some x | .inr _ => none)
      else if writesDone j && hasFollow j && j.followed = 0 && bits (followWord j 0) 4 3 = 2 then
        (match (scaleRead s die j).2 with | .inl (.stall c p) => some (.stall c p) | _ => none)
      else if j.followed = 1 then
        match groupAt s (followKey j) with
        | none => none
        | some g => match (followNotify s j g (followKey j)).2 with | .inl (.stall c p) => some (.stall c p) | _ => none
      else if allButStamp j then (stampWay s die j).2
      else none

/-- JOB_PAGE_STALL (R310): the control node is asked for the page; a peer's page has none here to wait for, and is tried again (R390). -/
def execJobPageStall (die n i : Nat) (s : State) : Out :=
  match jobAt s die n with
  | none => .next s
  | some j =>
    if j.st != .running then .next s
    else match obstacle s die j i with
      | some (.stall _ ptr) =>
        let page := if remoteFailure s (engineWho die j).core ptr then none else some (bits ptr.toNat 51 0 / 65536)
        let j := { j with st := .stalled, stalledAt := s.cycle, stallPage := page }
        .next (send (setJob s die j) (.pageService ptr (cardKey j) (256 + die)))
      | _ => .next s

/-- A stalled job's page is mapped, or the time to try a peer's page again has come (R310, R390). -/
def stallOver (s : State) (j : Job) : Bool :=
  match j.stallPage with
  | some p => pageMapped s p
  | none => decide (s.cycle ≥ j.stalledAt + 16384)

/-- JOB_RESUME (R310): once the page is mapped; a job whose index list's page was mapped before it stalled is laid out. Records that are owed
(R313, R320) are written where their pages are back. -/
def execJobResume (die n : Nat) (s : State) : Out :=
  let s := payOwed s
  match jobAt s die n with
  | none => .next s
  | some j =>
    if j.st == .stalled && stallOver s j then
      let j := { j with st := .running, stalls := j.stalls + (s.cycle - j.stalledAt), stallPage := none }
      .next (if j.built then setJob s die j else build s die j)
    else if j.st == .running && !j.built then .next (build s die j)
    else .next s

/-- JOB_ERROR_END (R313): a revoked key, or the error of the job's next access. -/
def execJobErrorEnd (die n i : Nat) (s : State) : Out :=
  match jobAt s die n with
  | none => .next s
  | some j =>
    if s.mgmt.revoked.contains (cardKey j) then .next (endRevoked s die j)
    else if j.st != .running then .next s
    else match obstacle s die j i with
      | some (.ends r) => .next (endJob s die j r 0)
      | _ => .next s

/-! ## Follow-ons (R312) -/

/-- Formats of the open entry of a band. -/
def openFmts (s : State) (key b : Nat) : Option (Nat × Nat) := (openEntry s key b).map fun e => e.fmts

/-- The causes the command raises (R283), on tags as the queued entries leave them. -/
def followCauses (s : State) (key : Nat) (g : Group) (j : Job) : List Nat :=
  let d := word (followWord j 1)
  let code := bits (followWord j 0) 4 3
  let band (b : Nat) : Nat := tabGet (queuedBandTags s key g) b 0
  let opn (b : Nat) : Bool := (openEntry s key b).isSome
  if code = 2 then tsaCauses band g.nbands opn d
  else
    let tagOf (k h : Nat) : Word := match groupAt s k with
      | some q => if slotWriter s k h then setBits (slotTag q h) 2 0 3 else slotTag q h
      | none => 0
    tmmCauses tagOf (fun k => ((groupAt s k).map fun q => q.nslots).getD 0) band g.nbands opn (openFmts s key (dBand d)) key
      (bGroupOf s key g (dBM d)) d (code == 1) ((followWord j 0).testBit 2) ((followWord j 0).testBit 1)

/-- The entry a follow-on enqueues. -/
def followEntry (s : State) (key : Nat) (g : Group) (j : Job) (notify : Option Loc) : TileEntry :=
  let d := word (followWord j 1)
  let code := bits (followWord j 0) 4 3
  let bk := (bGroupOf s key g (dBM d)).getD key
  let ty (k h : Nat) : Nat := match groupAt s k with | some q => slotType (slotTag q h) | none => 0
  let opn := (followWord j 0).testBit 1
  let fmts := if code = 2 then (bits (tabGet (queuedBandTags s key g) (bits d.toNat 7 4) 0) 7 3 + 16, 13) else (ty key (dAH d), ty bk (dBH d))
  { id := (coreOf s g.core).nextEntry, op := (if code = 2 then .tsa else .tmm (code == 1)), group := key, issuer := 64, desc := d,
    mem := [], notify := (if opn then none else notify), open_ := opn, fmts,
    segments := (if code = 2 then [] else [{ desc := d, done := false, bGroup := bk }]), mode := 1, scales := j.scales,
    enqueued := s.cycle, eligible := 0, started := none, reruns := 0, job := some (cardWord j 7, j.number), steps := 0,
    badScales := j.badScales }

/-- The tile record of a follow-on that fails (R449). -/
def failFollow (s : State) (die : Nat) (j : Job) (g : Group) (key cause : Nat) : State :=
  let e := followEntry s key g j none
  endJob (writeTileRecord s (cardWord j 7) j.number g.core ((followWord j 0).testBit 0) e 0 4) die j 0x82 cause

/-- FOLLOW_ON_ISSUE: after the last write; a target that is not resident is reason 0x81. -/
def execFollowOnIssue (die n : Nat) (s : State) : Out :=
  match jobAt s die n with
  | none => .next s
  | some j =>
    if j.st != .running || !writesDone j || j.discarded || !hasFollow j || j.followed != 0 then .next s
    else if (groupAt s (followKey j)).isNone then .next (endJob s die j 0x81 0)
    else if bits (followWord j 0) 4 3 = 2 then
      match scaleRead s die j with
      | (s, .inr (bs, bad)) => .next (setJob s die { j with followed := 1, scales := bs, badScales := bad, engine := none })
      | (s, .inl (.ends c)) => .next (if c = 0x80 then endJob s die j 0x80 0 else match groupAt s (followKey j) with
          | some g => failFollow s die j g (followKey j) c
          | none => endJob s die j 0x81 0)
      | (s, .inl _) => .next s
    else .next (setJob s die { j with followed := 1, engine := none })

/-- FOLLOW_ON_ENQUEUE (R312, R263): checked as the group's own instruction; a full queue holds the command. -/
def execFollowOnEnqueue (die n : Nat) (s : State) : Out :=
  match jobAt s die n with
  | none => .next s
  | some j =>
    if j.followed != 1 || j.st != .running then .next s
    else
      let key := followKey j
      match groupAt s key with
      | none => .next (endJob s die j 0x81 0)
      | some g =>
        let notify := followNotify s j g key
        let causes := followCauses s key g j ++ (match notify.2 with | .inl (.ends c) => [c] | _ => [])
        match causes, notify with
        | c :: r, _ => .next (failFollow s die j g key (r.foldl min c))
        | [], (s, .inl _) => .next s
        | [], (s, .inr w) =>
          let k := coreOf s g.core
          let hi := (followWord j 0).testBit 0
          let accepted := setJob s die { j with followed := 2, enqueued := s.cycle }
          if (followWord j 0).testBit 2 && bits (followWord j 0) 4 3 != 2 then
            let e := followEntry s key g j w
            if ((openEntry s key (dBand e.desc)).map fun e => (openSegments e).length).getD 0 ≥ 8 then .next s
            else .next (appendSegment accepted g.core key ((followWord j 0).testBit 1) e.desc w ((bGroupOf s key g (dBM e.desc)).getD key)
              (some (cardWord j 7, j.number, s.cycle)))
          else if queueUsed k hi ≥ 16 then .next s
          else .next (enqueue accepted g.core hi (followEntry s key g j w))

/-! ## Retirement (R313) -/

/-- JOB_RETIRE: a job whose slot writes were partly discarded ends with 0x85. -/
def execJobRetire (die n : Nat) (s : State) : Out :=
  match jobAt s die n with
  | none => .next s
  | some j =>
    if j.st != .running || !writesDone j then .next s
    else if j.discarded then .next (endJob s die j 0x85 0)
    else if hasFollow j && j.followed != 2 then .next s
    else match stampWay s die j with
      | (s, some (.ends c)) => .next (endJob s die j c 0)
      | (s, some _) => .next s
      | (s, none) =>
        let s := writeStamp (writeCollStatus s die j false) die { j with st := .complete } s.cycle
        .next (calm (dropJob s die n) j.group)

/-! ## Holds (R307, R308) -/

/-- A held job is released where its word has reached the generation. -/
def releaseHeld (s : State) (die : Nat) (l : Loc) (gen : Nat) : State :=
  modDie s die fun d => { d with jobs := d.jobs.map fun j =>
    if j.st == .held && (waitLoc s die j).map Loc.key == some l.key && !stillHeld (waitGen j) gen then { j with st := .accepted } else j }

/-- JOB_RELEASE (R307): a match notice. -/
def execJobRelease (die : Nat) (s : State) : Out :=
  match (dieAt s die).notices with
  | [] => .next s
  | (l, gen) :: rest => .next (releaseHeld (modDie s die fun d => { d with notices := rest }) die l gen)

/-- WAIT_WORD_POLL (R307). -/
def execWaitWordPoll (die n : Nat) (s : State) : Out :=
  match jobAt s die n with
  | none => .next s
  | some j => match (if j.st == .held then waitLoc s die j else none) with
    | none => .next s
    | some l =>
      let r := readSync s l
      .next (releaseHeld r.1 die l r.2.gen)

/-- The submitting group's grid has completed (R308). -/
def gridOver (s : State) (ticket : Nat) : Bool :=
  match gridAt s ticket with
  | none => true
  | some g => g.status != 1

/-- The group in whose scratchpad a held job's wait word lies. -/
def waitGroup (s : State) (j : Job) : Option Nat :=
  if bits (cardWord j 5) 63 60 = 14 then (gridAt s j.ticket).map fun g => memberKey g j.group (bits (cardWord j 5) 55 52) else none

/-- WAIT_WORD_RETIRED (R308): every job held on words of the retiring group ends together, or the job of a completed grid. -/
def execWaitWordRetired (die n : Nat) (s : State) : Out :=
  match jobAt s die n with
  | none => .next s
  | some j =>
    if j.st != .held then .next s
    else if gridOver s j.ticket then .next (endJob s die j 0x87 0)
    else match waitGroup s j with
      | none => .next s
      | some key =>
        if onlyHeldJobs s key then
          .next (((allJobs s).filter fun e => heldOnWord s key e.2).foldl (fun s e => endJob s e.1 e.2 0x87 0) s)
        else .next s

end Sys2Proof.Machine
end

