-- ==== Sys2Proof/Machine/LaunchEvents.lean ====
section
/-!
DEFINITION. The arbiter and the dispatchers: launch queues and acceptance (R59 to R66, R82), admission (R71 to R74, R81, R83),
pre-emption (R75 to R80, R84, R403, R404), the Minuet rotation (R81), stage periods (R83) and retirement (R67).
-/

namespace Sys2Proof.Machine

/-! ## Checking a launch record (R65) -/

def rw (ws : List Word) (i : Nat) : Nat := (ws.getD i 0).toNat

/-- R62, reason 0x02. -/
def fieldsOk (sh : Nat) : Bool :=
  let f := shapeFields sh
  decide (1 ≤ f) && decide (f ≤ 6) && ((List.range 6).all fun i => decide (i < f) || shapeWidth sh i == 0) &&
    decide (levelBits sh f ≤ 64)

/-- R68, reason 0x03. -/
def levelsOk (sh : Nat) : Bool :=
  let f := shapeFields sh
  let t := shapeTroupe sh
  let g := shapeGroup sh
  let j := shapeGang sh
  decide (1 ≤ t) && levelBits sh t == 5 && decide (t < g) && decide (g ≤ f) && decide (levelBits sh g ≤ levelBits sh t + 5) &&
    decide (g ≤ j) && decide (j ≤ f) && decide (levelBits sh j ≤ levelBits sh g + 2)

/-- A grid as its record describes it, before acceptance. -/
def newGrid (ws : List Word) (ptr : Word) (order : Nat) : Grid :=
  { record := ws, recordAddr := ptr, order, current := rw ws 2, retired := [], killed := [], contained := false, bindings := [],
    safePoints := [], regions := [], debug := false, breakpoints := [], clk := 0, minuetCore := none, turnGroup := 0, turnTroupe := 0,
    turnUsed := false, pipeline := none, stage := 0, status := 1 }

/-- Reserved fields, reason 0x05. -/
def reservedOk (ws : List Word) : Bool :=
  bits (rw ws 1) 63 54 == 0 && bits (rw ws 4) 63 52 == 0 && bits (rw ws 4) 21 19 == 0 && bits (rw ws 5) 63 32 == 0 &&
    bits (rw ws 5) 15 13 == 0 && ((List.range 4).all fun i => rw ws (12 + i) == 0) && ((List.range 5).all fun i => rw ws (27 + i) == 0) &&
    ((rw ws 4).testBit 51 || (rw ws 10 == 0 && rw ws 11 == 0))

/-- The checks that need nothing but the record: the lowest reason, or 0. -/
def recordReason (ws : List Word) : Nat :=
  let g := newGrid ws 0 0
  if rw ws 0 % 4 != 0 || bits (rw ws 0) 63 60 != 0 then 1
  else if !fieldsOk (rw ws 1) then 2
  else if !levelsOk (rw ws 1) then 3
  else if rw ws 2 > rw ws 3 || rw ws 2 % gangSize g != 0 || rw ws 3 % gangSize g != 0 then 4
  else if !reservedOk ws then 5
  else if troupeCount g > 64 || troupeCount g * regminOf g > 8064 || scratchOf g > 384 * 1024 || slotsOf g > 32 || bandsOf g > 16 then 6
  else if isMinuet g && (isStage g || gangSize g > 1) then 7
  else if inherits g && bits (rw ws 5) 5 0 > bits (rw ws 5) 11 6 then 8
  else 0

/-- The region table (R76): count, order, overlap. DESIGN CHOICE (notes/assumptions/42.md): an entry whose end is not above its start is out of
order, an empty one included; R76 does not speak of empty regions. -/
def regionsOk (n : Nat) (rs : List (Word × Word)) : Bool :=
  decide (n ≤ 256) && rs.all (fun r => decide (r.1.toNat < r.2.toNat)) &&
    (rs.zip (rs.drop 1)).all fun p => decide (p.1.2.toNat ≤ p.2.1.toNat)

/-- A table of pairs of words. -/
def pairTable (bs : List Byte) : List (Word × Word) :=
  let ws := wordsOf bs
  (List.range (ws.length / 2)).map fun i => (ws.getD (2 * i) 0, ws.getD (2 * i + 1) 0)

/-- A table at a pointer: an entry count at its start, then entries of 16 bytes, of which `take` says how many are read; 0 stands
for no table. -/
def readTable (s : State) (ptr : Nat) (take : Nat → Nat) : State × Option (Nat × List (Word × Word)) :=
  if ptr = 0 then (s, some (0, []))
  else match unitBytes s (word ptr) 8 with
    | (s, none) => (s, none)
    | (s, some h) =>
      let n := leNat h
      match unitBytes s (word (ptr + 8)) (16 * take n) with
      | (s, none) => (s, none)
      | (s, some bs) => (s, some (n, pairTable bs))

/-- The binding table's live entries (R367). -/
def readBindings (s : State) (ptr : Nat) : State × Option (Tab (Word × Word)) :=
  if ptr = 0 then (s, some [])
  else match unitBytes s (word ptr) 65536 with
    | (s, none) => (s, none)
    | (s, some bs) =>
      let t := pairTable bs
      (s, some ((List.range t.length).filterMap fun i =>
        let e := t.getD i (0, 0)
        if bits e.1.toNat 59 44 = 0 then none else some (i, e)))

/-- Every check of R65: the reason, or the grid with its tables. A region count above 256 is malformed whatever follows it (R76); of a
safe-point table's count the spec gives no limit, and the model reads 65,536 entries at most (DESIGN CHOICE, notes/assumptions/30.md). -/
def checkRecord (s : State) (ws : List Word) (ptr : Word) : State × (Nat ⊕ Grid) :=
  let r := recordReason ws
  if r != 0 then (s, .inl r)
  else
    let regs := readTable s (rw ws 8) fun n => if n ≤ 256 then n else 0
    let malformed := match regs.2 with | some (n, rs) => !regionsOk n rs | none => false
    if malformed then (regs.1, .inl 0x0A)
    else
      let safe := readTable regs.1 (rw ws 7) (min 65536)
      let bind := readBindings safe.1 (rw ws 6)
      match regs.2, safe.2, bind.2 with
      | some (_, rs), some (_, ps), some bt =>
        (bind.1, .inr { newGrid ws ptr s.nextOrder with
          regions := rs, safePoints := ps.map (fun e => (e.1.toNat % 2 ^ 32, e.2)), bindings := bt })
      | _, _, _ => (bind.1, .inl 0x0B)

/-! ## Acceptance and refusal (R60, R65, R66) -/

/-- The ticket after one (R66). -/
def ticketAfter (t : Nat) : Nat := if (t + 1) % 2 ^ 32 = 0 then 1 else (t + 1) % 2 ^ 32

/-- A grid is accepted: ticket, status, current count, gangs dealt; one with no groups is complete. -/
def acceptGrid (s : State) (g : Grid) : State :=
  let t := s.nextTicket
  let s := { setGrid s t { g with order := s.nextOrder } with nextTicket := ticketAfter t, nextOrder := s.nextOrder + 1 }
  let s := send (writeStatus s g t 1 0 none) (.completion t 1 0)
  let s := (unitStore s (g.recordAddr + 0xC8) (leBytes 8 g.current)).1
  let s := dealGangs s t 0 (g.current / gangSize g)
  if g.current = 0 then endGrid s t 2 else s

/-- A refusal. -/
def refuseRecord (s : State) (ptr : Word) (reason : Nat) : State :=
  let s := (unitStore s (ptr + 0xC0) (leBytes 8 (reason * 256 + 3))).1
  let s := (unitStore s (ptr + 0xD0) (leBytes 8 0)).1
  send s (.completion 0 3 reason)

/-- A launch record that could be read. -/
def acceptRecord (s : State) (ptr : Word) (bs : List Byte) : State :=
  match checkRecord s (wordsOf bs) ptr with
  | (s, .inl r) => refuseRecord s ptr r
  | (s, .inr g) => acceptGrid s g

/-- The stage records of a pipeline, each with its grid where it passes R65. -/
def stageGrids (s : State) (ptrs : List Word) : State × List (Word × Option Grid) :=
  ptrs.foldl (fun a p =>
    if p.toNat % 256 != 0 then (a.1, a.2 ++ [(p, none)])
    else match unitBytes a.1 p 256 with
      | (s, none) => (s, a.2 ++ [(p, none)])
      | (s, some bs) => match checkRecord s (wordsOf bs) p with
        | (s, .inl _) => (s, a.2 ++ [(p, none)])
        | (s, .inr g) => (s, a.2 ++ [(p, some g)])) (s, [])

/-- R82's conditions on the stages. -/
def stagesOk (gs : List Grid) : Bool :=
  gs.all isStage && rw ((gs.head?.map fun g => g.record).getD []) 10 == 0 &&
    (gs.zip (gs.drop 1)).all fun p => rw p.1.record 11 == rw p.2.record 10

/-- A pipeline record (R82): accepted or refused as a whole. DESIGN CHOICE (notes/assumptions/42.md): where the record itself is malformed, the
refusal is written to the status words of the aligned space 0x0 pointers among the first min(count, 8); a count of 0 names no stage, and
nothing is written. R82 says "every stage's status word" and no more. -/
def acceptPipeline (s : State) (bs : List Byte) : State :=
  let ws := wordsOf bs
  let n := rw ws 0
  let formed := decide (1 ≤ n) && decide (n ≤ 8) && ((List.range 7).all fun i => rw ws (1 + i) == 0) &&
    (List.range 8).all fun i => decide (i < n) || rw ws (8 + i) == 0
  let ptrs := (List.range (min n 8)).map fun i => ws.getD (8 + i) 0
  let r := stageGrids s ptrs
  let gs := r.2.filterMap fun e => e.2
  if formed && gs.length == ptrs.length && stagesOk gs then
    let id := r.1.nextTicket
    let q := (List.range gs.length).foldl (fun (a : State × List Nat) i =>
      let t := a.1.nextTicket
      (acceptGrid a.1 { gs.getD i (newGrid [] 0 0) with pipeline := some id, stage := i }, a.2 ++ [t])) (r.1, [])
    let p : Pipeline := { stages := q.2, admitted := [], weights := [], nextPeriod := q.1.cycle }
    { q.1 with pipelines := tabPut q.1.pipelines id p }
  else r.2.foldl (fun s e => if e.1.toNat % 256 = 0 && bits e.1.toNat 63 60 = 0 then refuseRecord s e.1 9 else s) r.1

/-! ## Launch queues (R59) -/

/-- An entry taken from a queue. -/
def takeEntry (s : State) (q : Nat) (e : Word) : State :=
  let n := e.toNat
  let bad (s : State) : State := send s (.event evEntry q n 0)
  if n % 2 = 1 then
    if (n - 1) % 128 != 0 || bits n 63 60 != 0 then bad s
    else match unitBytes s (e - 1) 128 with
      | (s, none) => bad s
      | (s, some bs) => acceptPipeline s bs
  else if n % 256 != 0 || bits n 63 60 != 0 then bad s
  else match unitBytes s e 256 with
    | (s, none) => bad s
    | (s, some bs) => acceptRecord s e bs

/-- A queue that fails R57 is not served until its next doorbell. -/
def blockQueue (s : State) (q : Nat) : State :=
  send { s with mgmt := { s.mgmt with lqblocked := tabPut s.mgmt.lqblocked q true } } (.event evQueue q 0 0)

/-- The descriptor of a launch queue, where it can be served. -/
def launchQueue (s : State) (q : Nat) : Option Loc :=
  let p := tabGet s.mgmt.lqdesc q 0
  if p = 0 || tabGet s.mgmt.lqblocked q false then none
  else if !queuePtrOk p then none else (unitLoc s p true).2

/-- A queue is served once: its descriptor checked, one entry taken. One whose entry array cannot be read is treated as one that fails
R57: blocked until its next doorbell, nothing taken (DESIGN CHOICE: R59 does not say, notes/assumptions/30.md). -/
def serveQueue (s : State) (q : Nat) : State :=
  let p := tabGet s.mgmt.lqdesc q 0
  if p = 0 || tabGet s.mgmt.lqblocked q false then s
  else match launchQueue s q with
    | none => blockQueue s q
    | some l =>
      let r := unitHome s l 64
      let d := queueOf r.2
      if !queueOk d || queueHeld d > d.capacity then blockQueue r.1 q
      else if queueHeld d = 0 then r.1
      else match unitBytes r.1 (entryPtr d d.head) 8 with
        | (s, none) => blockQueue s q
        | (s, some bs) => takeEntry (homeWrite s (l.plus 16) (leBytes 8 (d.head + 1))) q (word (leNat bs))

/-- Whether a queue holds entries or must be reported; a descriptor address of 0 stands for no queue (DESIGN CHOICE: R59 does not
say, notes/assumptions/30.md). -/
def queueWaiting (s : State) (q : Nat) : Bool :=
  let p := tabGet s.mgmt.lqdesc q 0
  p != 0 && !tabGet s.mgmt.lqblocked q false &&
    (match launchQueue s q with
     | none => true
     | some l => let d := queueAt s l; !queueOk d || queueHeld d != 0)

/-- LAUNCH_DOORBELL (R59, R478): the queue may be served again, at its turn. -/
def execLaunchDoorbell (q : Nat) (s : State) : Out :=
  if q ≥ 8 || s.mgmt.boot != 5 || s.mgmt.failed then .next s
  else .next { s with mgmt := { s.mgmt with lqblocked := tabPut s.mgmt.lqblocked q false } }

/-- LAUNCH_QUEUE_SERVE (R59): round robin, one entry a turn. -/
def execLaunchQueueServe (s : State) : Out :=
  if s.mgmt.boot != 5 || s.mgmt.failed then .next s
  else match ((List.range 8).map fun i => (s.mgmt.lqnext + i) % 8).find? (queueWaiting s) with
    | none => .next s
    | some q => .next (whole s (serveQueue { s with mgmt := { s.mgmt with lqnext := (q + 1) % 8 } } q))

/-! ## Stages (R83) -/

/-- Occupancy and capacity of a queue. -/
def queueFill (s : State) (ptr : Nat) : Option (Nat × Nat) :=
  (unitLoc s (word ptr) false).2.map fun l => let d := queueAt s l; (queueHeld d, d.capacity)

/-- A stage's weight at the start of a period. -/
def stageWeight (s : State) (g : Grid) : Nat :=
  let out := if recWord g 11 = 0 then none else queueFill s (recWord g 11)
  let full := match out with | some (n, c) => decide (n ≥ c) | none => false
  if full then 0
  else if g.stage = 0 then (match out with | some (n, c) => c - n | none => 0)
  else match queueFill s (recWord g 10) with | some (n, _) => n | none => 0

/-- A single-stage pipeline has no output queue: it weighs as if that were empty. -/
def weightOf (s : State) (g : Grid) : Nat :=
  if g.stage = 0 && recWord g 11 = 0 then 1 else stageWeight s g

/-- Whether a pipeline lets a stage's gang in now (R83): its ratio is the smallest, the lower stage on ties. -/
def stageOk (s : State) (die ticket : Nat) (g : Grid) : Bool :=
  match g.pipeline.bind fun id => tabGet? s.pipelines id with
  | none => true
  | some p =>
    let w (k : Nat) : Nat := p.weights.getD k 0
    let a (k : Nat) : Nat := tabGet p.admitted k 0 + 1
    let open_ := (List.range p.stages.length).filter fun k => w k != 0 && (nextGang s die (p.stages.getD k 0)).isSome
    p.stages.getD g.stage 0 == ticket && open_.contains g.stage &&
      open_.all fun k => decide (a g.stage * w k < a k * w g.stage) || (a g.stage * w k == a k * w g.stage && decide (g.stage ≤ k))

/-- Counts an admission in its pipeline's period. -/
def countStage (s : State) (g : Grid) : State :=
  match g.pipeline with
  | none => s
  | some id => match tabGet? s.pipelines id with
    | none => s
    | some p => { s with pipelines := tabPut s.pipelines id { p with admitted := tabPut p.admitted g.stage (tabGet p.admitted g.stage 0 + 1) } }

/-! ## Admission -/

/-- A Minuet grid takes a gang between rotations, and a saved one back at any time: the rotation stands still for it (R81). -/
def rotationTakes (s : State) (die ticket : Nat) (g : Grid) : Bool :=
  !isMinuet g || betweenRotations s ticket g || ((nextGang s die ticket).map fun p => p.saved) == some true

/-- The first gang that fits, in the order of R73. -/
def firstFit (s : State) (die : Nat) : Option (Nat × Grid × PendingGang × List Nat) :=
  (pendingGrids s die).findSome? fun e =>
    if e.2.status != 1 || !stageOk s die e.1 e.2 || !rotationTakes s die e.1 e.2 then none
    else (nextGang s die e.1).bind fun p => (placeGang s e.1 e.2 p die).map fun cs => (e.1, e.2, p, cs)

/-- A new group's place in a Minuet rotation: an empty rotation begins with it. -/
def startRotation (s : State) (ticket : Nat) : State :=
  modGrid s ticket fun g => if isMinuet g then
    (match (rotation s ticket).head? with
     | some r => if g.turnUsed then g else { g with turnGroup := r.2.2.1, turnTroupe := r.2.2.2 }
     | none => g) else g

/-- A Minuet grid's further gangs that fit at once: a rotation begins with all of them (R81, R466). -/
def admitMore (ticket : Nat) : Nat → State → State
  | 0, s => s
  | fuel + 1, s => match gridAt s ticket, nextGang s 0 ticket with
    | some g, some p =>
      if !isMinuet g || p.saved then s
      else match placeGang s ticket g p 0 with
        | some cs => admitMore ticket fuel (admitGang (dropPending s 0 ticket p.gang) ticket g p cs)
        | none => s
    | _, _ => s

/-- GANG_ADMIT (R72 to R74, R81). -/
def execGangAdmit (die : Nat) (s : State) : Out :=
  match firstFit s die with
  | none => .next s
  | some (t, g, p, cs) =>
    if p.saved then .next s
    else
      let s := admitMore t 64 (countStage (admitGang (dropPending s die t p.gang) t g p cs) g)
      .next (if isMinuet g then startRotation s t else s)

/-- Unstarted gangs of a die. -/
def unstarted (s : State) (die : Nat) : List PendingGang := (dieAt s die).pending.filter fun p => !p.requeued

/-- The donor's gang that moves (R71): of the first grid whose highest unstarted gang fits on the idle die. -/
def stolenGang (s : State) (die donor : Nat) : Option (Nat × Grid × PendingGang × List Nat) :=
  (pendingGrids s donor).findSome? fun e =>
    if isMinuet e.2 || e.2.status != 1 || !stageOk s donor e.1 e.2 then none
    else
      let gs := ((unstarted s donor).filter fun p => p.ticket == e.1).mergeSort fun a b => decide (b.gang ≤ a.gang)
      gs.head?.bind fun p => (placeGang s e.1 e.2 p die).map fun cs => (e.1, e.2, p, cs)

/-- A die dispatcher holds no pending gang that fits anywhere on its die (R71). -/
def dieIdle (s : State) (die : Nat) : Bool :=
  !(dieAt s die).pending.any fun p => match gridAt s p.ticket with
    | some g => g.status == 1 && (placeGang s p.ticket g p die).isSome
    | none => false

/-- WORK_STEAL (R71). -/
def execWorkSteal (die : Nat) (s : State) : Out :=
  if die ≥ 4 || !dieIdle s die then .next s
  else
    let donors := ((List.range 4).filter (· != die)).mergeSort fun a b => decide ((unstarted s b).length ≤ (unstarted s a).length)
    match donors.head? with
    | none => .next s
    | some d =>
      if dieIdle s d then .next s
      else match stolenGang s die d with
        | none => .next s
        | some (t, g, p, cs) => .next (countStage (admitGang (dropPending s d t p.gang) t g p cs) g)

/-! ## Pre-emption (R75 to R80) -/

/-- The region that every thread of a group stands in (R77). -/
def flushRegion (s : State) (gr : Grid) (g : Group) : Option (Word × Word) :=
  gr.regions.find? fun r => (groupTroupes s g).all fun e => laneList.all fun l =>
    let h := threadOf e.2.2 l
    if h.st == .exited then decide (r.1.toNat < h.pc.toNat) && decide (h.pc.toNat ≤ r.2.toNat)
    else decide (r.1.toNat ≤ h.pc.toNat) && decide (h.pc.toNat < r.2.toNat)

/-- Whether every thread of a group has arrived at a regroup: the move ends before a save or a flush (R228). -/
def moveComing (s : State) (key : Nat) : Bool := (arrivedAll s key).isSome

/-- R77 for one group. -/
def flushable (s : State) (gr : Grid) (key : Nat) : Bool :=
  match groupAt s key with
  | none => false
  | some g => (flushRegion s gr g).isSome && (jobsNaming s [key]).isEmpty && !moveComing s key && arrivalsDone s key &&
      (groupTroupes s g).all fun e => e.2.2.clause.isNone

/-- The die that a resident gang stands on. -/
def residentDie (s : State) (ticket : Nat) (g : Grid) (gang : Nat) : Nat :=
  ((gangResident s ticket g gang).head?.bind fun k => (groupAt s k).map fun q => coreDie q.core).getD 0

/-- The resident gangs that give way with a gang: of a Minuet grid all of them (R465). -/
def givingWay (s : State) (ticket : Nat) (g : Grid) (gang : Nat) : List Nat :=
  if isMinuet g then ((s.groups.filter fun e => e.2.ticket == ticket).map fun e => e.2.index).mergeSort fun a b => decide (a ≤ b)
  else [gang]

/-- Their groups. -/
def wholeKeys (s : State) (ticket : Nat) (g : Grid) (gang : Nat) : List Nat := (givingWay s ticket g gang).flatMap (gangResident s ticket g)

/-- A region flush of one gang (R78, R137). -/
def flushOne (s : State) (ticket : Nat) (g : Grid) (gang : Nat) : State :=
  let keys := gangResident s ticket g gang
  let starts := (gangTab ticket g gang).map fun e =>
    (((groupAt s e.2).bind (flushRegion s g)).map fun r => r.1).getD (recEntry g)
  let die := residentDie s ticket g gang
  let s := dropRetained (keys.foldl (fun s k => discardGroup (failEntries (drainGroup s k) k) k) s) ticket g gang
  requeue s die { ticket, gang, requeued := true, saved := false, starts }

/-- A region flush of a gang, and of what gives way with it (R78, R465). -/
def flushGang (s : State) (ticket : Nat) (g : Grid) (gang : Nat) : State :=
  (givingWay s ticket g gang).foldl (fun s k => flushOne s ticket g k) s

/-- Resident gangs of a die, the youngest first. -/
def residentGangs (s : State) (die : Nat) : List (Nat × Grid × Nat) :=
  let gangs := (s.groups.filter fun e => coreDie e.2.core == die).reverse.filterMap fun e =>
    (gridAt s e.2.ticket).map fun g => (e.2.ticket, g, e.2.index / gangSize g)
  gangs.foldl (fun a r => if a.any fun q => q.1 == r.1 && q.2.2 == r.2.2 then a else a ++ [r]) []

/-- A held job that names a gang takes it out of the choice (R321). -/
def heldByJob (s : State) (keys : List Nat) : Bool := (jobsNaming s keys).any fun e => e.2.st == .held

/-- Every thread of a gang has exited: it retires (R80). -/
def allExited (s : State) (keys : List Nat) : Bool := keys.all fun k => (groupThreads s k).all fun m => m.th.st == .exited

/-- No clause of a Minuet grid is running: its save keeps the count of retired instructions (R81). -/
def minuetStill (s : State) (ticket : Nat) (g : Grid) : Bool :=
  !isMinuet g || (rotation s ticket).all fun r => ((troupeAt s r.1 r.2.1).map fun t => t.clause.isNone) != some false

/-- A gang may give way now: a Minuet grid between rotations only (R465). -/
def atBoundary (s : State) (ticket : Nat) (g : Grid) : Bool := !isMinuet g || (betweenRotations s ticket g && minuetStill s ticket g)

/-- A gang whose last thread has exited is among those that give way: it retires first (R80). -/
def someExited (s : State) (t : Nat) (g : Grid) (gang : Nat) : Bool :=
  (givingWay s t g gang).any fun k => allExited s (gangResident s t g k)

/-- How a gang can be pre-empted, with what gives way with it: by flush (true), by full save (false), or not: one whose last thread has
exited retires instead (R80). -/
def preemptMethod (s : State) (t : Nat) (g : Grid) (gang : Nat) : Option Bool :=
  let keys := wholeKeys s t g gang
  if heldByJob s keys || someExited s t g gang || !atBoundary s t g then none
  else if !keys.isEmpty && keys.all (flushable s g) then some true
  else if saveArea g != 0 then some false
  else none

/-- The gang that gives way on a die (R75), with the method. -/
def preemptChoice (s : State) (die : Nat) : Option (Nat × Grid × Nat × Bool) :=
  if s.groups.any fun e => coreDie e.2.core == die && e.2.closing then none
  else (pendingGrids s die).findSome? fun e =>
    match nextGang s die e.1 with
    | none => none
    | some p =>
    if (placeGang s e.1 e.2 p die).isSome || e.2.status != 1 || !stageOk s die e.1 e.2 then none
    else
      let lower := ((residentGangs s die).filter fun r => decide (priorityOf r.2.1 < priorityOf e.2)).mergeSort fun a b =>
        decide (priorityOf a.2.1 ≤ priorityOf b.2.1)
      lower.findSome? fun r =>
        let without := (wholeKeys s r.1 r.2.1 r.2.2).foldl removeGroup s
        if (placeGang without e.1 e.2 p die).isNone then none
        else (preemptMethod s r.1 r.2.1 r.2.2).map fun m => (r.1, r.2.1, r.2.2, m)

/-- A group's naps end (R115). -/
def endGroupNaps (s : State) (key : Nat) : State :=
  match groupAt s key with
  | none => s
  | some q => q.troupes.foldl (fun s e => modTroupe s q.core e.2 endNaps) s

/-- A save begins: the members, and of a Minuet grid every group, start no new clause, and their naps end (R79, R115, R403, R465). -/
def startSave (s : State) (t : Nat) (g : Grid) (gang : Nat) : State :=
  (wholeKeys s t g gang).foldl (fun s k => endGroupNaps (modGroup s k fun q => { q with closing := true }) k) s

/-- PREEMPT (R75). -/
def execPreempt (die : Nat) (s : State) : Out :=
  match preemptChoice s die with
  | none => .next s
  | some (t, g, gang, true) => .next (flushGang s t g gang)
  | some (t, g, gang, false) => .next (startSave s t g gang)

/-- REGION_FLUSH (R78): of the gang that gives way. -/
def execRegionFlush (ticket gang : Nat) (s : State) : Out :=
  match gridAt s ticket with
  | none => .next s
  | some g =>
    if (List.range 4).any (fun d => match preemptChoice s d with
        | some (t, _, k, m) => t == ticket && k == gang && m
        | none => false) then .next (flushGang s ticket g gang)
    else .next s

/-! ## Full save (R79, R403) -/

/-- What the save of a group waits for (R403 steps 1 and 2, R398, R79). -/
def saveReady (s : State) (key : Nat) : Bool :=
  match groupAt s key with
  | none => false
  | some g => g.closing && (jobsNaming s [key]).isEmpty && !moveComing s key && arrivalsDone s key &&
      (groupTroupes s g).all (fun e => troupeSettled s g.core e.2.1) &&
      (match (coreOf s g.core).service with
       | some d => d.void || d.group != key || d.kind != .troupe
       | none => true)

/-- Sent entries to spaces 0x2 and 0x3 move to the arbiter's counter (R366). -/
def toRemote (s : State) (key : Nat) (g : Group) : State :=
  (groupTroupes s g).foldl (fun s e => leaveSent s g.core (key * 32 + e.1) e.2.2) s

/-- The entries of a group about to be saved that are, or hold segments of, follow-ons (R449). -/
def keepTiles (s : State) (key : Nat) : State :=
  match groupAt s key with
  | none => s
  | some g =>
    let es := ((groupEntries s key).filter fun e => e.job.isSome || e.segments.any fun q => q.job.isSome).map fun e =>
      (⟨g.core, (coreOf s g.core).tileHi.any fun q => q.id == e.id, e⟩ : SavedEntry)
    if es.isEmpty then s else { s with savedTiles := tabPut s.savedTiles key es }

/-- A gang whose save is given up goes on: a nap begun by a clause that was still running has ended too. -/
def goOn (s : State) (keys : List Nat) : State := keys.foldl (fun s k => endGroupNaps (modGroup s k fun q => { q with closing := false }) k) s

/-- FULL_SAVE (R79, R403): the tile work stops first, and what that sends arrives before the image is written. A fault abandons the save, and so
does a job that is held for the gang (R321). A gang that has run to its
end retires instead, and one that is flushable at its boundary is flushed (R80); a dying one is not saved. -/
def execFullSave (ticket gang : Nat) (s : State) : Out :=
  match gridAt s ticket with
  | none => .next s
  | some g =>
    let keys := wholeKeys s ticket g gang
    if (tabGet? g.dying gang).isSome || !keys.any (fun k => ((groupAt s k).map fun q => q.closing) == some true) then .next s
    else if heldByJob s keys || someExited s ticket g gang then .next (goOn s keys)
    else if keys.all (flushable s g) then .next (flushGang s ticket g gang)
    else if keys.isEmpty || !keys.all (saveReady s) || !minuetStill s ticket g then .next s
    else if keys.any fun k => !(runningEntries s k).isEmpty then .next (keys.foldl stopTiles s)
    else
      let die := residentDie s ticket g gang
      let gangs := givingWay s ticket g gang
      let r := keys.foldl (fun (a : State × Bool) k => if a.2 then saveGroup a.1 k (imageBase g (k % 2 ^ 64)) false else a) (s, true)
      if r.2 then
        let s := keys.foldl (fun s k => match groupAt s k with
          | some q => removeGroup (toRemote (keepTiles s k) k q) k
          | none => s) r.1
        .next (gangs.foldl (fun s k => requeue s die { ticket, gang := k, requeued := true, saved := true, starts := [] }) s)
      else .next (send (goOn r.1 keys) (.event evSave ticket gang 0))

/-! ## Restore (R404) -/

/-- The pages of an image that a restore reads. -/
def imageMapped (s : State) (g : Grid) (base : Word) : Bool :=
  let range (at_ n : Nat) : Bool := (List.range (n / 65536 + 2)).all fun i =>
    n == 0 || pageMapped s ((base.toNat + at_ + min (65536 * i) (n - 1)) / 65536)
  let slots := match unitBytes s base 0x1000 with
    | (_, some bs) => (List.range (slotsOf g)).all fun h => bits (fieldAt bs (0x40 + 8 * h) 8) 2 0 == 0 || range (0xA81000 + h * 0x4000) 0x4000
    | (_, none) => false
  range 0 (0x1000 + troupeCount g * 0x51000) && range 0xA21000 (scratchOf g) && range 0xB01000 (bandsOf g * 0x4000) && slots

/-- Room in the core's queues for a saved group's entries (R292). -/
def entriesFit (s : State) (core : Nat) (base : Word) : Bool :=
  let n := match unitBytes s (base + 0x1C0) 8 with | (_, some bs) => min (leNat bs) 248 | (_, none) => 0
  let es := ((tileBlock s base n).2.getD []).takeWhile fun r => fieldAt r 63 1 == 1
  let hi (r : List Byte) : Bool := (fieldAt r 0 1).testBit 5
  let k := coreOf s core
  decide (queueUsed k true + (es.filter hi).length ≤ 16) && decide (queueUsed k false + (es.filter fun r => !hi r).length ≤ 16)

/-- Room in the core's queues, its slots and its table of waited-on words for what an image brings is made where pressure can make it:
the cores of a restore whose images do not fit their pools spill (R125, R137). -/
def relieveRestore (s q : State) (cores : List Nat) (need : Nat → Tab Nat) : Option State :=
  let short := cores.filter fun c => decide (8064 < poolTakes (need c) (coreOf q c))
  if short.isEmpty then none else some (short.foldl (fun s c => relieveFor s q c (need c)) s)

/-- The granules that restored gangs reserve on a core, by position: what their images hold (R137). -/
def imageNeed (s q : State) (ticket : Nat) (g : Grid) (ps : List PendingGang) (core : Nat) : Tab Nat :=
  (q.groups.filter fun e => e.2.ticket == ticket && e.2.core == core && ps.any fun p => p.gang == e.2.index / gangSize g).flatMap fun e =>
    e.2.troupes.map fun t => (t.2, restoreNeed s (recordBase (imageBase g e.2.index) t.1))

/-- The entries of a gang's images are on its cores again. -/
def forgetTiles (s : State) (ticket : Nat) (g : Grid) (gang : Nat) : State :=
  { s with savedTiles := s.savedTiles.filter fun e => !(liveMembers g gang).any fun m => groupKey ticket (gang * gangSize g + m) == e.1 }

/-- Admits saved gangs to their cores and rebuilds their groups from their images (R404): the state, or the gang whose image is malformed. -/
def bringBack (s : State) (die ticket : Nat) (g : Grid) (cs : List Nat) (ps : List PendingGang) : State ⊕ Nat :=
  ps.foldl (fun a p => match a with
    | .inr n => .inr n
    | .inl s =>
      let s := admitGang (dropPending s die ticket p.gang) ticket g p cs
      match (liveMembers g p.gang).foldl (fun (a : Option State) m =>
          let i := p.gang * gangSize g + m
          a.bind fun s => restoreGroup s (groupKey ticket i) (imageBase g i)) (some s) with
      | some s => .inl (forgetTiles s ticket g p.gang)
      | none => .inr p.gang) (.inl s)

/-- What a restore waits for besides room on its cores: the pages of its images, and room in the tile queues (R404, R292). -/
def imagesReady (s : State) (g : Grid) (cs : List Nat) (ps : List PendingGang) : Bool :=
  ps.all fun p => (liveMembers g p.gang).all fun m =>
    let base := imageBase g (p.gang * gangSize g + m)
    imageMapped s g base && !unitWaits s base 0xB41000 && entriesFit s (cs.getD m 0) base

/-- GANG_RESTORE (R404, R137, R465): a malformed image kills the gang with cause 0x42. A restore whose image pages are unmapped, or whose tile
entries, symbols or waits find no room, waits, and so holds back what follows it in the die's order (DESIGN CHOICE: R79 and R292 say that it
waits and name no order, notes/assumptions/30.md). -/
def execGangRestore (die : Nat) (s : State) : Out :=
  match firstFit s die with
  | none => .next s
  | some (t, g, p, cs) =>
    let ps := comingBack s die t g p
    if !p.saved || !imagesReady s g cs ps then .next s
    else
      match bringBack s die t g cs ps with
      | .inl q =>
        let at_ := (liveMembers g p.gang).map fun m => cs.getD m 0
        .next (if at_.all (tablesOk q) then (relieveRestore s q at_ (imageNeed s q t g ps)).getD (countStage q g) else s)
      | .inr gang => execGangKill t gang 0x42 s

/-! ## The Minuet rotation (R81) -/

/-- The troupe whose turn it is, or the one that follows a troupe that has gone. -/
def turnTroupeOf (s : State) (ticket : Nat) (g : Grid) : Option (Nat × Nat × Nat × Nat) :=
  let rot := rotation s ticket
  match rot.find? fun r => decide (g.turnGroup < r.2.2.1) || (r.2.2.1 == g.turnGroup && decide (g.turnTroupe ≤ r.2.2.2)) with
  | some r => some r
  | none => rot.head?

/-- The troupe after a troupe. -/
def turnAfter (s : State) (ticket group tidx : Nat) : Option (Nat × Nat × Nat × Nat) :=
  let rot := rotation s ticket
  match rot.find? fun r => decide (group < r.2.2.1) || (r.2.2.1 == group && decide (tidx < r.2.2.2)) with
  | some r => some r
  | none => rot.head?

/-- Naps, yields and waits of a troupe that are over at its turn (R87, R115, R246). -/
def wakeTurn (s : State) (core pos : Nat) : State :=
  pollTroupe (modTroupe s core pos fun t => modThreads t (-1) fun _ h => match h.st with
    | .napping til => if t.turns ≥ til then { h with st := .runnable } else h
    | st => if yieldOver s core pos st then { h with st := .runnable } else h) core pos

/-- The clause of the turn is complete: its loads have arrived, its stores and updates are acknowledged, its tile entries have
retired (R81, R292). -/
def turnQuiet (s : State) (core pos : Nat) (t : Troupe) : Bool :=
  (groupEntries s t.group).all (fun e => e.issuer != pos) &&
  t.clause.isNone && (ownEntries s t).isEmpty && t.acquires.isEmpty && (olderSymbols s core pos t.seq).isEmpty

/-- A troupe delivery of a troupe is outstanding: its fault holds the rotation (R81, R398). -/
def heldByTrap (s : State) (core pos : Nat) (t : Troupe) : Bool :=
  ((coreOf s core).deliveries ++ (coreOf s core).service.toList).any fun d =>
    d.kind == .troupe && d.pos == pos && d.group == t.group && !d.void

/-- Passes the turn on; as a rotation ends, the grid's gangs that fit are admitted (R81). -/
def passTurn (s : State) (ticket core pos group tidx : Nat) : State :=
  let s := modTroupe s core pos fun t => { t with turns := t.turns + 1 }
  let s := if (rotation s ticket).getLast?.map (fun r => (r.2.2.1, r.2.2.2)) == some (group, tidx) then admitMore ticket 64 s else s
  match turnAfter s ticket group tidx with
  | none => s
  | some r => wakeTurn (modGrid s ticket fun g => { g with turnGroup := r.2.2.1, turnTroupe := r.2.2.2, turnUsed := false }) r.1 r.2.1

/-- A thread of a troupe can issue. -/
def canIssue (s : State) (core pos : Nat) : Bool :=
  match troupeAt s core pos with
  | some t => laneList.any fun l => (threadOf t l).st == .runnable
  | none => false

/-- MINUET_TURN (R81): a turn that is used up, or that no thread can use, passes; a fault holds it (R398). DEDUCED
(notes/assumptions/13.md): the delivery that forfeits turns is the one R398 does not name, a spill's, which suspends the troupe too. -/
def execMinuetTurn (ticket : Nat) (s : State) : Out :=
  match gridAt s ticket with
  | none => .next s
  | some g => match (if gangSaved s ticket || s.groups.any (fun e => e.2.ticket == ticket && e.2.closing) then none else turnTroupeOf s ticket g) with
    | none => .next s
    | some (core, pos, group, tidx) =>
      let here := g.turnGroup == group && g.turnTroupe == tidx
      if !here then .next (wakeTurn (modGrid s ticket fun q => { q with turnGroup := group, turnTroupe := tidx, turnUsed := false }) core pos)
      else match troupeAt s core pos with
        | none => .next s
        | some t =>
          if heldByTrap s core pos t || !t.parks.isEmpty || t.halted || !turnQuiet s core pos t then .next s
          else if g.turnUsed || t.suspended then .next (passTurn s ticket core pos group tidx)
          else if canIssue s core pos then .next s
          else
            let s := wakeTurn s core pos
            .next (if canIssue s core pos then s else passTurn s ticket core pos group tidx)

/-! ## Stage periods (R83, R84) -/

/-- Every live thread of a gang, of which there is one, has been yielded on its stage's output queue since before the period began. -/
def idleGang (s : State) (t : Nat) (g : Grid) (gang : Nat) : Bool :=
  match (unitLoc s (word (recWord g 11)) false).2 with
  | none => false
  | some q =>
    recWord g 11 != 0 && !allExited s (gangResident s t g gang) && (gangResident s t g gang).all fun k => (groupThreads s k).all fun m => match m.th.st with
      | .exited => true
      | .yieldedOn l _ _ _ til => l.key == q.key && decide (til ≤ s.cycle + 65536 - 8192)
      | _ => false

/-- A gang that R84 lets go. -/
def idleChoice (s : State) (p : Pipeline) : Option (Nat × Grid × Nat × Bool) :=
  (List.range 4).findSome? fun d => (residentGangs s d).findSome? fun r =>
    if p.stages.contains r.1 && idleGang s r.1 r.2.1 r.2.2 && (p.stages.any fun t => t != r.1 && (nextGang s d t).isSome) then
      (preemptMethod s r.1 r.2.1 r.2.2).map fun m => (r.1, r.2.1, r.2.2, m)
    else none

/-- STAGE_PERIOD (R83, R84). -/
def execStagePeriod (pipe : Nat) (s : State) : Out :=
  match tabGet? s.pipelines pipe with
  | none => .next s
  | some p =>
    if s.cycle < p.nextPeriod then .next s
    else
      let weights := p.stages.map fun t => ((gridAt s t).map (weightOf s)).getD 0
      let q := { p with admitted := [], weights, nextPeriod := s.cycle + 8192 }
      let s := { s with pipelines := tabPut s.pipelines pipe q }
      match idleChoice s q with
      | some (t, g, gang, true) => .next (flushGang s t g gang)
      | some (t, g, gang, false) => .next (startSave s t g gang)
      | none => .next s

/-! ## Retirement -/

/-- GROUP_RETIRE (R67, R130). -/
def execGroupRetire (ticket group : Nat) (s : State) : Out :=
  let key := groupKey ticket group
  match groupAt s key, gridAt s ticket with
  | some g, some gr =>
    if groupDrained s key && (jobsNaming s [key]).isEmpty && rangeSettled s gr g then
      .next (noteRetired (forgetWords (removeGroup (retainRange s gr g) key) key) ticket group)
    else .next s
  | _, _ => .next s

end Sys2Proof.Machine
end

