-- ==== Sys2Proof/Machine/RegisterEvents.lean ====
section
/-!
DEFINITION. Data reaching registers: symbol arrival (R153, R350, R361, R364), and arrivals at sync words (R241).
-/

namespace Sys2Proof.Machine

/-! ## Arrival -/

/-- The key of a troupe is revoked and the access left the package (R432). -/
def answerRevoked (s : State) (pos : Nat) (t : Troupe) (loc : Loc) : Bool :=
  loc.area == .peer && !isSup pos && s.mgmt.revoked.contains (troupeKey s t)

/-! ## Reassembly slots of a core's stop (R423 to R425) -/

/-- The reassembly slots of a stop that are in use by its number among all stops. -/
def slotsUsed (s : State) (stop : Nat) : Nat := (s.fabric.slots.filter fun e => e.1 / 512 == stop).length

/-- An L1 serves a load by itself. -/
def inL1 (s : State) (core : Nat) (l : Loc) : Bool :=
  cached l && match lineAt s core l.line with
    | some n => (isShared n.st || isOwned n.st) && n.valid.getLsbD (l.key / 64 % 8)
    | none => false

/-- A location whose bytes come from outside the core: not its own scratchpads. -/
def offCore (s : State) (core : Nat) (l : Loc) : Bool := l.area != .scratch || ((groupAt s l.owner).map Group.core) != some core

/-- The lines that a symbol's answers bring into slots: one for each line that its core asks for and does not hold. An atomic asks once its
entry is sent, and the halves of a pair ask once. -/
def slotLines (s : State) (core : Nat) (y : Symbol) : List Nat :=
  let asked : List Loc := match y.kind with
    | .upper _ _ => []
    | .atomic _ => ((troupeAt s core y.pos).map fun t => (t.sb.filter fun e => e.sent && e.seq == y.seq).flatMap fun e =>
        (e.ops.filter fun o => (openLanes y).getLsbD o.lane).map LaneOp.loc).getD []
    | .image => if openLanes y = 0 then [] else y.locs.map fun e => e.2
    | _ => (y.locs.filter fun e => (openLanes y).getLsbD e.1).map fun e => e.2
  distinct ((asked.filter fun l => offCore s core l && (isAtomicKind y.kind || !inL1 s core l)).map Loc.line)

/-- The request of a symbol for a line has a slot at its core's stop: requests take slots in the order in which the symbols were made, and
hold them until their lanes have the data (R424, R425). Whether a slot of the core is free follows from what is outstanding, and none is
kept apart (DESIGN CHOICE, notes/assumptions/37.md). -/
def hasSlot (s : State) (core sym : Nat) (y : Symbol) (line : Nat) : Bool :=
  let older := ((coreOf s core).symbols.filter fun e => decide (e.1 < sym)).foldl (fun n e => n + (slotLines s core e.2).length) 0
  let mine := slotLines s core y
  !mine.contains line || decide (older + mine.idxOf line + slotsUsed s (coreDie core * 100 + coreStop core) < 256)

/-- A read of some bytes may perform: the troupe's own order (R343, R361, R364), its line (R344), the links (R429, R430). -/
def readReady (s : State) (core : Nat) (t : Troupe) (y : Symbol) (loc : Loc) (n : Nat) : Bool :=
  (t.acquires.all fun q => decide (y.seq ≤ q)) && !sectorBusy s t y.seq loc.key n && !lineWaits s core loc && (mayCross s core loc false || answerRevoked s y.pos t loc) &&
    (olderSymbols s core y.pos y.seq).all fun z => isAtomicKind z.kind || z.dep.isSome || !readsSector z (loc.key / 64)

/-- Lanes of a symbol that read the bytes a lane reads: they share one access (R349). -/
def sharedLanes (y : Symbol) (loc : Loc) : List Nat :=
  (maskLanes (openLanes y)).filter fun l => ((tabGet? y.locs l).map Loc.key) == some loc.key

/-- The values of some lanes from the bytes read: of the symbol, and of the other half of an `ld2`. -/
def deliverBytes (s : State) (core sym : Nat) (y : Symbol) (lanes : List Nat) (bs : List Byte) : State :=
  let same (v : Word) : Tab Word := lanes.map fun l => (l, v)
  match y.kind with
  | .element ty => finishSymbol (deliver s core sym (same (extElem ty (leNat bs)))) core sym
  | .lower ty other =>
    let n := typeWidth ty / 8
    let s := deliver s core sym (same (extElem ty (leNat (bs.take n))))
    let s := deliver s core other (same (extElem ty (leNat (bs.drop n))))
    finishSymbol s core sym
  | .upper ty other =>
    let n := typeWidth ty / 8
    let s := deliver s core other (same (extElem ty (leNat (bs.take n))))
    let s := deliver s core sym (same (extElem ty (leNat (bs.drop n))))
    finishSymbol s core other
  | _ => s

/-- Both halves of a load take a fault. -/
def faultBoth (s : State) (core sym : Nat) (y : Symbol) (l cause : Nat) (a : Word) : State :=
  let s := raiseFault s core sym l cause a
  let s := match y.kind with
    | .lower _ other => raiseFault s core other l cause a
    | .upper _ other => raiseFault s core other l cause a
    | _ => s
  finishSymbol s core sym

/-- A load performs in every lane that shares the lane's bytes, or is answered as revoked (R350, R432, R454). -/
def performLoad (s : State) (core sym : Nat) (y : Symbol) (t : Troupe) (loc : Loc) : State :=
  let lanes := sharedLanes y loc
  if answerRevoked s y.pos t loc then lanes.foldl (fun s l => faultBoth s core sym y l 0x38 (word loc.va)) s
  else
    let n := kindSize y.kind
    let r := readOwn s core t y.seq loc n
    let bs := (List.range n).map fun i => (tabGet? y.shadow (loc.key + i)).getD (r.2.getD i 0)
    deliverBytes (noticePoison r.1 t loc n) core sym y lanes bs

/-- The pieces of a `fill` in order, each with its length. -/
def imagePieces (y : Symbol) : List (Loc × Nat) :=
  (pieces (tabGet y.ptrs 0 0) 264).filterMap fun p => (tabGet? y.locs p.1).map fun loc => (loc, p.2)

/-- The bytes of an image from some of its pieces, as many as it is long; poison among them is noticed (R454). -/
def readPiecesOf (s : State) (core : Nat) (t : Troupe) (seq : Nat) : Nat → List (Loc × Nat) → State × List Byte
  | _, [] => (s, [])
  | 0, _ => (s, [])
  | len + 1, p :: r =>
    let n := min p.2 (len + 1)
    let q := readOwn s core t seq p.1 n
    let more := readPiecesOf (noticePoison q.1 t p.1 n) core t seq (len + 1 - n) r
    (more.1, q.2 ++ more.2)

/-- A `fill` reads its image, whose length byte 0 gives, and delivers every lane; a malformed image faults it with 0x02 (R133, R135, R136), a revoked key with 0x38
(R432). -/
def performFill (s : State) (core sym : Nat) (y : Symbol) (t : Troupe) : State :=
  let ps := imagePieces y
  if ps.any fun p => answerRevoked s y.pos t p.1 then
    finishSymbol ((maskLanes (openLanes y)).foldl (fun s l => raiseFault s core sym l 0x38 (tabGet y.ptrs 0 0)) s) core sym
  else
  let h := readPiecesOf s core t y.seq 1 ps
  let lanes := maskLanes (openLanes y)
  if imageOk (h.2.headD 255) then
    let r := readPiecesOf h.1 core t y.seq (imageLength (h.2.headD 0).toNat) ps
    finishSymbol (deliver r.1 core sym (lanes.map fun l => (l, imageLane r.2 l))) core sym
  else finishSymbol (lanes.foldl (fun s l => raiseFault s core sym l 0x02 (tabGet y.ptrs 0 0)) h.1) core sym

/-- The pieces of a restored image are found again (R404); a page that fails faults its lanes. -/
def issueImage (s : State) (core sym : Nat) (y : Symbol) (t : Troupe) : State :=
  (pieces (tabGet y.ptrs 0 0) 264).foldl (fun s p => match symbolAt s core sym with
    | none => s
    | some y => match translate s (troupeWho s core y.pos t) 0 (tabGet y.ptrs 0 0 + word p.1) p.2 .read with
      | (s, .ok loc) => setSymbol s core sym { y with locs := tabPut y.locs p.1 loc }
      | (s, .trap c b) => (maskLanes (openLanes y)).foldl (fun s l => raiseFault s core sym l c b) s) s

/-- Loads that are issued again go in the order in which they were made (R156): none of an earlier place in program order still has a lane
whose address is known and which has not issued. -/
def issueTurn (s : State) (core : Nat) (y : Symbol) : Bool :=
  (olderSymbols s core y.pos y.seq).all fun z => !z.dep.isSome || (maskLanes (openLanes z)).all fun l =>
    (laneAddress z l).isNone || (tabGet? z.locs l).isSome

/-- An answer's arrival in a lane (R153). A lane not yet translated issues; an atomic's reply and a host read that has been
made are delivered; any other load reads where it performs (R356). -/
def arriveLane (s : State) (core sym lane : Nat) (y : Symbol) (t : Troupe) : State :=
  match y.kind, tabGet? y.replies lane with
  | .atomic _, some v => finishSymbol (deliver s core sym [(lane, v)]) core sym
  | .atomic _, none => s
  | .image, _ =>
    if y.locs.isEmpty then issueImage s core sym y t
    else if (imagePieces y).all fun p => readReady s core t y p.1 p.2 && hasSlot s core sym y p.1.line then performFill s core sym y t else s
  | _, some v => finishSymbol (deliver s core sym [(lane, v)]) core sym
  | _, none => match tabGet? y.locs lane with
    | none => if issueTurn s core y then issueLane s core sym lane else s
    | some loc =>
      if loc.area == .host || !readReady s core t y loc (kindSize y.kind) || !hasSlot s core sym y loc.line then s else performLoad s core sym y t loc

/-- SYMBOL_ARRIVAL (R153). -/
def execSymbolArrival (core sym lane : Nat) (s : State) : Out :=
  match symbolAt s core sym with
  | none => .next s
  | some y => match troupeAt s core y.pos with
    | none => .next s
    | some t => if (openLanes y).getLsbD lane then .next (arriveLane s core sym lane y t) else .next s

/-! ## Sync words -/

/-- An arrival waits for the line of its word (R344) or for the links (R429, R430). -/
def arrivalWaits (s : State) (a : Arrival) : Bool :=
  collapseWaits s a.word.line || (a.word.area == .device && l2Waits s (homeDie s a.word) a.word.line) || (a.word.area == .peer && !linkOpen s a.word)

/-- An arrival under a revoked key that would leave the package (R432). -/
def arrivalRevoked (s : State) (a : Arrival) : Bool := a.word.area == .peer && s.mgmt.revoked.contains a.key

/-- SYNC_ARRIVAL (R240, R241): the n-th arrival on its way reaches its word's home; one under a revoked key is discarded with an event (R432). -/
def execSyncArrival (n : Nat) (s : State) : Out :=
  match s.arrivals[n]? with
  | none => .next s
  | some a =>
    let rest (s : State) : State := { s with arrivals := s.arrivals.eraseIdx n }
    if arrivalRevoked s a then .next (send (rest s) (.event evRevoked 0 (a.word.va % 2 ^ 52) 0))
    else if arrivalWaits s a then .next s
    else .next (arrive (requestTo (rest s) a.key 8 a.word []) a.word a.gen a.bytes)

end Sys2Proof.Machine
end

