-- ==== Sys2Proof/Machine/CacheEvents.lean ====
section
/-!
DEFINITION. Events of lines and store buffers: permission and collapse (R336 to R341), invalidations (R331, R332), accesses of other
units at a home (R483), sending and acknowledging store-buffer entries (R361 to R366, R432), and accesses at the host (R437).
-/

namespace Sys2Proof.Machine

/-! ## Update-only lines -/

/-- The line, operator and type of a buffered update that waits for permission (R336). -/
def wantsU (s : State) (core : Nat) (e : SBEntry) : Option (Nat × Nat × Loc) :=
  match e.ops with
  | [] => none
  | o :: _ => match updateInU e o with
    | none => none
    | some (op, ty) => if e.sent && !holdsU s core o.loc.line op ty then some (op, ty, o.loc) else none

/-- An L1 still keeps a copy whose merge is not acknowledged. -/
def evictingHere (s : State) (core line : Nat) : Bool :=
  match lineAt s core line with
  | some n => isEvicting n.st
  | none => false

/-- U_GRANT (R336): the home takes the oldest permission request of a troupe's sent updates. -/
def execUGrant (core pos : Nat) (s : State) : Out :=
  match troupeAt s core pos with
  | none => .next s
  | some t => match t.sb.findSome? (wantsU s core) with
    | none => .next s
    | some (op, ty, l) => 
      if evictingHere s core l.line || (otherPair s l.line op ty && collapseWaits s l.line) || roomWaits s core l.line then .next s
      else .next (grantFor s core t.group op ty l)

/-- The first merge slot of a die's edge stops that no request has, 64 at each of the eight (R434): edge stop * 64 + slot. -/
def freeMergeSlot (s : State) (die : Nat) : Option Nat :=
  let used := (s.zethes.peers.filter fun m => homeDie s (lineLoc m.line) == die).filterMap PeerHolder.slot
  (List.range 512).find? fun i => !used.contains i

/-- The home asks a peer package for its partial of a line, which will come into a merge slot (R424, R434); with none free the request waits
for one. -/
def requestPartial (s : State) (m : PeerHolder) : State :=
  match freeMergeSlot s (homeDie s (lineLoc m.line)) with
  | none => s
  | some i =>
    let put (q : PeerHolder) : PeerHolder := if q = m then { q with slot := some i } else q
    let f : Flit := { (default : Flit) with kind := 6, key := m.key, rslot := i % 64, span := m.line * 4, len := 0, payload := [2], parts := 1 }
    sendPacket { s with zethes := { s.zethes with peers := s.zethes.peers.map put } } m.pkg 0 m.key [f]

/-- Peers whose partials of a line have not been asked for. -/
def unasked (s : State) (line : Nat) : List PeerHolder :=
  s.zethes.peers.filter fun m => m.line == line && m.pair.isSome && m.slot.isNone && !s.zethes.partials.any fun p => p.line == line && p.pkg == m.pkg

/-- COLLAPSE (R338, R339): a line in U folds into its home value; the partials of its member packages are asked for and waited for first
(R344, R434). Any other line is left alone. -/
def execCollapse (line : Nat) (s : State) : Out :=
  .next (if collapseWaits s line then (unasked s line).foldl requestPartial s else collapseLine s line)

/-- A peer's partial takes the merge slot that its home has allotted for it, under the key that the directory has for the peer; one that has
not been asked for, or of a fenced package, is discarded. Writes that waited for it are made (R346, R434). -/
def takePartial (s : State) (line pkg op ty : Nat) (data : Tab Byte) (touched : BitVec 8) : State :=
  match s.zethes.peers.find? fun m => m.line == line && m.pkg == pkg && m.pair == some (op, ty) && m.slot.isSome with
  | none => s
  | some m =>
    if pkg = Config.package || op > 4 || (lineLoc line).area != .device || otherPair s line op ty || s.mgmt.revoked.contains m.key ||
        s.zethes.partials.any (fun e => e.line == line && e.pkg == pkg) then s
    else payOwed { s with zethes := { s.zethes with partials := s.zethes.partials ++ [⟨line, pkg, op, ty, data, touched, m.key⟩] } }

/-- Lines of a set that a core's accesses under way need and that its L1 does not hold. -/
def wantedLines (s : State) (core : Nat) : List Nat :=
  ((coreOf s core).troupes.flatMap fun t => t.2.sb.flatMap fun e => e.ops.map fun o => o.loc.line).filter fun n =>
    (lineAt s core n).isNone

/-- Whether an L1 must give up a U copy: all eight ways of the set are update-only, the line is the least recently used of
them, and another line of the set is wanted (R328). -/
def mustEvictU (s : State) (core line : Nat) : Bool :=
  let set := (coreOf s core).l1.filter fun e => e.1 % 64 == line % 64
  decide (set.length ≥ 8) && set.all (fun e => isU e.2.st || isEvicting e.2.st) &&
    ((set.filter fun e => isU e.2.st).getLast?.map fun e => e.1) == some line &&
    (wantedLines s core).any fun n => n % 64 == line % 64

/-- U_EVICTION (R340). -/
def execUEviction (core line : Nat) (s : State) : Out :=
  if mustEvictU s core line then .next (evictU s core line) else .next s

/-- EVICTION_MERGE (R340, R424): the merge message arrives in its slot, once the slice has a way for the copy (R328). -/
def execEvictionMerge (core line : Nat) (s : State) : Out :=
  if s.merges.contains (core, line) && !l2Waits s (coreDie core) line && s.fabric.mergeSlots.any fun e => e.1 == core && e.2.1 == line then
    .next (ackEviction s core line)
  else .next s

/-- SLICE_U_EVICTION (R328, R341): of a set whose twelve ways are all update-only, the least recently used copy goes, once it may. -/
def execSliceUEviction (die line : Nat) (s : State) : Out :=
  let us := l2Updates s die line
  if decide (12 ≤ us.length) && us.getLast? == some line && mayRelease s die line then .next (releaseSlice s die line) else .next s

/-! ## Invalidations -/

/-- INVALIDATION_RECEIVE (R331). -/
def execInvalidationReceive (core n : Nat) (s : State) : Out :=
  match (coreOf s core).invMsgs[n]? with
  | none => .next s
  | some line => .next (receiveInval (modCore s core fun k => { k with invMsgs := k.invMsgs.eraseIdx n }) core line)

/-- INVALIDATION_AGE_EXPIRY (R332). -/
def execInvalidationAgeExpiry (core n : Nat) (s : State) : Out :=
  match (coreOf s core).invq[n]? with
  | none => .next s
  | some e => if s.cycle ≥ e.at_ + 32768 then .next (applyOwn s core e.line) else .next s

/-! ## Other units (R483) -/

/-- A byte range of near DRAM or far memory (R383). -/
def physicalRange (pa len : Nat) : Bool := decide (pa + len ≤ 2 ^ 38) || (decide (2 ^ 40 ≤ pa) && decide (pa + len ≤ 2 ^ 41))

/-- Physical memory as a location. -/
def physicalLoc (pa : Nat) : Loc := ⟨.device, pa, 0, true, 0, 0, none⟩

/-- Reads physical memory piece by piece at its home slices. -/
def physicalRead (s : State) (pa len : Nat) : State × List Byte :=
  (pieces (word pa) len).foldl (fun a p =>
    let r := homeRead a.1 (physicalLoc (pa + p.1)) p.2
    (r.1, a.2 ++ r.2)) (s, [])

/-- Writes physical memory piece by piece at its home slices. -/
def physicalWrite (s : State) (pa : Nat) (bs : List Byte) : State :=
  (pieces (word pa) bs.length).foldl (fun s p => homeWrite s (physicalLoc (pa + p.1)) ((bs.drop p.1).take p.2)) s

/-- A line of a physical range waits for partials of peers (R344). -/
def rangeWaits (s : State) (pa len : Nat) : Bool := (pieces (word pa) len).any fun p => collapseWaits s (physicalLoc (pa + p.1)).line

/-- HOME_UNIT_ACCESS (R483): in a device that is not ready only the host's own memory can change (R473). -/
def execHomeUnitAccess (a : UnitAccess) (s : State) : Out :=
  match a with
  | .engine die job n => if s.mgmt.boot != 5 then .next s else .next (engineAccess s die job n)
  | .ozwynRead pa len =>
    if s.mgmt.boot == 5 && physicalRange pa len && !rangeWaits s pa len then
      let r := physicalRead s pa len
      .next (send r.1 (.data pa r.2))
    else .next s
  | .ozwynWrite pa bs => if s.mgmt.boot == 5 && physicalRange pa bs.length && !rangeWaits s pa bs.length then .next (physicalWrite s pa bs) else .next s
  | .hostWrite a bs => .next { s with hostMem := cellsPut s.hostMem a bs }

/-! ## Sending -/

/-- Replaces or removes an entry of a troupe's buffer. -/
def putEntry (s : State) (core pos : Nat) (e : SBEntry) : State :=
  modTroupe s core pos fun t => { t with sb := t.sb.map fun q => if q.id = e.id then e else q }
def dropEntry (s : State) (core pos id : Nat) : State :=
  modTroupe s core pos fun t => { t with sb := t.sb.filter fun q => q.id != id }

/-- What a release waits for (R362, R366): earlier loads, entries ahead, and the arbiter's counter. -/
def releaseClear (s : State) (core pos : Nat) (t : Troupe) (e : SBEntry) : Bool :=
  match e.release with
  | none => true
  | some scope =>
    loadsDone s core pos e.seq && (tabGet s.remote (t.group * 32 + t.tidx) []).isEmpty &&
      (t.sb.takeWhile fun q => q.id != e.id).all fun q => decide (scope < 4) && q.sent && q.loc.area == .host

/-- Lines whose other S holders must have the invalidation before a buffered entry performs in the L1: a store's, and in private memory an
atomic's or update's (R356). -/
def storeLine (e : SBEntry) : Option Nat :=
  let here := match e.kind with
    | .store => true
    | .record => true
    | .update _ _ _ => e.loc.space == 15
    | .atomic _ _ _ _ => e.loc.space == 15
    | .cas _ _ => e.loc.space == 15
    | _ => false
  if here && cached e.loc then some e.loc.line else none

/-- Bytes of an entry lie within a range. -/
def entryMeets (e : SBEntry) (r : Loc × Nat) : Bool :=
  (entryBytes e).any fun l => decide (r.1.key ≤ l.key) && decide (l.key < r.1.key + r.2)

/-- The records and blocks a card names (R323), where their pointers translate. -/
def cardRecords (s : State) (w : Who) (card : Loc) : List (Loc × Nat) :=
  let a := homeRead s card 64
  let c := wordsOf (a.2 ++ (homeRead a.1 (card.plus 64) 64).2)
  let kind := (c.getD 0 0).toNat % 16
  let named : List (Nat × Nat) := [(if kind = 4 then 0 else 1, 64), (2, 64), (if kind = 2 || kind = 3 || kind ≥ 5 then 3 else 0, 64), (6, 32)]
  named.filterMap fun e =>
    if e.1 = 0 || c.getD e.1 0 = 0 then none
    else match (translate s w 0 (c.getD e.1 0) e.2 .read).2 with
      | .ok l => some (l, e.2)
      | .trap _ _ => none

/-- A card is sent once the troupe's earlier stores to its bytes, and to the records and blocks it names, have performed (R323), and its
earlier acquires are complete (R361); with release, once everything before it has (R319). -/
def cardReady (s : State) (core pos : Nat) (t : Troupe) (e : SBEntry) : Bool :=
  let older := (t.sb.takeWhile fun q => q.id != e.id).filter fun q => q.kind != .submission
  let clear (rs : List (Loc × Nat)) : Bool := older.all fun q => rs.all fun r => !entryMeets q r
  releaseClear s core pos t e && (t.acquires.all fun q => decide (e.seq ≤ q)) && e.ops.all fun o =>
    clear [(o.loc, 128)] && clear (cardRecords s (jobWho (unitDie core) 16 (troupeKey s t) t.group) o.loc)

/-- One entry is sent. -/
def sendEntry (s : State) (core pos : Nat) (t : Troupe) (e : SBEntry) : State :=
  if e.kind == .submission then
    (if cardReady s core pos t e then sendCard (putEntry s core pos { e with sent := true }) core pos t e else s)
  else
    let s := putEntry s core pos { e with sent := true }
    match storeLine e with
    | some line => postInvals s core line
    | none => s

/-- STORE_BUFFER_SEND (R363): the oldest unsent entry. -/
def execStoreBufferSend (core pos : Nat) (s : State) : Out :=
  match troupeAt s core pos with
  | none => .next s
  | some t => match t.sb.find? fun e => !e.sent with
    | none => .next s
    | some e =>
      if !e.again then .next (sendEntry s core pos t e)
      else match renewEntry s (troupeWho s core pos t) e with
        | (s, .inr e) => .next (sendEntry (putEntry s core pos e) core pos t e)
        | (s, .inl c) =>
          if c = 0x16 then .next s else .next (send (dropEntry s core pos e.id) (.event evRestore core c (pointerOf s e.loc).toNat))

/-! ## Performing and acknowledging -/

/-- The symbol of a returning atomic. -/
def replySymbol (k : SBKind) : Option Nat :=
  match k with
  | .atomic _ _ _ y => some y
  | .cas _ y => some y
  | _ => none

/-- Two entries name the same sector; a `cl` names its line. -/
def sameSector (e q : SBEntry) : Bool :=
  let line := (match e.kind with | .cl _ => true | _ => false) || (match q.kind with | .cl _ => true | _ => false)
  if line then e.loc.line == q.loc.line else e.loc.key / 64 == q.loc.key / 64

/-- What an entry does waits for its lines: an update into a copy that the L1 holds (R337) and `cl.invalidate` (R353) collapse nothing. -/
def entryWaits (s : State) (core : Nat) (e : SBEntry) : Bool :=
  match e.kind with
  | .cl fn => if fn = 1 then l2Waits s (coreDie core) e.loc.line else lineWaits s core e.loc
  | .update _ _ _ => e.ops.any fun o => (updateInU e o).isNone && lineWaits s core o.loc
  | _ => lineWaits s core e.loc

/-- An entry whose reply goes to a symbol has its slots (R424). -/
def replySlots (s : State) (core : Nat) (e : SBEntry) : Bool :=
  match replySymbol e.kind with
  | none => true
  | some n => match symbolAt s core n with
    | none => true
    | some y => e.ops.all fun o => hasSlot s core n y o.loc.line

/-- The troupe's own order lets an entry perform (R361, R362, R364). -/
def ackReady (s : State) (core pos : Nat) (t : Troupe) (e : SBEntry) : Bool :=
  let own := (replySymbol e.kind).bind fun y => (symbolAt s core y).map Symbol.seq
  e.sent && !entryWaits s core e && replySlots s core e && (mayCross s core e.loc true || answerRevoked s pos t e.loc) &&
    ((ownEntries s t).takeWhile fun q => q.id != e.id).all (fun q => q.kind == .submission || !sameSector e q) &&
    (t.acquires.all fun q => decide (newest e ≤ q) || own == some q) && releaseClear s core pos t e &&
    (olderSymbols s core pos (newest e)).all fun y => isAtomicKind y.kind ||
      (match e.kind with
       | .cl _ => (List.range 8).all fun i => !readsSector y (e.loc.line * 8 + i)
       | _ => !readsSector y (e.loc.key / 64))

/-- An update in U needs its copy first (R336, R337). -/
def copiesHeld (s : State) (core : Nat) (e : SBEntry) : Bool :=
  e.ops.all fun o => match updateInU e o with
    | some (op, ty) => holdsU s core o.loc.line op ty
    | none => true

/-- Replies of a returning atomic reach its symbol (R354). -/
def giveReplies (s : State) (core : Nat) (e : SBEntry) (out : Tab Word) : State :=
  match replySymbol e.kind with
  | none => s
  | some y => match symbolAt s core y with
    | none => s
    | some q => setSymbol s core y { q with replies := q.replies ++ out }

/-- An entry acknowledged as revoked (R432): nothing is performed; an atomic's lanes fault. -/
def revokeEntry (s : State) (core pos : Nat) (e : SBEntry) : State :=
  let s := dropEntry s core pos e.id
  match replySymbol e.kind with
  | none => send s (.event evRevoked core (e.loc.va % 2 ^ 52) 0)
  | some y => e.ops.foldl (fun s o => finishSymbol (raiseFault s core y o.lane 0x38 (word o.loc.va)) core y) s

/-- An entry performs and is freed; poison that a returning atomic reads kills the gang (R454). -/
def performSent (s : State) (core pos : Nat) (t : Troupe) (e : SBEntry) : State :=
  let poison := (replySymbol e.kind).isSome
  let s := if poison then noticePoison s t e.loc 64 else s
  let s := coreRequest s core (troupeKey s t) (if e.kind == .store || e.kind == .record then 1 else 4) e.loc ((storeTab e).map fun b => b.2)
  let r := performBuffered (noteShadow s core pos e) core e
  giveReplies (dropEntry r.1 core pos e.id) core e r.2

/-- A sent entry of a resident troupe at its point of performance (R356, R363). -/
def ackEntry (s : State) (core pos : Nat) (t : Troupe) (e : SBEntry) : State :=
  if !ackReady s core pos t e || !copiesHeld s core e then s
  else if answerRevoked s pos t e.loc then revokeEntry s core pos e
  else match storeLine e with
    | some line => if (freshSharers s core line).isEmpty then performSent s core pos t e else postInvals s core line
    | none => performSent s core pos t e

/-- An entry of a saved troupe performs beyond the package or at the host; the arbiter's counter falls (R366). -/
def ackRemote (s : State) (key id : Nat) : State :=
  match (tabGet s.remote key []).find? fun e => e.id == id with
  | none => s
  | some e =>
    let drop (s : State) : State := { s with remote := tabPut s.remote key ((tabGet s.remote key []).filter fun q => q.id != id) }
    if e.again then drainAgain (drop s) 0 (key / 32) (key % 32) e
    else if leavesRevoked s (key / 32) e then send (drop s) (.event evRevoked 0 (e.loc.va % 2 ^ 52) 0)
    else if collapseWaits s e.loc.line || l2Waits s (homeDie s e.loc) e.loc.line || (e.loc.area == .peer && !linkOpen s e.loc) then s
    else
    let s := requestTo (drop s) (((gridOfGroup s (key / 32)).map gridKey).getD 0) (if e.kind == .store then 1 else 4) e.loc
      ((storeTab e).map fun b => b.2)
    let away : SBEntry := { e with loc := { e.loc with uncached := true }, ops := e.ops.map fun o => { o with loc := { o.loc with uncached := true } } }
    (performBuffered s 0 away).1

/-- STORE_ACK (R363, R366): a core number of 256 or more names, above 256, the group whose saved troupe's entry the arbiter
counts, the position its troupe index. -/
def execStoreAck (core pos id : Nat) (s : State) : Out :=
  if core ≥ 256 then .next (ackRemote s ((core - 256) * 32 + pos) id)
  else match troupeAt s core pos with
    | none => .next s
    | some t => match t.sb.find? fun e => e.id == id with
      | none => .next s
      | some e =>
        if e.kind == .submission || ((e.kind == .store || e.kind == .record) && e.loc.area == .host) then .next s else .next (ackEntry s core pos t e)

/-! ## The host (R437) -/

/-- An access that meets poison sends an event and delivers nothing (R454). -/
def hostPoison (s : State) (core : Nat) (l : Loc) : State := send s (.event evPoison core (l.addr % 2 ^ 52) 0)

/-- A store is performed at the host; the port has accepted it. -/
def hostStore (s : State) (core pos : Nat) (t : Troupe) (e : SBEntry) : State :=
  if !ackReady s core pos t e then s
  else
    let s := noteShadow (dropEntry s core pos e.id) core pos e
    if poisoned s e.loc 64 && decide ((storeTab e).length < 64) then hostPoison s core e.loc
    else (performBuffered s core e).1

/-- The replies of a host read of some lanes: one symbol or both halves. -/
def hostReply (s : State) (core sym : Nat) (y : Symbol) (lanes : List Nat) (bs : List Byte) : State :=
  let put (s : State) (n : Nat) (v : Word) : State := match symbolAt s core n with
    | none => s
    | some q => setSymbol s core n { q with replies := lanes.foldl (fun a l => tabPut a l v) q.replies }
  match y.kind with
  | .element ty => put s sym (extElem ty (leNat bs))
  | .lower ty other =>
    let n := typeWidth ty / 8
    put (put s sym (extElem ty (leNat (bs.take n)))) other (extElem ty (leNat (bs.drop n)))
  | _ => s

/-- A load of a troupe is performed at the host, in every lane that names host memory. -/
def hostLoad (s : State) (core sym : Nat) (y : Symbol) (t : Troupe) : State :=
  let lanes := (maskLanes (openLanes y)).filter fun l => (tabGet? y.replies l).isNone
  let n := kindSize y.kind
  lanes.foldl (fun s l => match tabGet? y.locs l with
    | some loc =>
      if loc.area == .host && readReady s core t y loc n && hasSlot s core sym y loc.line then
        let s := if poisoned s loc n then hostPoison s core loc else s
        let r := readOwn s core t y.seq loc n
        hostReply (noticePoison r.1 t loc n) core sym y [l] r.2
      else s
    | none => s) s

/-- HOST_ACCESS (R437): the troupe's access of a program order, a store or a load. -/
def execHostAccess (core pos id : Nat) (s : State) : Out :=
  match troupeAt s core pos with
  | none => .next s
  | some t => match t.sb.find? fun e => e.id == id && (e.kind == .store || e.kind == .record) && e.loc.area == .host with
    | some e => .next (hostStore s core pos t e)
    | none => match (coreOf s core).symbols.find? fun e => e.2.pos == pos && e.2.seq == id with
      | some (n, y) => .next (hostLoad s core n y t)
      | none => .next s

end Sys2Proof.Machine
end

