-- ==== Sys2Proof/Machine/PagingEvents.lean ====
section
/-!
DEFINITION. Page walks (R385, R387) and the migration engine (R391, R458).
-/

namespace Sys2Proof.Machine

/-- A translation is missed: no TLB that serves the core holds it. -/
def missed (s : State) (core va : Nat) : Bool := !(firstTlb s core ++ (dieAt s (unitDie core)).tlb2).any (tlbCovers va)

/-- A buffered write or atomic of the core waits to perform at an address: it has passed its checks, and sets D (R379, R385). -/
def writeWaits (s : State) (core va : Nat) : Bool :=
  (coreOf s core).troupes.any fun t => t.2.sb.any fun e =>
    (match e.kind with | .cl _ => false | .submission => false | _ => true) && e.loc.area != .scratch && e.loc.va / 64 == va / 64

/-- PAGE_WALK (R385, R387): a walker fills the TLBs for a missed translation, setting A; D is set only for a write or atomic under way. -/
def execPageWalk (core va : Nat) (write : Bool) (s : State) : Out :=
  if core < 256 && va < 2 ^ 52 && missed s core va then .next (walkFill s core va (write && writeWaits s core va)).1 else .next s

/-! ## Migration -/

/-- A device location moved with its page. -/
def moveLoc (old new size : Nat) (l : Loc) : Loc :=
  if l.area == .device && decide (old ≤ l.addr) && decide (l.addr < old + size) then { l with addr := new + (l.addr - old) } else l

/-- A waiting thread's word or queue moves with its page. -/
def moveWait (f : Loc → Loc) : ThreadState → ThreadState
  | .watching w g a => .watching (f w) g a
  | .yieldedOn q h t c til => .yieldedOn (f q) h t c til
  | st => st

/-- A core's waits and notify words after a page moved. -/
def moveCore (f : Loc → Loc) (k : CoreSt) : CoreSt :=
  let thread (h : Thread) : Thread := { h with st := moveWait f h.st }
  let troupe (t : Troupe) : Troupe := { t with threads := tabMap t.threads (fun _ h => thread h) }
  let entry (e : TileEntry) : TileEntry := { e with notify := e.notify.map f }
  { k with troupes := tabMap k.troupes (fun _ t => troupe t), tileHi := k.tileHi.map entry, tileLo := k.tileLo.map entry }

/-- A die's notices and cards after a page moved. -/
def moveDie (f : Loc → Loc) (d : DieSt) : DieSt :=
  { d with notices := d.notices.map (fun n => (f n.1, n.2)), inbox := d.inbox.map (fun q => { q with card := f q.card }) }

/-- What else names a moved page by its place: waits, notices, arrivals, cards on their way, notify words. -/
def moveNames (s : State) (f : Loc → Loc) : State :=
  let cores := tabMap s.cores (fun _ k => moveCore f k)
  let dies := tabMap s.dies (fun _ d => moveDie f d)
  { s with cores, dies, arrivals := s.arrivals.map (fun a => { a with word := f a.word }) }

/-- A page's bytes, and the poison among them, copied from one frame to another. -/
def copyFrame (s : State) (old new size : Nat) : State :=
  let inside (b k : Nat) : Bool := decide (b ≤ k) && decide (k < b + size)
  let rest := s.mem.filter fun c => !inside new c.1
  let mem := (s.mem.filter fun c => inside old c.1).foldl (fun m c => cellPut m (new + (c.1 - old)) c.2) rest
  let bad := (s.poison.filter fun p => inside old (p * 64)).map fun p => (new + (p * 64 - old)) / 64
  { s with mem, poison := (s.poison.filter fun p => !inside new (p * 64)) ++ bad }

/-- Lines of a page that some cache holds. -/
def pageLines (s : State) (base size : Nat) : List Nat :=
  let inside (n : Nat) : Bool := decide (base ≤ n * 512) && decide (n * 512 < base + size)
  let l1 : List Nat := s.cores.flatMap fun c => c.2.l1.map fun e => e.1
  let slices : List Nat := s.sliceU.map fun e => e.1 / 4
  let peers : List Nat := s.zethes.partials.map (fun e => e.line) ++ s.zethes.peers.map fun e => e.line
  distinct ((l1 ++ slices ++ peers).filter inside)

/-- Collapses a line and takes every copy of it back (R338, R391 step 2). -/
def recallLine (s : State) (line : Nat) : State :=
  let s := dropPeers (collapseLine s line) line
  (holders s line fun _ => true).foldl (fun s c => giveUp s c line) s

/-- The leaf and size of a page that may move: near or far, not pinned, not in migration (R391). -/
def movable (s : State) (va : Nat) : Option (Nat × Nat × Nat) :=
  match walk s va with
  | none => none
  | some (a, e, level) =>
    if bits e 9 8 ≤ 1 && !e.testBit 12 && !e.testBit 10 then some (a, e, pageSize level) else none

/-- The other tier's frame that the control node supplied: in place, aligned; far pages wait for their threshold and go to the
die's own near DRAM (R458). -/
def frameFits (s : State) (die e frame size va : Nat) : Bool :=
  let old := bits e 51 16 * 2 ^ 16
  let pol := (dieAt s die).migpol.toNat
  frame % size == 0 &&
    (if bits e 9 8 = 1 then
       decide (frame / 2 ^ 36 = die) && decide ((frame + size - 1) / 2 ^ 36 = die) &&
         decide (tabGet s.migcount ((old + va % size) / 65536) 0 ≥ bits pol 47 32)
     else decide (old / 2 ^ 36 = die) && decide (2 ^ 40 ≤ frame) && decide (frame + size ≤ 2 ^ 41))

/-- Step 1 of a move (R391): MIG is set and the page invalidated; accesses fault 0x16 from now on. -/
def startMove (s : State) (die va a e frame : Nat) : State :=
  invalidatePage (modDie (setLeaf s a (e ||| 0x400)) die fun d => { d with migrating := some (va, frame) }) (word va)

/-- Steps 2 to 4 (R391): the lines are collapsed and written back, the bytes copied, the leaf written with MIG clear and the page
invalidated, which wakes the parked lanes. -/
def finishMove (s : State) (die va a e size frame : Nat) : State :=
  let old := bits e 51 16 * 2 ^ 16
  let s := (pageLines s old size).foldl recallLine s
  let s := copyFrame s old frame size
  let e := entryAt s a
  let tier := 1 - bits e 9 8
  let leaf := e - bits e 51 16 * 2 ^ 16 + frame - bits e 9 8 * 2 ^ 8 + tier * 2 ^ 8 - (if e.testBit 10 then 0x400 else 0)
  let s := moveNames (setLeaf s a leaf) (moveLoc old frame size)
  let raced (w : Nat) : Nat := if old ≤ w * 16 ∧ w * 16 < old + size then (frame + (w * 16 - old)) / 16 else w
  let s := { s with racedWords := s.racedWords.map raced }
  invalidatePage (modDie s die fun d => { d with moves := d.moves + 1, migrating := none }) (word va)

/-- The engine goes on with the page it has marked, once no access translated under its entries is outstanding and no peer's partial of its
lines is missing. A leaf that the control node has changed meanwhile ends the move. -/
def goOnMove (s : State) (die va frame : Nat) : State :=
  match walk s va with
  | some (a, e, level) =>
    if !e.testBit 10 || bits e 9 8 > 1 || e.testBit 12 then modDie s die fun d => { d with migrating := none }
    else if !pageQuiet s va || (pageLines s (bits e 51 16 * 2 ^ 16) (pageSize level)).any (collapseWaits s) then s
    else finishMove s die va a e (pageSize level) frame
  | none => modDie s die fun d => { d with migrating := none }

/-- MIGRATION_MOVE (R391): the engine begins a move of a page, or goes on with the one it has begun. -/
def execMigrationMove (die va frame : Nat) (s : State) : Out :=
  match (dieAt s die).migrating with
  | some (v, f) => .next (goOnMove s die v f)
  | none => match movable s va with
    | none => .next s
    | some (a, e, size) =>
      if (dieAt s die).migpol.getLsbD 63 && frameFits s die e frame size va then .next (startMove s die va a e frame) else .next s

end Sys2Proof.Machine
end

