-- ==== Sys2Proof/Machine/Triggers.lean ====
section
/-!
DEFINITION. Triggers as they reach the blocks of the package (R444, R445), and the halts they ask for (R441).
-/

namespace Sys2Proof.Machine

/-! ## Halts -/

/-- Troupes of a group that stand at a clause boundary halt where they may (R441). -/
def checkGroup (s : State) (key : Nat) : State :=
  match groupAt s key with
  | none => s
  | some g => g.troupes.foldl (fun s e => checkHalt s g.core e.2) s

/-- A halt request for a group (R441). -/
def haltGroup (s : State) (key : Nat) : State := checkGroup (requestHalt s key) key

/-! ## Blocks -/

/-- Blocks: cores 0 to 255, L2 slices from 256, copy-engine stops from 320, bridge stops from 352, edge stops from 368. -/
def blockCount : Nat := 400

/-- The L2 slices' stops in order, the copy-engine stops and the edge stops (R410). -/
def sliceStops : List Nat := [0, 9, 90, 19, 29, 49, 59, 79, 89, 99, 91, 92, 94, 95, 97, 98]
def engineStops : List Nat := [1, 3, 5, 7, 10, 30, 50, 70]

/-- The two bridge stops of each bridge: the horizontal ones, then the vertical ones (R410). They hold the bridge's merge units (R427). -/
def bridgeStops : List Nat := [39, 69, 93, 96]

/-- The die of a block, and its place among those of its kind on the die. -/
def blockPlace (block : Nat) : Nat × Nat :=
  if block < 256 then (block / 64, block % 64)
  else if block < 320 then ((block - 256) / 16, (block - 256) % 16)
  else if block < 352 then ((block - 320) / 8, (block - 320) % 8)
  else if block < 368 then ((block - 352) / 4, (block - 352) % 4)
  else ((block - 368) / 8, (block - 368) % 8)

/-- The stop of a block (R410). -/
def blockStop (block : Nat) : Nat :=
  let n := (blockPlace block).2
  if block < 256 then coreStop block
  else if block < 320 then sliceStops.getD n 0
  else if block < 352 then engineStops.getD n 0
  else if block < 368 then bridgeStops.getD n 0
  else edgeStops.getD n 0

/-- What TRIGCFG asks of a block: 0 nothing, 1 latch, 2 halt (R478). -/
def blockAction (cfg : Word) (block : Nat) : Nat :=
  if block < 256 then bits cfg.toNat 1 0
  else if block < 320 then bits cfg.toNat 2 2
  else if block < 352 then bits cfg.toNat 3 3
  else if block < 368 then bits cfg.toNat 4 4
  else bits cfg.toNat 5 5

/-! ## Triggers -/

/-- A latch is armed for the first tick past the delay; a latch armed or not yet read stays, and the trigger is counted. -/
def armLatch (s : State) (block due : Nat) : State :=
  let q := tabGet s.snapshots block ({ armed := none, latched := none, second := 0 } : Snapshot)
  let q := if q.armed.isSome || q.latched.isSome then { q with second := q.second + 1 } else { q with armed := some due }
  { s with snapshots := tabPut s.snapshots block q }

/-- The groups resident on a core receive a halt request. -/
def haltCore (s : State) (core : Nat) : State :=
  ((s.groups.filter fun e => e.2.core == core).map fun e => e.1).foldl haltGroup s

/-- A block acts on a trigger. -/
def takeTrigger (s : State) (block n due : Nat) : State :=
  let a := blockAction (tabGet s.mgmt.trigcfg n 0) block
  if a = 1 then armLatch s block due
  else if a = 2 && block < 256 then haltCore s block
  else s

/-- A trigger that a port of this package has received reaches every block, with its corrected time (R444, R445). -/
def peerTrigger (s : State) (n t0 : Nat) : State :=
  if n < 16 then (List.range blockCount).foldl (fun s b => takeTrigger s b n (t0 + 65536)) s else s

/-- Notes that an own trigger has reached a block. -/
def noteReached (s : State) (n t0 block : Nat) : State :=
  let f (t : TriggerSent) : TriggerSent := if t.number = n && t.t0 = t0 then { t with reached := block :: t.reached } else t
  { s with fabric := { s.fabric with triggers := (s.fabric.triggers.map f).filter fun t => decide (t.reached.length < blockCount) } }

/-- An own trigger that has reached an edge stop is forwarded from it to the peer packages whose first live port is there (R444). -/
def forwardTrigger (s : State) (n t0 block : Nat) : State :=
  if block < 368 then s
  else ((List.range 256).filter fun p => p != Config.package &&
      ((routePorts s p).head?.map fun r => (portDie r, portStop r)) == some ((blockPlace block).1, blockStop block)).foldl
    (fun s p => sendPacket s p 0 0 [triggerFlit n t0]) s

/-! ## Snapshots (R445) -/

/-- The bridge of a die that a bridge stop belongs to (R427): by die * 2, and 1 for the vertical one. -/
def bridgeKey (die n : Nat) : Nat := die * 2 + n / 2

/-- The copies of a block's state and counters: its stop's injection counters, and a core, the lines of a slice, the jobs of an engine stop,
a bridge. -/
def snapshotOf (s : State) (block : Nat) (q : Snapshot) : Snapshot :=
  let (die, n) := blockPlace block
  let q := { q with throttle := some (throttleOf s die (blockStop block)) }
  if block < 256 then { q with core := some (coreOf s block) }
  else if block < 320 then { q with lines := (dieAt s die).l2.filter fun l => sliceOf l.line == n }
  else if block < 352 then { q with jobs := (dieAt s die).jobs.filter fun j => j.engine.map (· / 2) == some n }
  else if block < 368 then { q with bridge := some (tabGet s.fabric.bridges (bridgeKey die n) { trained := true, crossed := 0 }) }
  else q

end Sys2Proof.Machine
end

