-- ==== Sys2Proof/Machine/Boot.lean ====
section
/-!
DEFINITION. The steps by which a device comes up (R473); a tick of the package ends one (DESIGN CHOICE, notes/assumptions/28.md).
-/

namespace Sys2Proof.Machine

/-- A Zethes port is dead: it is out of its package's tables (R430), and the black box has it (R450). -/
def deadPort (s : State) (n : Nat) : State :=
  blackBox (setPort s n { portOf s n with dead := true, unacked := [], replays := [] }) (portDie n) 0 0 0 n

/-- A core as Ready leaves it: what the control node has written to its registers stays (R478), caches and queues are empty. -/
def coreReady (k : CoreSt) : CoreSt := { k with l1 := [], invq := [], tlb := [] }

/-- A die as Ready leaves it: its caches, TLBs and queues are empty. -/
def dieReady (d : DieSt) : DieSt := { d with l2 := [], tlb2 := [], engineTlb := [], jobs := [], inbox := [], notices := [], pending := [] }

/-- Step 5 of R473: all caches, memories, TLBs and queues are zero or invalid, and every throttle level is 0. -/
def readyDevice (s : State) : State :=
  { s with mem := [], poison := [], sliceU := [], merges := [], migcount := [], arrivals := [], qps := [], regionsE := [], owed := [],
           cores := tabMap s.cores fun _ k => coreReady k, dies := tabMap s.dies fun _ d => dieReady d,
           fabric := { State.reset.fabric with bridges := (List.range 8).map fun b => (b, { trained := true, crossed := 0 }) },
           zethes := { s.zethes with streams := [], partials := [], peers := [] } }

/-- One step of a start (R473): the key pair is derived (1); the image's digest is taken and its signature verified (2), else the state is 6
and the image is discarded; every trim is calibrated (3), else the state is 7; bridges and ports are trained, those that fail staying dead
(4). -/
def bootStep (s : State) : State :=
  let m := s.mgmt
  if !m.powered then s
  else if m.boot = 1 then { s with mgmt := { m with identity := some (Config.publicKey Config.pufIdentity), boot := 0 } }
  else match m.image with
    | none => s
    | some (digest, verified, trims, dead) =>
      if m.boot = 2 then
        (if verified then { s with mgmt := { m with firmware := some digest, boot := 3 } } else { s with mgmt := { m with image := none, boot := 6 } })
      else if m.boot = 3 then { s with mgmt := { m with boot := if trims then 4 else 7 } }
      else if m.boot = 4 then
        dead.foldl deadPort (readyDevice { s with mgmt := { m with image := none, deadPorts := dead, boot := 5 } })
      else s

end Sys2Proof.Machine
end

