-- ==== Sys2Proof/Machine/FabricEvents.lean ====
section
/-!
DEFINITION. The Reel: stops and ports (R410, R411), planes and injection (R412, R415, R418, R419), routing (R414, R416),
throttling (R421), reassembly slots (R423 to R425), and the package's tick (R415, R443, R451).
-/

namespace Sys2Proof.Machine

/-! ## Stops -/

/-- The plane of a kind: 0 request, 1 response (R412). -/
def planeOf (kind : Nat) : Nat := if kind == 2 || kind == 5 || kind == 7 then 1 else 0

/-- All ports, in the order of deflection (R416). -/
def allDirs : List Dir := [.vDown, .uUp, .vUp, .uDown]

/-- The router that a port leads to, and the cycles of the hop (R410, R411, R414). -/
def neighbour (die stop : Nat) (d : Dir) : Option (Nat × Nat × Nat) :=
  let u := stop % 10
  let v := stop / 10
  match d with
  | .vDown => if v = 0 then none else some (die, stop - 10, 2)
  | .vUp => if v = 9 then some (die ^^^ 2, stop, 4) else some (die, stop + 10, 2)
  | .uDown => if u = 0 then none else some (die, stop - 1, 2)
  | .uUp => if u = 9 then some (die ^^^ 1, stop, 4) else some (die, stop + 1, 2)

/-- Global coordinates (R411). -/
def globalX (die stop : Nat) : Nat := if die % 2 = 0 then stop % 10 else 19 - stop % 10
def globalY (die stop : Nat) : Nat := if die / 2 = 0 then stop / 10 else 19 - stop / 10

def gap (a b : Nat) : Nat := (a - b) + (b - a)

def distance (d1 s1 d2 s2 : Nat) : Nat := gap (globalX d1 s1) (globalX d2 s2) + gap (globalY d1 s1) (globalY d2 s2)

/-- A port exists and brings a flit closer. -/
def productive (die stop : Nat) (f : Flit) (d : Dir) : Bool :=
  match neighbour die stop d with
  | none => false
  | some (d2, s2, _) => decide (distance d2 s2 f.ddie f.dstop < distance die stop f.ddie f.dstop)

def isXDir (d : Dir) : Bool := d == .uUp || d == .uDown

/-- The first free productive port, the preferred direction first; else the first free port, deflected (R416). -/
def choosePort (die stop : Nat) (f : Flit) (free : List Dir) : Option (Dir × Bool) :=
  let good := free.filter (productive die stop f)
  let first := good.filter fun d => isXDir d == !f.pref
  match first ++ good with
  | d :: _ => some (d, false)
  | [] => free.head?.map fun d => (d, true)

/-- Every stop's key. -/
def stopKey (die stop : Nat) : Nat := die * 100 + stop

/-- A flit may have a bridge stop as its destination only for merges and management (R427). -/
def bridgeOk (f : Flit) : Bool := !bridgeStops.contains f.dstop || f.kind == 3 || f.kind == 7 || f.kind == 10

/-- Reassembly slots of a stop (R423); a bridge stop, for which the rule gives none, has an edge stop's (DESIGN CHOICE,
notes/assumptions/42.md). -/
def slotCount (stop : Nat) : Nat := if sliceStops.contains stop || engineStops.contains stop then 128 else 256

/-- A slot's number among all. -/
def slotKey (die stop slot : Nat) : Nat := stopKey die stop * 512 + slot

/-! ## Injection -/

def setThrottle (s : State) (die stop : Nat) (h : Throttle) : State :=
  { s with fabric := { s.fabric with throttles := tabPut s.fabric.throttles (stopKey die stop) h } }

/-- A flit whose source and destination lie on one die. -/
def local_ (f : Flit) : Bool := f.sdie == f.ddie

/-- Whether a plane on a die is in escalation (R419). -/
def escalated (s : State) (plane die : Nat) : Bool :=
  s.fabric.flying.any fun f => planeOf f.kind == plane &&
    (if local_ f then f.sdie == die && decide (f.age ≥ 128) else decide (f.age ≥ 256))

/-- A multi-flit kind has its slot at the destination (R418, R424); the flit that answers a slot request needs none. -/
def slotReady (s : State) (f : Flit) : Bool :=
  !(f.kind == 2 || f.kind == 3 || f.kind == 7) || f.parts == 0 || (tabGet? s.fabric.slots (slotKey f.ddie f.dstop f.rslot)).isSome

/-- Byte i of a flit's payload, and its bytes from i. R413 gives payloads no layout: of kind 0, byte 0 has the parts asked for, less one, and
bit 7 where the reader keeps the line; of kind 4, byte 0 has the function and bit 7 for a return, byte 1 the type (bit 7: floating point),
bytes 8 to 15 the operand; of kind 6, byte 0 is 0 invalidation, 1 grant (operator and type in bytes 1 and 2), 2 collapse request; of kind 8,
bytes 0 to 3 are the generation and 8 to 15 the count; of kind 9, byte 0 is 2 for a match notice, bytes 4 to 7 its generation; of kind 10,
byte 0 is 1 for a trigger, byte 1 its number and bytes 8 to 15 its origin time
(DESIGN CHOICE, notes/assumptions/19.md). -/
def payAt (f : Flit) (i n : Nat) : Nat := leNat ((f.payload.drop i).take n)

/-- A request whose sender expects data: a read, an atomic with return, a coherence request but an invalidation (R424). -/
def expects (f : Flit) : Bool := f.kind == 0 || (f.kind == 4 && (payAt f 0 1).testBit 7) || (f.kind == 6 && payAt f 0 1 != 0)

/-- A slot that an eviction's merge message has been given (R424). -/
def mergeSlotUsed (s : State) (die stop i : Nat) : Bool :=
  s.fabric.mergeSlots.any fun e => e.2.2 == i && coreDie e.1 == die && sliceStops.getD (sliceOf e.2.1) 0 == stop

/-- The first slot of a stop not in use. -/
def freeSlot (s : State) (die stop : Nat) : Option Nat :=
  (List.range (slotCount stop)).find? fun i => (tabGet? s.fabric.slots (slotKey die stop i)).isNone && !mergeSlotUsed s die stop i

/-- A requester's slot at its own stop, which the request names (R424); `none` where it has no free one. -/
def allotSlot (s : State) (f : Flit) : Option (State × Flit) :=
  if !expects f then some (s, f)
  else (freeSlot s f.die f.stop).map fun i =>
    let m : ReelSlot := { arrived := 0, data := freeBytes s 0 512, peer := f.peer, key := f.key }
    ({ s with fabric := { s.fabric with slots := tabPut s.fabric.slots (slotKey f.die f.stop i) m } }, { f with rslot := i })

/-- The 16-byte header of a flit (R413). -/
def flitHeader (f : Flit) : Nat :=
  f.ddie % 4 * 2 ^ 126 + f.dstop % 128 * 2 ^ 119 + f.sdie % 4 * 2 ^ 117 + f.sstop % 128 * 2 ^ 110 + min 1023 f.age * 2 ^ 100 +
    f.seq % 8 * 2 ^ 97 + (if f.pref then 2 ^ 96 else 0) + f.kind % 16 * 2 ^ 92 + f.rslot % 256 * 2 ^ 84 + f.part % 4 * 2 ^ 82 +
    f.key % 2 ^ 16 * 2 ^ 64 + f.span % 2 ^ 45 * 2 ^ 19 + f.off % 128 * 2 ^ 12 + f.len % 128 * 2 ^ 5

/-- A flit as its header and its 128 bytes of payload say (R413). -/
def carried (f : Flit) : Flit :=
  let h := flitHeader f
  { f with ddie := bits h 127 126, dstop := bits h 125 119, sdie := bits h 118 117, sstop := bits h 116 110, age := bits h 109 100,
           seq := bits h 99 97, pref := h.testBit 96, kind := bits h 95 92, rslot := bits h 91 84, part := bits h 83 82, key := bits h 79 64,
           span := bits h 63 19, off := bits h 18 12, len := bits h 11 5, payload := (padTo 128 f.payload).take 128 }

/-- The ports of a router that no flit has taken in a fabric cycle, and whether its ejection port is free (R416). -/
def portsLeft (s : State) (plane die stop at_ : Nat) : List Dir × Bool :=
  match tabGet? s.fabric.routed (plane * 400 + stopKey die stop) with
  | some (t, free, port) => if t = at_ then (free, port) else (allDirs.filter fun d => (neighbour die stop d).isSome, true)
  | none => (allDirs.filter fun d => (neighbour die stop d).isSome, true)

def setPorts (s : State) (plane die stop at_ : Nat) (left : List Dir × Bool) : State :=
  { s with fabric := { s.fabric with routed := tabPut s.fabric.routed (plane * 400 + stopKey die stop) (at_, left) } }

/-- The last fabric cycle in which a router has routed or injected: no flit is injected in an earlier one (R416). -/
def lastRouted (s : State) (plane die stop : Nat) : Nat :=
  ((tabGet? s.fabric.routed (plane * 400 + stopKey die stop)).map fun r => r.1).getD 0

/-- Every flit of a plane that could still reach a router by a fabric cycle has been routed so far (R416): a hop takes at least two. -/
def routedUpTo (s : State) (plane at_ : Nat) : Bool :=
  s.fabric.flying.all fun f => planeOf f.kind != plane || decide (at_ < f.ready + 2)

/-- FLIT_INJECT (R414 to R416, R418): the stop's oldest waiting flit of a plane, in a fabric cycle of the current tick, on a port that
the flits arriving in that cycle leave free. -/
def execFlitInject (plane die stop : Nat) (s : State) : Out :=
  let mine (f : Flit) : Bool := planeOf f.kind == plane && f.die == die && f.stop == stop
  match takeFirst mine s.fabric.waiting with
  | none => .next s
  | some (f, rest) =>
    let h := throttleOf s die stop
    let now := max (max s.cycle (lastRouted s plane die stop)) (if plane = 0 then h.nextInject.1 else h.nextInject.2)
    let left := portsLeft s plane die stop now
    let f := carried { f with age := 0, seq := now % 8, pref := Config.pref s.moves }
    if now ≥ s.cycle + 8 || escalated s plane die || !slotReady s f || !bridgeOk f || !routedUpTo s plane now ||
        (s.fabric.flying.any fun q => mine q && decide (q.ready ≤ now)) then .next s
    else match allotSlot s f, choosePort die stop f left.1 with
      | some (s, f), some (d, _) =>
        match neighbour die stop d with
        | none => .next s
        | some (d2, s2, n) =>
          let next := now + 2 ^ h.level
          let h := { h with nextInject := if plane = 0 then (next, h.nextInject.2) else (h.nextInject.1, next) }
          let s := setPorts (setThrottle s die stop h) plane die stop now (left.1.filter (· != d), left.2)
          .next { s with fabric := { s.fabric with waiting := rest, flying := s.fabric.flying ++ [{ f with die := d2, stop := s2, ready := now + 1 + n }] } }
      | _, _ => .next s

/-! ## Ejection -/

/-- The address a flit names (R413). -/
def flitAddr (f : Flit) : Nat := f.span * 128 + f.off

/-- A flit waits at a stop for injection. -/
def queueFlit (s : State) (f : Flit) : State := { s with fabric := { s.fabric with waiting := s.fabric.waiting ++ [f] } }

/-- An answer to a request: back to its stop, into the slot it names (R424). -/
def answer (s : State) (f : Flit) (kind parts i : Nat) (bs : List Byte) : State :=
  queueFlit s { f with ddie := f.sdie, dstop := f.sstop, sdie := f.ddie, sstop := f.dstop, kind, part := i, parts, len := bs.length - 1,
                       payload := bs, die := f.ddie, stop := f.dstop }

/-- Bytes of an answer in parts of 128. -/
def answerParts (s : State) (f : Flit) (kind parts : Nat) (bs : List Byte) : State :=
  (List.range parts).foldl (fun s i => answer s f kind parts i ((bs.drop (128 * i)).take 128)) s

/-- A slot with one more part of its message (R423). -/
def putPart (m : ReelSlot) (f : Flit) : ReelSlot :=
  { m with arrived := m.arrived ||| BitVec.ofNat 4 (1 <<< f.part),
           data := m.data.take (128 * f.part) ++ (padTo 128 f.payload).take 128 ++ m.data.drop (128 * f.part + 128),
           poison := if f.poison then m.poison ||| BitVec.ofNat 4 (1 <<< f.part) else m.poison }

/-- A slot's bitmap is full. -/
def slotFull (m : ReelSlot) (parts : Nat) : Bool := (List.range parts).all fun i => m.arrived.getLsbD i

def setSlot (s : State) (k : Nat) (m : ReelSlot) : State := { s with fabric := { s.fabric with slots := tabPut s.fabric.slots k m } }
def freeReelSlot (s : State) (k : Nat) : State := { s with fabric := { s.fabric with slots := tabDel s.fabric.slots k } }

/-- A part arrives in its slot; a full slot hands its data on and returns (R423, R425): what a port asked for goes on to the peer package. -/
def landPart (s : State) (f : Flit) : State :=
  let k := slotKey f.ddie f.dstop f.rslot
  match tabGet? s.fabric.slots k with
  | none => s
  | some m =>
    let m := putPart m f
    if !slotFull m f.parts then setSlot s k m
    else match m.peer with
      | none => freeReelSlot s k
      | some p => sendPacket (freeReelSlot s k) p 1 m.key ((List.range f.parts).map fun i =>
          { f with part := i, payload := (m.data.drop (128 * i)).take 128, poison := m.poison.getLsbD i })

/-- The merge slot of an edge stop that a peer's partial comes into lies above its reassembly slots (R434). -/
def mergeKey (f : Flit) : Nat := slotKey f.ddie f.dstop (256 + f.rslot % 64)

/-- Parts of a peer's partial gather in the merge slot that its home has allotted (R424, R434); the port merge units take the whole, its
touched sectors unstated: each counts (DESIGN CHOICE, notes/assumptions/19.md). -/
def landMerge (s : State) (f : Flit) (pkg : Nat) : State :=
  let line := (physicalLoc (f.span * 128)).line
  let seat := edgeStops.idxOf f.dstop * 64 + f.rslot % 64
  match s.zethes.peers.find? fun m => m.line == line && m.pkg == pkg && m.slot == some seat with
  | some h =>
    let m := putPart (tabGet s.fabric.slots (mergeKey f) { arrived := 0, data := zeroBytes 512, peer := some pkg, key := f.key }) f
    if !slotFull m 4 then setSlot s (mergeKey f) m
    else
      let s := takePartial (freeReelSlot s (mergeKey f)) line pkg ((h.pair.map fun p => p.1).getD 0) ((h.pair.map fun p => p.2).getD 0)
        ((List.range 512).map fun i => (i, m.data.getD i 0)) (-1)
      if m.poison = 0 then s else addPoison s ((List.range 8).filterMap fun i => if m.poison.getLsbD (i / 2) then some (line * 8 + i) else none)
  | none => s

/-- A peer package takes a copy of a line of this one; the home's directory records it (R329). -/
def notePeer (s : State) (line pkg key : Nat) (pair : Option (Nat × Nat)) : State :=
  { s with zethes := { s.zethes with
      peers := s.zethes.peers.filter (fun m => !(m.line == line && m.pkg == pkg)) ++ [{ line, pkg, pair, key }] } }

/-- A line is made ready for update-only copies elsewhere: its plain holders, here and in peer packages, give it up (R329, R336). -/
def clearPlain (s : State) (line : Nat) : State :=
  let s := (holders (l2DropAll s line) line isOwned).foldl (fun s c => giveUp s c line) s
  dropPeers (expelSharers s 256 line) line

/-- A read request at its home (R424, R483); a peer that keeps the line is recorded. -/
def ejectRead (s : State) (f : Flit) : State :=
  let n := payAt f 0 1 % 4 + 1
  let len := if n = 1 then f.len + 1 else 128 * n
  if !physicalRange (flitAddr f) len then s
  else
    let r := physicalRead s (flitAddr f) len
    let s := match f.peer with
      | some p => if (payAt f 0 1).testBit 7 then notePeer r.1 (physicalLoc (flitAddr f)).line p f.key none else r.1
      | none => r.1
    (List.range n).foldl (fun s i =>
      answer s { f with poison := poisoned s (physicalLoc (flitAddr f + 128 * i)) (min 128 len) } 2 n i ((r.2.drop (128 * i)).take 128)) s

/-- An atomic or an update at its home (R354, R355): the old value is the reply. -/
def ejectAtomic (s : State) (f : Flit) : State :=
  let ty := payAt f 1 1 % 128
  let w := typeWidth ty / 8
  if !physicalRange (flitAddr f) w then s
  else
    let l := physicalLoc (flitAddr f)
    let r := homeRead s l w
    let s := homeWrite r.1 l (leBytes w (atomicFn ((payAt f 1 1).testBit 7) (payAt f 0 1 % 128) ty (leNat r.2) (payAt f 8 8)))
    if (payAt f 0 1).testBit 7 then answer s f 5 1 0 r.2 else s

/-- A coherence request (R336, R338, R339): an invalidation at a core, a grant or a collapse at the home. -/
def ejectCoherence (s : State) (f : Flit) : State :=
  let line := (physicalLoc (flitAddr f)).line
  if payAt f 0 1 = 0 then
    (List.range 64).foldl (fun s c => if coreStop c = f.dstop then receiveInval s (f.ddie * 64 + c) line else s) s
  else if !physicalRange (flitAddr f) 1 then s
  else if payAt f 0 1 = 1 then
    let op := payAt f 1 1
    let ty := payAt f 2 1
    let s := clearPlain (if otherPair s line op ty then collapseLine s line else s) line
    let s := match f.peer with | some p => notePeer s line p f.key (some (op, ty)) | none => s
    answer s f 7 1 0 []
  else
    let s := collapseLine s line
    answerParts s f 7 4 (rawRead s (lineLoc line) 512)

/-- A flit's accesses wait for partials of peers (R344); a request for the pair that a line has is granted at once (R336). -/
def ejectWaits (s : State) (f : Flit) : Bool :=
  (f.kind == 0 || f.kind == 1 || f.kind == 4 ||
    (f.kind == 6 && payAt f 0 1 != 0 && (payAt f 0 1 != 1 || otherPair s (physicalLoc (flitAddr f)).line (payAt f 1 1) (payAt f 2 1)))) &&
    rangeWaits s (flitAddr f) (f.len + 1)

/-- The sectors that a poisoned flit writes are poisoned as it is delivered (R453). -/
def poisonFlit (s : State) (f : Flit) : State :=
  if !f.poison then s
  else addPoison s ((List.range 3).filterMap fun i =>
    if (flitAddr f / 64 + i) * 64 < flitAddr f + f.len + 1 then some ((physicalLoc (flitAddr f)).key / 64 + i) else none)

/-- An ejected flit reaches its unit: what it carries is done or handed on (R412). -/
def eject (s : State) (f : Flit) : State :=
  if f.kind = 0 then ejectRead s f
  else if f.kind = 1 then
    (if physicalRange (flitAddr f) (f.len + 1) then
       let s := poisonFlit (physicalWrite s (flitAddr f) ((padTo (f.len + 1) f.payload).take (f.len + 1))) f
       if f.peer.isSome then answer s f 5 1 0 [] else s
     else s)
  else if f.kind = 3 && f.peer.isSome && edgeStops.contains f.dstop then landMerge s f (f.peer.getD 0)
  else if f.kind = 2 || f.kind = 3 || f.kind = 7 then landPart s f
  else if f.kind = 4 then poisonFlit (ejectAtomic s f) f
  else if f.kind = 5 then
    (if (tabGet? s.fabric.slots (slotKey f.ddie f.dstop f.rslot)).isSome && f.len != 0 then landPart s f
     else match f.peer with
       | some p => sendPacket s p 1 f.key [f]
       | none => s)
  else if f.kind = 6 then ejectCoherence s f
  else if f.kind = 8 then
    (if physicalRange (flitAddr f) 16 then
       { s with arrivals := s.arrivals ++ [{ word := physicalLoc (flitAddr f), gen := payAt f 0 4, bytes := payAt f 8 8 }] }
     else s)
  else if f.kind = 9 then
    (if payAt f 0 1 = 2 then modDie s f.ddie fun d => { d with notices := d.notices ++ [(physicalLoc (flitAddr f), payAt f 4 4)] } else s)
  else if f.kind = 10 && payAt f 0 1 = 1 && f.peer.isSome then peerTrigger s (payAt f 1 1) (payAt f 8 8)
  else if f.kind = 10 && f.ddie = 0 && f.dstop = 80 then send s (.telemetry f.sdie f.sstop f.payload)
  else s

/-- Ejected flits reach their units a fabric cycle later (R414); one whose line waits for a peer's partial stays. -/
def landDue (s : State) (now : Nat) : State :=
  let due := s.fabric.landing.filter fun f => decide (f.ready ≤ now)
  let s0 := { s with fabric := { s.fabric with landing := s.fabric.landing.filter fun f => !decide (f.ready ≤ now) } }
  due.foldl (fun s f => if ejectWaits s f then { s with fabric := { s.fabric with landing := s.fabric.landing ++ [f] } } else eject s f) s0

/-! ## Routing -/

/-- Priority (R415): higher age, lower source, lower sequence. -/
def flitBefore (a b : Flit) : Bool :=
  if a.age ≠ b.age then decide (a.age > b.age)
  else if stopKey a.sdie a.sstop ≠ stopKey b.sdie b.sstop then decide (stopKey a.sdie a.sstop < stopKey b.sdie b.sstop)
  else decide (a.seq ≤ b.seq)

/-- Counts a deflection of a stop's router (R421), of at most 2,048 in a window (R422). -/
def countDeflection (s : State) (die stop : Nat) : State :=
  let h := throttleOf s die stop
  setThrottle s die stop { h with window := min 2048 (h.window + 1) }

/-- A flit that crosses a bridge is counted at its stops (R427). -/
def countCrossing (s : State) (die : Nat) (d : Dir) (n : Nat) : State :=
  if n != 4 then s
  else
    let k := die * 2 + (if isXDir d then 0 else 1)
    let b := tabGet s.fabric.bridges k { trained := true, crossed := 0 }
    { s with fabric := { s.fabric with bridges := tabPut s.fabric.bridges k { b with crossed := b.crossed + 1 } } }

/-- One arriving flit: state, ports still free, ejection port free. A router has as many ports out as in, and a stop injects into a port that is left over, so that one is free for it. -/
def routeOne (die stop : Nat) (a : State × List Dir × Bool) (f : Flit) : State × List Dir × Bool :=
  let (s, free, port) := a
  let put (s : State) (f : Flit) : State := { s with fabric := { s.fabric with flying := s.fabric.flying ++ [f] } }
  if f.ddie = die && f.dstop = stop && port then
    ({ s with fabric := { s.fabric with landing := s.fabric.landing ++ [{ f with ready := f.ready + 1 }] } }, free, false)
  else match choosePort die stop f free with
    | none => (put s { f with ready := f.ready + 1 }, free, port)
    | some (d, lost) =>
      match neighbour die stop d with
      | none => (put s f, free, port)
      | some (d2, s2, n) =>
        let s := countCrossing (if lost then countDeflection s die stop else s) die d n
        (put s { f with die := d2, stop := s2, ready := f.ready + n }, free.filter (· != d), port)

/-- FLIT_ROUTE (R416): the flits that arrive at a router in its next fabric cycle of the current tick, once every flit that could join
them has come. -/
def execFlitRoute (plane die stop : Nat) (s : State) : Out :=
  let mine (f : Flit) : Bool := planeOf f.kind == plane && f.die == die && f.stop == stop && decide (f.ready < s.cycle + 8)
  let here := s.fabric.flying.filter mine
  match here.map Flit.ready with
  | [] => .next s
  | r :: rs =>
    let now := rs.foldl min r
    if !routedUpTo s plane now then .next s
    else
      let s := landDue s now
      let arriving := (here.filter fun f => f.ready == now).mergeSort flitBefore
      let s0 := { s with fabric := { s.fabric with flying := s.fabric.flying.filter fun f => !(mine f && f.ready == now) } }
      let r := arriving.foldl (routeOne die stop) (s0, portsLeft s plane die stop now)
      .next (setPorts r.1 plane die stop now r.2)

/-! ## Throttling and merge slots -/

/-- The level after a window with d deflections (R421), not below the floor of R476. -/
def nextLevel (n d floor : Nat) : Nat :=
  max floor (if d ≥ 64 * (n + 1) && n < 7 then n + 1 else if d < 32 * n then n - 1 else n)

/-- THROTTLE_WINDOW (R421). -/
def execThrottleWindow (die stop : Nat) (s : State) : Out :=
  let h := throttleOf s die stop
  if die < 4 && stop < 100 && s.cycle ≥ h.windowEnd then
    .next (setThrottle s die stop { h with level := nextLevel h.level h.window s.mgmt.floor, last := h.window, window := 0,
                                           windowEnd := h.windowEnd + 256 })
  else .next s

/-- The kind-7 flit by which a slice answers a slot request (R424): to the core's stop, with the slot that is named. -/
def slotAnswer (die stop core line slot : Nat) : Flit :=
  { (default : Flit) with ddie := die, dstop := coreStop core, sdie := die, sstop := stop, kind := 7, rslot := slot, span := line % 2 ^ 43 * 4, die, stop }

/-- MERGE_SLOT_REQUEST (R424): the slice allots a slot for an eviction's merge message and answers with it. -/
def execMergeSlotRequest (core line : Nat) (s : State) : Out :=
  let die := coreDie core
  let stop := sliceStops.getD (sliceOf line) 0
  let used := (s.fabric.mergeSlots.filter fun e => coreDie e.1 == die && sliceOf e.2.1 == sliceOf line).map fun e => e.2.2
  if !s.merges.contains (core, line) || s.fabric.mergeSlots.any (fun e => e.1 == core && e.2.1 == line) then .next s
  else match (List.range (slotCount stop)).find? fun i => !used.contains i && (tabGet? s.fabric.slots (slotKey die stop i)).isNone with
    | none => .next s
    | some i => .next (queueFlit { s with fabric := { s.fabric with mergeSlots := s.fabric.mergeSlots ++ [(core, line, i)] } }
        (slotAnswer die stop core line i))

/-! ## The tick -/

/-- A group's hang counter advances (R451): no parked thread, no troupe service (R394), no halted group of its gang. -/
def hangs (s : State) (key : Nat) (g : Group) : Bool :=
  (groupTroupes s g).all (fun e => e.2.2.parks.isEmpty && !heldByTrap s g.core e.2.1 e.2.2) &&
    (gangKeys s key).all fun k => ((groupAt s k).map fun q => q.halted) != some true

/-- Planes that a tick brings into escalation are counted and recorded (R419, R450). -/
def noteEscalations (before after : State) : State :=
  (List.range 4).foldl (fun s d => (List.range 2).foldl (fun s p =>
    if escalated after p d && !escalated before p d then
      blackBox (modDie s d fun q => { q with escalations := q.escalations + 1 }) d 0 0 0 0
    else s) s) after

/-- FABRIC_TICK (R415, R443): 8 fabric cycles, the core clock running at the same rate. A flit that reaches its destination ages no more. A
start of the device takes its next step (R473). -/
def execFabricTick (s : State) : Out :=
  let flying := s.fabric.flying.map fun f => { f with age := min 1023 (f.age + 1) }
  let groups := tabMap s.groups fun k g => if hangs s k g then { g with hang := g.hang + 8 } else g
  .next (bootStep (landDue (noteEscalations s { s with cycle := s.cycle + 8, groups, fabric := { s.fabric with flying } }) (s.cycle + 8)))

end Sys2Proof.Machine
end

