-- ==== Sys2Proof/Machine/LinkEvents.lean ====
section
/-!
DEFINITION. Traffic across the package's edge: Zethes packets, credits, replay, dead ports and partials (R428 to R434), and
Ethernet (R435, R436, R479).
-/

namespace Sys2Proof.Machine

/-! ## Zethes -/

/-- A packet's flits are rebuilt at the receiving edge stop and wait for injection (R428). -/
def rebuild (s : State) (p : Packet) : State :=
  let fs := p.flits.map fun f => { f with die := portDie p.port, stop := portStop p.port, sdie := portDie p.port, sstop := portStop p.port, peer := some p.peer }
  { s with fabric := { s.fabric with waiting := s.fabric.waiting ++ fs } }

/-- Packets of a stream leave its reorder buffer in stream order (R429). -/
def drainStream (s : State) (k : Nat) : Nat → State
  | 0 => s
  | fuel + 1 =>
    let q := streamOf s k
    match takeFirst (fun p : Packet => p.seq == q.next) q.reorder with
    | none => s
    | some (p, rest) => drainStream (rebuild (setStream s k { q with next := q.next + 1, reorder := rest }) p) k fuel

/-- Counts packets discarded under a revoked key (R432). -/
def countRevoked (s : State) (port : Nat) : State := setPort s port { portOf s port with revoked := (portOf s port).revoked + 1 }

/-- Bytes that packets hold in a die's reorder buffer (R429). -/
def reorderBytes (s : State) (die : Nat) : Nat :=
  (s.zethes.streams.map fun e => ((e.2.reorder.filter fun p => portDie p.port == die).map fun p => 128 * p.flits.length).foldl (· + ·) 0).foldl (· + ·) 0

/-- ZETHES_PACKET_RECEIVE (R428, R429, R432): a packet with a bad CRC, one of more than four flits, or one that the reorder buffer of 2 MiB
has no room for is resent by its sender, one already delivered is dropped; of one under a revoked key only its place in the stream
remains. -/
def execZethesPacketReceive (p : Packet) (s : State) : Out :=
  if s.mgmt.boot != 5 || p.port ≥ 96 || (portOf s p.port).dead || !p.crcOk || p.flits.length > 4 then .next s
  else
    let bad := s.mgmt.revoked.contains p.key
    let s := if bad then countRevoked s p.port else s
    let p := if bad then { p with flits := [] } else p
    let k := inStream p.peer p.plane
    let q := streamOf s k
    if p.seq < q.next || (q.reorder.any fun r => r.seq == p.seq) ||
        (p.seq != q.next && reorderBytes s (portDie p.port) + 128 * p.flits.length > 2 ^ 21) then .next s
    else .next (drainStream (setStream s k { q with reorder := q.reorder ++ [p] }) k (q.reorder.length + 1))

/-- REVOKED_ARRIVAL (R432). -/
def execRevokedArrival (port key : Nat) (s : State) : Out :=
  if port < 96 && s.mgmt.revoked.contains key then .next (countRevoked s port) else .next s

/-- A port leaves the tables; its unacknowledged packets are resent on the others of their route, or held with their streams (R430). -/
def killPort (s : State) (n : Nat) : State :=
  let lost := (portOf s n).unacked
  lost.foldl (fun s p =>
    if (routePorts s p.peer).isEmpty then
      let k := outStream p.peer p.plane
      let q := streamOf s k
      setStream s k { q with held := p :: q.held, credits := q.credits + 1 }
    else emit s p) (deadPort s n)

/-- PORT_DEAD (R430). -/
def execPortDead (port : Nat) (s : State) : Out :=
  if port ≥ 96 || (portOf s port).dead then .next s else .next (killPort s port)

/-- ZETHES_REPLAY (R430): more than 16 replays in 1 µs, 3,000 cycles, make the port dead. -/
def execZethesReplay (port n : Nat) (s : State) : Out :=
  let q := portOf s port
  if port ≥ 96 || q.dead || n ≥ q.unacked.length then .next s
  else
    let recent := (q.replays ++ [s.cycle]).filter fun t => decide (s.cycle < t + 3000)
    let s := setPort s port { q with replays := recent }
    .next (if recent.length > 16 then killPort s port else s)

/-- Drops the n oldest packets of a stream from the replay buffers: the credits that come back acknowledge them. -/
def acknowledge (s : State) (k n : Nat) : State :=
  let mine (p : Packet) : Bool := outStream p.peer p.plane == k
  let seqs := ((s.zethes.ports.flatMap fun e => e.2.unacked.filter mine).map Packet.seq).mergeSort fun a b => decide (a ≤ b)
  let gone := seqs.take n
  let clear (q : Port) : Port := { q with unacked := q.unacked.filter fun p => !(mine p && gone.contains p.seq) }
  { s with zethes := { s.zethes with ports := tabMap s.zethes.ports fun _ q => clear q } }

/-- ZETHES_CREDIT_RETURN (R429). -/
def execZethesCreditReturn (stream n : Nat) (s : State) : Out :=
  let k := 2 ^ 20 + stream
  let s := acknowledge s k n
  let q := streamOf s k
  .next (pump (setStream s k { q with credits := q.credits + n }) k)

/-- PARTIAL_FOLD (R339, R346, R434): the partial of a peer that holds copies of a line of this package arrives. The collapse folds the
partials in ascending package order. -/
def execPartialFold (line pkg op ty : Nat) (data : Tab Byte) (touched : BitVec 8) (s : State) : Out :=
  .next (takePartial s line pkg op ty data touched)

/-! ## Queue pairs -/

def qpKey (die qp : Nat) : Nat := die * 2 ^ 24 + qp

/-- Words of a work descriptor (R436). -/
def workWord (w : List Word) (i : Nat) : Nat := (w.getD i 0).toNat
def workOp (w : List Word) : Nat := bits (workWord w 0) 7 0
def workLength (w : List Word) : Nat := workWord w 3

/-- A work descriptor of R436 that names the queue pair. -/
def workOk (s : State) (qp : Nat) (w : List Word) : Bool :=
  decide (workOp w ≤ 5) && bits (workWord w 0) 15 8 == 0 && workWord w 1 == qp && (bits (workWord w 2) 63 60 == 0 || bits (workWord w 2) 63 60 == 14) &&
    decide (1 ≤ workLength w) && decide (workLength w ≤ 2 ^ 31) && bits (workWord w 5) 63 32 == 0 && bits (workWord w 7) 63 32 == 0 &&
    !s.mgmt.revoked.contains (bits (workWord w 0) 31 16)

/-- A failed request: the queue pair is in the error state, an event goes out, no arrival is made (R436). -/
def failQp (s : State) (k : Nat) (q : QueuePair) (why : Nat) : State :=
  send { s with qps := tabPut s.qps k { q with error := true, work := [], posted := [] } } (.event evQp q.die (k % 2 ^ 24) why)

/-- The port pops an entry of a queue (R57, R436): nothing where the queue is empty or cannot be read. -/
def popQueue (s : State) (ptr : Word) : State × Option Word :=
  if ptr = 0 || !queuePtrOk ptr then (s, none)
  else match unitLoc s ptr true with
    | (s, none) => (s, none)
    | (s, some l) =>
      let r := unitHome s l 64
      let d := queueOf r.2
      if !queueOk d || queueHeld d = 0 then (r.1, none)
      else match unitBytes r.1 (entryPtr d d.head) 8 with
        | (s, none) => (s, none)
        | (s, some bs) => (homeWrite s (l.plus 16) (leBytes 8 (d.head + 1)), some (word (leNat bs)))

/-- The group that a work descriptor's space 0xE pointers are relative to: a resident one of a grid with the descriptor's KEY. Which of several
is a free value, for the descriptor names none (DESIGN CHOICE, notes/assumptions/19.md). -/
def bufferGroup (s : State) (w : List Word) : Option Nat :=
  let ks := (s.groups.filter fun e => ((gridAt s e.2.ticket).map gridKey) == some (bits (workWord w 0) 31 16)).map fun e => e.1
  ks[Config.bufferGroup s.moves % ks.length]?

/-- A location of a work descriptor's space 0xE pointer (R232). -/
def scratchLoc (s : State) (w : List Word) (p n : Nat) : Option Loc :=
  match bufferGroup s w with
  | none => none
  | some g => match spTranslate s g (word p) n with
    | .ok l => some l
    | .trap _ _ => none

/-- The local buffer of a work descriptor. -/
def localBytes (s : State) (w : List Word) : State × Option (List Byte) :=
  let p := workWord w 2
  if bits p 63 60 != 14 then unitBytes s (word p) (workLength w)
  else match scratchLoc s w p (workLength w) with
    | none => (s, none)
    | some l => let r := homeRead s l (workLength w); (r.1, some r.2)

/-- Bytes land in the local buffer of a work descriptor. -/
def localStore (s : State) (w : List Word) (bs : List Byte) : State × Bool :=
  let p := workWord w 2
  if bits p 63 60 != 14 then unitStore s (word p) bs
  else match scratchLoc s w p bs.length with
    | none => (s, false)
    | some l => (homeWrite s l bs, true)

/-- Sends, writes and reads go out to the peer; a receive waits in its queue (R435, R436). -/
def postWork (s : State) (k : Nat) (q : QueuePair) (w : List Word) : State :=
  let out (s : State) (bs : List Byte) : State :=
    send { s with qps := tabPut s.qps k { q with work := q.work ++ [w] } }
      (.rdma q.die (k % 2 ^ 24) (workOp w) (workWord w 4) (workWord w 5) (bits (workWord w 0) 63 32) bs)
  if workOp w = 4 then out s []
  else match localBytes s w with
    | (s, none) => failQp s k q 1
    | (s, some bs) => out s bs

/-- One queue of a queue pair is popped, the receive queue taking receives only. -/
def popWork (s : State) (k : Nat) (q : QueuePair) (recv : Bool) : State × Bool :=
  match popQueue s (if recv then q.recv else q.send) with
  | (s, none) => (s, false)
  | (s, some p) =>
    match (if p.toNat % 64 = 0 && bits p.toNat 63 60 = 0 then unitBytes s p 64 else (s, none)) with
    | (s, none) => (failQp s k q 1, true)
    | (s, some bs) =>
      let w := wordsOf bs
      if !workOk s (k % 2 ^ 24) w || (workOp w == 5) != recv then (failQp s k q 1, true)
      else if recv then ({ s with qps := tabPut s.qps k { q with posted := q.posted ++ [w] } }, true)
      else (postWork s k q w, true)

/-- The priority of a queue pair's traffic is paused (R435). -/
def qpPaused (s : State) (die qp : Nat) : Bool := (dieAt s die).paused.getLsbD (Config.qpPriority die qp % 8)

/-- WORK_REQUEST_POP (R436): receives first, then the send queue, while the pair's priority is not paused (R435). -/
def execWorkRequestPop (die qp : Nat) (s : State) : Out :=
  let k := qpKey die qp
  match tabGet? s.qps k with
  | none => .next s
  | some q =>
    if q.error || !q.connected || q.destroying.isSome then .next s
    else match popWork s k q true with
      | (t, true) => .next (whole s t)
      | (t, false) => if qpPaused s die qp then .next (whole s t) else .next (whole s (popWork t k q false).1)

/-- The sync word of a work descriptor. -/
def workWordLoc (s : State) (w : List Word) : State × Option Loc :=
  let p := workWord w 6
  if p = 0 || p % 16 != 0 then (s, none)
  else if bits p 63 60 = 14 then (s, scratchLoc s w p 16)
  else if bits p 63 60 = 0 then unitLoc s (word p) true
  else (s, none)

/-- The arrival of a completed request: the bytes moved, at its word (R241, R436). -/
def workArrival (s : State) (w : List Word) (n : Nat) : State :=
  match workWordLoc s w with
  | (s, none) => s
  | (s, some l) => { s with arrivals := s.arrivals ++ [{ word := l, gen := bits (workWord w 7) 31 0, bytes := n, key := bits (workWord w 0) 31 16 }] }

/-- A queue pair whose requests have all completed or been moved to the error state is destroyed where that was asked (R479): its command
completes. -/
def finishQp (s : State) (k : Nat) : State :=
  match tabGet? s.qps k with
  | none => s
  | some q => match q.destroying with
    | none => s
    | some p =>
      if q.work.isEmpty && q.posted.isEmpty then
        let s := (unitStore { s with qps := tabDel s.qps k } (p + 4) (leBytes 4 0)).1
        send s (.event evQp q.die (k % 2 ^ 24) 0)
      else s

/-- The oldest request sent, or the oldest receive, and the pair without it. -/
def oldestWork (q : QueuePair) (recv : Bool) : Option (List Word × QueuePair) :=
  if recv then q.posted.head?.map fun w => (w, { q with posted := q.posted.tail })
  else q.work.head?.map fun w => (w, { q with work := q.work.tail })

/-- WORK_COMPLETION (R436): the oldest request sent, or the oldest receive, with the bytes of the peer's message. What a read or a receive
brings is the peer's; a message longer than its buffer fails the receive (DESIGN CHOICE, notes/assumptions/19.md). -/
def execWorkCompletion (die qp : Nat) (ending : WorkEnd) (s : State) : Out :=
  let k := qpKey die qp
  match tabGet? s.qps k with
  | none => .next s
  | some q => match oldestWork q ending.recv with
    | none => .next s
    | some (w, q') =>
      let n := if ending.recv then ending.bytes else workLength w
      if !ending.ok || n > workLength w then .next (finishQp (failQp s k q 2) k)
      else
        let s := { s with qps := tabPut s.qps k q' }
        let r := if workOp w ≥ 4 then localStore s w (freeBytes s 0 n) else (s, true)
        if r.2 then .next (finishQp (workArrival r.1 w n) k) else .next (finishQp (failQp r.1 k q' 3) k)

/-! ## Incoming RDMA (R435) -/

/-- A connected queue pair and a registered region of a ready device admit a remote access. -/
def remoteMay (s : State) (die qp rkey addr len : Nat) (write : Bool) : Bool :=
  s.mgmt.boot == 5 &&
  (match tabGet? s.qps (qpKey die qp) with
   | some q => q.connected && !q.error
   | none => false) &&
  (match tabGet? s.regionsE rkey with
   | some r => r.die == die && (if write then r.write else r.read) && decide (r.base.toNat ≤ addr) && decide (addr + len ≤ r.base.toNat + r.length)
   | none => false)

/-- RDMA_INCOMING_WRITE (R435): performed at the home as an engine's write. -/
def execRdmaIncomingWrite (die qp rkey addr : Nat) (bytes : List Byte) (s : State) : Out :=
  if remoteMay s die qp rkey addr bytes.length true then .next (unitStore s (word addr) bytes).1 else .next s

/-- RDMA_INCOMING_READ (R435). -/
def execRdmaIncomingRead (die qp rkey addr len : Nat) (s : State) : Out :=
  if remoteMay s die qp rkey addr len false then
    match unitBytes s (word addr) len with
    | (s, some bs) => .next (send s (.rdmaAnswer die qp bs))
    | (t, none) => .next (whole s t)
  else .next s

/-- PRIORITY_FLOW_CONTROL (R435). -/
def execPriorityFlowControl (die prio : Nat) (pause : Bool) (s : State) : Out :=
  if die < 4 && prio < 8 then
    let b := BitVec.ofNat 8 (2 ^ prio)
    .next (modDie s die fun d => { d with paused := if pause then d.paused ||| b else d.paused &&& ~~~b })
  else .next s

/-- CONGESTION_NOTIFICATION (R435): the rate falls, by how much the spec does not say. -/
def execCongestionNotification (die qp : Nat) (s : State) : Out :=
  let k := qpKey die qp
  match tabGet? s.qps k with
  | none => .next s
  | some q =>
    let low := q.rate * (Config.racyByte s.moves 0).toNat / 256
    .next { s with qps := tabPut s.qps k { q with rate := low }, moves := s.moves + 1 }

end Sys2Proof.Machine
end

