-- ==== Sys2Proof/Machine/DebugEvents.lean ====
section
/-!
DEFINITION. Halting (R441), triggers and snapshots (R444, R445), samples (R446), the hang watchdog (R451), and the debug registers
(R478).
-/

namespace Sys2Proof.Machine

/-! ## Halts -/

/-- HALT_REQUEST (R441). -/
def execHaltRequest (ticket group : Nat) (s : State) : Out := .next (haltGroup s (groupKey ticket group))

/-- HALT_TIMEOUT (R441). -/
def execHaltTimeout (core pos : Nat) (s : State) : Out := .next (checkHalt s core pos)

/-- The group that DEBUGSEL names, in a grid (R478). -/
def selectedGroup (s : State) (ticket : Nat) : Nat := groupKey ticket s.mgmt.debugsel

/-- DEBUGCTL names a grid, which DUMPREQ uses. -/
def nameGrid (s : State) (ticket : Nat) : State := { s with mgmt := { s.mgmt with debuggrid := ticket } }

/-- DEBUG_ENABLE (R442, R478). -/
def execDebugEnable (ticket : Nat) (s : State) : Out := .next (modGrid (nameGrid s ticket) ticket fun g => { g with debug := true })
/-- DEBUG_DISABLE (R442, R478). -/
def execDebugDisable (ticket : Nat) (s : State) : Out := .next (modGrid (nameGrid s ticket) ticket fun g => { g with debug := false })
/-- DEBUG_HALT_GROUP (R441). -/
def execDebugHaltGroup (ticket : Nat) (s : State) : Out := .next (haltGroup (nameGrid s ticket) (selectedGroup s ticket))

/-- A halted group goes on, past the breakpoints at which its subsets stand; a request not yet met ends (R441). Threads that wait at a regroup count as arrived from now on (R224). -/
def resumeGroup (s : State) (key : Nat) : State :=
  match groupAt s key with
  | none => s
  | some g =>
    let s := g.troupes.foldl (fun s e => modTroupe s g.core e.2 fun t =>
      modThreads { t with halted := false } (-1) fun _ h => if h.st == .runnable then { h with seen := true } else h) s
    settleRegroup (modGroup s key fun g => { g with haltReq := none, halted := false }) key

/-- DEBUG_RESUME_GROUP (R441). -/
def execDebugResumeGroup (ticket : Nat) (s : State) : Out := .next (resumeGroup (nameGrid s ticket) (selectedGroup s ticket))

/-- BRKSET_SET (R478): breakpoint [30:28] of the grid [63:32]. -/
def execBrksetSet (value : Nat) (s : State) : Out :=
  if value.testBit 24 then
    .next (modGrid s (bits value 63 32) fun g => { g with breakpoints := tabPut g.breakpoints (bits value 30 28) (word value) })
  else .next s

/-- BRKSET_CLEAR (R478). -/
def execBrksetClear (value : Nat) (s : State) : Out :=
  if value.testBit 24 then .next s
  else .next (modGrid s (bits value 63 32) fun g => { g with breakpoints := tabDel g.breakpoints (bits value 30 28) })

/-- DUMPREQ (R441, R478): 0 done, 1 the group is not halted, 2 the buffer cannot be written. -/
def execDumpreq (base : Nat) (s : State) : Out :=
  let key := selectedGroup s s.mgmt.debuggrid
  let event (s : State) (status : Nat) : State := send s (.event evDump s.mgmt.debuggrid s.mgmt.debugsel status)
  if ((groupAt s key).map fun g => g.halted) != some true then .next (event s 1)
  else if base % 4096 != 0 || base ≥ 2 ^ 52 then .next (event s 2)
  else
    let r := saveGroup s key (word base) true
    .next (event r.1 (if r.2 then 0 else 2))

/-! ## Triggers (R444, R445) -/

/-- TRIGGER_RECEIVE (R444, R445): the package's own triggers reach every block once, and go on to peers from its edge stops; a peer's come with
their corrected time. -/
def execTriggerReceive (block trigger time : Nat) (peer : Bool) (s : State) : Out :=
  if block ≥ blockCount || trigger ≥ 16 then .next s
  else if peer then .next (takeTrigger s block trigger (time + 65536))
  else if s.fabric.triggers.any fun t => t.number == trigger && t.t0 == time && !t.reached.contains block then
    .next (takeTrigger (forwardTrigger (noteReached s trigger time block) trigger time block) block trigger (time + 8192))
  else .next s

/-- TRIGGER_SEND (R444). -/
def execTriggerSend (t : Nat) (s : State) : Out := if t < 16 then .next (raiseTrigger s t) else .next s

/-- SNAPSHOT_LATCH (R445): the block's state and counters are copied. -/
def execSnapshotLatch (block : Nat) (s : State) : Out :=
  match tabGet? s.snapshots block with
  | none => .next s
  | some q => match q.armed with
    | none => .next s
    | some due =>
      if s.cycle ≥ due then
        .next { s with snapshots := tabPut s.snapshots block (snapshotOf s block { q with armed := none, latched := some s.cycle }) }
      else .next s

/-- SNAPSHOT_READ (R445). -/
def execSnapshotRead (block : Nat) (s : State) : Out :=
  match tabGet? s.snapshots block with
  | none => .next s
  | some q => .next { s with snapshots := tabPut s.snapshots block { q with latched := none } }

/-! ## Samples (R446) -/

/-- The troupe position that a sample names: round robin over the positions. -/
def samplePos (k : CoreSt) : Option Nat :=
  ((List.range 64).map fun i => (k.trace.nextPos + i) % 64).find? fun p => (tabGet? k.troupes p).isSome

/-- A sample record of a troupe: the last stop site passed, the position and the lanes of its lowest runnable subset. -/
def sampleTroupe (s : State) (core pos : Nat) (t : Troupe) : State :=
  let low := ((subsetsOf t).mergeSort fun a b => decide (a.2.1 ≤ b.2.1)).head?
  let lanes : LaneMask := (low.map fun q => q.2.2).getD 0
  let n := (low.map fun q => (threadOf t q.2.1).site).getD 0
  let site := if n = 0 then noOrdinal else n - 1
  traceRecord s core 2 site (t.group % 2 ^ 64) (word (lanes.toNat * 2 ^ 32 + pos))

/-- TRACE_SAMPLE (R446). -/
def execTraceSample (core : Nat) (s : State) : Out :=
  let k := coreOf s core
  if !(k.trace.armed || k.tracelost.getLsbD 32) || s.cycle < k.trace.due then .next s
  else
    let s := modCore s core fun k => { k with trace := { k.trace with due := k.trace.due + 2 ^ k.trace.p } }
    match samplePos k with
    | none => .next s
    | some p =>
      let s := modCore s core fun k => { k with trace := { k.trace with nextPos := (p + 1) % 64 } }
      match troupeAt s core p with
      | some t => .next (sampleTroupe s core p t)
      | none => .next s

/-! ## The hang watchdog -/

/-- HANG_WATCHDOG_EXPIRY (R451): at its core's limit the gang is killed with 0x43, and the watchdog's trigger goes out (R444). -/
def execHangWatchdogExpiry (ticket group : Nat) (s : State) : Out :=
  let key := groupKey ticket group
  match groupAt s key with
  | none => .next s
  | some g =>
    let limit := bits (coreOf s g.core).wdog.toNat 31 0
    if limit = 0 || g.hang < limit * 65536 then .next s
    else execGangKill ticket (gangOf s key).2 0x43 (raiseTrigger s (Config.containmentTrigger 2 % 16))

end Sys2Proof.Machine
end

