-- ==== Sys2Proof/Machine/ErrorEvents.lean ====
section
/-!
DEFINITION. Errors (R452, R453) and background work (R458, R459).
-/

namespace Sys2Proof.Machine

/-- TIMING_REPEAT (R452): counted, no value changes. -/
def execTimingRepeat (die : Nat) (s : State) : Out := if die ≥ 4 then .next s else .next (modDie s die fun d => { d with timingRepeats := d.timingRepeats + 1 })

/-- A corrected error is counted; the black box records the count at every 2^20 (R450, R453). -/
def countCorrected (s : State) (die : Nat) : State :=
  let s := modDie s die fun d => { d with corrected := d.corrected + 1 }
  if (dieAt s die).corrected % 2 ^ 20 = 0 then blackBox s die 0 0 0 (dieAt s die).corrected else s

/-- Every resident grid ends with state 4 (R453, R474, R480). -/
def endAllGrids (s : State) : State :=
  (s.grids.filter fun e => e.2.status == 1).foldl (fun s e => endGrid s e.1 4) s

/-- A device error (R444, R453): the package serves no launch until it is reset. -/
def deviceError (s : State) : State :=
  let s := endAllGrids s
  let s := (s.groups.map fun e => e.1).foldl discardGroup s
  let s := raiseTrigger s (Config.containmentTrigger 1 % 16)
  let dies := tabMap s.dies fun _ d => { d with pending := [], jobs := [], inbox := [] }
  send { s with dies, focus := none, mgmt := { s.mgmt with failed := true } } (.event evDevice 0 0 0)

/-- ECC_ERROR (R453): the data of a sector is named by its byte key, of device memory the physical address. -/
def execEccError (e : EccEvent) (s : State) : Out :=
  match e with
  | .corrected die => .next (countCorrected s die)
  | .owned ticket gang => execGangKill ticket gang 0x42 s
  | .data pa => .next (addPoison s [pa / 64])
  | .flit n => match s.fabric.flying[n]? with
    | none => .next s
    | some f => .next { s with fabric := { s.fabric with flying := s.fabric.flying.set n { f with poison := true } } }
  | .device => .next (deviceError s)

/-- PATROL_SCRUB (R458): a step of a scrub; 0 near DRAM, 1 far memory, 2 L2. Errors it meets are ECC_ERROR's. -/
def execPatrolScrub (die which : Nat) (s : State) : Out :=
  if die ≥ 4 then .next s
  else .next (modDie s die fun d =>
    if which = 0 then { d with scrubNear := d.scrubNear + 1 }
    else if which = 1 then { d with scrubFar := d.scrubFar + 1 }
    else { d with scrubL2 := d.scrubL2 + 1 })

/-- DRAM_CALIBRATION (R458). -/
def execDramCalibration (die _channel : Nat) (s : State) : Out := if die ≥ 4 then .next s else .next (modDie s die fun d => { d with calibrations := d.calibrations + 1 })

/-- MIGRATION_ACCOUNTING (R458): every 64th L2 miss adds one to its page's 16-bit counter. Pages are numbered by frame. -/
def execMigrationAccounting (page : Nat) (s : State) : Out :=
  match s.missPages with
  | [] => .next s
  | p :: rest =>
    if p != page then .next s
    else .next { s with missPages := rest, migcount := tabPut s.migcount page (min 0xFFFF (tabGet s.migcount page 0 + 1)) }

/-- The die that counts a page: its first byte's home. -/
def pageDie (s : State) (page : Nat) : Nat := homeDie s (physicalLoc (page * 65536))

/-- COUNTER_HALVING (R458, R459): every 2^PERIOD core cycles. -/
def execCounterHalving (die : Nat) (s : State) : Out :=
  let period := 2 ^ bits (dieAt s die).migpol.toNat 31 24
  if die ≥ 4 || s.cycle < (dieAt s die).nextHalving + period then .next s
  else
    let migcount := tabMap s.migcount fun p n => if pageDie s p = die then n / 2 else n
    .next (modDie { s with migcount } die fun d => { d with nextHalving := d.nextHalving + period })

/-- TELEMETRY (R458): one flit of kind 10 per stop in 65,536 fabric cycles, to the Ozwyn port's stop; its payload is free. -/
def execTelemetry (die stop : Nat) (s : State) : Out :=
  if die ≥ 4 || stop ≥ 100 || s.cycle < tabGet (dieAt s die).telemetry stop 0 then .next s
  else
    let f : Flit := { ddie := 0, dstop := 80, sdie := die, sstop := stop, age := 0, seq := 0, pref := false, kind := 10, rslot := 0,
                      part := 0, key := 0, span := 0, off := 0, len := 127, payload := freeBytes s 0 128, die, stop, ready := 0, parts := 1 }
    let s := modDie s die fun d => { d with telemetry := tabPut d.telemetry stop (s.cycle + 65536) }
    .next { s with fabric := { s.fabric with waiting := s.fabric.waiting ++ [f] }, moves := s.moves + 1 }

end Sys2Proof.Machine
end

