-- ==== Sys2Proof/Machine/BootEvents.lean ====
section
/-!
DEFINITION. Start, attestation, reset and power (R473 to R476, R480, R481).
-/

namespace Sys2Proof.Machine

/-- The state with everything of the device discarded; what lies outside it stays: host and peer memory, messages sent, and the
model's own count of moves. -/
def blank (s : State) : State :=
  { State.reset with hostMem := s.hostMem, peerMem := s.peerMem, outbox := s.outbox, moves := s.moves }

/-- A start begins with step 1 of R473 (`bootStep`). -/
def startDevice (s : State) : State := { s with mgmt := { s.mgmt with powered := true, boot := 1 } }

/-- POWER_ON (R473). -/
def execPowerOn (s : State) : Out := if s.mgmt.powered then .next s else .next (startDevice (blank s))

/-- FIRMWARE_IMAGE (R473): the awaited image has come, with its signature; whether every trim converges and which ports fail training shows
in the steps that follow. -/
def execFirmwareImage (bytes : List Byte) (sig : Nat) (trims : Bool) (dead : List Nat) (s : State) : Out :=
  if !s.mgmt.powered || s.mgmt.boot != 0 || s.mgmt.identity.isNone then .next s
  else
    let digest := Config.sm3 bytes
    .next { s with mgmt := { s.mgmt with
      boot := 2, image := some (digest, Config.sm2Verify digest sig, trims, dead.filter fun p => decide (p < 96)) } }

/-- What an attestation report signs (R475): nonce, digest, public key and BOOTSTAT. -/
def statement (s : State) (key nonce digest : Nat) : List Byte :=
  leBytes 32 nonce ++ leBytes 32 digest ++ leBytes 64 key ++ leBytes 8 s.mgmt.boot

/-- The 128 bytes of a report (R475); their layout is a free value, for the rule gives none. -/
def reportBytes (nonce digest key boot signature : Nat) : List Byte :=
  (List.range 128).map (Config.reportByte nonce digest key boot signature)

/-- ATTESTATION_REQUEST (R475): signed with the identity key. Before firmware runs the digest is free. -/
def execAttestationRequest (nonce : Nat) (s : State) : Out :=
  match s.mgmt.identity with
  | none => .next s
  | some key =>
    let digest := s.mgmt.firmware.getD (leNat (freeBytes s 0 32))
    let signature := Config.sm2Sign Config.pufIdentity (statement s key nonce digest)
    .next (send s (.attestation nonce digest key s.mgmt.boot signature (reportBytes nonce digest key s.mgmt.boot signature)))

/-- The black boxes of the dies with all else at rest (R474). -/
def keptBoxes (s : State) : Tab DieSt := tabMap s.dies fun _ d => { emptyDie with bbox := d.bbox }

/-- DEVICE_RESET (R474): every grid ends with state 4, all but the black boxes is discarded, the start begins again. -/
def execDeviceReset (s : State) : Out :=
  if !s.mgmt.powered then .next s
  else
    let s := (List.range 4).foldl (fun s d => blackBox s d 0 0 0 0) (endAllGrids s)
    .next (startDevice { blank s with dies := keptBoxes s })

/-- POWER_OFF (R474, R480): every grid ends with state 4, then everything is discarded. -/
def execPowerOff (s : State) : Out := if s.mgmt.powered then .next (blank (endAllGrids s)) else .next s

/-- POWER_LOSS (R474): the supply goes, and all state with it. -/
def execPowerLoss (s : State) : Out := .next (blank s)

/-- POWER_WINDOW (R476, R481): the power of the last 1 ms window. Limiting starts in the window after the power exceeded the limit or TMAX
reached 100 °C, with the array's step starts alone; where the next window still asks for it the throttle floor rises by a level. -/
def execPowerWindow (watts heldPct : Nat) (s : State) : Out :=
  if s.mgmt.boot != 5 then .next s
  else
    let m := s.mgmt
    let hot := decide (watts > m.powerLimit) || decide (m.tmax ≥ 100) || m.reached
    .next { s with mgmt := { m with
      power := watts % 65536, held := heldPct % 256, limiting := hot, reached := false,
      floor := if hot && m.limiting then min 7 (m.floor + 1) else if hot then m.floor else 0 } }

/-- THERMAL_SAMPLE (R476, R481): from 100 °C limiting starts with the next window; off at 110 °C. -/
def execThermalSample (celsius : Nat) (s : State) : Out :=
  if s.mgmt.boot != 5 then .next s
  else if celsius ≥ 110 then .next (blank s)
  else .next { s with mgmt := { s.mgmt with tmax := celsius, reached := s.mgmt.reached || decide (celsius ≥ 100) } }

end Sys2Proof.Machine
end

