-- ==== Sys2Proof/Machine/Approx.lean ====
section
/-!
DEFINITION. The approximate functions (R203 to R205). The bits a part returns are a free value of the operand,
`Config.approx`, kept where they lie within the bound of R203 around the exact result; the exact result is computed
here in fixed point with 1,400 fraction bits, far below every bound. Where the free value lies outside the bound, the
nearest value of the format stands for it (notes/assumptions/7.md).
-/

namespace Sys2Proof.Machine

/-- Fraction bits of the fixed-point numbers below. -/
def fxBits : Nat := 1400

def fxOne : Nat := 2 ^ fxBits

/-- Sum of pw / (2k + 1) with pw divided by d each turn, the signs alternating where `alt`. -/
def atanSeries (alt : Bool) : Nat → Nat → Nat → Nat → Int
  | 0, _, _, _ => 0
  | fuel + 1, pw, d, k =>
    let t : Int := (pw / (2 * k + 1) : Nat)
    (if alt && k % 2 = 1 then -t else t) + atanSeries alt fuel (pw / d) d (k + 1)

/-- π by Machin's formula. -/
def fxPi : Nat :=
  (16 * atanSeries true 320 (fxOne / 5) 25 0 - 4 * atanSeries true 100 (fxOne / 239) (239 * 239) 0).toNat

/-- Sum of z^(2k+1) / (2k+1): the inverse hyperbolic tangent. -/
def atanhSeries : Nat → Nat → Nat → Nat → Nat
  | 0, _, _, _ => 0
  | fuel + 1, pw, z2, k => pw / (2 * k + 1) + atanhSeries fuel (pw * z2 / fxOne) z2 (k + 1)

/-- ln 2. -/
def fxLn2 : Nat := 2 * atanhSeries 450 (fxOne / 3) (fxOne / 9) 0

/-- Sum of y^k / k!. -/
def expSeries : Nat → Nat → Nat → Nat → Nat
  | 0, _, _, _ => 0
  | fuel + 1, t, y, k => t + expSeries fuel (t * y / fxOne / (k + 1)) y (k + 1)

/-- 2^f for a fraction f. -/
def fxExp2 (f : Nat) : Nat := expSeries 260 fxOne (f * fxLn2 / fxOne) 0

/-- Alternating sum of t, each next t being t * y2 / ((k+1)(k+2)): sine from k = 1, cosine from k = 0. -/
def sinSeries : Nat → Nat → Nat → Nat → Bool → Int
  | 0, _, _, _, _ => 0
  | fuel + 1, t, y2, k, odd =>
    (if odd then -(t : Int) else t) + sinSeries fuel (t * y2 / fxOne / ((k + 1) * (k + 2))) y2 (k + 2) !odd

/-- An exact result to 1,400 bits: sign, and m * 2^e. -/
structure Exact where
  neg : Bool
  m : Nat
  e : Int

/-- m * 2^e in fixed point. -/
def toFx (m : Nat) (e : Int) : Nat :=
  let k := e + fxBits
  if k ≥ 0 then shl m k else m / 2 ^ (-k).toNat

/-- Sine or cosine of a finite value (R203). -/
def exactTrig (cosine neg : Bool) (m : Nat) (e : Int) : Exact :=
  let y := toFx m e % (2 * fxPi)
  let y2 := y * y / fxOne
  let v := if cosine then sinSeries 220 fxOne y2 0 false else sinSeries 220 y y2 1 false
  ⟨(decide (v < 0)) != (neg && !cosine), v.natAbs, -(fxBits : Int)⟩

/-- Integer part and fraction of a value times 2^k, with the magnitude cut at 2^14. -/
def splitFx (neg : Bool) (m : Nat) (e : Int) (num den : Nat) : Int × Nat :=
  let big : Bool := decide ((bitLen m : Int) + e > 14)
  let y : Nat := if big then 2 ^ 14 * fxOne else toFx m e * num / den
  if neg then
    let c := ceilDiv y fxOne
    (-(c : Int), c * fxOne - y)
  else ((y / fxOne : Nat), y % fxOne)

/-- 2^x. -/
def exactExp2 (neg : Bool) (m : Nat) (e : Int) (num den : Nat) : Exact :=
  let s := splitFx neg m e num den
  ⟨false, fxExp2 s.2, s.1 - fxBits⟩

/-- log2 of a positive value. -/
def exactLog2 (m : Nat) (e : Int) : Exact :=
  let top : Int := bitLen m - 1
  let t := toFx m (-top)
  let z := (t - fxOne) * fxOne / (t + fxOne)
  let ln := 2 * atanhSeries 450 z (z * z / fxOne) 0
  let v : Int := (top + e) * fxOne + (ln * fxOne / fxLn2 : Nat)
  ⟨decide (v < 0), v.natAbs, -(fxBits : Int)⟩

/-- tanh. -/
def exactTanh (neg : Bool) (m : Nat) (e : Int) : Exact :=
  if (bitLen m : Int) + e > 10 then ⟨neg, fxOne - 1, -(fxBits : Int)⟩
  else
    let x := exactExp2 false m (e + 1) fxOne fxLn2
    let y := toFx x.m x.e
    ⟨neg, (y - fxOne) * fxOne / (y + fxOne), -(fxBits : Int)⟩

/-- 1 / √x of a positive value. -/
def exactRsqrt (m : Nat) (e : Int) : Exact :=
  let m' := if e % 2 = 0 then m else 2 * m
  let e' := if e % 2 = 0 then e else e - 1
  ⟨false, Nat.sqrt (2 ^ 800 / m'), -(e' / 2) - 400⟩

/-- Function numbers: 0 frsq, 1 fexp2, 2 flog2, 3 fsin, 4 fcos, 5 ftanh. -/
def exactOf (fn : Nat) (neg : Bool) (m : Nat) (e : Int) : Exact :=
  if fn = 0 then exactRsqrt m e
  else if fn = 1 then exactExp2 neg m e 1 1
  else if fn = 2 then exactLog2 m e
  else if fn = 3 then exactTrig false neg m e
  else if fn = 4 then exactTrig true neg m e
  else exactTanh neg m e

/-- The bound of R203: ulps, and the exponent of the absolute bound. -/
def approxBound (fn code : Nat) (m : Nat) (e : Int) : Nat × Option Int :=
  let beyond (k : Int) : Bool := decide ((bitLen m : Int) + e > k + 1) || (decide ((bitLen m : Int) + e = k + 1) && m != 2 ^ (bitLen m - 1))
  let absolute : Int := if code = 0 then -60 else if code = 1 then -29 else -13
  if fn = 2 then (if code = 0 then 2 else 1, some absolute)
  else if fn = 3 || fn = 4 then
    if code = 0 then (if beyond 20 then (0, some (-48)) else (2, some absolute))
    else if code = 1 then (if beyond 16 then (0, some (-20)) else (1, some absolute))
    else (1, some absolute)
  else if fn = 0 then (1, none)
  else (if code = 0 then 2 else 1, none)

/-- Whether a finite encoding lies within the bound of an exact result. An ulp is the distance of the two values of
the format around the exact result, with no limit on the exponent (R203). -/
def withinBound (f : FFmt) (ulps : Nat) (absolute : Option Int) (x : Exact) (v : Nat) : Bool :=
  match f.val v with
  | .fin neg m e =>
    let ulpE := (bitLen x.m : Int) - 1 + x.e - f.mb
    let low := min (min x.e e) (min ulpE (absolute.getD 0))
    let d := ((FVal.fin neg m e).at low - (FVal.fin x.neg x.m x.e).at low).natAbs
    let byUlp := ulps * shl 1 (ulpE - low)
    let byAbs := match absolute with | none => 0 | some a => shl 1 (a - low)
    d ≤ max byUlp byAbs + shl 1 (max 0 (x.e + 8 - low))
  | _ => false

/-- The bits an approximate function returns for an operand outside R204's table, before the flush step. -/
def approxBits (f : FFmt) (code fn v : Nat) : Nat :=
  match f.val v with
  | .fin neg m e =>
    let x := exactOf fn neg m e
    let b := approxBound fn code m e
    let cand := Config.approx fn code v % 2 ^ f.w
    if withinBound f b.1 b.2 x cand then cand else (fpOut f 1 false false (.fin x.neg (2 * x.m + 1) (x.e - 1))).1
  | _ => f.canon

/-- The saturate and flush steps of `fp_out`, and the flags, of an inexact result (R203, R204). -/
def approxOut (f : FFmt) (fz : Bool) (v : Nat) : Nat × Nat :=
  if f.expo v = 0 then (if fz && f.frac v != 0 then f.signBit (f.sign v) else v, flUF ||| flNX) else (v, flNX)

/-- 2^n where a value is an integer n. -/
def intOf (m : Nat) (e : Int) : Option Nat :=
  if e ≥ 0 then (if (bitLen m : Int) + e > 20 then none else some (shl m e))
  else if m % 2 ^ (-e).toNat = 0 ∧ -e ≤ 1100 then some (m / 2 ^ (-e).toNat) else none

/-- An approximate function on one element read through `fp_in` (R203, R204). -/
def approxFn (f : FFmt) (code fn : Nat) (sat fz : Bool) (v : Nat) : Nat × Nat :=
  let b := approxBits f code fn v
  let free : Nat × Nat := if f.isInf b then fpOut f 1 sat fz (.fin false 1 (f.bias + 2)) else approxOut f fz b
  let one := (2 ^ (f.eb - 1) - 1) * 2 ^ f.mb
  match nanResult f [v] with
  | some n => n
  | none =>
    match f.val v with
    | .nan => (f.canon, 0)
    | .inf neg =>
      if fn = 0 then (if neg then (f.canon, flNV) else (0, 0))
      else if fn = 1 then (if neg then (0, 0) else fpOut f 1 sat fz (.inf false))
      else if fn = 2 then (if neg then (f.canon, flNV) else (f.infMag, 0))
      else if fn = 5 then (f.signBit neg + one, 0)
      else (f.canon, flNV)
    | .fin neg m e =>
      if m = 0 then
        if fn = 0 then (f.signBit neg + f.infMag, flDZ)
        else if fn = 1 || fn = 4 then (one, 0)
        else if fn = 2 then (f.signBit true + f.infMag, flDZ)
        else (v, 0)
      else if (fn = 0 || fn = 2) && neg then (f.canon, flNV)
      else if fn = 1 then
        if !neg && (exactExp2 false m e 1 1).e + fxBits ≥ f.bias + 1 then fpOut f 1 sat fz (.fin false 1 (f.bias + 2))
        else match intOf m e with
          | some n =>
            let n : Int := if neg then -(n : Int) else n
            if n ≥ f.minE then fpOut f 1 sat fz (.fin false 1 n) else free
          | none => free
      else if fn = 2 then
        if m = 2 ^ (bitLen m - 1) then
          let n : Int := bitLen m - 1 + e
          fpOut f 1 false fz (.fin (decide (n < 0)) n.natAbs 0)
        else free
      else free

end Sys2Proof.Machine
end

