-- ==== Sys2Proof/Machine/Integer.lean ====
section
/-!
DEFINITION. The integer lane instructions (R179 to R196).
-/

namespace Sys2Proof.Machine

/-! ## Shapes -/

/-- Elementwise result of two operands of width w. -/
def zipElems (w : Nat) (op : Nat → Nat → Nat) (a b : Nat) : Word :=
  word (packElems w (64 / w) fun i => op (elemAt w i a) (elemAt w i b))

/-- A two-source integer instruction: op on each pair of elements (R175). -/
def binary (s : State) (f : FA) (op : Nat → Nat → Nat → Nat) : Out :=
  inClause s fun x => use s x [f.a, f.b] fun s x =>
    let w := packWidth f.pack.toNat
    let a := operand s x (.int w) f.a
    let b := operand s x (.int w) f.b
    done s x 1 (writeLanes x x.cl f.d fun l => zipElems w (op w) (laneOf a.vals l).toNat (laneOf b.vals l).toNat)

/-- A one-source integer instruction (R186). -/
def unary (s : State) (f : FA) (op : Nat → Nat → Nat) : Out :=
  inClause s fun x => use s x [f.a] fun s x =>
    let w := packWidth f.pack.toNat
    let a := operand s x (.int w) f.a
    done s x 1 (writeLanes x x.cl f.d fun l => zipElems w (fun v _ => op w v) (laneOf a.vals l).toNat 0)

/-- The result form of a forwarded operand, one of some sources (R142): scale and offset of each lane through g. -/
def compose (s : State) (x : Ctx) (n : Nat) (d : Operand) (ops : List Operand) (r : Reg) (g : Nat → Word × Word → Word × Word) : Out :=
  let form := mkForm x.live r.sym (mkLanes fun l => (g l (laneOf r.scale l, laneOf r.vals l)).1)
    (mkLanes fun l => (g l (laneOf r.scale l, laneOf r.vals l)).2)
  done s x n (writeD x x.cl d { form with unknown := unknownIn x ops })

/-- A two-source instruction that forwards with pack 00: ga composes a pending a with a known b, gb the reverse. -/
def binaryFwd (s : State) (f : FA) (op : Nat → Nat → Nat → Nat)
    (ga gb : Option (Word → Word × Word → Word × Word)) : Out :=
  inClause s fun x =>
    match (if f.pack = 0 then forwards x f.d [f.a, f.b] else none) with
    | some 0 =>
      match ga with
      | some g =>
        let k := operand s x (.int 64) f.b
        compose s x 1 f.d [f.a, f.b] (operand s x (.int 64) f.a) fun l => g (laneOf k.vals l)
      | none => binary s f op
    | some _ =>
      match gb with
      | some g =>
        let k := operand s x (.int 64) f.a
        compose s x 1 f.d [f.a, f.b] (operand s x (.int 64) f.b) fun l => g (laneOf k.vals l)
      | none => binary s f op
    | none => binary s f op

/-! ## Adding and multiplying -/

/-- `nop` (R179). -/
def execNop (s : State) : Out := inClause s fun x => done s x 1 x.cl

/-- `add` (R180, R142). -/
def execAdd (f : FA) (s : State) : Out :=
  binaryFwd s f (fun _ a b => a + b) (some fun k p => (p.1, p.2 + k)) (some fun k p => (p.1, p.2 + k))

/-- `sub` (R180, R142). -/
def execSub (f : FA) (s : State) : Out :=
  binaryFwd s f (fun w a b => a + (2 ^ w - b % 2 ^ w)) (some fun k p => (p.1, p.2 - k)) (some fun k p => (-p.1, k - p.2))

/-- `addi` (R180, R142). -/
def execAddi (f : FB) (s : State) : Out :=
  inClause s fun x =>
    let k : Word := f.imm.signExtend 64
    match forwards x f.d [f.a] with
    | some _ => compose s x 1 f.d [f.a] (operand s x (.int 64) f.a) fun _ p => (p.1, p.2 + k)
    | none => use s x [f.a] fun s x => done s x 1 (writeLanes x x.cl f.d fun l => word64 s x f.a l + k)

/-- `mul` (R181, R142). -/
def execMul (f : FA) (s : State) : Out :=
  binaryFwd s f (fun _ a b => a * b) (some fun k p => (p.1 * k, p.2 * k)) (some fun k p => (p.1 * k, p.2 * k))

/-- `mulhs` (R181). -/
def execMulhs (f : FA) (s : State) : Out :=
  binary s f fun w a b => ofSigned w (toSigned w a * toSigned w b / 2 ^ w)

/-- `mulhn` (R181). -/
def execMulhn (f : FA) (s : State) : Out := binary s f fun w a b => a * b / 2 ^ w

/-- `mad` (R182). -/
def execMad (f : FX) (s : State) : Out :=
  inClause s fun x => use s x [f.a, f.b, f.c] fun s x =>
    let w := packWidth f.pack.toNat
    let signed := f.imm.getLsbD 0
    let rd (v : Nat) : Int := if signed then toSigned w v else v
    let a := operand s x (.int w) f.a
    let b := operand s x (.int w) f.b
    let c := operand s x (.int w) f.c
    done s x 2 (writeLanes x x.cl f.d fun l => word (packElems w (64 / w) fun i =>
      let v := rd (elemAt w i (laneOf a.vals l).toNat) * rd (elemAt w i (laneOf b.vals l).toNat) +
        rd (elemAt w i (laneOf c.vals l).toNat)
      ofSigned w (if f.sat then saturate signed w v else v)))

/-! ## Bitwise and shifts -/

/-- `and` (R183). -/
def execAndI (f : FA) (s : State) : Out := binary s f fun _ a b => a &&& b
/-- `or` (R183). -/
def execOrI (f : FA) (s : State) : Out := binary s f fun _ a b => a ||| b
/-- `xor` (R183). -/
def execXorI (f : FA) (s : State) : Out := binary s f fun _ a b => a ^^^ b
/-- `andn` (R183). -/
def execAndn (f : FA) (s : State) : Out := binary s f fun w a b => a &&& (2 ^ w - 1 - b % 2 ^ w)

/-- `shl` (R184, R142): forwards a pending value shifted by a known amount. -/
def execShl (f : FA) (s : State) : Out :=
  binaryFwd s f (fun w a b => a * 2 ^ (b % w))
    (some fun k p => (p.1 * word (2 ^ (k.toNat % 64)), p.2 * word (2 ^ (k.toNat % 64)))) none

/-- `shr` (R184). -/
def execShr (f : FA) (s : State) : Out := binary s f fun w a b => a / 2 ^ (b % w)
/-- `sar` (R184). -/
def execSar (f : FA) (s : State) : Out := binary s f fun w a b => ofSigned w (toSigned w a / 2 ^ (b % w))
/-- `rot` (R184). -/
def execRot (f : FA) (s : State) : Out := binary s f fun w a b => a * 2 ^ (b % w) + a / 2 ^ (w - b % w)

/-- `mins` (R185). -/
def execMins (f : FA) (s : State) : Out := binary s f fun w a b => if toSigned w b < toSigned w a then b else a
/-- `minn` (R185). -/
def execMinn (f : FA) (s : State) : Out := binary s f fun _ a b => min a b
/-- `maxs` (R185). -/
def execMaxs (f : FA) (s : State) : Out := binary s f fun w a b => if toSigned w a < toSigned w b then b else a
/-- `maxn` (R185). -/
def execMaxn (f : FA) (s : State) : Out := binary s f fun _ a b => max a b

/-! ## Bit counting and extension -/

/-- `bit.clz` (R186). -/
def execBitClz (f : FA) (s : State) : Out := unary s f fun w v => w - bitLen v
/-- Trailing zero bits of a value of width w. -/
def trailingZeros (w v : Nat) : Nat := ((List.range w).find? fun i => v.testBit i).getD w
/-- `bit.ctz` (R186). -/
def execBitCtz (f : FA) (s : State) : Out := unary s f trailingZeros
/-- `bit.popc` (R186). -/
def execBitPopc (f : FA) (s : State) : Out := unary s f popcount
/-- `bit.brev` (R186). -/
def execBitBrev (f : FA) (s : State) : Out :=
  unary s f fun w v => (List.range w).foldr (fun j a => a + (if v.testBit j then 2 ^ (w - 1 - j) else 0)) 0
/-- `bit.abs` (R186). -/
def execBitAbs (f : FA) (s : State) : Out := unary s f fun w v => (toSigned w v).natAbs

/-- `bit.neg` (R186, R142). -/
def execBitNeg (f : FA) (s : State) : Out :=
  inClause s fun x =>
    match (if f.pack = 0 then forwards x f.d [f.a] else none) with
    | some _ => compose s x 1 f.d [f.a] (operand s x (.int 64) f.a) fun _ p => (-p.1, -p.2)
    | none => unary s f fun w v => ofSigned w (-(v : Int))

/-- `bit.not` (R186). -/
def execBitNot (f : FA) (s : State) : Out := unary s f fun w v => 2 ^ w - 1 - v
/-- `bit.sext8` (R186). -/
def execBitSext8 (f : FA) (s : State) : Out := unary s f fun w v => ofSigned w (toSigned 8 v)
/-- `bit.sext16` (R186). -/
def execBitSext16 (f : FA) (s : State) : Out := unary s f fun w v => ofSigned w (toSigned 16 v)
/-- `bit.sext32` (R186). -/
def execBitSext32 (f : FA) (s : State) : Out := unary s f fun w v => ofSigned w (toSigned 32 v)

/-! ## Fields and addresses -/

/-- The field a control element names: position and limited length (R187). -/
def fieldOf (w ctl : Nat) : Nat × Nat :=
  let pos := bits ctl 5 0
  let len := bits ctl 14 8
  (pos, if pos ≥ w then 0 else min len (w - pos))

/-- `bfe` (R187). -/
def execBfe (f : FX) (s : State) : Out :=
  inClause s fun x => use s x [f.a, f.b] fun s x =>
    let w := packWidth f.pack.toNat
    let a := operand s x (.int w) f.a
    let b := operand s x (.int w) f.b
    done s x 2 (writeLanes x x.cl f.d fun l => zipElems w (fun v ctl =>
      let p := fieldOf w ctl
      let e := v / 2 ^ p.1 % 2 ^ p.2
      if p.2 = 0 then 0 else if f.imm.getLsbD 0 then ofSigned w (toSigned p.2 e) else e)
      (laneOf a.vals l).toNat (laneOf b.vals l).toNat)

/-- `bfi` (R187). -/
def execBfi (f : FX) (s : State) : Out :=
  inClause s fun x => use s x [f.a, f.b, f.c] fun s x =>
    let w := packWidth f.pack.toNat
    let a := operand s x (.int w) f.a
    let b := operand s x (.int w) f.b
    let c := operand s x (.int w) f.c
    done s x 2 (writeLanes x x.cl f.d fun l => word (packElems w (64 / w) fun i =>
      let base := elemAt w i (laneOf a.vals l).toNat
      let p := fieldOf w (elemAt w i (laneOf c.vals l).toNat)
      base - bits base (p.1 + p.2 - 1) p.1 * (if p.2 = 0 then 0 else 2 ^ p.1) +
        elemAt w i (laneOf b.vals l).toNat % 2 ^ p.2 * 2 ^ p.1))

/-- `lea` (R188, R142): a pending base or index forwards. -/
def execLea (f : FX) (s : State) : Out :=
  inClause s fun x =>
    let sc : Word := word (2 ^ (f.imm.toNat % 16))
    match forwards x f.d [f.a, f.b, f.c] with
    | some 0 =>
      compose s x 2 f.d [f.a, f.b, f.c] (operand s x (.int 64) f.a) fun l p => (p.1, p.2 + (word64 s x f.b l * sc + word64 s x f.c l))
    | some 1 =>
      compose s x 2 f.d [f.a, f.b, f.c] (operand s x (.int 64) f.b) fun l p =>
        (p.1 * sc, p.2 * sc + (word64 s x f.a l + word64 s x f.c l))
    | _ => use s x [f.a, f.b, f.c] fun s x =>
      done s x 2 (writeLanes x x.cl f.d fun l => word64 s x f.a l + word64 s x f.b l * sc + word64 s x f.c l)

/-- An operand whose constants take the pack mode's format of their own kind (R189, R192). -/
def anyView (pack : Nat) (o : Operand) : View :=
  match o with
  | .fc _ => .fp pack
  | _ => .int (packWidth pack)

/-- `sel` (R189). -/
def execSel (f : FX) (s : State) : Out :=
  inClause s fun x => use s x [f.a, f.b] fun s x =>
    let a := operand s x (anyView 0 f.a) f.a
    let b := operand s x (anyView 0 f.b) f.b
    done s x 2 (writeLanes x x.cl f.d fun l =>
      if predOf x.t (f.imm.toNat % 8) l != f.imm.getLsbD 3 then laneOf a.vals l else laneOf b.vals l)

/-! ## Division -/

/-- A special-function integer division (R190). -/
def divide (s : State) (f : FX) (op : Nat → Nat → Nat → Nat) : Out :=
  inClause s fun x => use s x [f.a, f.b] fun s x =>
    let w := packWidth f.pack.toNat
    let a := operand s x (.int w) f.a
    let b := operand s x (.int w) f.b
    done s x 2 (writeLanes x x.cl f.d fun l => zipElems w (op w) (laneOf a.vals l).toNat (laneOf b.vals l).toNat)

/-- `div.quos` (R190). -/
def execDivQuos (f : FX) (s : State) : Out :=
  divide s f fun w a b =>
    if b = 0 then 2 ^ w - 1
    else if f.sat && toSigned w a = -(2 ^ (w - 1) : Int) && toSigned w b = -1 then 2 ^ (w - 1) - 1
    else ofSigned w ((toSigned w a).tdiv (toSigned w b))
/-- `div.quon` (R190). -/
def execDivQuon (f : FX) (s : State) : Out := divide s f fun w a b => if b = 0 then 2 ^ w - 1 else a / b
/-- `div.rems` (R190). -/
def execDivRems (f : FX) (s : State) : Out :=
  divide s f fun w a b => if b = 0 then a else ofSigned w ((toSigned w a).tmod (toSigned w b))
/-- `div.remn` (R190). -/
def execDivRemn (f : FX) (s : State) : Out := divide s f fun _ a b => if b = 0 then a else a % b

/-! ## Moves -/

/-- `movi` of an immediate (R191). -/
def execMovi (f : FL) (s : State) : Out :=
  inClause s fun x => done s x 2 (writeLanes x x.cl f.d fun _ => f.imm.signExtend 64)

/-- `movi` through a register (R191). -/
def execMoviShifted (f : FL) (s : State) : Out :=
  inClause s fun x => use s x [f.a] fun s x =>
    done s x 2 (writeLanes x x.cl f.d fun l => word64 s x f.a l * word (2 ^ 32) + f.imm.signExtend 64)

/-- `mov` (R192): constants take the pack mode's width or format. -/
def execMov (f : FA) (s : State) : Out :=
  inClause s fun x => use s x [f.a] fun s x =>
    let a := operand s x (anyView f.pack.toNat f.a) f.a
    done s x 1 (writeLanes x x.cl f.d fun l => laneOf a.vals l)

/-! ## Compares and predicates -/

/-- An integer compare: the AND of the condition over elements (R193). -/
def compare (s : State) (f : FC) (cond : Nat → Nat → Nat → Bool) : Out :=
  inClause s fun x => use s x [f.a, f.b] fun s x =>
    let w := packWidth f.pack.toNat
    let a := operand s x (.int w) f.a
    let b := operand s x (.int w) f.b
    done s x 1 (writePred x x.cl f.q.toNat fun l => (List.range (64 / w)).all fun i =>
      cond w (elemAt w i (laneOf a.vals l).toNat) (elemAt w i (laneOf b.vals l).toNat))

/-- `cmp.eq` (R193). -/
def execCmpEq (f : FC) (s : State) : Out := compare s f fun _ a b => a == b
/-- `cmp.ne` (R193). -/
def execCmpNe (f : FC) (s : State) : Out := compare s f fun _ a b => a != b
/-- `cmp.lts` (R193). -/
def execCmpLts (f : FC) (s : State) : Out := compare s f fun w a b => decide (toSigned w a < toSigned w b)
/-- `cmp.les` (R193). -/
def execCmpLes (f : FC) (s : State) : Out := compare s f fun w a b => decide (toSigned w a ≤ toSigned w b)
/-- `cmp.gts` (R193). -/
def execCmpGts (f : FC) (s : State) : Out := compare s f fun w a b => decide (toSigned w b < toSigned w a)
/-- `cmp.ges` (R193). -/
def execCmpGes (f : FC) (s : State) : Out := compare s f fun w a b => decide (toSigned w b ≤ toSigned w a)
/-- `cmp.ltn` (R193). -/
def execCmpLtn (f : FC) (s : State) : Out := compare s f fun _ a b => decide (a < b)
/-- `cmp.len` (R193). -/
def execCmpLen (f : FC) (s : State) : Out := compare s f fun _ a b => decide (a ≤ b)
/-- `cmp.gtn` (R193). -/
def execCmpGtn (f : FC) (s : State) : Out := compare s f fun _ a b => decide (b < a)
/-- `cmp.gen` (R193). -/
def execCmpGen (f : FC) (s : State) : Out := compare s f fun _ a b => decide (b ≤ a)
/-- `cmp.tst` (R193). -/
def execCmpTst (f : FC) (s : State) : Out := compare s f fun _ a b => a &&& b != 0
/-- `cmp.tsz` (R193). -/
def execCmpTsz (f : FC) (s : State) : Out := compare s f fun _ a b => a &&& b == 0

/-- The predicate a `pl` source field names: its low three bits (R194). -/
def predField (o : Operand) : Nat := o.code % 8

/-- A predicate operation (R194). -/
def predOp (s : State) (f : FC) (op : Bool → Bool → Bool) : Out :=
  inClause s fun x =>
    done s x 1 (writePred x x.cl f.q.toNat fun l => op (predOf x.t (predField f.a) l) (predOf x.t (predField f.b) l))

/-- `pl.and` (R194). -/
def execPlAnd (f : FC) (s : State) : Out := predOp s f fun a b => a && b
/-- `pl.or` (R194). -/
def execPlOr (f : FC) (s : State) : Out := predOp s f fun a b => a || b
/-- `pl.xor` (R194). -/
def execPlXor (f : FC) (s : State) : Out := predOp s f fun a b => a != b
/-- `pl.andn` (R194). -/
def execPlAndn (f : FC) (s : State) : Out := predOp s f fun a b => a && !b
/-- `pl.orn` (R194). -/
def execPlOrn (f : FC) (s : State) : Out := predOp s f fun a b => a || !b

/-- `pl.frommask` (R194): bit l of lane l's register. -/
def execPlFrommask (f : FC) (s : State) : Out :=
  inClause s fun x => use s x [f.a] fun s x =>
    done s x 1 (writePred x x.cl f.q.toNat fun l => (word64 s x f.a l).getLsbD l)

/-- `pl.tomask` (R194): the a field names the destination. -/
def execPlTomask (f : FC) (s : State) : Out :=
  inClause s fun x =>
    done s x 1 (writeLanes x x.cl f.a fun l => if predOf x.t f.q.toNat l then -1 else 0)

/-! ## Integer conversion -/

/-- Signedness and width of an integer code (R49). -/
def intCode (c : Nat) : Bool × Nat := (c < 4, 8 * 2 ^ (c % 4))

/-- `icvt` (R195, R196). -/
def execIcvt (f : FX) (s : State) : Out :=
  inClause s fun x => use s x [f.a] fun s x =>
    let dst := intCode f.fn.toNat
    let src := intCode (bits f.imm.toNat 11 8)
    let a := operand s x (.int src.2) f.a
    done s x 2 (writeLanes x x.cl f.d fun l => word (packElems dst.2 (2 ^ f.pack.toNat) fun i =>
      let e := elemAt src.2 i (laneOf a.vals l).toNat
      let v : Int := if src.1 then toSigned src.2 e else e
      ofSigned dst.2 (if f.sat then saturate dst.1 dst.2 v else v)))

end Sys2Proof.Machine
end

