-- ==== Sys2Proof/Machine/Floating.lean ====
section
/-!
DEFINITION. The floating-point lane instructions (R197 to R213).
-/

namespace Sys2Proof.Machine

/-- The flag bits of an X word (R40): negate a, absolute a, negate b, negate c. -/
def negA (f : FX) : Bool := f.flg.getLsbD 3
def absA (f : FX) : Bool := f.flg.getLsbD 2
def negB (f : FX) : Bool := f.flg.getLsbD 1
def negC (f : FX) : Bool := f.flg.getLsbD 0

/-- Elements of width w with flags OR-ed over them (R168). -/
def flagElems (w n : Nat) (g : Nat → Nat × Nat) : Word × Nat :=
  let r := (List.range n).map g
  (word (packElems w n fun i => (r.getD i (0, 0)).1), r.foldl (fun a e => a ||| e.2) 0)

/-- Records per-lane values with flags OR-ed over the live lanes. -/
def writeFlagged (x : Ctx) (d : Operand) (g : Nat → Word × Nat) : Clause :=
  let r := laneList.map fun l => if x.live.getLsbD l then g l else (0, 0)
  addFlags (writeLanes x x.cl d fun l => (r.getD l (0, 0)).1) (r.foldl (fun a e => a ||| e.2) 0)

/-- An FP instruction on up to three sources read through `fp_in` (R197): g gives element bits and flags. -/
def fpLanes (s : State) (x : Ctx) (f : FX) (g : FFmt → Nat → Nat → Nat → Nat × Nat) : Clause :=
  let code := f.pack.toNat
  let fm := fmtOf code
  let fz := flushBit x.t.mode code
  let a := operand s x (.fp code) f.a
  let b := operand s x (.fp code) f.b
  let c := operand s x (.fp code) f.c
  writeFlagged x f.d fun l => flagElems fm.w (64 / fm.w) fun i =>
    g fm (fpIn fm fz (absA f) (negA f) (elemAt fm.w i (laneOf a.vals l).toNat))
      (fpIn fm fz false (negB f) (elemAt fm.w i (laneOf b.vals l).toNat))
      (fpIn fm fz false (negC f) (elemAt fm.w i (laneOf c.vals l).toNat))

/-- The rounding mode of an instruction (R43). -/
def rndOf (x : Ctx) (f : FX) : Nat := resolveRnd x.t.mode f.rnd.toNat

/-- Strict execution of an FP instruction that uses its sources. -/
def fpInstr (s : State) (f : FX) (ops : List Operand) (g : Ctx → FFmt → Nat → Nat → Nat → Nat × Nat) : Out :=
  inClause s fun x => use s x ops fun s x => done s x 2 (fpLanes s x f (g x))

/-! ## Sums and products, with f64 chains -/

/-- A register that an f64 operation may extend (R143): fewer than three operations; an integer form only as the value itself, in every lane
that takes part. DEDUCED (notes/assumptions/43.md): a lane that holds a = 0, because its value has arrived or never was pending, is one with
a ≠ 1, so the use blocks, as the one park delivery of R471 needs. -/
def f64Form (x : Ctx) (r : Reg) : Bool :=
  if r.chain.isEmpty then (maskLanes x.live).all fun l => laneOf r.scale l == 1 && laneOf r.vals l == 0
  else r.chain.length < 3

/-- The pending source of an f64 instruction that forwards (R143): the only pending one, at position a or b. -/
def forwardsF64 (s : State) (x : Ctx) (f : FX) (ops : List Operand) : Option Nat :=
  let pend := (List.range ops.length).filter fun i =>
    match (ops[i]?).bind (regOperand x) with
    | some r => pendMask r != 0
    | none => false
  match pend with
  | [i] =>
    let r := operand s x (.fp 0) (ops.getD i .zero)
    if f.pack = 0 && !x.cl.hdr.strict && !f.sat && holdsPending f.d && i < 2 && !(i == 0 && absA f) && f64Form x r && !foundBlocking x r
    then some i else none
  | _ => none

/-- Appends an operation to a chain; settled lanes compute at once (R143, R139). -/
def appendChain (x : Ctx) (r : Reg) (o : ChainOp) : Reg × Nat :=
  let pend := pendMask r &&& x.live
  let out := laneList.map fun l =>
    if x.live.getLsbD l && !pend.getLsbD l then replayOp o l ((laneOf r.vals l).toNat, 0) else (0, 0)
  ({ emptyReg with entry := if pend = 0 then .resident else .pending, fmt := 4, sym := r.sym, pend,
                   chain := if pend = 0 then [] else r.chain ++ [o],
                   vals := mkLanes fun l => word (out.getD l (0, 0)).1 },
   out.foldl (fun a e => a ||| e.2) 0)

/-- `fadd`, `fsub`, `fmul`, `fma`: forwarded where R143 allows, strict otherwise (R198). -/
def fpChain (s : State) (f : FX) (ka kb : ChainKind) (ops : List Operand) : Out :=
  inClause s fun x =>
    match forwardsF64 s x f ops with
    | some i =>
      let a := operand s x (.fp 0) f.a
      let b := operand s x (.fp 0) f.b
      let f64 := fmtOf 0
      let absK (v : Lanes) : Lanes := mkLanes fun l =>
        if i = 1 && absA f then word (f64.mag (laneOf v l).toNat) else laneOf v l
      let o : ChainOp :=
        { kind := if i = 0 then ka else kb, known := absK (if i = 0 then b.vals else a.vals),
          addend := (operand s x (.fp 0) f.c).vals, negP := if i = 0 then negA f else negB f,
          negK := if i = 0 then negB f else negA f, negC := negC f, mode := rndOf x f, pIsA := i == 0 }
      let r := appendChain x (if i = 0 then a else b) o
      done s x 2 (addFlags (writeD x x.cl f.d { r.1 with unknown := unknownIn x ops }) r.2)
    | none =>
      use s x ops fun s x =>
        done s x 2 (fpLanes s x f fun fm a b c =>
          chainValue ka true (rndOf x f) f.sat fm (flushBit x.t.mode f.pack.toNat) a b c)

/-- `fadd` (R198). -/
def execFadd (f : FX) (s : State) : Out := fpChain s f .add .add [f.a, f.b]
/-- `fsub` (R198). -/
def execFsub (f : FX) (s : State) : Out := fpChain s f .sub .rsub [f.a, f.b]
/-- `fmul` (R198). -/
def execFmul (f : FX) (s : State) : Out := fpChain s f .mul .mul [f.a, f.b]
/-- `fma` (R198). -/
def execFma (f : FX) (s : State) : Out := fpChain s f .fma .fma [f.a, f.b, f.c]

/-! ## Minimum, maximum, signs, compares -/

/-- minimumNumber or maximumNumber with -0 below +0 (R199). -/
def minMax (less : Bool) (f : FFmt) (a b : Nat) : Nat × Nat :=
  let fl := if f.isSNaN a || f.isSNaN b then flNV else 0
  if f.isNaN a && f.isNaN b then (f.quiet a, fl)
  else if f.isNaN a then (b, fl)
  else if f.isNaN b then (a, fl)
  else if less then (if f.tkey b < f.tkey a then b else a, fl)
  else (if f.tkey a < f.tkey b then b else a, fl)

/-- `fmin` (R199). -/
def execFmin (f : FX) (s : State) : Out := fpInstr s f [f.a, f.b] fun _ fm a b _ => minMax true fm a b
/-- `fmax` (R199). -/
def execFmax (f : FX) (s : State) : Out := fpInstr s f [f.a, f.b] fun _ fm a b _ => minMax false fm a b

/-- Sign operations on raw bits (R200). -/
def signOp (s : State) (f : FX) (op : Bool → Bool → Bool) : Out :=
  inClause s fun x => use s x [f.a, f.b] fun s x =>
    let fm := fmtOf f.pack.toNat
    let a := operand s x (.fp f.pack.toNat) f.a
    let b := operand s x (.fp f.pack.toNat) f.b
    done s x 2 (writeLanes x x.cl f.d fun l => zipElems fm.w
      (fun v u => fm.mag v + fm.signBit (op (fm.sign v) (fm.sign u))) (laneOf a.vals l).toNat (laneOf b.vals l).toNat)

/-- `fsgn.copy` (R200). -/
def execFsgnCopy (f : FX) (s : State) : Out := signOp s f fun _ b => b
/-- `fsgn.copyneg` (R200). -/
def execFsgnCopyneg (f : FX) (s : State) : Out := signOp s f fun _ b => !b
/-- `fsgn.xor` (R200). -/
def execFsgnXor (f : FX) (s : State) : Out := signOp s f fun a b => a != b

/-- An FP compare (R201): the AND over elements; `quietOnly` sets NV for signalling NaNs only. -/
def fcompare (s : State) (f : FC) (quietOnly : Bool) (cond : FFmt → Nat → Nat → Bool) : Out :=
  inClause s fun x => use s x [f.a, f.b] fun s x =>
    let code := f.pack.toNat
    let fm := fmtOf code
    let fz := flushBit x.t.mode code
    let a := operand s x (.fp code) f.a
    let b := operand s x (.fp code) f.b
    let ea (l i : Nat) : Nat := fpIn fm fz false false (elemAt fm.w i (laneOf a.vals l).toNat)
    let eb (l i : Nat) : Nat := fpIn fm fz false false (elemAt fm.w i (laneOf b.vals l).toNat)
    let idx := List.range (64 / fm.w)
    let bad (v : Nat) : Bool := if quietOnly then fm.isSNaN v else fm.isNaN v
    let nv := (maskLanes x.live).any fun l => idx.any fun i => bad (ea l i) || bad (eb l i)
    done s x 1 (addFlags (writePred x x.cl f.q.toNat fun l => idx.all fun i => cond fm (ea l i) (eb l i))
      (if nv then flNV else 0))

/-- Neither operand is a NaN (R201). -/
def ordered (f : FFmt) (a b : Nat) : Bool := !f.isNaN a && !f.isNaN b

/-- `fcmp.eq` (R201). -/
def execFcmpEq (f : FC) (s : State) : Out := fcompare s f true fun m a b => ordered m a b && m.key a == m.key b
/-- `fcmp.ne` (R201). -/
def execFcmpNe (f : FC) (s : State) : Out := fcompare s f true fun m a b => !ordered m a b || m.key a != m.key b
/-- `fcmp.lt` (R201). -/
def execFcmpLt (f : FC) (s : State) : Out := fcompare s f false fun m a b => ordered m a b && decide (m.key a < m.key b)
/-- `fcmp.le` (R201). -/
def execFcmpLe (f : FC) (s : State) : Out := fcompare s f false fun m a b => ordered m a b && decide (m.key a ≤ m.key b)
/-- `fcmp.gt` (R201). -/
def execFcmpGt (f : FC) (s : State) : Out := fcompare s f false fun m a b => ordered m a b && decide (m.key b < m.key a)
/-- `fcmp.ge` (R201). -/
def execFcmpGe (f : FC) (s : State) : Out := fcompare s f false fun m a b => ordered m a b && decide (m.key b ≤ m.key a)
/-- `fcmp.uno` (R201). -/
def execFcmpUno (f : FC) (s : State) : Out := fcompare s f true fun m a b => !ordered m a b
/-- `fcmp.ord` (R201). -/
def execFcmpOrd (f : FC) (s : State) : Out := fcompare s f true ordered

/-! ## Division and roots -/

/-- The exact quotient, its invalid cases, and DZ (R202). -/
def divValue (f : FFmt) (mode : Nat) (sat fz : Bool) (a b : Nat) : Nat × Nat :=
  match nanResult f [a, b] with
  | some n => n
  | none =>
    match f.val a, f.val b with
    | .inf x, .fin y _ _ => fpOut f mode sat fz (.inf (x != y))
    | .fin x _ _, .inf y => fpOut f mode sat fz (.fin (x != y) 0 0)
    | .fin x ma ea, .fin y mb eb =>
      if mb = 0 then
        if ma = 0 then (f.canon, flNV)
        else
          let r := fpOut f mode sat fz (.inf (x != y))
          (r.1, r.2 ||| flDZ)
      else if ma = 0 then fpOut f mode sat fz (.fin (x != y) 0 0)
      else fpOut f mode sat fz (quotient (x != y) ma ea mb eb)
    | _, _ => (f.canon, flNV)

/-- `fdiv` (R202). -/
def execFdiv (f : FX) (s : State) : Out :=
  fpInstr s f [f.a, f.b] fun x fm a b _ => divValue fm (rndOf x f) f.sat (flushBit x.t.mode f.pack.toNat) a b

/-- `fsqrt` (R202). -/
def execFsqrt (f : FX) (s : State) : Out :=
  fpInstr s f [f.a] fun x fm a _ _ =>
    match nanResult fm [a] with
    | some n => n
    | none =>
      match fm.val a with
      | .inf neg => if neg then (fm.canon, flNV) else (fm.infMag, 0)
      | .fin neg m e =>
        if m = 0 then (a, 0)
        else if neg then (fm.canon, flNV)
        else fpOut fm (rndOf x f) false (flushBit x.t.mode f.pack.toNat) (rootOf m e)
      | .nan => (fm.canon, 0)

/-- `frcp` (R202). -/
def execFrcp (f : FX) (s : State) : Out :=
  fpInstr s f [f.a] fun x fm a _ _ =>
    divValue fm (rndOf x f) f.sat (flushBit x.t.mode f.pack.toNat) (fpConst fm 1) a

/-- An approximate function (R203, R204). -/
def approxInstr (s : State) (f : FX) (fn : Nat) : Out :=
  fpInstr s f [f.a] fun x fm a _ _ => approxFn fm f.pack.toNat fn f.sat (flushBit x.t.mode f.pack.toNat) a

/-- `frsq` (R203). -/
def execFrsq (f : FX) (s : State) : Out := approxInstr s f 0
/-- `fexp2` (R203). -/
def execFexp2 (f : FX) (s : State) : Out := approxInstr s f 1
/-- `flog2` (R203). -/
def execFlog2 (f : FX) (s : State) : Out := approxInstr s f 2
/-- `fsin` (R203). -/
def execFsin (f : FX) (s : State) : Out := approxInstr s f 3
/-- `fcos` (R203). -/
def execFcos (f : FX) (s : State) : Out := approxInstr s f 4
/-- `ftanh` (R203). -/
def execFtanh (f : FX) (s : State) : Out := approxInstr s f 5

/-! ## Conversions -/

/-- A conversion (R195): g takes mode, random operand and source element. The c operand seeds mode 110 (R206). -/
def cvtInstr (s : State) (f : FX) (src : View) (wd : Nat) (g : Ctx → Nat → Nat → Nat → Nat × Nat) : Out :=
  inClause s fun x => use s x (if f.rnd = 6 then [f.a, f.c] else [f.a]) fun s x =>
    let a := operand s x src f.a
    let c := operand s x (.int 64) f.c
    let mode := rndOf x f
    done s x 2 (writeFlagged x f.d fun l => flagElems wd (2 ^ f.pack.toNat) fun i =>
      g x mode (if mode = 6 then mixSeed (laneOf c.vals l) i else 0) (elemAt src.width i (laneOf a.vals l).toNat))

/-- `fcvt` (R207). -/
def execFcvt (f : FX) (s : State) : Out :=
  let sc := bits f.imm.toNat 11 8
  let dc := f.fn.toNat
  cvtInstr s f (.fp sc) (fmtOf dc).w fun x mode r v =>
    convert (fmtOf sc) (fmtOf dc) mode r f.sat (flushBit x.t.mode sc) (flushBit x.t.mode dc) v

/-- `ficvt` (R208). -/
def execFicvt (f : FX) (s : State) : Out :=
  let sc := bits f.imm.toNat 11 8
  let dst := intCode f.fn.toNat
  cvtInstr s f (.fp sc) dst.2 fun x mode r v =>
    let z := flushRaw (fmtOf sc) (flushBit x.t.mode sc) v
    let q := roundInt dst.1 dst.2 mode r f.sat ((fmtOf sc).val z)
    (q.1, q.2 ||| if z = v then 0 else flNX)

/-- `ifcvt` (R209). -/
def execIfcvt (f : FX) (s : State) : Out :=
  let src := intCode (bits f.imm.toNat 11 8)
  let dc := f.fn.toNat
  cvtInstr s f (.int src.2) (fmtOf dc).w fun x mode r v =>
    let n : Int := if src.1 then toSigned src.2 v else v
    fpOutR (fmtOf dc) mode r f.sat (flushBit x.t.mode dc) (.fin (decide (n < 0)) n.natAbs 0)

/-- `frnd` (R210). -/
def execFrnd (f : FX) (s : State) : Out :=
  fpInstr s f [f.a] fun x fm a _ _ =>
    match nanResult fm [a] with
    | some n => n
    | none =>
      match fm.val a with
      | .fin neg m e =>
        let v := roundGrid (rndOf x f) 0 neg m e
        ((fpOut fm 1 false false (.fin neg v.1.natAbs 0)).1, if v.2 then flNX else 0)
      | _ => (a, 0)

/-! ## Classification, scaling, dot products -/

/-- The class bit of an encoding (R211). -/
def classOf (f : FFmt) (v : Nat) : Nat :=
  let n := f.sign v
  if f.isNaN v then (if f.isSNaN v then 256 else 512)
  else if f.isInf v then (if n then 1 else 128)
  else if f.mag v = 0 then (if n then 8 else 16)
  else if f.expo v = 0 then (if n then 4 else 32)
  else if n then 2 else 64

/-- `fclass` (R211): raw bits, no flush, no flag. -/
def execFclass (f : FX) (s : State) : Out :=
  inClause s fun x => use s x [f.a] fun s x =>
    let fm := fmtOf f.pack.toNat
    let a := operand s x (.fp f.pack.toNat) f.a
    done s x 2 (writeLanes x x.cl f.d fun l => zipElems fm.w (fun v _ => classOf fm v) (laneOf a.vals l).toNat 0)

/-- `fscale` (R212): b is an integer operand of the element width. -/
def execFscale (f : FX) (s : State) : Out :=
  inClause s fun x => use s x [f.a, f.b] fun s x =>
    let code := f.pack.toNat
    let fm := fmtOf code
    let fz := flushBit x.t.mode code
    let a := operand s x (.fp code) f.a
    let b := operand s x (.int fm.w) f.b
    done s x 2 (writeFlagged x f.d fun l => flagElems fm.w (64 / fm.w) fun i =>
      let v := fpIn fm fz (absA f) (negA f) (elemAt fm.w i (laneOf a.vals l).toNat)
      match nanResult fm [v] with
      | some n => n
      | none =>
        match fm.val v with
        | .fin neg m e =>
          if m = 0 then (v, 0)
          else fpOut fm (rndOf x f) f.sat fz (.fin neg m (e + toSigned fm.w (elemAt fm.w i (laneOf b.vals l).toNat)))
        | _ => (v, 0))

/-- The sum of two products and an addend, exactly; `none` is invalid (R213). -/
def dotValue (src acc : FFmt) (a0 b0 a1 b1 c : Nat) (mode : Nat) : Option FVal :=
  ((src.val a0).mul (src.val b0)).bind fun p => ((src.val a1).mul (src.val b1)).bind fun q =>
    (p.add q mode).bind fun r => r.add (acc.val c) mode

/-- `fdot2` (R213). -/
def execFdot2 (f : FX) (s : State) : Out :=
  inClause s fun x => use s x [f.a, f.b, f.c] fun s x =>
    let code := f.pack.toNat
    let src := fmtOf code
    let ac := if code = 1 then 0 else 1
    let acc := fmtOf ac
    let fz := flushBit x.t.mode code
    let fza := flushBit x.t.mode ac
    let a := operand s x (.fp code) f.a
    let b := operand s x (.fp code) f.b
    let c := operand s x (.fp ac) f.c
    done s x 2 (writeFlagged x f.d fun l => flagElems acc.w (64 / acc.w) fun j =>
      let av (k : Nat) : Nat := fpIn src fz false (negA f) (elemAt src.w (2 * j + k) (laneOf a.vals l).toNat)
      let bv (k : Nat) : Nat := fpIn src fz false (negB f) (elemAt src.w (2 * j + k) (laneOf b.vals l).toNat)
      let cv := fpIn acc fza false (negC f) (elemAt acc.w j (laneOf c.vals l).toNat)
      let nans := [av 0, bv 0, av 1, bv 1]
      if nans.any src.isNaN || acc.isNaN cv then
        (acc.canon, if nans.any src.isSNaN || acc.isSNaN cv then flNV else 0)
      else match dotValue src acc (av 0) (bv 0) (av 1) (bv 1) cv (rndOf x f) with
        | none => (acc.canon, flNV)
        | some v => fpOut acc (rndOf x f) f.sat fza v)

end Sys2Proof.Machine
end

