-- ==== Sys2Proof/Machine/CrossLane.lean ====
section
/-!
DEFINITION. The crossbar instructions (R214 to R222).
-/

namespace Sys2Proof.Machine

/-- `perm`: the source lane, source element and zero bit of a selector (R217). -/
def permField (w s : Nat) : Nat × Nat × Bool :=
  (s % 32, (if w = 8 then bits s 7 5 else if w = 16 then bits s 6 5 else if w = 32 then bits s 5 5 else 0),
   w != 8 && s.testBit 8)

/-- `perm` (R217): lanes that are not active supply nothing (R215). -/
def execPerm (f : FX) (s : State) : Out :=
  inClause s fun x => use s x [f.a, f.b] fun s x =>
    let w := packWidth f.pack.toNat
    let a := operand s x (.int w) f.a
    let b := operand s x (.int w) f.b
    done s x 2 (writeLanes x x.cl f.d fun l => word (packElems w (64 / w) fun i =>
      let p := permField w (elemAt w i (laneOf b.vals l).toNat)
      if p.2.2 || !x.live.getLsbD p.1 then 0 else elemAt w p.2.1 (laneOf a.vals p.1).toNat))

/-- The width of the segments of an imm12 (R216). -/
def segWidth (imm : Nat) : Nat := 2 ^ (5 - imm % 8)

/-- The lowest lane of a lane's segment (R216). -/
def segBase (width l : Nat) : Nat := l - l % width

/-- `shfl` with a source-lane rule: lane, width, distance to source lane, where valid (R218). -/
def shuffle (s : State) (f : FX) (src : Nat → Nat → Nat → Option Nat) : Out :=
  inClause s fun x => use s x [f.a, f.b] fun s x =>
    let w := segWidth f.imm.toNat
    done s x 2 (writeLanes x x.cl f.d fun l =>
      match src l w (word64 s x f.b l).toNat with
      | some m => if x.live.getLsbD m then word64 s x f.a m else word64 s x f.a l
      | none => word64 s x f.a l)

/-- `shfl.idx` (R218). -/
def execShflIdx (f : FX) (s : State) : Out := shuffle s f fun l w d => some (segBase w l + d % w)
/-- `shfl.up` (R218). -/
def execShflUp (f : FX) (s : State) : Out :=
  shuffle s f fun l w d => if d < w && segBase w l + d ≤ l then some (l - d) else none
/-- `shfl.down` (R218). -/
def execShflDown (f : FX) (s : State) : Out :=
  shuffle s f fun l w d => if d < w && l + d < segBase w l + w then some (l + d) else none
/-- `shfl.xor` (R218). -/
def execShflXor (f : FX) (s : State) : Out :=
  shuffle s f fun l w d => some (segBase w l + ((l - segBase w l) ^^^ (d % w)))

/-- The predicate a ballot or vote collects: q and negate in imm12 (R219). -/
def votePred (x : Ctx) (f : FX) (l : Nat) : Bool := predOf x.t (f.imm.toNat % 8) l != f.imm.getLsbD 3

/-- `ballot` (R219). -/
def execBallot (f : FX) (s : State) : Out :=
  inClause s fun x =>
    let m := maskOf fun l => x.live.getLsbD l && votePred x f l
    done s x 2 (writeLanes x x.cl f.d fun _ => m.zeroExtend 64)

/-- `ballot.plane` (R219). -/
def execBallotPlane (f : FX) (s : State) : Out :=
  inClause s fun x => use s x [f.a, f.c] fun s x =>
    let j := f.imm.toNat % 64
    done s x 2 (writeLanes x x.cl f.d fun l =>
      let m := maskOf fun m => x.live.getLsbD m && (word64 s x f.c l).getLsbD m && (word64 s x f.a m).getLsbD j
      word (m.toNat + popcount 32 m.toNat * 2 ^ 32))

/-- A vote's 1 or 0 in every active lane (R220). -/
def voteResult (s : State) (x : Ctx) (f : FX) (b : Bool) : Out :=
  done s x 2 (writeLanes x x.cl f.d fun _ => if b then 1 else 0)

/-- `vote.all` (R220). -/
def execVoteAll (f : FX) (s : State) : Out :=
  inClause s fun x => voteResult s x f ((maskLanes x.live).all (votePred x f))
/-- `vote.any` (R220). -/
def execVoteAny (f : FX) (s : State) : Out :=
  inClause s fun x => voteResult s x f ((maskLanes x.live).any (votePred x f))
/-- `vote.uni` (R220). -/
def execVoteUni (f : FX) (s : State) : Out :=
  inClause s fun x => use s x [f.a] fun s x =>
    let vs := (maskLanes x.live).map (word64 s x f.a)
    voteResult s x f (vs.all (· == vs.headD 0))

/-! ## Reductions and scans -/

/-- One operation of R221: width of its elements, identity element, and combine with flags. -/
structure Combine where
  w : Nat
  ident : Nat
  op : Nat → Nat → Nat × Nat

/-- Combines elements independently. -/
def combineElems (c : Combine) (a b : Word × Nat) : Word × Nat :=
  let r := flagElems c.w (64 / c.w) fun i => c.op (elemAt c.w i a.1.toNat) (elemAt c.w i b.1.toNat)
  (r.1, a.2 ||| b.2 ||| r.2)

/-- Combines values in order; the first starts the run. -/
def runCombine (c : Combine) (vs : List Word) : Word × Nat :=
  match vs with
  | [] => (replicateElem c.w c.ident, 0)
  | v :: r => r.foldl (fun a u => combineElems c a (u, 0)) (v, 0)

/-- The lanes a lane's reduction or scan covers, ascending (R221). -/
def scanLanes (live : LaneMask) (width l : Nat) (scan excl : Bool) : List Nat :=
  (maskLanes live).filter fun m =>
    segBase width m == segBase width l && (!scan || (if excl then decide (m < l) else decide (m ≤ l)))

/-- `lred` and `lscan` (R221). -/
def reduce (s : State) (f : FX) (scan fp : Bool) (c : Ctx → Combine) : Out :=
  inClause s fun x => use s x [f.a] fun s x =>
    let view : View := if fp then .fp f.pack.toNat else .int (packWidth f.pack.toNat)
    let a := operand s x view f.a
    let excl := scan && f.imm.getLsbD 3
    done s x 2 (writeFlagged x f.d fun l =>
      runCombine (c x) ((scanLanes x.live (segWidth f.imm.toNat) l scan excl).map (laneOf a.vals)))

/-- An integer combine (R221). -/
def intCombine (f : FX) (ident : Nat → Nat) (op : Nat → Nat → Nat → Nat) : Ctx → Combine := fun _ =>
  let w := packWidth f.pack.toNat
  { w, ident := ident w, op := fun a b => (op w a b, 0) }

/-- A floating combine (R221): both operands are read through `fp_in`. -/
def fpCombine (f : FX) (ident : FFmt → Nat) (op : Ctx → FFmt → Nat → Nat → Nat × Nat) : Ctx → Combine := fun x =>
  let fm := fmtOf f.pack.toNat
  let fz := flushBit x.t.mode f.pack.toNat
  { w := fm.w, ident := ident fm, op := fun a b => op x fm (fpIn fm fz false false a) (fpIn fm fz false false b) }

/-- The combine of add (R221). -/
def combineAdd (f : FX) : Ctx → Combine := intCombine f (fun _ => 0) fun w a b => (a + b) % 2 ^ w
/-- The combine of mins (R221). -/
def combineMins (f : FX) : Ctx → Combine := intCombine f (fun w => 2 ^ (w - 1) - 1) fun w a b => if toSigned w b < toSigned w a then b else a
/-- The combine of minn (R221). -/
def combineMinn (f : FX) : Ctx → Combine := intCombine f (fun w => 2 ^ w - 1) fun _ a b => min a b
/-- The combine of maxs (R221). -/
def combineMaxs (f : FX) : Ctx → Combine := intCombine f (fun w => 2 ^ (w - 1)) fun w a b => if toSigned w a < toSigned w b then b else a
/-- The combine of maxn (R221). -/
def combineMaxn (f : FX) : Ctx → Combine := intCombine f (fun _ => 0) fun _ a b => max a b
/-- The combine of and (R221). -/
def combineAnd (f : FX) : Ctx → Combine := intCombine f (fun w => 2 ^ w - 1) fun _ a b => a &&& b
/-- The combine of or (R221). -/
def combineOr (f : FX) : Ctx → Combine := intCombine f (fun _ => 0) fun _ a b => a ||| b
/-- The combine of xor (R221). -/
def combineXor (f : FX) : Ctx → Combine := intCombine f (fun _ => 0) fun _ a b => a ^^^ b
/-- The combine of fadd (R221). -/
def combineFadd (f : FX) : Ctx → Combine := fpCombine f (fun _ => 0) fun x fm a b => chainValue .add true (rndOf x f) false fm (flushBit x.t.mode f.pack.toNat) a b 0
/-- The combine of fmin (R221). -/
def combineFmin (f : FX) : Ctx → Combine := fpCombine f (fun fm => fm.infMag) fun _ fm a b => minMax true fm a b
/-- The combine of fmax (R221). -/
def combineFmax (f : FX) : Ctx → Combine := fpCombine f (fun fm => fm.signBit true + fm.infMag) fun _ fm a b => minMax false fm a b
/-- `lred.add` (R221). -/
def execLredAdd (f : FX) (s : State) : Out := reduce s f false false (combineAdd f)
/-- `lscan.add` (R221). -/
def execLscanAdd (f : FX) (s : State) : Out := reduce s f true false (combineAdd f)
/-- `lred.mins` (R221). -/
def execLredMins (f : FX) (s : State) : Out := reduce s f false false (combineMins f)
/-- `lscan.mins` (R221). -/
def execLscanMins (f : FX) (s : State) : Out := reduce s f true false (combineMins f)
/-- `lred.minn` (R221). -/
def execLredMinn (f : FX) (s : State) : Out := reduce s f false false (combineMinn f)
/-- `lscan.minn` (R221). -/
def execLscanMinn (f : FX) (s : State) : Out := reduce s f true false (combineMinn f)
/-- `lred.maxs` (R221). -/
def execLredMaxs (f : FX) (s : State) : Out := reduce s f false false (combineMaxs f)
/-- `lscan.maxs` (R221). -/
def execLscanMaxs (f : FX) (s : State) : Out := reduce s f true false (combineMaxs f)
/-- `lred.maxn` (R221). -/
def execLredMaxn (f : FX) (s : State) : Out := reduce s f false false (combineMaxn f)
/-- `lscan.maxn` (R221). -/
def execLscanMaxn (f : FX) (s : State) : Out := reduce s f true false (combineMaxn f)
/-- `lred.and` (R221). -/
def execLredAnd (f : FX) (s : State) : Out := reduce s f false false (combineAnd f)
/-- `lscan.and` (R221). -/
def execLscanAnd (f : FX) (s : State) : Out := reduce s f true false (combineAnd f)
/-- `lred.or` (R221). -/
def execLredOr (f : FX) (s : State) : Out := reduce s f false false (combineOr f)
/-- `lscan.or` (R221). -/
def execLscanOr (f : FX) (s : State) : Out := reduce s f true false (combineOr f)
/-- `lred.xor` (R221). -/
def execLredXor (f : FX) (s : State) : Out := reduce s f false false (combineXor f)
/-- `lscan.xor` (R221). -/
def execLscanXor (f : FX) (s : State) : Out := reduce s f true false (combineXor f)
/-- `lred.fadd` (R221). -/
def execLredFadd (f : FX) (s : State) : Out := reduce s f false true (combineFadd f)
/-- `lscan.fadd` (R221). -/
def execLscanFadd (f : FX) (s : State) : Out := reduce s f true true (combineFadd f)
/-- `lred.fmin` (R221). -/
def execLredFmin (f : FX) (s : State) : Out := reduce s f false true (combineFmin f)
/-- `lscan.fmin` (R221). -/
def execLscanFmin (f : FX) (s : State) : Out := reduce s f true true (combineFmin f)
/-- `lred.fmax` (R221). -/
def execLredFmax (f : FX) (s : State) : Out := reduce s f false true (combineFmax f)
/-- `lscan.fmax` (R221). -/
def execLscanFmax (f : FX) (s : State) : Out := reduce s f true true (combineFmax f)

/-! ## Radix selection -/

/-- The lowest n lanes of a mask. -/
def lowestLanes (m : LaneMask) (n : Nat) : LaneMask :=
  let ls := (maskLanes m).take n
  maskOf fun l => ls.contains l

/-- One narrowing step (R222): candidates C in [31:0], chosen lanes D in [63:32]. -/
def rselStep (fin : Bool) (k : Nat) (st plane : Word) : Word :=
  let c : LaneMask := st.truncate 32
  let d : LaneMask := (st >>> 32).truncate 32
  let ones := plane.truncate 32 &&& c
  let nd := popcount 32 d.toNat
  let r :=
    if fin then (d ||| lowestLanes c (k - nd), 0)
    else if nd + popcount 32 c.toNat > k then
      if nd + popcount 32 ones.toNat ≥ k then (d, ones) else (d ||| ones, c &&& ~~~ones)
    else (d, c)
  word (r.1.toNat * 2 ^ 32 + r.2.toNat)

/-- `rsel` (R222). -/
def execRsel (f : FX) (s : State) : Out :=
  inClause s fun x => use s x [f.a, f.b] fun s x =>
    done s x 2 (writeLanes x x.cl f.d fun l => rselStep false (f.imm.toNat % 64) (word64 s x f.a l) (word64 s x f.b l))

/-- `rsel.fin` (R222). -/
def execRselFin (f : FX) (s : State) : Out :=
  inClause s fun x => use s x [f.a, f.b] fun s x =>
    done s x 2 (writeLanes x x.cl f.d fun l => rselStep true (f.imm.toNat % 64) (word64 s x f.a l) (word64 s x f.b l))

end Sys2Proof.Machine
end

