-- ==== Sys2Proof/Machine/LoadStore.lean ====
section
/-!
DEFINITION. Loads, stores, prefetch, line control (R347 to R353), `spill` and `fill` (R134 to R136), `bind`, `unbind` and
fences (R374 to R377).
-/

namespace Sys2Proof.Machine

/-! ## Loads -/

/-- The address operand's form where the load is accepted as a deferred load (R148). -/
def deferredForm (x : Ctx) (f : FM) : Option Reg :=
  if f.ord ≠ 0 || x.cl.hdr.strict then none
  else match f.d, regOperand x f.a with
    | .x _, some r => if intForm r && !foundBlocking x r then some r else none
    | _, _ => none

/-- Lanes of a deferred load that translate at the start: their address scale is 0 (R149). -/
def knownLanes (x : Ctx) (r : Reg) : LaneMask := x.live &&& ~~~r.unknown &&& ~~~pendMask r

/-- The check of a deferred load. -/
def checkDeferred (s : State) (x : Ctx) (f : FM) (r : Reg) (size : Nat) : Out :=
  let lanes := knownLanes x r
  checked x (reach s x .read size size (maskLanes lanes) fun l => laneOf r.vals l + memOffset f size) 2 fun s x cl =>
    { writeD x cl f.d (freshForm x.live (nextSymbol s x + cl.needSyms)) with
      needSyms := cl.needSyms + 1, needDeferred := cl.needDeferred + (if lanes = x.live then 0 else 1) }

/-- A deferred load's symbol: the address form of its pending lanes; lanes whose address is faulted take the fault at
once (R149, R154). -/
def deferredSymbol (s : State) (x : Ctx) (f : FM) (r : Reg) (size : Nat) (y : Symbol) : Symbol :=
  let bad := faultedIn s x.core r &&& x.live
  let recs := (maskLanes bad).map fun l => faultRecord s x.core r l
  { y with dep := some r.sym,
           depScale := (mkLanes fun l => if (pendMask r &&& x.live).getLsbD l then laneOf r.scale l else 0),
           depOff := (mkLanes fun l => laneOf r.vals l + memOffset f size), offset := memOffset f size, faulted := bad,
           causes := recs.map (fun q => (q.1, q.2.1)), addrs := recs.map fun q => (q.1, q.2.2) }

/-- `ld` (R350, R148). -/
def execLd (f : FM) (s : State) : Out :=
  inClause s fun x =>
    let ty := f.ty.toNat
    let size := typeWidth ty / 8
    if x.live = 0 then done s x 2 x.cl
    else match deferredForm x f with
      | some r =>
        if checking x then checkDeferred s x f r size
        else
          let y := deferredSymbol s x f r size { blankSymbol x (.element ty) x.live with locs := found x }
          let id := nextSymbol s x
          let q := takeSymbol s x y
          done q.1 q.2 2 (writeD q.2 q.2.cl f.d (freshForm x.live id))
      | none => use s x [f.a] fun s x =>
        let addr := memAddr s x f size
        if checking x then
          checked x (reach s x .read size size (maskLanes (addressed s x f.a)) addr) 2 fun s x cl =>
            { writeD x cl f.d (freshForm x.live (nextSymbol s x + cl.needSyms)) with needSyms := cl.needSyms + 1 }
        else
          let y := { blankSymbol x (.element ty) x.live with
                     locs := found x, acq := acquireScope f, ptrs := lanePtrs s x addr }
          let id := nextSymbol s x
          let q := takeSymbol s x y
          done q.1 q.2 2 (writeD q.2 q.2.cl f.d (freshForm x.live id))

/-- The half of a pair that a k destination of `ld2` takes, of the lowest active lane; it is never pending (R138, R350). -/
def writeHalf (x : Ctx) (cl : Clause) (o : Operand) (ty half : Nat) (pending : Reg) (bs : List Byte) : Clause :=
  if o.isK then writeLanes x cl o fun _ => extElem ty (leNat ((bs.drop (typeWidth ty / 8 * half)).take (typeWidth ty / 8)))
  else writeD x cl o pending

/-- `ld2` with k destinations, at the lowest active lane: the clause waits until the value can be read (R138). -/
def pairInline (s : State) (x : Ctx) (f : FM) (size : Nat) (k : State → List Byte → Out) : Out :=
  if !(f.d.isK || f.e.isK) then k s []
  else match (lowLane x.live).bind fun b => (tabGet? (found x) b).map fun l => (b, l) with
    | none => k s []
    | some (b, l) =>
      settle s x (inlineRevoked s x [(b, l)]) 0 [] fun s x =>
      if !inlineReady s x [(l, size)] then waitHere s
      else
        let r := readOwn s x.core x.t x.t.seq l size
        let s := noticePoison r.1 x.t l size
        k (if f.d.isK && f.e.isK then acquireObjects s x.core (acquireScope f) [objectPtr s x (memAddr s x f size b)] else s) r.2

/-- `ld2` (R350): one access, one symbol for each x destination (R138). -/
def execLd2 (f : FM) (s : State) : Out :=
  inClause s fun x =>
    let ty := f.ty.toNat
    let size := 2 * (typeWidth ty / 8)
    if x.live = 0 then done s x 2 x.cl
    else use s x [f.a] fun s x =>
      let addr := memAddr s x f size
      if checking x then
        checked x (reach s x .read size size (maskLanes (addressed s x f.a)) addr) 2 fun s x cl =>
          let n := nextSymbol s x + cl.needSyms
          if f.d.isK && f.e.isK then cl
          else { writeHalf x (writeHalf x cl f.d ty 0 (freshForm x.live n) []) f.e ty 1 (freshForm x.live (n + 1)) [] with
                 needSyms := cl.needSyms + 2 }
      else pairInline s x f size fun s bs =>
        if f.d.isK && f.e.isK then done s x 2 (writeHalf x (writeHalf x x.cl f.d ty 0 emptyReg bs) f.e ty 1 emptyReg bs)
        else
        let id := nextSymbol s x
        let lower := { blankSymbol x (.lower ty (id + 1)) x.live with
                       locs := found x, acq := acquireScope f, ptrs := lanePtrs s x addr }
        let q := takeSymbol s x lower
        let r := takeSymbol q.1 q.2 { blankSymbol x (.upper ty id) x.live with locs := found x }
        let cl := writeHalf r.2 r.2.cl f.d ty 0 (freshForm x.live id) bs
        done r.1 r.2 2 (writeHalf r.2 cl f.e ty 1 (freshForm x.live (id + 1)) bs)

/-- `ldk` (R350): the value of the lowest active lane, read before the clause retires. -/
def execLdk (f : FM) (s : State) : Out :=
  inClause s fun x =>
    let ty := f.ty.toNat
    let size := typeWidth ty / 8
    match lowLane x.live with
    | none => done s x 2 x.cl
    | some b => use s x [f.a] fun s x =>
      let ptr := memAddr s x f size b
      if checking x then checked x (reachLow s x f.a b fun s => reach s x .read size size [b] fun _ => ptr) 2 fun _ _ cl => cl
      else match tabGet? (found x) b with
        | none => done s x 2 x.cl
        | some l =>
          settle s x (inlineRevoked s x [(b, l)]) 0 [] fun s x =>
          if inlineReady s x [(l, size)] then
            let r := readOwn s x.core x.t x.t.seq l size
            let s := noticePoison r.1 x.t l size
            let s := acquireObjects s x.core (acquireScope f) [objectPtr s x ptr]
            done s x 2 (writeLanes x x.cl f.d fun _ => extElem ty (leNat r.2))
          else waitHere s

/-! ## Stores -/

/-- A store's shared form: access size, and the bytes of a lane. -/
def storeLanes (f : FM) (s : State) (ops : List Operand) (size : Nat) (bytes : State → Ctx → Nat → List Byte) : Out :=
  inClause s fun x =>
    if x.live = 0 then done s x 2 x.cl
    else use s x (f.a :: ops) fun s x =>
      let addr := memAddr s x f size
      if checking x then
        checked x (reach s x .write size size (maskLanes (addressed s x f.a)) addr) 2 fun _ x cl =>
          countStores x (releaseScope f) (locsOf (tabGet cl.xlat x.cl.cursor [])) cl
      else
        performStores s x 2 (releaseScope f) ((maskLanes x.live).filterMap fun l =>
          (tabGet? (found x) l).map fun loc => (loc, bytes s x l))

/-- `st` (R351). -/
def execSt (f : FM) (s : State) : Out :=
  let ty := f.ty.toNat
  storeLanes f s [f.d] (typeWidth ty / 8) fun s x l => leBytes (typeWidth ty / 8) (dataOf s x ty f.d l)

/-- `st2` (R351). -/
def execSt2 (f : FM) (s : State) : Out :=
  let ty := f.ty.toNat
  let n := typeWidth ty / 8
  storeLanes f s [f.d, f.e] (2 * n) fun s x l => leBytes n (dataOf s x ty f.d l) ++ leBytes n (dataOf s x ty f.e l)

/-- `stk` (R351): the k register at the lowest active lane's address. -/
def execStk (f : FM) (s : State) : Out :=
  inClause s fun x =>
    let ty := f.ty.toNat
    let size := typeWidth ty / 8
    match lowLane x.live with
    | none => done s x 2 x.cl
    | some b => use s x [f.a] fun s x =>
      if checking x then
        checked x (reachLow s x f.a b fun s => reach s x .write size size [b] (memAddr s x f size)) 2 fun _ x cl =>
          countStores x (releaseScope f) (locsOf (tabGet cl.xlat x.cl.cursor [])) cl
      else
        performStores s x 2 (releaseScope f)
          ((locsOf (found x)).map fun loc => (loc, leBytes size (dataOf s x ty f.d b)))

/-! ## Prefetch and line control -/

/-- A prefetch of one sector, where it has an effect (R352). -/
def prefetch (s : State) (core : Nat) (l : Loc) : State :=
  if !cached l || l.space == 1 || uAnywhere s l.line then s
  else
    match lineAt s core l.line with
    | some n => if n.valid.getLsbD (l.key / 64 % 8) then s else loadSector s core l
    | none => loadSector s core l

/-- `pf` (R352): lanes whose check fails do nothing (R348). -/
def execPf (f : FM) (s : State) : Out :=
  inClause s fun x =>
    if x.live = 0 then done s x 2 x.cl
    else use s x [f.a] fun s x =>
      let addr (l : Nat) : Word := word ((memAddr s x f 64 l).toNat / 64 * 64)
      if checking x then
        let r := reach s x .read 64 0 (maskLanes (addressed s x f.a)) addr
        done r.st x 2 { x.cl with xlat := tabPut x.cl.xlat x.cl.cursor r.ok }
      else if x.t.acquires.isEmpty then
        done ((locsOf (found x)).foldl (fun s l => prefetch s x.core l) s) x 2 x.cl
      else waitHere s

/-- `cl` with a function (R353): one entry for each distinct line. -/
def lineControl (fn : Nat) (f : FM) (s : State) : Out :=
  inClause s fun x =>
    if x.live = 0 then done s x 2 x.cl
    else use s x [f.a] fun s x =>
      let addr (l : Nat) : Word := word ((memAddr s x f 512 l).toNat / 512 * 512)
      if checking x then
        let r := reach s x .read 512 0 (maskLanes (addressed s x f.a)) addr
        let fails := r.fails.map fun q =>
          (q.1, q.2.1, if q.2.2 = addr q.1 then memAddr s x f 512 q.1 else q.2.2)
        checked x { r with fails } 2 fun _ x cl => countOps 512 (locsOf (tabGet cl.xlat x.cl.cursor [])) cl
      else performOps s x 2 512 (.cl fn) none (laneOps x (fun _ => 0) fun _ => 0) id

/-- `cl.clean` (R353). -/
def execClClean (f : FM) (s : State) : Out := lineControl 0 f s
/-- `cl.invalidate` (R353). -/
def execClInvalidate (f : FM) (s : State) : Out := lineControl 1 f s
/-- `cl.collapse` (R353). -/
def execClCollapse (f : FM) (s : State) : Out := lineControl 2 f s
/-- `cl.writeback` (R353). -/
def execClWriteback (f : FM) (s : State) : Out := lineControl 3 f s

/-! ## Register images -/

/-- R135's checks before translation: alignment and space. -/
def imageSpaceOk (ptr : Word) : Option Nat :=
  if ptr.toNat % 8 ≠ 0 then some 0x03
  else if bits ptr.toNat 63 60 ∈ [0, 1, 14, 15] then none
  else some 0x20

/-- The range of an image, checked for the lowest lane (R135). -/
def reachImage (s : State) (x : Ctx) (kind : Access) (b : Nat) (ptr : Word) (len : Nat) : Reach :=
  match imageSpaceOk ptr with
  | some c => ⟨s, [], [(b, c, ptr)], 0⟩
  | none => reachRange s x kind b ptr len

/-- `spill` (R135, R136). -/
def execSpill (f : FM) (s : State) : Out :=
  inClause s fun x =>
    match lowLane x.live with
    | none => done s x 2 x.cl
    | some b => use s x [f.a, f.d] fun s x =>
      let img := imageOf x.live (operand s x (.int 64) f.d).vals
      let ptr := memAddr s x f 8 b
      if checking x then
        checked x (reachLow s x f.a b fun s => reachImage s x .write b ptr img.length) 2 fun _ x cl =>
          countStores x none (locsOf (tabGet cl.xlat x.cl.cursor [])) cl
      else
        performStores s x 2 none ((pieces ptr img.length).filterMap fun p =>
          (tabGet? (found x) p.1).map fun loc => (loc, (img.drop p.1).take p.2))

/-- `fill` (R135, R136): the register becomes pending on one symbol. -/
def execFill (f : FM) (s : State) : Out :=
  inClause s fun x =>
    match lowLane x.live with
    | none => done s x 2 x.cl
    | some b => use s x [f.a] fun s x =>
      let ptr := memAddr s x f 8 b
      if checking x then
        checked x (reachLow s x f.a b fun s => reachImage s x .read b ptr 264) 2 fun s x cl =>
          { writeD x cl f.d (freshForm x.live (nextSymbol s x + cl.needSyms)) with needSyms := cl.needSyms + 1 }
      else
        let id := nextSymbol s x
        let q := takeSymbol s x { blankSymbol x .image x.live with locs := found x, ptrs := [(0, ptr)] }
        done q.1 q.2 2 (writeD q.2 q.2.cl f.d (freshForm x.live id))

/-! ## Bindings and fences -/

/-- A request kept for the arbiter's step at the end of the translate phase (R376). -/
def requestBind (f : FM) (s : State) (unbind : Bool) (ops : List Operand) : Out :=
  inClause s fun x =>
    match lowLane x.live with
    | none => done s x 2 x.cl
    | some b => use s x ops fun s x =>
      if checking x then
        done s x 2 { x.cl with binds := x.cl.binds ++
          [{ unbind, cursor := x.cl.cursor, base := word64 s x f.a b, len := word64 s x f.d b, obj := word64 s x f.e b }] }
      else done s x 2 x.cl

/-- `bind` (R376). -/
def execBind (f : FM) (s : State) : Out := requestBind f s false [f.a, f.d, f.e]
/-- `unbind` (R376). -/
def execUnbind (f : FM) (s : State) : Out := requestBind f s true [f.a]

/-- A fence waits where it stands, then applies every queued invalidation where it must (R374, R377). -/
def fenceHere (s : State) (ready : Ctx → Bool) (applies : Bool) : Out :=
  inClause s fun x =>
    if checking x || x.live = 0 then done s x 2 x.cl
    else afterDeferreds s x <|
      if loadsDone s x.core x.pos x.t.seq && x.t.acquires.isEmpty && ready x then
        done (if applies then applyInvals s x.core (fun _ => true) else s) x 2 x.cl
      else waitHere s

/-- `fence.mem` (R374). -/
def execFenceMem (f : FM) (s : State) : Out :=
  fenceHere s (fun x => entriesDone s x f.scope.toNat) (f.scope != 0)

/-- `fence.eng` (R374). -/
def execFenceEng (_f : FM) (s : State) : Out := fenceHere s (fun _ => true) true

end Sys2Proof.Machine
end

