-- ==== Sys2Proof/Machine/ManagementEvents.lean ====
section
/-!
DEFINITION. Writes of the control node to the management registers (R478, R480), partition keys (R432, R346, R321), invalidations
(R388, R407), and queue-pair commands (R479).
-/

namespace Sys2Proof.Machine

/-! ## Registers -/

/-- PWRCTL.LIMIT, held between 1,000 and 3,600 W (R480). -/
def clampLimit (v : Nat) : Nat := max 1000 (min 3600 (bits v 47 32))

/-- A key table word: keys 4n to 4n + 3 (R478). -/
def putKeys (t : Tab (BitVec 16)) (n v : Nat) : Tab (BitVec 16) :=
  (List.range 4).foldl (fun t i => tabPut t (4 * n + i) (BitVec.ofNat 16 (bits v (16 * i + 15) (16 * i)))) t

/-- MIGPOL's writable fields (R459). -/
def migpolWord (v : Nat) : Word := word (bits v 63 63 * 2 ^ 63 + bits v 47 32 * 2 ^ 32 + bits v 31 24 * 2 ^ 24 + bits v 15 0)

/-- TRIGCFG's stored fields (R478). -/
def trigcfgWord (v : Nat) : Word := word (bits v 25 25 * 2 ^ 25 + bits v 24 16 * 2 ^ 16 + bits v 5 0)

/-- A per-core register of R478: TRAPVEC, SPILLBASE or WDOGCFG, stored as its control register is (R396). -/
def putCoreReg (s : State) (off v : Nat) : State :=
  let core := (off - 0x8000) / 0x40
  let r := (off - 0x8000) % 0x40
  if r = 0 then storeCsr s core 64 0x045 (word v)
  else if r = 8 then storeCsr s core 64 0x049 (word v)
  else if r = 0x10 then storeCsr s core 64 0x082 (word v)
  else s

/-- `THERMSTAT` (R481). -/
def thermstat (m : Mgmt) : Nat :=
  m.tmax % 256 * 2 ^ 40 + m.power % 2 ^ 16 * 2 ^ 16 + m.held % 256 * 256 + (if m.tmax ≥ 100 then 2 else 0) + (if m.limiting then 1 else 0)

/-- A word of the window onto a die's black box (R450, R478); which records it shows is a free value. -/
def boxWord (s : State) (die at_ : Nat) : Nat :=
  let box := (dieAt s die).bbox
  leNat (((box.getD ((Config.boxWindow die s.moves + at_ / 32) % 2048) []).drop (at_ % 32)).take 8)

/-- A per-core register of R478 as the control node reads it. -/
def coreReg (s : State) (off : Nat) : Word :=
  let k := coreOf s (off / 0x40)
  if off % 0x40 = 0 then k.trapvec else if off % 0x40 = 8 then k.spillbase else if off % 0x40 = 0x10 then k.wdog else 0

/-- What the control node reads at an offset of the management space (R478): write-only registers and fields, Reserved fields (R3, R4) and
offsets not listed read zero. -/
def managementRead (s : State) (off : Nat) : Word :=
  let m := s.mgmt
  if off % 8 != 0 then 0
  else if off = 0 then word (m.boot % 256)
  else if off = 0x0008 then word (m.powerLimit % 2 ^ 16 * 2 ^ 32)
  else if off = 0x0010 then word (thermstat m)
  else if 0x0100 ≤ off && off < 0x0140 then tabGet m.lqdesc ((off - 0x0100) / 8) 0
  else if off = 0x0200 then m.ptroot
  else if off = 0x0208 then m.hostwin
  else if 0x0210 ≤ off && off < 0x0230 then
    word ((List.range 4).foldr (fun i n => (tabGet m.keytab (4 * ((off - 0x0210) / 8) + i) 0).toNat + 2 ^ 16 * n) 0)
  else if 0x0300 ≤ off && off < 0x0320 then (dieAt s ((off - 0x0300) / 8)).migpol
  else if off = 0x0338 then word (m.debugsel % 2 ^ 32)
  else if 0x0380 ≤ off && off < 0x0400 then tabGet m.trigcfg ((off - 0x0380) / 8) 0
  else if 0x1000 ≤ off && off < 0x5000 then word (boxWord s ((off - 0x1000) / 0x1000) (off % 0x1000))
  else if 0x8000 ≤ off && off < 0xC000 then coreReg s (off - 0x8000)
  else 0

/-- A management register that holds what is written; every other offset ignores the write (R478). -/
def putReg (s : State) (off v : Nat) : State :=
  let m := s.mgmt
  if off % 8 != 0 then s
  else if off = 0x0008 then { s with mgmt := { m with powerLimit := clampLimit v } }
  else if 0x0100 ≤ off && off < 0x0140 then
    let q := (off - 0x0100) / 8
    { s with mgmt := { m with lqdesc := tabPut m.lqdesc q (word v) } }
  else if off = 0x0200 then { s with mgmt := { m with ptroot := word (v / 4096 * 4096) } }
  else if off = 0x0208 then { s with mgmt := { m with hostwin := word v } }
  else if 0x0210 ≤ off && off < 0x0230 then { s with mgmt := { m with keytab := putKeys m.keytab ((off - 0x0210) / 8) v } }
  else if 0x0300 ≤ off && off < 0x0320 then modDie s ((off - 0x0300) / 8) fun d => { d with migpol := migpolWord v }
  else if off = 0x0338 then { s with mgmt := { m with debugsel := bits v 31 0 } }
  else if 0x0380 ≤ off && off < 0x0400 then { s with mgmt := { m with trigcfg := tabPut m.trigcfg ((off - 0x0380) / 8) (trigcfgWord v) } }
  else if 0x8000 ≤ off && off < 0xC000 then putCoreReg s off v
  else s

/-! ## Partition keys -/

/-- Update-only copies here of other packages' lines under a key, by core and line (R346). -/
def fencedCopies (s : State) (key : Nat) : List (Nat × Nat) :=
  s.cores.flatMap fun c => (c.2.l1.filter fun e =>
    decide (2 ^ 131 ≤ e.1 * 512) && (isU e.2.st || isEvicting e.2.st) && e.2.key == key).map fun e => (c.1, e.1)

/-- They are discarded without merging, as are the copies of this package's lines that peers hold under the key; the event names their
lines (R346). -/
def dropFenced (s : State) (key : Nat) : State :=
  let away (n : Nat) : Bool := decide (2 ^ 131 ≤ n * 512)
  let copies := fencedCopies s key
  let slices := (s.sliceU.filter fun e => away (e.1 / 4) && e.2.key == key).map fun e => e.1
  let fenced := (s.zethes.peers.filter fun m => m.pair.isSome && m.key == key).map fun m => m.line
  let lines := distinct ((copies.map fun e => e.2) ++ slices.map (fun n => n / 4) ++ fenced)
  let s := copies.foldl (fun s e =>
    dropLine { s with merges := s.merges.filter fun m => m != e,
                      fabric := { s.fabric with mergeSlots := s.fabric.mergeSlots.filter fun m => !(m.1 == e.1 && m.2.1 == e.2) } } e.1 e.2) s
  let s := { s with sliceU := s.sliceU.filter (fun e => !slices.contains e.1),
                    zethes := { s.zethes with partials := s.zethes.partials.filter (fun e => !(fenced.contains e.line && e.key == key)),
                                              peers := s.zethes.peers.filter fun m => m.key != key } }
  lines.foldl (fun s n => send s (.event evRevoked key n 0)) s

/-- Jobs that carry a key end: with 0x38, collectives with 0x84 (R313, R318, R321). -/
def endKeyJobs (s : State) (key : Nat) : State :=
  ((allJobs s).filter fun e => cardKey e.2 == key && (match e.2.st with | .ended _ _ => false | .complete => false | _ => true)).foldl (fun s e =>
    endRevoked s e.1 e.2) s

/-- Packets under a key that wait at the ports are discarded (R430, R432). -/
def dropKeyPackets (s : State) (key : Nat) : State :=
  let keep (p : Packet) : Bool := p.key != key
  { s with zethes := { s.zethes with
      ports := (tabMap s.zethes.ports fun _ q => { q with unacked := q.unacked.filter keep }),
      streams := tabMap s.zethes.streams fun k q => if k ≥ 2 ^ 20 then { q with held := q.held.filter keep } else q } }

/-- KEY_REVOKE (R432, R450). -/
def execKeyRevoke (key : Nat) (s : State) : Out :=
  if key ≥ 2 ^ 16 || s.mgmt.revoked.contains key then .next s
  else
    let s := { s with mgmt := { s.mgmt with revoked := key :: s.mgmt.revoked } }
    let s := (List.range 4).foldl (fun s d => blackBox s d 0 0 0 key) s
    .next (dropKeyPackets (dropFenced (endKeyJobs s key) key) key)

/-- KEY_RESTORE (R478). -/
def execKeyRestore (key : Nat) (s : State) : Out :=
  .next { s with mgmt := { s.mgmt with revoked := s.mgmt.revoked.filter fun k => k != key } }

/-! ## Invalidations -/

/-- TLBINV_ALL (R388, R407). -/
def execTlbinvAll (s : State) : Out := if tlbiQuiet s fun _ => true then .next (invalidateAll s) else .next s

/-- TLBINV_PAGE (R388, R407): a pointer of another space invalidates nothing. -/
def execTlbinvPage (ptr : Nat) (s : State) : Out :=
  if bits ptr 63 52 != 0 && bits ptr 63 52 != 0x100 then .next s
  else if pageQuiet s (bits ptr 51 0) then .next (invalidatePage s (word ptr))
  else .next s

/-- ZRETRAIN (R430, R478): the port is live again, and held streams go on. -/
def execZretrain (port : Nat) (s : State) : Out :=
  if port ≥ 96 then .next s
  else
    let s := setPort s port { portOf s port with dead := false, replays := [] }
    let s := { s with mgmt := { s.mgmt with deadPorts := s.mgmt.deadPorts.filter fun p => p != port } }
    .next ((s.zethes.streams.filter fun e => decide (e.1 ≥ 2 ^ 20)).foldl (fun s e => pump s e.1) s)

/-! ## Queue-pair commands (R479) -/

/-- A command block: its words. -/
abbrev Command := List Word

def cmdWord (c : Command) (i : Nat) : Nat := (c.getD i 0).toNat
def cmdDie (c : Command) : Nat := bits (cmdWord c 0) 9 8
def cmdQp (c : Command) : Nat := bits (cmdWord c 1) 23 0

/-- The reserved fields common to the commands, and the parameters of those that have none. -/
def cmdOk (c : Command) : Bool :=
  let n := bits (cmdWord c 0) 7 0
  bits (cmdWord c 0) 31 10 == 0 && bits (cmdWord c 1) 63 24 == 0 && (n == 2 || n == 3 || cmdWord c 6 == 0)

/-- Writes a command's status, and a result word where it has one, and reports it. -/
def answerCommand (s : State) (ptr : Nat) (c : Command) (status : Nat) (result : Option (Nat × Nat)) : State :=
  let s := (unitStore s (word (ptr + 4)) (leBytes 4 status)).1
  let s := match result with
    | some (off, v) => (unitStore s (word (ptr + off)) (leBytes (if off = 0x38 then 4 else 3) v)).1
    | none => s
  send s (.event evQp (cmdDie c) (bits (cmdWord c 0) 7 0) status)

/-- The block that QPCMD names: for this command, or one that names no command, which gets status 1. -/
def queueCommand (s : State) (ptr code : Nat) (k : State → Command → Out) : Out :=
  if ptr % 64 != 0 || bits ptr 63 52 != 0 || s.mgmt.boot != 5 then .next s
  else match unitBytes s (word ptr) 64 with
    | (t, none) => .next (whole s t)
    | (s, some bs) =>
      let c := wordsOf bs
      let n := bits (cmdWord c 0) 7 0
      if n = 0 || n > 5 then .next (answerCommand s ptr c 1 none)
      else if n != code then .next s
      else if !cmdOk c then .next (answerCommand s ptr c 1 none)
      else k s c

/-- QP_CREATE: the lowest free number of the die; 4,096 queue pairs (R435). -/
def execQpCreate (ptr : Nat) (s : State) : Out :=
  queueCommand s ptr 1 fun s c =>
    let die := cmdDie c
    if !queuePtrOk (word (cmdWord c 2)) || !queuePtrOk (word (cmdWord c 3)) then .next (answerCommand s ptr c 1 none)
    else match (List.range 4096).find? fun n => (tabGet? s.qps (qpKey die n)).isNone with
      | none => .next (answerCommand s ptr c 2 none)
      | some n =>
        let q : QueuePair := { die, send := word (cmdWord c 2), recv := word (cmdWord c 3), remote := 0, remoteQp := 0, mtu := 0,
                               error := false, connected := false, rate := 800, work := [], posted := [], destroying := none }
        .next (answerCommand { s with qps := tabPut s.qps (qpKey die n) q } ptr c 0 (some (8, n)))

/-- QP_CONNECT. -/
def execQpConnect (ptr : Nat) (s : State) : Out :=
  queueCommand s ptr 2 fun s c =>
    let p := cmdWord c 6
    let mtu := bits p 47 32
    match tabGet? s.qps (qpKey (cmdDie c) (cmdQp c)) with
    | none => .next (answerCommand s ptr c 3 none)
    | some q =>
      if bits p 31 24 != 0 || bits p 63 48 != 0 || mtu < 256 || mtu > 4096 then .next (answerCommand s ptr c 1 none)
      else
        let q := { q with remote := cmdWord c 4 + cmdWord c 5 * 2 ^ 64, remoteQp := bits p 23 0, mtu, connected := true }
        .next (answerCommand { s with qps := tabPut s.qps (qpKey (cmdDie c) (cmdQp c)) q } ptr c 0 none)

/-- A remote key not in use. -/
def newKey (s : State) : Nat :=
  let k := Config.rkey s.moves % 2 ^ 32
  (((List.range (s.regionsE.length + 1)).map fun i => (k + i) % 2 ^ 32).find? fun r => (tabGet? s.regionsE r).isNone).getD k

/-- Regions that a die has registered. -/
def regionsOf (s : State) (die : Nat) : Nat := (s.regionsE.filter fun e => e.2.die == die).length

/-- REGION_REGISTER. -/
def execRegionRegister (ptr : Nat) (s : State) : Out :=
  queueCommand s ptr 3 fun s c =>
    let base := cmdWord c 2
    let len := cmdWord c 3
    let p := cmdWord c 6
    if base % 4096 != 0 || bits base 63 52 != 0 || len % 4096 != 0 || bits p 63 2 != 0 then .next (answerCommand s ptr c 1 none)
    else if regionsOf s (cmdDie c) > Config.regionEntries then .next (answerCommand s ptr c 2 none)
    else
      let k := newKey s
      let r : MemRegion := { die := cmdDie c, base := word base, length := len, read := p.testBit 0, write := p.testBit 1 }
      .next (answerCommand { s with regionsE := tabPut s.regionsE k r } ptr c 0 (some (0x38, k)))

/-- REGION_DEREGISTER: remote accesses are whole steps, so none under the key is outstanding. -/
def execRegionDeregister (ptr : Nat) (s : State) : Out :=
  queueCommand s ptr 4 fun s c =>
    let k := bits (cmdWord c 7) 31 0
    match tabGet? s.regionsE k with
    | none => .next (answerCommand s ptr c 3 none)
    | some _ => .next (answerCommand { s with regionsE := tabDel s.regionsE k } ptr c 0 none)

/-- QP_DESTROY: it completes once no work request is outstanding. -/
def execQpDestroy (ptr : Nat) (s : State) : Out :=
  queueCommand s ptr 5 fun s c =>
    let k := qpKey (cmdDie c) (cmdQp c)
    match tabGet? s.qps k with
    | none => .next (answerCommand s ptr c 3 none)
    | some q => .next (finishQp { s with qps := tabPut s.qps k { q with destroying := some (word ptr) } } k)

/-- QPCMD (R479): the command that the block names. -/
def queuePairCommand (ptr : Nat) (s : State) : Out :=
  match (unitBytes s (word ptr) 8).2 with
  | none => execQpCreate ptr s
  | some bs =>
    let n := bits (leNat bs) 7 0
    if n = 2 then execQpConnect ptr s
    else if n = 3 then execRegionRegister ptr s
    else if n = 4 then execRegionDeregister ptr s
    else if n = 5 then execQpDestroy ptr s
    else execQpCreate ptr s

/-! ## Register writes -/

/-- `DEBUGCTL` (R441, R442, R478). -/
def debugCommand (v : Nat) (s : State) : Out :=
  let t := bits v 63 32
  if bits v 2 0 = 1 then execDebugEnable t s
  else if bits v 2 0 = 2 then execDebugDisable t s
  else if bits v 2 0 = 3 then execDebugHaltGroup t s
  else if bits v 2 0 = 4 then execDebugResumeGroup t s
  else .next s

/-- What a write to a write-only register or bit asks for: the event of that name (R478, R480). PWRCTL's OFF goes before its RESET (DESIGN
CHOICE, notes/assumptions/28.md). -/
def writeOnly (s : State) (off v : Nat) : Out :=
  if off % 8 != 0 then .next s
  else if off = 0x0008 then (if v.testBit 0 then execPowerOff s else if v.testBit 1 then execDeviceReset s else .next s)
  else if 0x0140 ≤ off && off < 0x0180 then execLaunchDoorbell ((off - 0x0140) / 8) s
  else if off = 0x0230 then (if v.testBit 16 then execKeyRevoke (bits v 15 0) s else execKeyRestore (bits v 15 0) s)
  else if off = 0x0238 then (if v.testBit 63 then execTlbinvAll s else execTlbinvPage v s)
  else if off = 0x0320 then execZretrain (bits v 6 0) s
  else if off = 0x0328 then execTraprst (bits v 7 0) s
  else if off = 0x0330 then debugCommand v s
  else if off = 0x0340 then (if v.testBit 24 then execBrksetSet v s else execBrksetClear v s)
  else if off = 0x0348 then execDumpreq v s
  else if off = 0x0350 then queuePairCommand v s
  else if 0x0380 ≤ off && off < 0x0400 && v.testBit 63 then execTriggerSend ((off - 0x0380) / 8) s
  else .next s

/-- MANAGEMENT_REGISTER_WRITE (R478, R480): what the register holds is written, and what the write asks for is done. -/
def execManagementRegisterWrite (offset value : Nat) (s : State) : Out :=
  if s.mgmt.powered then writeOnly (putReg s offset value) offset value else .next s

end Sys2Proof.Machine
end

