-- ==== Sys2Proof/Machine/Dispatch.lean ====
section
/-!
DEFINITION. One arm for each constructor of `Instr`: its meaning, or its rejection by name.
-/

namespace Sys2Proof.Machine

def exec (i : Instr) (s : State) : Host.Outcome State Fault Refusal :=
  match i with
  | .gangKill ticket gang reason => Sys2Proof.Machine.execGangKill ticket gang reason s
  | .poisonConsumed ticket gang => Sys2Proof.Machine.execPoisonConsumed ticket gang s
  | .nop => Sys2Proof.Machine.execNop s
  | .add f => Sys2Proof.Machine.execAdd f s
  | .sub f => Sys2Proof.Machine.execSub f s
  | .addi f => Sys2Proof.Machine.execAddi f s
  | .mul f => Sys2Proof.Machine.execMul f s
  | .mulhs f => Sys2Proof.Machine.execMulhs f s
  | .mulhn f => Sys2Proof.Machine.execMulhn f s
  | .mad f => Sys2Proof.Machine.execMad f s
  | .andI f => Sys2Proof.Machine.execAndI f s
  | .orI f => Sys2Proof.Machine.execOrI f s
  | .xorI f => Sys2Proof.Machine.execXorI f s
  | .andn f => Sys2Proof.Machine.execAndn f s
  | .shl f => Sys2Proof.Machine.execShl f s
  | .shr f => Sys2Proof.Machine.execShr f s
  | .sar f => Sys2Proof.Machine.execSar f s
  | .rot f => Sys2Proof.Machine.execRot f s
  | .mins f => Sys2Proof.Machine.execMins f s
  | .minn f => Sys2Proof.Machine.execMinn f s
  | .maxs f => Sys2Proof.Machine.execMaxs f s
  | .maxn f => Sys2Proof.Machine.execMaxn f s
  | .bitClz f => Sys2Proof.Machine.execBitClz f s
  | .bitCtz f => Sys2Proof.Machine.execBitCtz f s
  | .bitPopc f => Sys2Proof.Machine.execBitPopc f s
  | .bitBrev f => Sys2Proof.Machine.execBitBrev f s
  | .bitAbs f => Sys2Proof.Machine.execBitAbs f s
  | .bitNeg f => Sys2Proof.Machine.execBitNeg f s
  | .bitNot f => Sys2Proof.Machine.execBitNot f s
  | .bitSext8 f => Sys2Proof.Machine.execBitSext8 f s
  | .bitSext16 f => Sys2Proof.Machine.execBitSext16 f s
  | .bitSext32 f => Sys2Proof.Machine.execBitSext32 f s
  | .bfe f => Sys2Proof.Machine.execBfe f s
  | .bfi f => Sys2Proof.Machine.execBfi f s
  | .lea f => Sys2Proof.Machine.execLea f s
  | .sel f => Sys2Proof.Machine.execSel f s
  | .divQuos f => Sys2Proof.Machine.execDivQuos f s
  | .divQuon f => Sys2Proof.Machine.execDivQuon f s
  | .divRems f => Sys2Proof.Machine.execDivRems f s
  | .divRemn f => Sys2Proof.Machine.execDivRemn f s
  | .movi f => Sys2Proof.Machine.execMovi f s
  | .moviShifted f => Sys2Proof.Machine.execMoviShifted f s
  | .mov f => Sys2Proof.Machine.execMov f s
  | .cmpEq f => Sys2Proof.Machine.execCmpEq f s
  | .cmpNe f => Sys2Proof.Machine.execCmpNe f s
  | .cmpLts f => Sys2Proof.Machine.execCmpLts f s
  | .cmpLes f => Sys2Proof.Machine.execCmpLes f s
  | .cmpGts f => Sys2Proof.Machine.execCmpGts f s
  | .cmpGes f => Sys2Proof.Machine.execCmpGes f s
  | .cmpLtn f => Sys2Proof.Machine.execCmpLtn f s
  | .cmpLen f => Sys2Proof.Machine.execCmpLen f s
  | .cmpGtn f => Sys2Proof.Machine.execCmpGtn f s
  | .cmpGen f => Sys2Proof.Machine.execCmpGen f s
  | .cmpTst f => Sys2Proof.Machine.execCmpTst f s
  | .cmpTsz f => Sys2Proof.Machine.execCmpTsz f s
  | .plAnd f => Sys2Proof.Machine.execPlAnd f s
  | .plOr f => Sys2Proof.Machine.execPlOr f s
  | .plXor f => Sys2Proof.Machine.execPlXor f s
  | .plAndn f => Sys2Proof.Machine.execPlAndn f s
  | .plOrn f => Sys2Proof.Machine.execPlOrn f s
  | .plFrommask f => Sys2Proof.Machine.execPlFrommask f s
  | .plTomask f => Sys2Proof.Machine.execPlTomask f s
  | .icvt f => Sys2Proof.Machine.execIcvt f s
  | .fadd f => Sys2Proof.Machine.execFadd f s
  | .fsub f => Sys2Proof.Machine.execFsub f s
  | .fmul f => Sys2Proof.Machine.execFmul f s
  | .fma f => Sys2Proof.Machine.execFma f s
  | .fmin f => Sys2Proof.Machine.execFmin f s
  | .fmax f => Sys2Proof.Machine.execFmax f s
  | .fsgnCopy f => Sys2Proof.Machine.execFsgnCopy f s
  | .fsgnCopyneg f => Sys2Proof.Machine.execFsgnCopyneg f s
  | .fsgnXor f => Sys2Proof.Machine.execFsgnXor f s
  | .fcmpEq f => Sys2Proof.Machine.execFcmpEq f s
  | .fcmpNe f => Sys2Proof.Machine.execFcmpNe f s
  | .fcmpLt f => Sys2Proof.Machine.execFcmpLt f s
  | .fcmpLe f => Sys2Proof.Machine.execFcmpLe f s
  | .fcmpGt f => Sys2Proof.Machine.execFcmpGt f s
  | .fcmpGe f => Sys2Proof.Machine.execFcmpGe f s
  | .fcmpUno f => Sys2Proof.Machine.execFcmpUno f s
  | .fcmpOrd f => Sys2Proof.Machine.execFcmpOrd f s
  | .fdiv f => Sys2Proof.Machine.execFdiv f s
  | .fsqrt f => Sys2Proof.Machine.execFsqrt f s
  | .frcp f => Sys2Proof.Machine.execFrcp f s
  | .frsq f => Sys2Proof.Machine.execFrsq f s
  | .fexp2 f => Sys2Proof.Machine.execFexp2 f s
  | .flog2 f => Sys2Proof.Machine.execFlog2 f s
  | .fsin f => Sys2Proof.Machine.execFsin f s
  | .fcos f => Sys2Proof.Machine.execFcos f s
  | .ftanh f => Sys2Proof.Machine.execFtanh f s
  | .fcvt f => Sys2Proof.Machine.execFcvt f s
  | .ficvt f => Sys2Proof.Machine.execFicvt f s
  | .ifcvt f => Sys2Proof.Machine.execIfcvt f s
  | .frnd f => Sys2Proof.Machine.execFrnd f s
  | .fclass f => Sys2Proof.Machine.execFclass f s
  | .fscale f => Sys2Proof.Machine.execFscale f s
  | .fdot2 f => Sys2Proof.Machine.execFdot2 f s
  | .perm f => Sys2Proof.Machine.execPerm f s
  | .shflIdx f => Sys2Proof.Machine.execShflIdx f s
  | .shflUp f => Sys2Proof.Machine.execShflUp f s
  | .shflDown f => Sys2Proof.Machine.execShflDown f s
  | .shflXor f => Sys2Proof.Machine.execShflXor f s
  | .ballot f => Sys2Proof.Machine.execBallot f s
  | .ballotPlane f => Sys2Proof.Machine.execBallotPlane f s
  | .voteAll f => Sys2Proof.Machine.execVoteAll f s
  | .voteAny f => Sys2Proof.Machine.execVoteAny f s
  | .voteUni f => Sys2Proof.Machine.execVoteUni f s
  | .lredAdd f => Sys2Proof.Machine.execLredAdd f s
  | .lredMins f => Sys2Proof.Machine.execLredMins f s
  | .lredMinn f => Sys2Proof.Machine.execLredMinn f s
  | .lredMaxs f => Sys2Proof.Machine.execLredMaxs f s
  | .lredMaxn f => Sys2Proof.Machine.execLredMaxn f s
  | .lredAnd f => Sys2Proof.Machine.execLredAnd f s
  | .lredOr f => Sys2Proof.Machine.execLredOr f s
  | .lredXor f => Sys2Proof.Machine.execLredXor f s
  | .lredFadd f => Sys2Proof.Machine.execLredFadd f s
  | .lredFmin f => Sys2Proof.Machine.execLredFmin f s
  | .lredFmax f => Sys2Proof.Machine.execLredFmax f s
  | .lscanAdd f => Sys2Proof.Machine.execLscanAdd f s
  | .lscanMins f => Sys2Proof.Machine.execLscanMins f s
  | .lscanMinn f => Sys2Proof.Machine.execLscanMinn f s
  | .lscanMaxs f => Sys2Proof.Machine.execLscanMaxs f s
  | .lscanMaxn f => Sys2Proof.Machine.execLscanMaxn f s
  | .lscanAnd f => Sys2Proof.Machine.execLscanAnd f s
  | .lscanOr f => Sys2Proof.Machine.execLscanOr f s
  | .lscanXor f => Sys2Proof.Machine.execLscanXor f s
  | .lscanFadd f => Sys2Proof.Machine.execLscanFadd f s
  | .lscanFmin f => Sys2Proof.Machine.execLscanFmin f s
  | .lscanFmax f => Sys2Proof.Machine.execLscanFmax f s
  | .rsel f => Sys2Proof.Machine.execRsel f s
  | .rselFin f => Sys2Proof.Machine.execRselFin f s
  | .regroup f => Sys2Proof.Machine.execRegroup f s
  | .regroupRestore f => Sys2Proof.Machine.execRegroupRestore f s
  | .regroupCapupd f => Sys2Proof.Machine.execRegroupCapupd f s
  | .ld f => Sys2Proof.Machine.execLd f s
  | .ld2 f => Sys2Proof.Machine.execLd2 f s
  | .st f => Sys2Proof.Machine.execSt f s
  | .st2 f => Sys2Proof.Machine.execSt2 f s
  | .pf f => Sys2Proof.Machine.execPf f s
  | .clClean f => Sys2Proof.Machine.execClClean f s
  | .clInvalidate f => Sys2Proof.Machine.execClInvalidate f s
  | .clCollapse f => Sys2Proof.Machine.execClCollapse f s
  | .clWriteback f => Sys2Proof.Machine.execClWriteback f s
  | .ldk f => Sys2Proof.Machine.execLdk f s
  | .stk f => Sys2Proof.Machine.execStk f s
  | .amoAdd f => Sys2Proof.Machine.execAmoAdd f s
  | .amoMins f => Sys2Proof.Machine.execAmoMins f s
  | .amoMinn f => Sys2Proof.Machine.execAmoMinn f s
  | .amoMaxs f => Sys2Proof.Machine.execAmoMaxs f s
  | .amoMaxn f => Sys2Proof.Machine.execAmoMaxn f s
  | .amoAnd f => Sys2Proof.Machine.execAmoAnd f s
  | .amoOr f => Sys2Proof.Machine.execAmoOr f s
  | .amoXor f => Sys2Proof.Machine.execAmoXor f s
  | .amoExch f => Sys2Proof.Machine.execAmoExch f s
  | .amofAdd f => Sys2Proof.Machine.execAmofAdd f s
  | .amofMin f => Sys2Proof.Machine.execAmofMin f s
  | .amofMax f => Sys2Proof.Machine.execAmofMax f s
  | .amofExch f => Sys2Proof.Machine.execAmofExch f s
  | .cas f => Sys2Proof.Machine.execCas f s
  | .redAdd f => Sys2Proof.Machine.execRedAdd f s
  | .redMins f => Sys2Proof.Machine.execRedMins f s
  | .redMinn f => Sys2Proof.Machine.execRedMinn f s
  | .redMaxs f => Sys2Proof.Machine.execRedMaxs f s
  | .redMaxn f => Sys2Proof.Machine.execRedMaxn f s
  | .redAnd f => Sys2Proof.Machine.execRedAnd f s
  | .redOr f => Sys2Proof.Machine.execRedOr f s
  | .redXor f => Sys2Proof.Machine.execRedXor f s
  | .redfAdd f => Sys2Proof.Machine.execRedfAdd f s
  | .redfMin f => Sys2Proof.Machine.execRedfMin f s
  | .redfMax f => Sys2Proof.Machine.execRedfMax f s
  | .redfAcc f => Sys2Proof.Machine.execRedfAcc f s
  | .spill f => Sys2Proof.Machine.execSpill f s
  | .fill f => Sys2Proof.Machine.execFill f s
  | .bind f => Sys2Proof.Machine.execBind f s
  | .unbind f => Sys2Proof.Machine.execUnbind f s
  | .fenceMem f => Sys2Proof.Machine.execFenceMem f s
  | .fenceEng f => Sys2Proof.Machine.execFenceEng f s
  | .sarm f => Sys2Proof.Machine.execSarm f s
  | .swait f => Sys2Proof.Machine.execSwait f s
  | .sadd f => Sys2Proof.Machine.execSadd f s
  | .gsp f => Sys2Proof.Machine.execGsp f s
  | .stqPush f => Sys2Proof.Machine.execStqPush f s
  | .stqPop f => Sys2Proof.Machine.execStqPop f s
  | .stqPeek f => Sys2Proof.Machine.execStqPeek f s
  | .cpy f => Sys2Proof.Machine.execCpy f s
  | .cpqSend f => Sys2Proof.Machine.execCpqSend f s
  | .cpqStatus f => Sys2Proof.Machine.execCpqStatus f s
  | .trec f => Sys2Proof.Machine.execTrec f s
  | .br f => Sys2Proof.Machine.execBr f s
  | .brx f => Sys2Proof.Machine.execBrx f s
  | .call f => Sys2Proof.Machine.execCall f s
  | .ret f => Sys2Proof.Machine.execRet f s
  | .meet f => Sys2Proof.Machine.execMeet f s
  | .meetPacked f => Sys2Proof.Machine.execMeetPacked f s
  | .meetq f => Sys2Proof.Machine.execMeetq f s
  | .bar f => Sys2Proof.Machine.execBar f s
  | .nap f => Sys2Proof.Machine.execNap f s
  | .exitPlain f => Sys2Proof.Machine.execExitPlain f s
  | .exitInherit f => Sys2Proof.Machine.execExitInherit f s
  | .yieldPlain f => Sys2Proof.Machine.execYieldPlain f s
  | .yieldQueue f => Sys2Proof.Machine.execYieldQueue f s
  | .grow f => Sys2Proof.Machine.execGrow f s
  | .trap f => Sys2Proof.Machine.execTrap f s
  | .brk f => Sys2Proof.Machine.execBrk f s
  | .slotClaim f => Sys2Proof.Machine.execSlotClaim f s
  | .slotClaimRetag f => Sys2Proof.Machine.execSlotClaimRetag f s
  | .slotRelease f => Sys2Proof.Machine.execSlotRelease f s
  | .slotQuery f => Sys2Proof.Machine.execSlotQuery f s
  | .tmm f => Sys2Proof.Machine.execTmm f s
  | .tmmBfp f => Sys2Proof.Machine.execTmmBfp f s
  | .tsa f => Sys2Proof.Machine.execTsa f s
  | .accZero f => Sys2Proof.Machine.execAccZero f s
  | .accRd f => Sys2Proof.Machine.execAccRd f s
  | .accWr f => Sys2Proof.Machine.execAccWr f s
  | .accLd f => Sys2Proof.Machine.execAccLd f s
  | .accSt f => Sys2Proof.Machine.execAccSt f s
  | .accCvst f => Sys2Proof.Machine.execAccCvst f s
  | .opmLd f => Sys2Proof.Machine.execOpmLd f s
  | .opmSt f => Sys2Proof.Machine.execOpmSt f s
  | .csrr f => Sys2Proof.Machine.execCsrr f s
  | .csrw f => Sys2Proof.Machine.execCsrw f s
  | .psreq f => Sys2Proof.Machine.execPsreq f s
  | .gangkillReg f => Sys2Proof.Machine.execGangkillReg f s
  | .tlbiPage f => Sys2Proof.Machine.execTlbiPage f s
  | .tlbiKey f => Sys2Proof.Machine.execTlbiKey f s
  | .tlbiAll f => Sys2Proof.Machine.execTlbiAll f s
  | .tret f => Sys2Proof.Machine.execTret f s
  | .ctxSave f => Sys2Proof.Machine.execCtxSave f s
  | .ctxRestore f => Sys2Proof.Machine.execCtxRestore f s
  | .trcMark f => Sys2Proof.Machine.execTrcMark f s
  | .trcArm f => Sys2Proof.Machine.execTrcArm f s
  | .trcDisarm f => Sys2Proof.Machine.execTrcDisarm f s
  | .quadrilleMove ticket group => Sys2Proof.Machine.execQuadrilleMove ticket group s
  | .clauseStart core slot => Sys2Proof.Machine.execClauseStart core slot s
  | .clauseRetire core pos => Sys2Proof.Machine.execClauseRetire core pos s
  | .groupRetire ticket group => Sys2Proof.Machine.execGroupRetire ticket group s
  | .napExpiry core pos lane => Sys2Proof.Machine.execNapExpiry core pos lane s
  | .yieldEnd core pos lane => Sys2Proof.Machine.execYieldEnd core pos lane s
  | .launchDoorbell q => Sys2Proof.Machine.execLaunchDoorbell q s
  | .launchQueueServe => Sys2Proof.Machine.execLaunchQueueServe s
  | .gangAdmit die => Sys2Proof.Machine.execGangAdmit die s
  | .workSteal die => Sys2Proof.Machine.execWorkSteal die s
  | .preempt die => Sys2Proof.Machine.execPreempt die s
  | .regionFlush ticket gang => Sys2Proof.Machine.execRegionFlush ticket gang s
  | .fullSave ticket gang => Sys2Proof.Machine.execFullSave ticket gang s
  | .gangRestore die => Sys2Proof.Machine.execGangRestore die s
  | .minuetTurn ticket => Sys2Proof.Machine.execMinuetTurn ticket s
  | .stagePeriod pipe => Sys2Proof.Machine.execStagePeriod pipe s
  | .spillAck core n => Sys2Proof.Machine.execSpillAck core n s
  | .refill core pos reg => Sys2Proof.Machine.execRefill core pos reg s
  | .symbolArrival core sym lane => Sys2Proof.Machine.execSymbolArrival core sym lane s
  | .syncArrival n => Sys2Proof.Machine.execSyncArrival n s
  | .watchPoll core pos lane => Sys2Proof.Machine.execWatchPoll core pos lane s
  | .tileEntryStart core => Sys2Proof.Machine.execTileEntryStart core s
  | .tileEntryRetire core id fault => Sys2Proof.Machine.execTileEntryRetire core id fault s
  | .slotWrite die job n => Sys2Proof.Machine.execSlotWrite die job n s
  | .followOnEnqueue die job => Sys2Proof.Machine.execFollowOnEnqueue die job s
  | .cardAcceptance die => Sys2Proof.Machine.execCardAcceptance die s
  | .jobRelease die => Sys2Proof.Machine.execJobRelease die s
  | .waitWordPoll die job => Sys2Proof.Machine.execWaitWordPoll die job s
  | .waitWordRetired die job => Sys2Proof.Machine.execWaitWordRetired die job s
  | .jobStart die => Sys2Proof.Machine.execJobStart die s
  | .jobPageStall die job n => Sys2Proof.Machine.execJobPageStall die job n s
  | .jobResume die job => Sys2Proof.Machine.execJobResume die job s
  | .followOnIssue die job => Sys2Proof.Machine.execFollowOnIssue die job s
  | .jobRetire die job => Sys2Proof.Machine.execJobRetire die job s
  | .jobErrorEnd die job n => Sys2Proof.Machine.execJobErrorEnd die job n s
  | .zethesAdder die job n data => Sys2Proof.Machine.execZethesAdder die job n data s
  | .collectiveLost die job => Sys2Proof.Machine.execCollectiveLost die job s
  | .uGrant core pos => Sys2Proof.Machine.execUGrant core pos s
  | .collapse line => Sys2Proof.Machine.execCollapse line s
  | .uEviction core line => Sys2Proof.Machine.execUEviction core line s
  | .evictionMerge core line => Sys2Proof.Machine.execEvictionMerge core line s
  | .sliceUEviction die line => Sys2Proof.Machine.execSliceUEviction die line s
  | .invalidationReceive core n => Sys2Proof.Machine.execInvalidationReceive core n s
  | .invalidationAgeExpiry core n => Sys2Proof.Machine.execInvalidationAgeExpiry core n s
  | .homeUnitAccess a => Sys2Proof.Machine.execHomeUnitAccess a s
  | .storeBufferSend core pos => Sys2Proof.Machine.execStoreBufferSend core pos s
  | .storeAck core pos id => Sys2Proof.Machine.execStoreAck core pos id s
  | .pageWalk core va write => Sys2Proof.Machine.execPageWalk core va write s
  | .parkRetryTimeout core pos park => Sys2Proof.Machine.execParkRetryTimeout core pos park s
  | .migrationMove die va frame => Sys2Proof.Machine.execMigrationMove die va frame s
  | .trapDelivery core => Sys2Proof.Machine.execTrapDelivery core s
  | .flitRoute plane die stop => Sys2Proof.Machine.execFlitRoute plane die stop s
  | .flitInject plane die stop => Sys2Proof.Machine.execFlitInject plane die stop s
  | .fabricTick => Sys2Proof.Machine.execFabricTick s
  | .throttleWindow die stop => Sys2Proof.Machine.execThrottleWindow die stop s
  | .mergeSlotRequest core line => Sys2Proof.Machine.execMergeSlotRequest core line s
  | .zethesPacketReceive p => Sys2Proof.Machine.execZethesPacketReceive p s
  | .zethesReplay port n => Sys2Proof.Machine.execZethesReplay port n s
  | .portDead port => Sys2Proof.Machine.execPortDead port s
  | .partialFold line pkg op ty data touched => Sys2Proof.Machine.execPartialFold line pkg op ty data touched s
  | .revokedArrival port key => Sys2Proof.Machine.execRevokedArrival port key s
  | .workRequestPop die qp => Sys2Proof.Machine.execWorkRequestPop die qp s
  | .workCompletion die qp ending => Sys2Proof.Machine.execWorkCompletion die qp ending s
  | .rdmaIncomingWrite die qp rkey addr bytes => Sys2Proof.Machine.execRdmaIncomingWrite die qp rkey addr bytes s
  | .hostAccess core pos id => Sys2Proof.Machine.execHostAccess core pos id s
  | .haltRequest ticket group => Sys2Proof.Machine.execHaltRequest ticket group s
  | .haltTimeout core pos => Sys2Proof.Machine.execHaltTimeout core pos s
  | .triggerReceive block trigger time peer => Sys2Proof.Machine.execTriggerReceive block trigger time peer s
  | .snapshotLatch block => Sys2Proof.Machine.execSnapshotLatch block s
  | .traceSample core => Sys2Proof.Machine.execTraceSample core s
  | .hangWatchdogExpiry ticket group => Sys2Proof.Machine.execHangWatchdogExpiry ticket group s
  | .timingRepeat die => Sys2Proof.Machine.execTimingRepeat die s
  | .eccError e => Sys2Proof.Machine.execEccError e s
  | .patrolScrub die which => Sys2Proof.Machine.execPatrolScrub die which s
  | .dramCalibration die channel => Sys2Proof.Machine.execDramCalibration die channel s
  | .migrationAccounting page => Sys2Proof.Machine.execMigrationAccounting page s
  | .counterHalving die => Sys2Proof.Machine.execCounterHalving die s
  | .telemetry die stop => Sys2Proof.Machine.execTelemetry die stop s
  | .powerOn => Sys2Proof.Machine.execPowerOn s
  | .firmwareImage bytes sig trims dead => Sys2Proof.Machine.execFirmwareImage bytes sig trims dead s
  | .attestationRequest nonce => Sys2Proof.Machine.execAttestationRequest nonce s
  | .deviceReset => Sys2Proof.Machine.execDeviceReset s
  | .powerOff => Sys2Proof.Machine.execPowerOff s
  | .powerWindow watts heldPct => Sys2Proof.Machine.execPowerWindow watts heldPct s
  | .thermalSample celsius => Sys2Proof.Machine.execThermalSample celsius s
  | .keyRevoke key => Sys2Proof.Machine.execKeyRevoke key s
  | .keyRestore key => Sys2Proof.Machine.execKeyRestore key s
  | .tlbinvAll => Sys2Proof.Machine.execTlbinvAll s
  | .tlbinvPage ptr => Sys2Proof.Machine.execTlbinvPage ptr s
  | .zretrain port => Sys2Proof.Machine.execZretrain port s
  | .traprst core => Sys2Proof.Machine.execTraprst core s
  | .debugEnable ticket => Sys2Proof.Machine.execDebugEnable ticket s
  | .debugDisable ticket => Sys2Proof.Machine.execDebugDisable ticket s
  | .debugHaltGroup ticket => Sys2Proof.Machine.execDebugHaltGroup ticket s
  | .debugResumeGroup ticket => Sys2Proof.Machine.execDebugResumeGroup ticket s
  | .brksetSet value => Sys2Proof.Machine.execBrksetSet value s
  | .brksetClear value => Sys2Proof.Machine.execBrksetClear value s
  | .dumpreq base => Sys2Proof.Machine.execDumpreq base s
  | .qpCreate ptr => Sys2Proof.Machine.execQpCreate ptr s
  | .qpConnect ptr => Sys2Proof.Machine.execQpConnect ptr s
  | .regionRegister ptr => Sys2Proof.Machine.execRegionRegister ptr s
  | .regionDeregister ptr => Sys2Proof.Machine.execRegionDeregister ptr s
  | .qpDestroy ptr => Sys2Proof.Machine.execQpDestroy ptr s
  | .triggerSend t => Sys2Proof.Machine.execTriggerSend t s
  | .managementRegisterWrite offset value => Sys2Proof.Machine.execManagementRegisterWrite offset value s
  | .powerLoss => Sys2Proof.Machine.execPowerLoss s
  | .snapshotRead block => Sys2Proof.Machine.execSnapshotRead block s
  | .zethesCreditReturn stream n => Sys2Proof.Machine.execZethesCreditReturn stream n s
  | .rdmaIncomingRead die qp rkey addr len => Sys2Proof.Machine.execRdmaIncomingRead die qp rkey addr len s
  | .priorityFlowControl die prio pause => Sys2Proof.Machine.execPriorityFlowControl die prio pause s
  | .congestionNotification die qp => Sys2Proof.Machine.execCongestionNotification die qp s

end Sys2Proof.Machine
end

