-- ==== Sys2Proof/Machine/Sequence.lean ====
section
/-!
DEFINITION. How a step is made up: the instruction at the running clause's cursor, the end of a clause's words, the moves that wait,
and the part's own next move (R30, R36, R484); the state with a clause about to execute an instruction.
-/

namespace Sys2Proof.Machine

/-- Every step counts a move: free values are read at its number. -/
def tick (s : State) : State := { s with moves := s.moves + 1 }

/-- The instruction at a clause's cursor. -/
def cursorInstr (cl : Clause) : Option Instr :=
  match cl.words.drop cl.cursor with
  | [] => none
  | w :: r => decode w (r.headD 0)

/-- The clause's words are all executed. -/
def wordsDone (cl : Clause) : Bool := decide (cl.words.length ≤ cl.cursor)

/-- A word that decodes to no instruction is an illegal instruction of every lane of the issuing subset, active or not (R35, R52). -/
def illegalWord (s : State) (x : Ctx) : State := squash s x 0x02 x.instrAddr x.cl.subset []

/-- The end of a clause's words: the check ends (R29, R32), the performing clause retires (R30). -/
def wordsEnd (s : State) (x : Ctx) : Out :=
  match x.cl.phase with
  | .check => .next (endCheck s x)
  | .perform => exec (.clauseRetire x.core x.pos) (putClause s x { x.cl with phase := .retire })
  | .retire => exec (.clauseRetire x.core x.pos) s

/-- The running clause goes on. -/
def clauseStep (s : State) (x : Ctx) : Out :=
  if wordsDone x.cl then wordsEnd s x
  else match cursorInstr x.cl with
    | some i => exec i s
    | none => .next (illegalWord s x)

/-- An event of the part, no instruction. -/
def isEvent (i : Instr) : Bool := match i.fmt with | .event => true | _ => false

/-! ## The end of a yield (R87) -/

/-- Whether a clause that has been taken up would start, trap or park now (R29): its check is run to its end, on a copy of the state. -/
def checkRuns (core pos lane : Nat) : Nat → State → Bool
  | 0, _ => true
  | fuel + 1, s => match ctxOf s with
    | none => !(coreOf s core).passed.contains (pos, lane)
    | some x =>
      if x.cl.phase == .check && !x.cl.again then
        (match clauseStep s x with
         | .next s => checkRuns core pos lane fuel s
         | _ => true)
      else true

/-- Whether a candidate would start at this issue cycle. -/
def wouldStart (s : State) (core slot : Nat) (c : Nat × Nat × LaneMask) : Bool :=
  match tryStart s core slot c.1 c.2.2 with
  | none => false
  | some s => checkRuns core c.1 c.2.1 32 s

/-- Positions of a slot's other troupes that are ready now (R87). -/
def readyOthers (s : State) (core pos : Nat) : List Nat :=
  let s := modCore s core fun k => { k with passed := [] }
  let slot := slotOf s core pos
  distinct (((candidates s core slot).filter fun c => c.1 != pos && wouldStart s core slot c).map fun c => c.1)

/-- A plain yield that has just committed: its ready troupes are recorded; with none it is over at the slot's next issue cycle (R87). -/
def settleYield (s : State) (core pos : Nat) (t : Troupe) : State :=
  let mine := maskOf fun l => match (threadOf t l).st with | .yielded o _ => o.contains yieldMark | _ => false
  if mine = 0 || minuetTroupe s t then s
  else
    let o := readyOthers s core pos
    modTroupe s core pos fun t => modThreads t mine fun _ h => match h.st with
      | .yielded _ til => { h with st := if o.isEmpty then .runnable else .yielded o til }
      | _ => h

/-- The yields of every core whose clause has just retired. -/
def settleYields (s : State) : State :=
  s.cores.foldl (fun s c => c.2.troupes.foldl (fun s e => settleYield s c.1 e.1 e.2) s) s

/-- With no clause in execution: yields are settled; then the first waiting move, else the part's own next move, which no rule orders
(R87, R484). -/
def partStep (s : State) : Out :=
  let s := settleYields s
  match s.agenda with
  | m :: rest => exec m { s with agenda := rest, focus := none }
  | [] =>
    let m := Config.freeMove s.moves
    if isEvent m then exec m { s with focus := none } else .next { s with focus := none }

/-- One step of the machine. -/
def stepOf (s : State) : Out :=
  match ctxOf s with
  | some x => clauseStep (tick s) x
  | none => partStep (tick s)

/-! ## A clause about to execute an instruction -/

/-- The words of an instruction whose bits are w. -/
def tableWords (nbits w : Nat) : List Nat :=
  let v := w % 2 ^ nbits
  if opWords (bits v 31 25) = 1 then [v % 2 ^ 32] else [v % 2 ^ 32, v / 2 ^ 32 % 2 ^ 32]

/-- A launch record of one group of one troupe: entry address, shape, count, register minimum. -/
def probeRecord : List Word :=
  [0x01000000, word (5 + 2 * 2 ^ 42 + 2 ^ 45 + 2 * 2 ^ 48 + 2 * 2 ^ 51), 1, 1, word (128 * 2 ^ 22)] ++ List.replicate 27 0

/-- Its grid and group. -/
def probeGrid : Grid :=
  { record := probeRecord, recordAddr := 0, order := 0, current := 1, retired := [], killed := [], contained := false,
    bindings := [], safePoints := [], regions := [], debug := false, breakpoints := [], clk := 0, minuetCore := none,
    turnGroup := 0, turnTroupe := 0, turnUsed := false, pipeline := none, stage := 0, status := 1 }

def probeGroup : Group :=
  { ticket := 1, index := 0, member := 0, core := 0, gang := [(0, groupKey 1 0)], ntroupes := 1, troupes := [(0, 0)], scratch := [],
    scratchSize := 0, nslots := 0, slots := [], slotBytes := [], slotWritten := [], nbands := 0, bandTags := [], cells := [],
    captab := 0, posRecord := false, hang := 0, haltReq := none, halted := false, closing := false }

/-- The clause that holds the instruction, as CLAUSE_START leaves it (R29). -/
def probeClause (ws : List Nat) : Clause :=
  newClause 0x01000000 (headerOf (0xC9000000 + ws.length)) ws 0 (-1) (-1) 0 0 []

/-- A troupe whose 32 lanes run that clause. -/
def probeTroupe (key : Nat) (ws : List Nat) : Troupe :=
  { trapTroupe with
    group := key, regmin := 128, clause := some (probeClause ws),
    threads := laneList.map fun l => (l, { exitedThread with st := .runnable, pc := 0x01000000, wid := word l }) }

/-- The position that the instruction's privilege needs: the trap troupe's for a supervisor instruction (R393). -/
def probePos (nbits w : Nat) : Nat :=
  match decodeTableWord nbits w with
  | some i => if i.spec.sup then 64 else 0
  | none => 0

/-- The machine has booted, a grid is accepted, its group is resident, and its clause has started with the instruction. -/
def placeWords (s : State) (nbits w : Nat) : State :=
  let pos := probePos nbits w
  let key := if pos = 64 then 0 else groupKey 1 0
  let s := { s with mgmt := { s.mgmt with boot := 5, powered := true }, nextTicket := max 2 s.nextTicket,
                    grids := tabPut s.grids 1 probeGrid, groups := tabPut s.groups (groupKey 1 0) probeGroup }
  { setTroupe s 0 pos (probeTroupe key (tableWords nbits w)) with focus := some (0, pos) }

end Sys2Proof.Machine
end

