-- ==== Sys2Proof/Machine/Step.lean ====
section
/-!
DEFINITION. One step of the machine, and the state whose next step executes a given instruction.
-/

namespace Sys2Proof.Machine

/-- A step: the instruction at the running clause's cursor, or an event of the part. -/
def step (s : State) : Host.Outcome State Fault Refusal := stepOf s

/-- The state in which the next step executes the instruction whose bits are w. -/
def State.withFetchWord (s : State) (nbits w : Nat) : State := placeWords s nbits w

end Sys2Proof.Machine
end

