-- ==== Sys2Proof/Safety.lean ====
section
/-!
DEFINITION. The terms in which claims about the machine are stated: settled operands, what an instruction records, what it leaves,
well-formed memories, and the element functions of the instruction tables, written from the rules' own formulas.
-/

namespace Sys2Proof.Machine

/-! ## Operands -/

/-- None of the operands' registers is pending (R141). -/
def notPending (x : Ctx) (ops : List Operand) : Bool := (ops.filterMap (regOperand x)).all fun r => r.entry != .pending

/-- Every operand's register is settled in the active lanes and depends on no faulted lane there (R146, R147, R155). -/
def settledOps (x : Ctx) (ops : List Operand) : Bool :=
  (ops.filterMap (regOperand x)).all fun r => pendMask r &&& x.cl.active == 0 && r.unknown &&& x.cl.active == 0

/-- The clause is performing: its checks are over (R30). -/
def performing (x : Ctx) : Bool := x.cl.phase == .perform

/-! ## What an instruction records -/

/-- A value of 64 / w elements. -/
def packed (w : Nat) (g : Nat → Nat) : Word := word (packElems w (64 / w) g)

/-- A register whose live lanes are settled and hold some values. -/
def Holds (x : Ctx) (r : Reg) (v : Nat → Word) : Prop :=
  ∀ l, x.live.getLsbD l = true → (pendMask r).getLsbD l = false ∧ laneOf r.vals l = v l

/-- The state after an instruction of n words records the values v for its destination and the flags fl: nothing but the running
clause's record differs from s, and there only the cursor, the recorded destination and the flags (R31, R168). -/
def Records (s : State) (x : Ctx) (n : Nat) (d : Operand) (v : Nat → Word) (fl : Nat) (t : State) : Prop :=
  ∃ r : Reg, t = putClause s x (stepped (addFlags (writeD x x.cl d r) fl) n) ∧ Holds x r v

/-- The same for a predicate destination: bit l of the recorded predicate in every live lane (R22, R31). -/
def RecordsPred (s : State) (x : Ctx) (n q : Nat) (p : Nat → Bool) (fl : Nat) (t : State) : Prop :=
  t = putClause s x (stepped (addFlags (writePred x x.cl q p) fl) n)

/-- Flags of elements OR-ed together (R168). -/
def orAll (ls : List Nat) : Nat := ls.foldl (fun a b => a ||| b) 0

/-! ## Integer elements (R180 to R193) -/

/-- Two-source integer instructions of format A and their elements. -/
def integerBinary (f : FA) : List (Instr × (Nat → Nat → Nat → Nat)) :=
  [(.add f, fun w a b => (a + b) % 2 ^ w),
   (.sub f, fun w a b => ofSigned w ((a : Int) - b)),
   (.mul f, fun w a b => a * b % 2 ^ w),
   (.mulhs f, fun w a b => ofSigned w (toSigned w a * toSigned w b / 2 ^ w)),
   (.mulhn f, fun w a b => a * b / 2 ^ w),
   (.andI f, fun _ a b => a &&& b),
   (.orI f, fun _ a b => a ||| b),
   (.xorI f, fun _ a b => a ^^^ b),
   (.andn f, fun _ a b => a ^^^ (a &&& b)),
   (.shl f, fun w a b => (a <<< (b % w)) % 2 ^ w),
   (.shr f, fun w a b => a >>> (b % w)),
   (.sar f, fun w a b => ofSigned w (toSigned w a / 2 ^ (b % w))),
   (.rot f, fun w a b => ((a <<< (b % w)) ||| (a >>> (w - b % w))) % 2 ^ w),
   (.mins f, fun w a b => ofSigned w (min (toSigned w a) (toSigned w b))),
   (.minn f, fun _ a b => if a ≤ b then a else b),
   (.maxs f, fun w a b => ofSigned w (max (toSigned w a) (toSigned w b))),
   (.maxn f, fun _ a b => if a ≤ b then b else a)]

/-- One-source integer instructions and their elements (R186). -/
def integerUnary (f : FA) : List (Instr × (Nat → Nat → Nat)) :=
  [(.bitClz f, fun w a => w - a.log2 - (if a = 0 then 0 else 1)),
   (.bitCtz f, fun w a => ((List.range w).takeWhile fun i => !a.testBit i).length),
   (.bitPopc f, fun w a => ((List.range w).map fun i => a / 2 ^ i % 2).sum),
   (.bitBrev f, fun w a => ((List.range w).map fun i => a / 2 ^ i % 2 * 2 ^ (w - 1 - i)).sum),
   (.bitAbs f, fun w a => ofSigned w |toSigned w a|),
   (.bitNeg f, fun w a => (2 ^ w - a) % 2 ^ w),
   (.bitNot f, fun w a => 2 ^ w - 1 - a),
   (.bitSext8 f, fun w a => ofSigned w (toSigned 8 a)),
   (.bitSext16 f, fun w a => ofSigned w (toSigned 16 a)),
   (.bitSext32 f, fun w a => ofSigned w (toSigned 32 a))]

/-- Integer division, element by element (R190): division by zero gives all ones, or leaves the dividend. -/
def integerDivision (f : FX) : List (Instr × (Nat → Nat → Nat → Nat)) :=
  [(.divQuos f, fun w a b =>
      if b = 0 then 2 ^ w - 1
      else if f.sat = true ∧ toSigned w a = -2 ^ (w - 1) ∧ toSigned w b = -1 then 2 ^ (w - 1) - 1
      else ofSigned w ((toSigned w a).tdiv (toSigned w b))),
   (.divQuon f, fun w a b => if b = 0 then 2 ^ w - 1 else a / b),
   (.divRems f, fun w a b => if b = 0 then a else ofSigned w ((toSigned w a).tmod (toSigned w b))),
   (.divRemn f, fun _ a b => if b = 0 then a else a % b)]

/-- Integer compares and the condition on one pair of elements (R193). -/
def integerCompare (f : FC) : List (Instr × (Nat → Nat → Nat → Prop)) :=
  [(.cmpEq f, fun _ a b => a = b), (.cmpNe f, fun _ a b => a ≠ b),
   (.cmpLts f, fun w a b => toSigned w a < toSigned w b), (.cmpLes f, fun w a b => toSigned w a ≤ toSigned w b),
   (.cmpGts f, fun w a b => toSigned w a > toSigned w b), (.cmpGes f, fun w a b => toSigned w a ≥ toSigned w b),
   (.cmpLtn f, fun _ a b => a < b), (.cmpLen f, fun _ a b => a ≤ b),
   (.cmpGtn f, fun _ a b => a > b), (.cmpGen f, fun _ a b => a ≥ b),
   (.cmpTst f, fun _ a b => a &&& b ≠ 0), (.cmpTsz f, fun _ a b => a &&& b = 0)]

/-- Predicate operations on two predicates (R194). -/
def predicateOps (f : FC) : List (Instr × (Bool → Bool → Bool)) :=
  [(.plAnd f, fun a b => a && b), (.plOr f, fun a b => a || b), (.plXor f, fun a b => xor a b),
   (.plAndn f, fun a b => a && !b), (.plOrn f, fun a b => a || !b)]

/-- Integer instructions that compose with a pending operand: instruction, its destination and sources, its words, the pending
source's position, and the value the instruction gives in a lane from the pending value p (R142). -/
def forwarding (s : State) (x : Ctx) (fa : FA) (fb : FB) (fx : FX) :
    List (Instr × Operand × List Operand × Nat × Nat × (Nat → Word → Word)) :=
  [(.add fa, fa.d, [fa.a, fa.b], 1, 0, fun l p => p + word64 s x fa.b l),
   (.add fa, fa.d, [fa.a, fa.b], 1, 1, fun l p => word64 s x fa.a l + p),
   (.sub fa, fa.d, [fa.a, fa.b], 1, 0, fun l p => p - word64 s x fa.b l),
   (.sub fa, fa.d, [fa.a, fa.b], 1, 1, fun l p => word64 s x fa.a l - p),
   (.mul fa, fa.d, [fa.a, fa.b], 1, 0, fun l p => p * word64 s x fa.b l),
   (.mul fa, fa.d, [fa.a, fa.b], 1, 1, fun l p => word64 s x fa.a l * p),
   (.shl fa, fa.d, [fa.a, fa.b], 1, 0, fun l p => p <<< ((word64 s x fa.b l).toNat % 64)),
   (.bitNeg fa, fa.d, [fa.a], 1, 0, fun _ p => -p),
   (.addi fb, fb.d, [fb.a], 1, 0, fun _ p => p + fb.imm.signExtend 64),
   (.lea fx, fx.d, [fx.a, fx.b, fx.c], 2, 0, fun l p => p + word64 s x fx.b l <<< (fx.imm.toNat % 16) + word64 s x fx.c l),
   (.lea fx, fx.d, [fx.a, fx.b, fx.c], 2, 1, fun l p => word64 s x fx.a l + p <<< (fx.imm.toNat % 16) + word64 s x fx.c l)]

/-! ## Floating elements (R197 to R213) -/

/-- A floating source element as the instruction reads it: flushed, then absolute value, then negation (R169, R197). -/
def fpSource (s : State) (x : Ctx) (code : Nat) (absf negf : Bool) (o : Operand) (l i : Nat) : Nat :=
  fpIn (fmtOf code) (flushBit x.t.mode code) absf negf (elemAt (fmtOf code).w i (valueOf s x (.fp code) o l))

/-- Instructions on up to three floating sources of one format: the sources each uses, and the element and flags it gives
from them in rounding mode m (R198, R199, R202, R203, R210). -/
def floatElements (f : FX) (m : Nat) (fz : Bool) : List (Instr × List Operand × (FFmt → Nat → Nat → Nat → Nat × Nat)) :=
  let ex (g : FFmt → Nat → Nat → Nat → Option FVal) (ops : Nat → Nat → Nat → List Nat) :
      FFmt → Nat → Nat → Nat → Nat × Nat := fun fm a b c => vecResult fm m f.sat fz (ops a b c) (g fm a b c)
  [(.fadd f, [f.a, f.b], ex (fun fm a b _ => (fm.val a).add (fm.val b) m) fun a b _ => [a, b]),
   (.fsub f, [f.a, f.b], ex (fun fm a b _ => (fm.val a).add (fm.val b).neg m) fun a b _ => [a, b]),
   (.fmul f, [f.a, f.b], ex (fun fm a b _ => (fm.val a).mul (fm.val b)) fun a b _ => [a, b]),
   (.fma f, [f.a, f.b, f.c], ex (fun fm a b c => ((fm.val a).mul (fm.val b)).bind fun p => p.add (fm.val c) m) fun a b c => [a, b, c]),
   (.fmin f, [f.a, f.b], fun fm a b _ => minMax true fm a b),
   (.fmax f, [f.a, f.b], fun fm a b _ => minMax false fm a b),
   (.fdiv f, [f.a, f.b], fun fm a b _ => divValue fm m f.sat fz a b),
   (.frcp f, [f.a], fun fm a _ _ => divValue fm m f.sat fz (fpConst fm 1) a),
   (.frsq f, [f.a], fun fm a _ _ => approxFn fm f.pack.toNat 0 f.sat fz a),
   (.fexp2 f, [f.a], fun fm a _ _ => approxFn fm f.pack.toNat 1 f.sat fz a),
   (.flog2 f, [f.a], fun fm a _ _ => approxFn fm f.pack.toNat 2 f.sat fz a),
   (.fsin f, [f.a], fun fm a _ _ => approxFn fm f.pack.toNat 3 f.sat fz a),
   (.fcos f, [f.a], fun fm a _ _ => approxFn fm f.pack.toNat 4 f.sat fz a),
   (.ftanh f, [f.a], fun fm a _ _ => approxFn fm f.pack.toNat 5 f.sat fz a)]

/-- Floating compares: which NaNs set NV (every NaN, or signalling ones only), and the condition on a pair (R201). -/
def floatCompare (f : FC) : List (Instr × Bool × (FFmt → Nat → Nat → Bool)) :=
  [(.fcmpEq f, true, fun m a b => ordered m a b && m.key a == m.key b),
   (.fcmpNe f, true, fun m a b => !(ordered m a b && m.key a == m.key b)),
   (.fcmpLt f, false, fun m a b => ordered m a b && decide (m.key a < m.key b)),
   (.fcmpLe f, false, fun m a b => ordered m a b && decide (m.key a ≤ m.key b)),
   (.fcmpGt f, false, fun m a b => ordered m a b && decide (m.key b < m.key a)),
   (.fcmpGe f, false, fun m a b => ordered m a b && decide (m.key b ≤ m.key a)),
   (.fcmpUno f, true, fun m a b => m.isNaN a || m.isNaN b),
   (.fcmpOrd f, true, fun m a b => !(m.isNaN a || m.isNaN b))]

/-! ## Crossbar -/

/-- Shuffles: the lane a lane reads from its index, within segments of a width; none where the index leads out (R218). -/
def shuffles (f : FX) : List (Instr × (Nat → Nat → Nat → Option Nat)) :=
  [(.shflIdx f, fun l w d => some (l / w * w + d % w)),
   (.shflUp f, fun l w d => if d ≤ l % w then some (l - d) else none),
   (.shflDown f, fun l w d => if l % w + d < w then some (l + d) else none),
   (.shflXor f, fun l w d => some (l / w * w + ((l % w) ^^^ (d % w))))]

/-- Reductions and scans: the instruction, whether it scans, whether it is floating, and its combination (R221). -/
def reductions (f : FX) : List (Instr × Bool × Bool × (Ctx → Combine)) :=
  [(.lredAdd f, false, false, combineAdd f), (.lscanAdd f, true, false, combineAdd f),
   (.lredMins f, false, false, combineMins f), (.lscanMins f, true, false, combineMins f),
   (.lredMinn f, false, false, combineMinn f), (.lscanMinn f, true, false, combineMinn f),
   (.lredMaxs f, false, false, combineMaxs f), (.lscanMaxs f, true, false, combineMaxs f),
   (.lredMaxn f, false, false, combineMaxn f), (.lscanMaxn f, true, false, combineMaxn f),
   (.lredAnd f, false, false, combineAnd f), (.lscanAnd f, true, false, combineAnd f),
   (.lredOr f, false, false, combineOr f), (.lscanOr f, true, false, combineOr f),
   (.lredXor f, false, false, combineXor f), (.lscanXor f, true, false, combineXor f),
   (.lredFadd f, false, true, combineFadd f), (.lscanFadd f, true, true, combineFadd f),
   (.lredFmin f, false, true, combineFmin f), (.lscanFmin f, true, true, combineFmin f),
   (.lredFmax f, false, true, combineFmax f), (.lscanFmax f, true, true, combineFmax f)]

/-! ## Memory -/

/-- Every memory of the machine stands in its one canonical form: the three package-wide memories and each resident group's
scratchpad. -/
def MemoriesWf (s : State) : Prop :=
  memoryWf s.mem = true ∧ memoryWf s.hostMem = true ∧ memoryWf s.peerMem = true ∧
    ∀ key g, groupAt s key = some g → memoryWf g.scratch = true

/-- Every byte of every memory reads as before. -/
def SameBytes (s t : State) : Prop := ∀ l i, rawByte t l i = rawByte s l i

/-- What the instructions of a clause leave to its commit: the registers, predicates, mode, uniform registers and control state of
every thread, every group and grid, and every memory (R30, R31). -/
def NothingCommitted (s t : State) (x : Ctx) : Prop :=
  SameBytes s t ∧ t.groups = s.groups ∧ t.grids = s.grids ∧
    ∃ u, troupeAt t x.core x.pos = some u ∧ u.regs = x.t.regs ∧ u.threads = x.t.threads ∧ u.kregs = x.t.kregs ∧
      u.mode = x.t.mode ∧ u.inherited = x.t.inherited

/-! ## Waiting -/

/-- The state in which one lane of a troupe may run again, and nothing else differs. -/
def woken (s : State) (core pos lane : Nat) (u : Troupe) : State :=
  setTroupe s core pos (setThread u lane { threadOf u lane with st := .runnable })

/-! ## Symbols and store-buffer entries -/

/-- A register pending on a symbol as a load leaves it: scale 1 and offset 0 in the lanes that take part (R139). -/
def PendingOn (x : Ctx) (sym : Nat) (r : Reg) : Prop :=
  r.entry = .pending ∧ r.sym = sym ∧ r.chain = [] ∧
    ∀ l, l < 32 → laneOf r.scale l = (if x.live.getLsbD l then 1 else 0) ∧ laneOf r.vals l = 0

/-- A load's or atomic's symbol as it is taken: it asks for the live lanes, none of which has come (R138, R151). -/
def FreshSymbol (x : Ctx) (y : Symbol) (kind : LoadKind) (acq : Option Nat) : Prop :=
  y.pos = x.pos ∧ y.kind = kind ∧ y.lanes = x.live ∧ y.arrived = 0 ∧ y.faulted = 0 ∧ y.seq = x.t.seq ∧ y.acq = acq

/-- Lane operations enter the troupe's store buffer, one entry for each distinct unit of bytes they name, behind what it held; each
belongs to the clause's batch (R349, R363). -/
def EntersBuffer (x u : Ctx) (unit : Nat) (kind : SBKind) (release : Option Nat) (ops : List LaneOp) : Prop :=
  ∃ es : List SBEntry, u.t.sb = x.t.sb ++ es ∧ es.map SBEntry.ops = grouped unit ops ∧
    u.cl.entries = x.cl.entries ++ es.map SBEntry.id ∧
    ∀ e ∈ es, e.kind = kind ∧ e.release = release ∧ e.sent = false

/-- The bytes that each lane stores: the low bytes of its data, at its location. -/
def laneBytes (s : State) (x : Ctx) (ty : Nat) (ops : List Operand) : List (Loc × List Byte) :=
  (maskLanes x.live).filterMap fun l => (tabGet? (found x) l).map fun loc =>
    (loc, ops.flatMap fun o => leBytes (typeWidth ty / 8) (dataOf s x ty o l))

/-- Returning atomics and their entries' kind over the symbol of the reply (R354). -/
def returningAtomics (f : FM) : List (Instr × (Nat → SBKind)) :=
  [(.amoAdd f, fun id => .atomic false 0 f.ty.toNat id), (.amoMins f, fun id => .atomic false 1 f.ty.toNat id),
   (.amoMinn f, fun id => .atomic false 2 f.ty.toNat id), (.amoMaxs f, fun id => .atomic false 3 f.ty.toNat id),
   (.amoMaxn f, fun id => .atomic false 4 f.ty.toNat id), (.amoAnd f, fun id => .atomic false 5 f.ty.toNat id),
   (.amoOr f, fun id => .atomic false 6 f.ty.toNat id), (.amoXor f, fun id => .atomic false 7 f.ty.toNat id),
   (.amoExch f, fun id => .atomic false 8 f.ty.toNat id), (.amofAdd f, fun id => .atomic true 0 f.ty.toNat id),
   (.amofMin f, fun id => .atomic true 1 f.ty.toNat id), (.amofMax f, fun id => .atomic true 2 f.ty.toNat id),
   (.amofExch f, fun id => .atomic true 3 f.ty.toNat id)]

/-- Updates and their entries' kind (R355). -/
def updates (f : FM) : List (Instr × SBKind) :=
  [(.redAdd f, .update false 0 f.ty.toNat), (.redMins f, .update false 1 f.ty.toNat), (.redMinn f, .update false 2 f.ty.toNat),
   (.redMaxs f, .update false 3 f.ty.toNat), (.redMaxn f, .update false 4 f.ty.toNat), (.redAnd f, .update false 5 f.ty.toNat),
   (.redOr f, .update false 6 f.ty.toNat), (.redXor f, .update false 7 f.ty.toNat), (.redfAdd f, .update true 0 f.ty.toNat),
   (.redfMin f, .update true 1 f.ty.toNat), (.redfMax f, .update true 2 f.ty.toNat)]

/-- Memory instructions that access an element for each lane, with the access size in bytes and the operands they read (R350,
R351, R354, R355). -/
def elementAccesses (f : FM) : List (Instr × Nat × List Operand) :=
  let n := typeWidth f.ty.toNat / 8
  [(.ld f, n, [f.a]), (.ld2 f, 2 * n, [f.a]), (.st f, n, [f.a, f.d]), (.st2 f, 2 * n, [f.a, f.d, f.e]), (.cas f, n, [f.a, f.d, f.e])] ++
    ((returningAtomics f).map fun e => (e.1, n, [f.a, f.e])) ++ (updates f).map fun e => (e.1, n, [f.a, f.e])

end Sys2Proof.Machine
end

