-- ==== Sys2Proof/Certificates/Slice0/Obligations.lean ====
section
/-!
DEFINITION. What is claimed of the machine, one definition for each claim. Claims over "lanes" are over the lanes that take part in
the running clause; `Records` says in full what an instruction's state is, so it is a frame as well.
-/

open Sys2Proof Sys2Proof.Machine

/-! ## Encoding, stepping, reset -/

/-- R39, R50: words written out from the encoding tables decode to the instruction they stand for, one for each format, and a
reserved opcode and a set reserved bit decode to nothing. -/
def Obligations.WordsDecodeToTheirInstructions : Prop :=
  decode 0x00000000 0 = some .nop ∧
  decode 0x020C0822 0 = some (.add ⟨.x 3, .x 1, .x 2, false, false, 2⟩) ∧
  decode 0x061017FF 0 = some (.addi ⟨.x 4, .x 2, true, 0x3FF⟩) ∧
  decode 0x461C2860 0xF0020000 = some (.fma ⟨.x 7, .x 5, .x 6, false, false, 0, .zero, false, 0, 1, false, 0, 0⟩) ∧
  decode 0x34270000 0x80000000 = some (.moviShifted ⟨.x 9, .k 24, false, 0x80000000⟩) ∧
  decode 0x801C0802 0x30000000 = some (.ld ⟨.x 7, .x 1, false, 0, 0, 2, 6, 0, .x 0, false, false⟩) ∧
  decode 0x3800088E 0 = some (.cmpEq ⟨0, 0, .x 1, .x 8, true, true, 2⟩) ∧
  decode 0xC1FFFFFF 0 = some (.br ⟨-1⟩) ∧
  decode 0xB0000000 0 = none ∧
  decode 0x341FC001 0 = none

/-- R39, R44, R50, R51: decoding the words of any well-formed encoded instruction, and decoding their bytes in memory order, gives
back that instruction with every field. -/
def Obligations.DecodeInvertsEncode : Prop :=
  ∀ i : Instr, WellFormed i = true →
    decode ((encode i).getD 0 0) ((encode i).getD 1 0) = some i ∧
    decodeBytes ((encode i).flatMap wordBytes) = some i

/-- R36, R29, R30: where a clause is in execution and its cursor stands at a word that decodes to i, a step is i's meaning on the
state with the move counted; where the words are all executed, the step ends the clause's check, turns a performing clause to its
retirement and retires it, or takes up a retirement that waits.
R52, R35, R33: a word of the running clause that decodes to no instruction squashes the clause with cause 0x02 at the word's address, for
every lane of the issuing subset, active or not. -/
def Obligations.StepRunsTheClausesNextWord : Prop :=
  (∀ (s : State) (x : Ctx), ctxOf s = some x →
      (∀ (i : Instr) (w : Nat) (r : List Nat), x.cl.words.drop x.cl.cursor = w :: r → decode w (r.headD 0) = some i →
        step s = exec i { s with moves := s.moves + 1 }) ∧
      (x.cl.words.length ≤ x.cl.cursor → x.cl.phase = .check → step s = .next (endCheck { s with moves := s.moves + 1 } x)) ∧
      (x.cl.words.length ≤ x.cl.cursor → x.cl.phase = .perform →
        step s = exec (.clauseRetire x.core x.pos) (putClause { s with moves := s.moves + 1 } x { x.cl with phase := .retire })) ∧
      (x.cl.words.length ≤ x.cl.cursor → x.cl.phase = .retire →
        step s = exec (.clauseRetire x.core x.pos) { s with moves := s.moves + 1 })) ∧
  (∀ (s : State) (x : Ctx) (w : Nat) (r : List Nat), ctxOf s = some x → x.cl.words.drop x.cl.cursor = w :: r →
      decode w (r.headD 0) = none →
      step s = .next (squash { s with moves := s.moves + 1 } x 0x02 (x.cl.head + word (4 * (1 + x.cl.cursor))) x.cl.subset []))

/-! ## Integer lane instructions -/

/-- R180, R181, R183, R184, R185, R175: each two-source integer instruction of format A, in every pack mode, with its sources
settled in the lanes that take part, completes: the destination is recorded, in every lane that takes part, with the rule's formula on each pair of elements,
and nothing else of the machine changes but the clause's cursor. ZERO as destination records nothing.
R186, R175: the one-source integer instructions, likewise. -/
def Obligations.IntegerElementResults : Prop :=
  (∀ (f : FA) (s : State) (x : Ctx), ctxOf s = some x → settledOps x [f.a, f.b] = true →
      ∀ e ∈ integerBinary f, ∃ t, exec e.1 s = .next t ∧
        Records s x 1 f.d (fun l => packed (packWidth f.pack.toNat) fun i =>
          e.2 (packWidth f.pack.toNat)
            (elemAt (packWidth f.pack.toNat) i (valueOf s x (.int (packWidth f.pack.toNat)) f.a l))
            (elemAt (packWidth f.pack.toNat) i (valueOf s x (.int (packWidth f.pack.toNat)) f.b l))) 0 t) ∧
  (∀ (f : FA) (s : State) (x : Ctx), ctxOf s = some x → settledOps x [f.a] = true →
      ∀ e ∈ integerUnary f, ∃ t, exec e.1 s = .next t ∧
        Records s x 1 f.d (fun l => packed (packWidth f.pack.toNat) fun i =>
          e.2 (packWidth f.pack.toNat)
            (elemAt (packWidth f.pack.toNat) i (valueOf s x (.int (packWidth f.pack.toNat)) f.a l))) 0 t)

/-- R190: the four integer divisions, element by element, with their corner results; the signed quotient of the most negative value
by -1 saturates only where the instruction says so.
R182, R187: multiply-add adds exactly and narrows once, saturating where asked; a field is extracted or inserted at the position
and length its control element names. -/
def Obligations.DivisionMultiplyAddAndFields : Prop :=
  (∀ (f : FX) (s : State) (x : Ctx), ctxOf s = some x → settledOps x [f.a, f.b] = true →
      ∀ e ∈ integerDivision f, ∃ t, exec e.1 s = .next t ∧
        Records s x 2 f.d (fun l => packed (packWidth f.pack.toNat) fun i =>
          e.2 (packWidth f.pack.toNat)
            (elemAt (packWidth f.pack.toNat) i (valueOf s x (.int (packWidth f.pack.toNat)) f.a l))
            (elemAt (packWidth f.pack.toNat) i (valueOf s x (.int (packWidth f.pack.toNat)) f.b l))) 0 t) ∧
  (∀ (f : FX) (s : State) (x : Ctx), ctxOf s = some x →
      let w := packWidth f.pack.toNat
      let el (o : Operand) (l i : Nat) : Nat := elemAt w i (valueOf s x (.int w) o l)
      let num (v : Nat) : Int := if f.imm.getLsbD 0 then toSigned w v else v
      (settledOps x [f.a, f.b, f.c] = true → ∃ t, exec (.mad f) s = .next t ∧ Records s x 2 f.d (fun l => packed w fun i =>
        let v := num (el f.a l i) * num (el f.b l i) + num (el f.c l i)
        ofSigned w (if f.sat then saturate (f.imm.getLsbD 0) w v else v)) 0 t) ∧
      (settledOps x [f.a, f.b] = true → ∃ t, exec (.bfe f) s = .next t ∧ Records s x 2 f.d (fun l => packed w fun i =>
        let p := fieldOf w (el f.b l i)
        let v := (el f.a l i >>> p.1) % 2 ^ p.2
        if p.2 = 0 then 0 else if f.imm.getLsbD 0 then ofSigned w (toSigned p.2 v) else v) 0 t) ∧
      (settledOps x [f.a, f.b, f.c] = true → ∃ t, exec (.bfi f) s = .next t ∧ Records s x 2 f.d (fun l => packed w fun i =>
        let p := fieldOf w (el f.c l i)
        let a := el f.a l i
        a % 2 ^ p.1 + el f.b l i % 2 ^ p.2 * 2 ^ p.1 + a / 2 ^ (p.1 + p.2) * 2 ^ (p.1 + p.2)) 0 t))

/-- R180, R188, R189, R191, R192, R194, R195, R196: the remaining integer instructions complete with these results. -/
def Obligations.MovesSelectsAndConversions : Prop :=
  ∀ (s : State) (x : Ctx), ctxOf s = some x →
    (∀ f : FB, settledOps x [f.a] = true → ∃ t, exec (.addi f) s = .next t ∧
      Records s x 1 f.d (fun l => word64 s x f.a l + f.imm.signExtend 64) 0 t) ∧
    (∀ f : FX, settledOps x [f.a, f.b, f.c] = true → ∃ t, exec (.lea f) s = .next t ∧
      Records s x 2 f.d (fun l => word64 s x f.a l + word64 s x f.b l <<< (f.imm.toNat % 16) + word64 s x f.c l) 0 t) ∧
    (∀ f : FX, settledOps x [f.a, f.b] = true → ∃ t, exec (.sel f) s = .next t ∧
      Records s x 2 f.d (fun l =>
        if predOf x.t (f.imm.toNat % 8) l = f.imm.getLsbD 3 then laneOf (operand s x (anyView 0 f.b) f.b).vals l
        else laneOf (operand s x (anyView 0 f.a) f.a).vals l) 0 t) ∧
    (∀ f : FL, ∃ t, exec (.movi f) s = .next t ∧ Records s x 2 f.d (fun _ => f.imm.signExtend 64) 0 t) ∧
    (∀ f : FL, settledOps x [f.a] = true → ∃ t, exec (.moviShifted f) s = .next t ∧
      Records s x 2 f.d (fun l => word64 s x f.a l <<< 32 + f.imm.signExtend 64) 0 t) ∧
    (∀ f : FA, settledOps x [f.a] = true → ∃ t, exec (.mov f) s = .next t ∧
      Records s x 1 f.d (fun l => laneOf (operand s x (anyView f.pack.toNat f.a) f.a).vals l) 0 t) ∧
    (∀ f : FC, ∃ t, exec (.plTomask f) s = .next t ∧
      Records s x 1 f.a (fun l => if predOf x.t f.q.toNat l then BitVec.allOnes 64 else 0) 0 t) ∧
    (∀ f : FX, settledOps x [f.a] = true → ∃ t, exec (.icvt f) s = .next t ∧
      let dst := intCode f.fn.toNat
      let src := intCode (bits f.imm.toNat 11 8)
      Records s x 2 f.d (fun l => word (packElems dst.2 (2 ^ f.pack.toNat) fun i =>
        let e := elemAt src.2 i (valueOf s x (.int src.2) f.a l)
        let v : Int := if src.1 then toSigned src.2 e else e
        ofSigned dst.2 (if f.sat then saturate dst.1 dst.2 v else v))) 0 t) ∧
    (exec .nop s = .next (putClause s x (stepped x.cl 1)))

/-- R193, R194, R31: a compare holds in a lane where its condition holds for every pair of elements; predicate operations read the
predicates as the clause began; p7 takes nothing. -/
def Obligations.ComparesAndPredicates : Prop :=
  ∀ (f : FC) (s : State) (x : Ctx), ctxOf s = some x →
    (settledOps x [f.a, f.b] = true → ∀ e ∈ integerCompare f, ∃ t p, exec e.1 s = .next t ∧ RecordsPred s x 1 f.q.toNat p 0 t ∧
      ∀ l, p l = true ↔ ∀ i, i < 64 / packWidth f.pack.toNat →
        e.2 (packWidth f.pack.toNat)
          (elemAt (packWidth f.pack.toNat) i (valueOf s x (.int (packWidth f.pack.toNat)) f.a l))
          (elemAt (packWidth f.pack.toNat) i (valueOf s x (.int (packWidth f.pack.toNat)) f.b l))) ∧
    (∀ e ∈ predicateOps f, ∃ t, exec e.1 s = .next t ∧
      RecordsPred s x 1 f.q.toNat (fun l => e.2 (predOf x.t (f.a.code % 8) l) (predOf x.t (f.b.code % 8) l)) 0 t) ∧
    (settledOps x [f.a] = true → ∃ t, exec (.plFrommask f) s = .next t ∧
      RecordsPred s x 1 f.q.toNat (fun l => (word64 s x f.a l).getLsbD l) 0 t)

/-- R142, R141, R147: where exactly one source is pending, on an integer form and in a place the rule lists, with pack mode 00 in a
clause that is not strict, and the use has not been found blocking, the instruction does not wait: it records a form over the
same symbol, and whatever value S the symbol brings in a lane, the form's value there is what the instruction gives on the
source's value.
R143: the f64 sum, difference, product and fused product do the same where the pending source is a or b, holds the value itself or fewer
than three recorded operations, and neither `.abs` nor saturation applies to it: they record one operation more over the same symbol, and
replaying it on any value of the pending source gives what the instruction gives on that value, flags among it; a live lane of which the value
is there is computed at once. R145: an arriving value replays the recorded operations in order, in its own lane alone. -/
def Obligations.IntegerForwardingIsExact : Prop :=
  (∀ (fa : FA) (fb : FB) (fx : FX) (s : State) (x : Ctx), ctxOf s = some x → x.cl.hdr.strict = false → fa.pack = 0 →
    ∀ e ∈ forwarding s x fa fb fx, ∀ r : Reg,
      holdsPending e.2.1 = true → regOperand x (e.2.2.1.getD e.2.2.2.2.1 .zero) = some r →
      pendMask r ≠ 0 → r.chain = [] → foundBlocking x r = false →
      notPending x (e.2.2.1.eraseIdx e.2.2.2.2.1) = true →
      ∃ (t : State) (n : Reg), exec e.1 s = .next t ∧
        t = putClause s x (stepped (writeD x x.cl e.2.1 n) e.2.2.2.1) ∧
        ∀ l, x.live.getLsbD l = true → ∀ v : Word,
          (if n.entry = .pending then laneOf n.scale l * v + laneOf n.vals l else laneOf n.vals l) =
            e.2.2.2.2.2 l (laneOf r.scale l * v + laneOf r.vals l)) ∧
  (∀ (f : FX) (s : State) (x : Ctx), ctxOf s = some x → x.cl.hdr.strict = false → f.pack = 0 → f.sat = false → holdsPending f.d = true →
    ∀ e ∈ (floatElements f (rndOf x f) false).take 4, ∀ (i : Nat) (r : Reg), i < 2 → (i = 0 → absA f = false) →
      regOperand x (e.2.1.getD i .zero) = some r → pendMask r &&& x.live ≠ 0 → foundBlocking x r = false → r.chain.length < 3 →
      (r.chain = [] → ∀ l, x.live.getLsbD l = true → laneOf r.scale l = 1 ∧ laneOf r.vals l = 0) →
      notPending x (e.2.1.eraseIdx i) = true →
      let on (l : Nat) (v : Word) : Nat × Nat := e.2.2 (fmtOf 0)
        (if i = 0 then fpIn (fmtOf 0) false (absA f) (negA f) v.toNat else fpSource s x 0 (absA f) (negA f) f.a l 0)
        (if i = 1 then fpIn (fmtOf 0) false false (negB f) v.toNat else fpSource s x 0 false (negB f) f.b l 0)
        (fpSource s x 0 false (negC f) f.c l 0)
      ∃ (t : State) (n : Reg) (o : ChainOp) (fl : Nat), exec e.1 s = .next t ∧
        t = putClause s x (stepped (addFlags (writeD x x.cl f.d n) fl) 2) ∧ n.entry = .pending ∧ n.sym = r.sym ∧
        n.chain = r.chain ++ [o] ∧ pendMask n = pendMask r &&& x.live ∧
        (∀ l, x.live.getLsbD l = true → ∀ v : Word, replayOp o l (v.toNat, 0) = on l v) ∧
        (∀ l, x.live.getLsbD l = true → (pendMask r).getLsbD l = false → laneOf n.vals l = word (on l (laneOf r.vals l)).1) ∧
        fl = orAll ((maskLanes (x.live &&& ~~~pendMask r)).map fun l => (on l (laneOf r.vals l)).2)) ∧
  (∀ (r : Reg) (l : Nat) (v : Word), (pendMask r).getLsbD l = true → r.chain ≠ [] →
      let w := r.chain.foldl (fun a o => replayOp o l a) (v.toNat, 0)
      let q := resolveLane r l v
      laneOf q.1.vals l = word w.1 ∧ q.2 = w.2 ∧ (pendMask q.1).getLsbD l = false ∧
        ∀ m, m < 32 → m ≠ l → laneOf q.1.vals m = laneOf r.vals m ∧ (pendMask q.1).getLsbD m = (pendMask r).getLsbD m)

/-! ## Floating lane instructions -/

/-- R197 to R203, R168: each floating instruction on one format reads its sources through flushing, absolute value and negation,
records in every lane that takes part the element values its rule gives, and adds their flags. -/
def Obligations.FloatingResults : Prop :=
  ∀ (f : FX) (s : State) (x : Ctx), ctxOf s = some x →
    ∀ e ∈ floatElements f (rndOf x f) (flushBit x.t.mode f.pack.toNat), settledOps x e.2.1 = true →
      let fm := fmtOf f.pack.toNat
      let g (l i : Nat) : Nat × Nat := e.2.2 fm (fpSource s x f.pack.toNat (absA f) (negA f) f.a l i)
        (fpSource s x f.pack.toNat false (negB f) f.b l i) (fpSource s x f.pack.toNat false (negC f) f.c l i)
      ∃ t, exec e.1 s = .next t ∧
        Records s x 2 f.d (fun l => packed fm.w fun i => (g l i).1)
          (orAll ((maskLanes x.live).flatMap fun l => (List.range (64 / fm.w)).map fun i => (g l i).2)) t

/-- R202, R210, R212: square root, rounding to an integer and scaling: a NaN gives its quiet form, infinities and zeros pass, the
root of a negative number is invalid, and everything else is the rounded exact value. -/
def Obligations.RootRoundAndScaleResults : Prop :=
  ∀ (f : FX) (s : State) (x : Ctx), ctxOf s = some x → settledOps x [f.a] = true →
    let fm := fmtOf f.pack.toNat
    let fz := flushBit x.t.mode f.pack.toNat
    let a (l i : Nat) : Nat := fpSource s x f.pack.toNat (absA f) (negA f) f.a l i
    let b (l i : Nat) : Int := toSigned fm.w (elemAt fm.w i (valueOf s x (.int fm.w) f.b l))
    let flags (g : Nat → Nat → Nat × Nat) : Nat :=
      orAll ((maskLanes x.live).flatMap fun l => (List.range (64 / fm.w)).map fun i => (g l i).2)
    let out (n : Instr) (g : Nat → Nat → Nat × Nat) : Prop := ∃ t, exec n s = .next t ∧
      Records s x 2 f.d (fun l => packed fm.w fun i => (g l i).1) (flags g) t
    out (.fsqrt f) (fun l i => match nanResult fm [a l i], fm.val (a l i) with
      | some n, _ => n
      | none, .inf true => (fm.canon, flNV)
      | none, .inf false => (fm.infMag, 0)
      | none, .fin neg m e => if m = 0 then (a l i, 0) else if neg then (fm.canon, flNV)
          else fpOut fm (rndOf x f) false fz (rootOf m e)
      | none, .nan => (fm.canon, 0)) ∧
    out (.frnd f) (fun l i => match nanResult fm [a l i], fm.val (a l i) with
      | some n, _ => n
      | none, .fin neg m e =>
        ((fpOut fm 1 false false (.fin neg (roundGrid (rndOf x f) 0 neg m e).1.natAbs 0)).1,
          if (roundGrid (rndOf x f) 0 neg m e).2 then flNX else 0)
      | none, _ => (a l i, 0)) ∧
    (settledOps x [f.b] = true → out (.fscale f) (fun l i => match nanResult fm [a l i], fm.val (a l i) with
      | some n, _ => n
      | none, .fin neg m e => if m = 0 then (a l i, 0) else fpOut fm (rndOf x f) f.sat fz (.fin neg m (e + b l i))
      | none, _ => (a l i, 0)))

/-- R200, R201, R211: sign operations and classification work on raw bits and set no flag; a compare is the AND over elements and
sets NV for every NaN, or for signalling ones only where the rule says so. -/
def Obligations.SignsClassesAndFloatCompares : Prop :=
  (∀ (f : FX) (s : State) (x : Ctx), ctxOf s = some x → settledOps x [f.a] = true →
    let fm := fmtOf f.pack.toNat
    let el (o : Operand) (l i : Nat) : Nat := elemAt fm.w i (valueOf s x (.fp f.pack.toNat) o l)
    let out (n : Instr) (g : Nat → Nat → Nat) : Prop := ∃ t, exec n s = .next t ∧ Records s x 2 f.d (fun l => packed fm.w (g l)) 0 t
    (settledOps x [f.b] = true → out (.fsgnCopy f) (fun l i => fm.mag (el f.a l i) + fm.signBit (fm.sign (el f.b l i))) ∧
    out (.fsgnCopyneg f) (fun l i => fm.mag (el f.a l i) + fm.signBit (!fm.sign (el f.b l i))) ∧
    out (.fsgnXor f) (fun l i => fm.mag (el f.a l i) + fm.signBit (xor (fm.sign (el f.a l i)) (fm.sign (el f.b l i))))) ∧
    out (.fclass f) (fun l i => classOf fm (el f.a l i))) ∧
  (∀ (f : FC) (s : State) (x : Ctx), ctxOf s = some x → settledOps x [f.a, f.b] = true →
    let fm := fmtOf f.pack.toNat
    let a (l i : Nat) : Nat := fpSource s x f.pack.toNat false false f.a l i
    let b (l i : Nat) : Nat := fpSource s x f.pack.toNat false false f.b l i
    ∀ e ∈ floatCompare f, ∃ t p fl, exec e.1 s = .next t ∧ RecordsPred s x 1 f.q.toNat p fl t ∧
      (∀ l, p l = true ↔ ∀ i, i < 64 / fm.w → e.2.2 fm (a l i) (b l i) = true) ∧
      (fl = flNV ∨ fl = 0) ∧
      (fl = flNV ↔ ∃ l i, x.live.getLsbD l = true ∧ i < 64 / fm.w ∧
        (if e.2.1 then fm.isSNaN (a l i) || fm.isSNaN (b l i) else fm.isNaN (a l i) || fm.isNaN (b l i)) = true))

/-- R195, R206 to R209, R213: conversions and the two-product sum, with their flags; mode 110 mixes the seed operand into each
element's random number. -/
def Obligations.ConversionsAndDotProducts : Prop :=
  ∀ (f : FX) (s : State) (x : Ctx), ctxOf s = some x → settledOps x [f.a] = true →
    let sc := bits f.imm.toNat 11 8
    let rnd (l i : Nat) : Nat := if rndOf x f = 6 then mixSeed (word64 s x f.c l) i else 0
    let out (n : Instr) (w k : Nat) (g : Nat → Nat → Nat × Nat) : Prop := ∃ t, exec n s = .next t ∧
      Records s x 2 f.d (fun l => word (packElems w k fun i => (g l i).1))
        (orAll ((maskLanes x.live).flatMap fun l => (List.range k).map fun i => (g l i).2)) t
    let fpEl (l i : Nat) : Nat := elemAt (fmtOf sc).w i (valueOf s x (.fp sc) f.a l)
    ((f.rnd = 6 → settledOps x [f.c] = true) → out (.fcvt f) (fmtOf f.fn.toNat).w (2 ^ f.pack.toNat) (fun l i =>
      convert (fmtOf sc) (fmtOf f.fn.toNat) (rndOf x f) (rnd l i) f.sat (flushBit x.t.mode sc) (flushBit x.t.mode f.fn.toNat) (fpEl l i)) ∧
    out (.ficvt f) (intCode f.fn.toNat).2 (2 ^ f.pack.toNat) (fun l i =>
      roundInt (intCode f.fn.toNat).1 (intCode f.fn.toNat).2 (rndOf x f) (rnd l i) f.sat
        ((fmtOf sc).val (flushRaw (fmtOf sc) (flushBit x.t.mode sc) (fpEl l i)))) ∧
    out (.ifcvt f) (fmtOf f.fn.toNat).w (2 ^ f.pack.toNat) (fun l i =>
      let e := elemAt (intCode sc).2 i (valueOf s x (.int (intCode sc).2) f.a l)
      let v : Int := if (intCode sc).1 then toSigned (intCode sc).2 e else e
      fpOutR (fmtOf f.fn.toNat) (rndOf x f) (rnd l i) f.sat (flushBit x.t.mode f.fn.toNat) (.fin (decide (v < 0)) v.natAbs 0))) ∧
    (let src := fmtOf f.pack.toNat
     let ac := if f.pack.toNat = 1 then 0 else 1
     let acc := fmtOf ac
     let av (l i : Nat) : Nat := fpSource s x f.pack.toNat false (negA f) f.a l i
     let bv (l i : Nat) : Nat := fpSource s x f.pack.toNat false (negB f) f.b l i
     let cv (l i : Nat) : Nat := fpSource s x ac false (negC f) f.c l i
     settledOps x [f.b, f.c] = true → out (.fdot2 f) acc.w (64 / acc.w) (fun l j =>
       let ps := [av l (2 * j), bv l (2 * j), av l (2 * j + 1), bv l (2 * j + 1)]
       if ps.any src.isNaN || acc.isNaN (cv l j) then
         (acc.canon, if ps.any src.isSNaN || acc.isSNaN (cv l j) then flNV else 0)
       else match dotValue src acc (av l (2 * j)) (bv l (2 * j)) (av l (2 * j + 1)) (bv l (2 * j + 1)) (cv l j) (rndOf x f) with
         | none => (acc.canon, flNV)
         | some v => fpOut acc (rndOf x f) f.sat (flushBit x.t.mode ac) v))

/-! ## Crossbar -/

/-- R215, R217, R218: a permute reads the lane and element its selector names, and zero from a lane that takes no part or where the
selector says so; a shuffle reads the lane its form names, else keeps its own value. -/
def Obligations.PermutesAndShuffles : Prop :=
  ∀ (f : FX) (s : State) (x : Ctx), ctxOf s = some x → settledOps x [f.a, f.b] = true →
    let w := packWidth f.pack.toNat
    (∃ t, exec (.perm f) s = .next t ∧ Records s x 2 f.d (fun l => packed w fun i =>
      let p := permField w (elemAt w i (valueOf s x (.int w) f.b l))
      if p.2.2 = true ∨ x.live.getLsbD p.1 = false then 0 else elemAt w p.2.1 (valueOf s x (.int w) f.a p.1)) 0 t) ∧
    (∀ e ∈ shuffles f, ∃ t, exec e.1 s = .next t ∧ Records s x 2 f.d (fun l =>
      match e.2 l (2 ^ (5 - f.imm.toNat % 8)) (word64 s x f.b l).toNat with
      | some m => if x.live.getLsbD m then word64 s x f.a m else word64 s x f.a l
      | none => word64 s x f.a l) 0 t)

/-- R219, R220, R222: ballots collect the predicate of the lanes that take part, votes combine it, and radix selection narrows its
candidates by a bit plane or fills up with the lowest ones. -/
def Obligations.BallotsVotesAndSelection : Prop :=
  ∀ (f : FX) (s : State) (x : Ctx), ctxOf s = some x →
    let p (l : Nat) : Bool := xor (predOf x.t (f.imm.toNat % 8) l) (f.imm.getLsbD 3)
    let out (n : Instr) (v : Nat → Word) : Prop := ∃ t, exec n s = .next t ∧ Records s x 2 f.d v 0 t
    out (.ballot f) (fun _ => (maskOf fun l => x.live.getLsbD l && p l).zeroExtend 64) ∧
    (∃ b : Bool, out (.voteAll f) (fun _ => if b then 1 else 0) ∧ (b = true ↔ ∀ l, x.live.getLsbD l = true → p l = true)) ∧
    (∃ b : Bool, out (.voteAny f) (fun _ => if b then 1 else 0) ∧ (b = true ↔ ∃ l, x.live.getLsbD l = true ∧ p l = true)) ∧
    (settledOps x [f.a] = true →
      ∃ b : Bool, out (.voteUni f) (fun _ => if b then 1 else 0) ∧
        (b = true ↔ ∀ l m, x.live.getLsbD l = true → x.live.getLsbD m = true → word64 s x f.a l = word64 s x f.a m)) ∧
    (settledOps x [f.a, f.c] = true → out (.ballotPlane f) (fun l =>
      let m := maskOf fun m => x.live.getLsbD m && (word64 s x f.c l).getLsbD m && (word64 s x f.a m).getLsbD (f.imm.toNat % 64)
      word (m.toNat + ((List.range 32).filter fun i => m.getLsbD i).length * 2 ^ 32))) ∧
    (settledOps x [f.a, f.b] = true →
      let k := f.imm.toNat % 64
      let c (l : Nat) : BitVec 32 := (word64 s x f.a l).extractLsb' 0 32
      let d (l : Nat) : BitVec 32 := (word64 s x f.a l).extractLsb' 32 32
      let ones (l : Nat) : BitVec 32 := (word64 s x f.b l).extractLsb' 0 32 &&& c l
      let popc (m : BitVec 32) : Nat := ((List.range 32).filter fun i => m.getLsbD i).length
      let lowest (m : BitVec 32) (n : Nat) : BitVec 32 :=
        BitVec.ofNat 32 (((((List.range 32).filter fun i => m.getLsbD i).take n).map fun i => 2 ^ i).sum)
      let state (d c : BitVec 32) : Word := word (d.toNat * 2 ^ 32 + c.toNat)
      out (.rsel f) (fun l =>
        if k < popc (d l) + popc (c l) then
          (if k ≤ popc (d l) + popc (ones l) then state (d l) (ones l) else state (d l ||| ones l) (c l &&& ~~~ones l))
        else state (d l) (c l)) ∧
      out (.rselFin f) (fun l => state (d l ||| lowest (c l) (k - popc (d l))) 0))

/-- R221: a reduction combines, in ascending lane order, the values of the lanes that take part in the lane's segment; a scan those
at or below the lane (below it, where exclusive), an empty set giving the identity. -/
def Obligations.ReductionsAndScans : Prop :=
  ∀ (f : FX) (s : State) (x : Ctx), ctxOf s = some x → settledOps x [f.a] = true →
    ∀ e ∈ reductions f,
      let view : View := if e.2.2.1 then .fp f.pack.toNat else .int (packWidth f.pack.toNat)
      let g (l : Nat) : Word × Nat :=
        runCombine (e.2.2.2 x) (((maskLanes x.live).filter fun m =>
          m / 2 ^ (5 - f.imm.toNat % 8) == l / 2 ^ (5 - f.imm.toNat % 8) &&
            (!e.2.1 || (if f.imm.getLsbD 3 then decide (m < l) else decide (m ≤ l)))).map (laneOf (operand s x view f.a).vals))
      ∃ t, exec e.1 s = .next t ∧ Records s x 2 f.d (fun l => (g l).1) (orAll ((maskLanes x.live).map fun l => (g l).2)) t

/-! ## Memory instructions -/

/-- R138, R139, R350, R361: a performing load whose address register is settled, and a fill, complete: each x, c or ZERO destination
becomes pending, in the lanes that take part, on a fresh symbol that carries the places found when the clause was checked, in the
troupe's program order; an acquire of `ld` is noted. By these nothing is committed and every byte of memory reads as before. A k
destination of `ld2` is never pending: once the lowest lane's place may be read, it takes its half of the pair there, extended by its type; the other
destination, unless it is a k register too, becomes pending as before. -/
def Obligations.LoadsBecomePending : Prop :=
  ∀ (f : FM) (s : State) (x : Ctx), ctxOf s = some x → performing x = true → x.live ≠ 0 → notPending x [f.a] = true →
    settledOps x [f.a] = true →
    let id := nextSymbol s x
    let n := typeWidth f.ty.toNat / 8
    (∃ t u y r, exec (.ld f) s = .next t ∧ ctxOf t = some u ∧ symbolAt t x.core id = some y ∧
      FreshSymbol x y (.element f.ty.toNat) (acquireScope f) ∧ y.locs = found x ∧ y.dep = none ∧ nextSymbol t u = id + 1 ∧
      PendingOn x id r ∧ u.cl = stepped (writeD x { x.cl with symbols := x.cl.symbols ++ [id] } f.d r) 2 ∧
      u.t.seq = x.t.seq + 1 ∧ (x.t.seq ∈ u.t.acquires ↔ x.t.seq ∈ x.t.acquires ∨ f.ord.getLsbD 0 = true) ∧ NothingCommitted s t x) ∧
    (f.d.isK = false → f.e.isK = false → ∃ t u y y' r r', exec (.ld2 f) s = .next t ∧ ctxOf t = some u ∧ symbolAt t x.core id = some y ∧
      symbolAt t x.core (id + 1) = some y' ∧ FreshSymbol x y (.lower f.ty.toNat (id + 1)) (acquireScope f) ∧
      y'.kind = .upper f.ty.toNat id ∧ y'.lanes = x.live ∧ y.locs = found x ∧ nextSymbol t u = id + 2 ∧
      PendingOn x id r ∧ PendingOn x (id + 1) r' ∧
      u.cl = stepped (writeD x (writeD x { x.cl with symbols := x.cl.symbols ++ [id, id + 1] } f.d r) f.e r') 2 ∧
      NothingCommitted s t x) ∧
    (∀ b l, lowLane x.live = some b → tabGet? (found x) b = some l → inlineRevoked s x [(b, l)] = [] → inlineReady s x [(l, 2 * n)] = true →
      let bs := (readOwn s x.core x.t x.t.seq l (2 * n)).2
      (f.d.isK = true → f.e.isK = true → ∃ t s', exec (.ld2 f) s = .next t ∧
        t = putClause s' x (stepped (writeLanes x (writeLanes x x.cl f.d fun _ => extElem f.ty.toNat (leNat (bs.take n))) f.e fun _ =>
          extElem f.ty.toNat (leNat ((bs.drop n).take n))) 2)) ∧
      (f.d.isK ≠ f.e.isK → ∃ t u r r', exec (.ld2 f) s = .next t ∧ ctxOf t = some u ∧ PendingOn x id r ∧ PendingOn x (id + 1) r' ∧
        u.cl = stepped (writeHalf x (writeHalf x { x.cl with symbols := x.cl.symbols ++ [id, id + 1] } f.d f.ty.toNat 0 r bs)
          f.e f.ty.toNat 1 r' bs) 2)) ∧
    (∃ t u y r, exec (.fill f) s = .next t ∧ ctxOf t = some u ∧ symbolAt t x.core id = some y ∧ FreshSymbol x y .image none ∧
      y.locs = found x ∧ PendingOn x id r ∧
      u.cl = stepped (writeD x { x.cl with symbols := x.cl.symbols ++ [id] } f.d r) 2 ∧ NothingCommitted s t x)

/-- R148, R149: a relaxed load into an x register whose address register is pending on an integer form, in a clause that is not
strict, does not wait for the address: its symbol depends on the address's symbol, with scale and offset of the address in every
lane still to come, and the destination is pending on the new symbol. -/
def Obligations.DeferredLoadsDependOnTheirAddress : Prop :=
  ∀ (f : FM) (n : BitVec 6) (r : Reg) (s : State) (x : Ctx), ctxOf s = some x → performing x = true → x.live ≠ 0 →
    x.cl.hdr.strict = false → f.ord = 0 → f.d = .x n → regOperand x f.a = some r → pendMask r ≠ 0 → r.chain = [] →
    foundBlocking x r = false →
    ∃ t u y q, exec (.ld f) s = .next t ∧ ctxOf t = some u ∧ symbolAt t x.core (nextSymbol s x) = some y ∧
      y.kind = .element f.ty.toNat ∧ y.lanes = x.live ∧ y.dep = some r.sym ∧
      (∀ l, l < 32 → laneOf y.depScale l = (if x.live.getLsbD l then laneOf r.scale l else 0) ∧
        laneOf y.depOff l = laneOf r.vals l + memOffset f (typeWidth f.ty.toNat / 8)) ∧
      PendingOn x (nextSymbol s x) q ∧ tabGet? u.cl.xw n.toNat = some q ∧ NothingCommitted s t x

/-- R351, R136, R363: a performing store with settled operands and room in the store buffer completes: the low bytes of its data,
lane by lane in ascending order, at the places found when the clause was checked, enter the troupe's store buffer sector by sector,
and every byte of memory reads as before. -/
def Obligations.StoresEnterTheStoreBuffer : Prop :=
  ∀ (f : FM) (s : State) (x : Ctx), ctxOf s = some x → performing x = true → x.live ≠ 0 → deferredOpen s x.core x.pos = false →
    let goes (i : Instr) (rel : Option Nat) (ws : List (Loc × List Byte)) : Prop :=
      x.t.sb.length + storeNeeds x.t rel ((sectorStores ws).map fun g => g.1) ≤ 64 →
      ∃ t, exec i s = .next t ∧ NothingCommitted s t x ∧
        t = putClause s ((sectorStores ws).foldl (fun y g => addStore y s.cycle rel g.1 g.2) x)
          (stepped ((sectorStores ws).foldl (fun y g => addStore y s.cycle rel g.1 g.2) x).cl 2)
    (settledOps x [f.a, f.d] = true → goes (.st f) (releaseScope f) (laneBytes s x f.ty.toNat [f.d])) ∧
    (settledOps x [f.a, f.d, f.e] = true → goes (.st2 f) (releaseScope f) (laneBytes s x f.ty.toNat [f.d, f.e])) ∧
    (∀ b, lowLane x.live = some b → settledOps x [f.a] = true →
      goes (.stk f) (releaseScope f) ((locsOf (found x)).map fun loc =>
        (loc, leBytes (typeWidth f.ty.toNat / 8) (dataOf s x f.ty.toNat f.d b)))) ∧
    (∀ b, lowLane x.live = some b → settledOps x [f.a, f.d] = true →
      let img := imageOf x.live (operand s x (.int 64) f.d).vals
      goes (.spill f) none ((pieces (memAddr s x f 8 b) img.length).filterMap fun p =>
        (tabGet? (found x) p.1).map fun loc => (loc, (img.drop p.1).take p.2)))

/-- R354, R138, R349: a performing returning atomic with settled operands and room completes: its operations enter the store buffer,
one entry for each sector, and its destination becomes pending on the symbol that their replies fill. -/
def Obligations.ReturningAtomicsEnterTheStoreBuffer : Prop :=
  ∀ (f : FM) (s : State) (x : Ctx), ctxOf s = some x → performing x = true → x.live ≠ 0 → deferredOpen s x.core x.pos = false →
    let id := nextSymbol s x
    let goes (i : Instr) (kind : Nat → SBKind) (val val2 : Nat → Word) : Prop :=
      x.t.sb.length + (grouped 64 (laneOps x val val2)).length ≤ 64 →
      ∃ t u y r, exec i s = .next t ∧ ctxOf t = some u ∧ symbolAt t x.core id = some y ∧
        FreshSymbol x y (.atomic f.ty.toNat) (acquireScope f) ∧ PendingOn x id r ∧
        EntersBuffer x u 64 (kind id) (releaseScope f) (laneOps x val val2) ∧
        (∀ n : BitVec 6, f.d = .x n → tabGet? u.cl.xw n.toNat = some r) ∧ NothingCommitted s t x
    (settledOps x [f.a, f.e] = true → ∀ e ∈ returningAtomics f,
      goes e.1 e.2 (fun l => word (dataOf s x f.ty.toNat f.e l)) fun _ => 0) ∧
    (settledOps x [f.a, f.d, f.e] = true →
      goes (.cas f) (fun id => .cas f.ty.toNat id) (fun l => word (dataOf s x f.ty.toNat f.e l))
        fun l => word (dataOf s x f.ty.toNat f.d l))

/-- R355, R248, R353: a performing update, arrival or line-control instruction with settled operands and room completes: its
operations enter the store buffer, one entry for each sector, sync word or line, and it records no result. -/
def Obligations.UpdatesEnterTheStoreBuffer : Prop :=
  ∀ (f : FM) (s : State) (x : Ctx), ctxOf s = some x → performing x = true → x.live ≠ 0 → deferredOpen s x.core x.pos = false →
    let goes (i : Instr) (unit : Nat) (kind : SBKind) (rel : Option Nat) (val val2 : Nat → Word) : Prop :=
      x.t.sb.length + (grouped unit (laneOps x val val2)).length ≤ 64 →
      ∃ t u, exec i s = .next t ∧ ctxOf t = some u ∧ EntersBuffer x u unit kind rel (laneOps x val val2) ∧
        u.cl.xw = x.cl.xw ∧ u.cl.temps = x.cl.temps ∧ u.cl.cursor = x.cl.cursor + 2 ∧ NothingCommitted s t x
    (settledOps x [f.a, f.e] = true → ∀ e ∈ updates f,
      goes e.1 64 e.2 (releaseScope f) (fun l => word (dataOf s x f.ty.toNat f.e l)) fun _ => 0) ∧
    (settledOps x [f.a, f.e] = true → goes (.redfAcc f) 64 (.update true 3 f.ty.toNat) (releaseScope f)
      (fun l => word (dataOf s x f.ty.toNat f.e l * 65536)) fun _ => 0) ∧
    (settledOps x [f.d, f.a, f.e] = true → goes (.sadd f) 16 .sadd (releaseScope f)
      (fun l => word ((word64 s x f.d l).toNat % 2 ^ 32)) fun l => word ((word64 s x f.e l).toNat % 2 ^ 32)) ∧
    (settledOps x [f.a] = true → ∀ e ∈ [(Instr.clClean f, 0), (.clInvalidate f, 1), (.clCollapse f, 2), (.clWriteback f, 3)],
      goes e.1 512 (.cl e.2) none (fun _ => 0) fun _ => 0)

/-- R348, R347, R35, R33: while a clause is checked, a load, store, atomic or update with settled operands whose address is not a
multiple of the access size in any active lane raises cause 0x03 with the lowest active lane's address and the active
lanes; the check goes on, and the earliest instruction's condition, its lowest cause, is the clause's trap. As the clause starts, that
trap is taken: a program's troupe is suspended, runs no clause, and one delivery with this cause, address and lanes waits. -/
def Obligations.MisalignedAccessesTrap : Prop :=
  (∀ (f : FM) (s : State) (x : Ctx) (b : Nat), ctxOf s = some x → x.cl.phase = .check → x.live ≠ 0 →
    lowLane x.cl.active = some b → ∀ e ∈ elementAccesses f, notPending x e.2.2 = true → settledOps x e.2.2 = true → 0 < e.2.1 →
      (∀ l, x.cl.active.getLsbD l = true → (memAddr s x f e.2.1 l).toNat % e.2.1 ≠ 0) →
      ∃ t u, exec e.1 s = .next t ∧ ctxOf t = some u ∧ NothingCommitted s t x ∧ u.cl.cursor = x.cl.cursor + 2 ∧
        u.cl.trap = some (chooseTrap x.cl.trap ⟨x.cl.cursor, 0x03, memAddr s x f e.2.1 b, x.cl.active, []⟩)) ∧
  (∀ (s : State) (x : Ctx) (parked : LaneMask) (need : Nat) (r : Raised), ctxOf s = some x → x.pos ≠ 64 → x.cl.trap = some r →
    let t := startChecked s x parked need
    (∃ u, troupeAt t x.core x.pos = some u ∧ u.clause = none ∧ u.suspended = true) ∧
    ∃ d, (coreOf t x.core).deliveries = (coreOf s x.core).deliveries ++ [d] ∧ d.kind = .troupe ∧ d.cause = r.cause ∧
      d.addr = r.addr ∧ d.lanes = r.lanes ∧ d.subset = x.cl.subset)

/-- R352, R374, R377: a performing prefetch with settled operands and no acquire outstanding completes: it prefetches each place its
check found, and its clause steps past its two words. `fence.mem` completes once the deferred loads' addresses have come, every
earlier load has performed, no acquire is outstanding and every earlier entry is done at its scope: beyond group scope it applies
every queued invalidation. `fence.eng` likewise, at every scope, and waits for no store-buffer entry. A fence in a clause that is
being checked only steps on.
R376: a bind or unbind that is checked keeps its request, read from the lowest lane that takes part, for the end of the translate
phase; performing, it only steps on; and where the clause, which no trap and no missing page stops, ends its check, one bind whose
region, length and object are well formed takes the lowest free entry of the grid's table, and one unbind of a bound region's base
ends its entry. -/
def Obligations.PrefetchBindAndFenceComplete : Prop :=
  (∀ (f : FM) (s : State) (x : Ctx), ctxOf s = some x → x.live ≠ 0 →
    (performing x = true → settledOps x [f.a] = true → x.t.acquires = [] →
      exec (.pf f) s = .next (putClause ((locsOf (found x)).foldl (fun s l => prefetch s x.core l) s) x (stepped x.cl 2))) ∧
    (∀ b, lowLane x.live = some b → x.cl.phase = .check →
      (settledOps x [f.a, f.d, f.e] = true → ∃ t u, exec (.bind f) s = .next t ∧ ctxOf t = some u ∧ NothingCommitted s t x ∧
        u.cl.cursor = x.cl.cursor + 2 ∧
        u.cl.binds = x.cl.binds ++ [{ unbind := false, cursor := x.cl.cursor, base := word64 s x f.a b, len := word64 s x f.d b,
                                      obj := word64 s x f.e b }]) ∧
      (settledOps x [f.a] = true → ∃ t u q, exec (.unbind f) s = .next t ∧ ctxOf t = some u ∧ NothingCommitted s t x ∧
        u.cl.cursor = x.cl.cursor + 2 ∧
        u.cl.binds = x.cl.binds ++ [q] ∧ q.unbind = true ∧ q.cursor = x.cl.cursor ∧ q.base = word64 s x f.a b) ∧
      exec (.fenceMem f) s = .next (putClause s x (stepped x.cl 2)) ∧
      exec (.fenceEng f) s = .next (putClause s x (stepped x.cl 2))) ∧
    (performing x = true →
      (settledOps x [f.a, f.d, f.e] = true → exec (.bind f) s = .next (putClause s x (stepped x.cl 2))) ∧
      (settledOps x [f.a] = true → exec (.unbind f) s = .next (putClause s x (stepped x.cl 2)))) ∧
    (performing x = true → deferredOpen s x.core x.pos = false → loadsDone s x.core x.pos x.t.seq = true → x.t.acquires = [] →
      (entriesDone s x f.scope.toNat = true →
        exec (.fenceMem f) s = .next (putClause (if f.scope = 0 then s else applyInvals s x.core fun _ => true) x (stepped x.cl 2))) ∧
      exec (.fenceEng f) s = .next (putClause (applyInvals s x.core fun _ => true) x (stepped x.cl 2)))) ∧
  (∀ (s : State) (x : Ctx) (gr : Group) (g : Grid) (r : BindReq) (n : Nat), ctxOf s = some x → groupAt s x.t.group = some gr →
    gridAt s (x.t.group / 2 ^ 64) = some g → gr.ticket = x.t.group / 2 ^ 64 → x.cl.binds = [r] → x.cl.trap = none →
    recWord g 6 ≠ 0 → bits r.base.toNat 63 60 ∈ [0, 1] →
    let old (i : Nat) : Nat := bits (tabGet g.bindings i (0, 0)).1.toNat 59 44
    let t := startChecked s x 0 n
    (r.unbind = false → r.base.toNat % 512 = 0 → r.len.toNat % 512 = 0 → 0 < r.len.toNat → r.len.toNat ≤ 65535 * 512 →
      bits r.obj.toNat 63 60 ∈ [0, 1, 2] → (∀ e ∈ liveBindings g, regionsOverlap
        (regionBase gr.member r.base.toNat + r.len.toNat / 512 * 2 ^ 44) e.2.1.toNat = false) →
      ∀ i, i < 4096 → old i = 0 → (∀ k, k < i → old k ≠ 0) →
      ∃ h, gridAt t (x.t.group / 2 ^ 64) = some h ∧ tabGet h.bindings i (0, 0) =
          (word (regionBase gr.member r.base.toNat + r.len.toNat / 512 * 2 ^ 44), r.obj) ∧
        ∀ k, k ≠ i → tabGet h.bindings k (0, 0) = tabGet g.bindings k (0, 0)) ∧
    (r.unbind = true → exactBase r.base.toNat = true → ∀ e, (liveBindings g).find? (fun e =>
        regionStart e.2.1.toNat == regionBase gr.member r.base.toNat) = some e →
      ∃ h, gridAt t (x.t.group / 2 ^ 64) = some h ∧ tabGet h.bindings e.1 (0, 0) = (setBits e.2.1 59 44 0, e.2.2)))

/-- R350, R245, R249, R89, R31: the instructions that read or change memory before their clause retires, in a performing clause
that may perform them: the uniform load records the element extended by its type; a sync word is armed, so that it is defined from
then on, and its new generation recorded; its generation and count are recorded; a queue operation records a status for each lane. -/
def Obligations.InlineMemoryInstructions : Prop :=
  ∀ (f : FM) (s : State) (x : Ctx), ctxOf s = some x → performing x = true → x.live ≠ 0 →
    (∀ b loc, lowLane x.live = some b → settledOps x [f.a] = true → tabGet? (found x) b = some loc →
      inlineRevoked s x [(b, loc)] = [] → inlineReady s x [(loc, typeWidth f.ty.toNat / 8)] = true →
      ∃ t s', exec (.ldk f) s = .next t ∧ Records s' x 2 f.d (fun _ =>
        extElem f.ty.toNat (leNat (readOwn s x.core x.t x.t.seq loc (typeWidth f.ty.toNat / 8)).2)) 0 t) ∧
    (settledOps x [f.d, f.a] = true → wordReady s x (releaseScope f) (locsOf (found x)) = true → inlineRevoked s x (found x) = [] →
      let r := eachWord s x fun s l loc =>
        let q := readSync s loc
        let w := armed q.2 (word64 s x f.d l).toNat
        ({ homeWrite q.1 loc (syncBytes w) with racedWords := q.1.racedWords.filter (· != loc.key / 16) }, word w.gen)
      ∃ t, exec (.sarm f) s = .next t ∧ Records r.1 x 2 f.e (fun l => tabGet r.2 l 0) 0 t) ∧
    (settledOps x [f.a] = true → wordReady s x none (locsOf (found x)) = true → inlineRevoked s x (found x) = [] →
      ∃ t s', exec (.gsp f) s = .next t ∧ Records s' x 2 f.d (fun l =>
        tabGet (eachWord s x fun s _ loc => ((readSync s loc).1, word ((readSync s loc).2.gen * 2 ^ 32 + (readSync s loc).2.count))).2 l 0) 0 t) ∧
    (deferredOpen s x.core x.pos = false → wordReady s x (releaseScope f) (locsOf (found x)) = true → inlineRevoked s x (found x) = [] →
      ∀ e ∈ [(Instr.stqPush f, StqFn.push, [f.d, f.a]), (.stqPop f, .pop, [f.a]), (.stqPeek f, .peek, [f.a])],
        settledOps x e.2.2 = true → ∀ s' st out, stqAll e.2.1 x (word64 s x f.d) (maskLanes x.live) s [] [] = some (s', st, out) →
          ∃ t u, exec e.1 s = .next t ∧ ctxOf t = some u ∧ u.cl.cursor = x.cl.cursor + 2 ∧
            ∀ n : BitVec 6, f.e = .x n → ∃ r, tabGet? u.cl.xw n.toNat = some r ∧ Holds x r fun l => word (tabGet st l 0))

/-- R241, R242: an arrival at an armed sync word with the word's generation and a count short of the target only adds to the count;
one that reaches the target advances the generation and clears the count; one for another generation, or at a word that is not
armed, changes neither and counts as stale.
R89: what a queue operation's status is: 0 where it was carried out, 1 where the queue is full (push) or empty (pop, peek), and
2 where it is closed, a closed queue still giving the entries it holds. -/
def Obligations.SyncArrivalAndQueueRules : Prop :=
  (∀ (s : State) (l : Loc) (g n : Nat),
      let q := readSync s l
      let w := q.2
      (w.flags.testBit 2 = true → g % 2 ^ 32 = w.gen → w.count + n % 2 ^ 32 < w.target →
        arrive s l g n = homeWrite q.1 l (syncBytes { w with count := w.count + n % 2 ^ 32 })) ∧
      (w.flags.testBit 2 = true → g % 2 ^ 32 = w.gen → w.target = w.count + n % 2 ^ 32 → w.flags.testBit 1 = false →
        arrive s l g n = homeWrite q.1 l (syncBytes { w with
          gen := (w.gen + 1) % 2 ^ 32, count := 0,
          flags := if w.flags.testBit 0 then w.flags else w.flags - 4 })) ∧
      ((w.flags.testBit 2 = false ∨ g % 2 ^ 32 ≠ w.gen) → w.flags.testBit 3 = false →
        arrive s l g n = homeWrite q.1 l (syncBytes { w with flags := countStale w.flags }))) ∧
  (∀ (fn : StqFn) (q : QueueDesc), q.head < 2 ^ 64 → q.tail < 2 ^ 64 →
      (stqStatus fn q = 2 ↔ q.flags % 2 = 1 ∧ (fn = .push ∨ q.tail = q.head)) ∧
      (stqStatus fn q = 1 ↔ q.flags % 2 = 0 ∧
        (if fn = .push then (q.tail + 2 ^ 64 - q.head) % 2 ^ 64 = q.capacity else q.tail = q.head)) ∧
      (stqStatus fn q = 0 ∨ stqStatus fn q = 1 ∨ stqStatus fn q = 2))

/-! ## Control, meetings and waiting -/

/-- R105, R106, R107, R24: branches, calls and returns complete: the clause keeps a target for every lane, the head of the clause plus
four times the offset, or the checked register target; a call also records the address of the next clause for x63.
R107, R35, R52: a register target that is not a multiple of four in some lane that takes part is a decode trap: cause 0x03, the lowest
such lane's target, every lane of the subset. R107, R35: where all are aligned, targets of 2^52 or more raise 0x20 with the lowest such lane's
target, in the lanes that have one; while the clause is checked, the check goes on. -/
def Obligations.BranchesRecordOrTrap : Prop :=
  (∀ (s : State) (x : Ctx), ctxOf s = some x →
      let goesTo (t : State) (n : Nat) (target : Nat → Word) : Prop := ∃ targets : Lanes, (∀ l, l < 32 → laneOf targets l = target l) ∧
        t = putClause s x (stepped { x.cl with control := .goto targets } n)
      let fits (v : Word) : Prop := v.toNat % 4 = 0 ∧ v.toNat < 2 ^ 52
      (∀ f : FS, ∃ t, exec (.br f) s = .next t ∧ goesTo t 1 fun _ => x.cl.head + f.off.signExtend 64 <<< 2) ∧
      (∀ f : FS, ∃ t u r, exec (.call f) s = .next t ∧ ctxOf t = some u ∧ tabGet? u.cl.xw 63 = some r ∧ Holds x r (fun _ => nextHead x.cl) ∧
        ∃ targets, u.cl.control = .goto targets ∧ ∀ l, l < 32 → laneOf targets l = x.cl.head + f.off.signExtend 64 <<< 2) ∧
      (∀ f : FA, settledOps x [f.a, f.b] = true → (∀ l, x.live.getLsbD l = true → fits (word64 s x f.a l + word64 s x f.b l <<< 2)) →
        ∃ t, exec (.brx f) s = .next t ∧ goesTo t 1 fun l => word64 s x f.a l + word64 s x f.b l <<< 2) ∧
      (∀ f : FA, settledOps x [f.a] = true → (∀ l, x.live.getLsbD l = true → fits (word64 s x f.a l)) →
        ∃ t, exec (.ret f) s = .next t ∧ goesTo t 1 fun l => word64 s x f.a l)) ∧
  (∀ (f : FA) (s : State) (x : Ctx), ctxOf s = some x →
      ∀ e ∈ [(Instr.brx f, [f.a, f.b], fun l => word64 s x f.a l + word64 s x f.b l <<< 2), (.ret f, [f.a], fun l => word64 s x f.a l)],
      settledOps x e.2.1 = true → ∀ b, x.live.getLsbD b = true →
      ((e.2.2 b).toNat % 4 ≠ 0 → (∀ m, m < b → x.live.getLsbD m = true → (e.2.2 m).toNat % 4 = 0) →
        exec e.1 s = raiseTrap s x 0x03 (e.2.2 b) x.cl.subset) ∧
      ((∀ l, x.live.getLsbD l = true → (e.2.2 l).toNat % 4 = 0) → 2 ^ 52 ≤ (e.2.2 b).toNat →
        (∀ m, m < b → x.live.getLsbD m = true → (e.2.2 m).toNat < 2 ^ 52) →
        let bad := maskOf fun l => x.live.getLsbD l && decide (2 ^ 52 ≤ (e.2.2 l).toNat)
        (x.cl.phase = .check → ∃ t u, exec e.1 s = .next t ∧ ctxOf t = some u ∧ NothingCommitted s t x ∧ u.cl.cursor = x.cl.cursor + 1 ∧
          u.cl.trap = some (chooseTrap x.cl.trap ⟨x.cl.cursor, 0x20, e.2.2 b, bad, []⟩)) ∧
        (x.cl.phase ≠ .check → exec e.1 s = .next (squash s x 0x20 (e.2.2 b) bad []))))

/-- R108, R109, R99: a meeting is set to the values given and the old ones are recorded; `meetq` holds in a lane where every lane its
mask names takes part or has exited. -/
def Obligations.MeetingsAreSetAndTested : Prop :=
  ∀ (s : State) (x : Ctx), ctxOf s = some x →
    let sets (t : State) (d : Operand) (new : Nat → Word) : Prop := ∃ u, ctxOf t = some u ∧
      (∀ l, x.live.getLsbD l = true → tabGet? u.cl.meets l = some (new l)) ∧
      (∀ n : BitVec 6, d = .x n → ∃ r, tabGet? u.cl.xw n.toNat = some r ∧
        Holds x r fun l => word ((threadOf x.t l).join.toNat * 2 ^ 32 + (threadOf x.t l).meet.toNat)) ∧ NothingCommitted s t x
    (∀ f : FX, settledOps x [f.a] = true →
      ∀ off : Int, off = (x.cl.head.toNat : Int) + 4 * f.imm.toInt - (entryOf s x.t).toNat → -2 ^ 31 ≤ off → off < 2 ^ 31 →
      ∃ t, exec (.meet f) s = .next t ∧ sets t f.d fun l => word ((word64 s x f.a l).toNat % 2 ^ 32 * 2 ^ 32 + ofSigned 32 off)) ∧
    (∀ f : FX, settledOps x [f.b] = true → (∀ l, x.live.getLsbD l = true → (word64 s x f.b l).toNat % 4 = 0) →
      ∃ t, exec (.meetPacked f) s = .next t ∧ sets t f.d (word64 s x f.b)) ∧
    (∀ f : FC, settledOps x [f.a] = true → ∃ t p, exec (.meetq f) s = .next t ∧ RecordsPred s x 1 f.q.toNat p 0 t ∧
      ∀ l, p l = true ↔ ∀ m, m < 32 → (word64 s x f.a l).getLsbD m = true →
        x.cl.active.getLsbD m = true ∨ (threadOf x.t m).st = .exited)

/-- R24, R86, R87, R110, R112, R115, R246, R405, R442, R37: an instruction that ends the issuing of its lanes keeps, for the clause's
commit, the effect its operands name, and commits nothing itself. -/
def Obligations.WaitsAndEndsAreKeptForCommit : Prop :=
  ∀ (s : State) (x : Ctx), ctxOf s = some x →
    let keeps (i : Instr) (n : Nat) (c : Control) : Prop := exec i s = .next (putClause s x (stepped { x.cl with control := c } n))
    (∀ f : FB, keeps (.exitPlain f) 1 (.exit false) ∧ keeps (.exitInherit f) 1 (.exit true)) ∧
    (∀ f : FA, keeps (.yieldPlain f) 1 .yieldPlain) ∧
    (∀ f : FB, settledOps x [f.a] = true → ∃ cs, keeps (.nap f) 1 (.nap cs) ∧ ∀ l, l < 32 →
      ((laneOf cs l).toNat : Int) = max 0 (min ((word64 s x f.a l).toNat + f.imm.toInt) 65536)) ∧
    (∀ (f : FB) (b : Nat), settledOps x [f.a] = true → lowLane x.live = some b →
      keeps (.trap f) 1 (.trap f.imm.toNat (word64 s x f.a b)) ∧ keeps (.brk f) 1 (.brk f.imm.toNat (word64 s x f.a b))) ∧
    (∀ (f : FX) (g : Grid), settledOps x [f.a, f.b] = true → x.live ≠ 0 → gridOfGroup s x.t.group = some g →
      let m (o : Operand) (l : Nat) : BitVec 32 := BitVec.ofNat 32 (word64 s x o l).toNat
      (barFails s x g (f.imm.toNat % 8) (m f.a) (m f.b) = 0 → ∃ a b, keeps (.bar f) 2 (.bar (f.imm.toNat % 8) a b) ∧
        ∀ l, l < 32 → laneOf a l = (m f.a l).zeroExtend 64 ∧ laneOf b l = (m f.b l).zeroExtend 64) ∧
      (barFails s x g (f.imm.toNat % 8) (m f.a) (m f.b) ≠ 0 →
        exec (.bar f) s = raiseTrap s x 0x08 x.instrAddr (barFails s x g (f.imm.toNat % 8) (m f.a) (m f.b)))) ∧
    (∀ f : FM, performing x = true → x.live ≠ 0 → settledOps x [f.d, f.a] = true → ∃ gens,
      keeps (.swait f) 2 (.swait (found x) gens (acquireScope f)) ∧
        ∀ l, l < 32 → (laneOf gens l).toNat = (word64 s x f.d l).toNat % 2 ^ 32) ∧
    (∀ (f : FA) (b : Nat) (l : Loc), performing x = true → settledOps x [f.a] = true → lowLane x.live = some b →
      tabGet? (found x) b = some l →
      keeps (.yieldQueue f) 1 (.yieldQueue l (queueAt s l).head (queueAt s l).tail (queueClosed (queueAt s l))))

/-- R30, R31, R24, R105, R86, R115, R409: a clause whose replies have come and whose control instruction may take effect retires: it
commits, its control instruction takes effect, and the troupe stands at a clause boundary. R112: a `bar` whose masks have come to differ
from a waiting thread's is squashed instead, with 0x08. A `ctx.save` or `ctx.restore` moves its record where all of it is mapped and the
core has room for what it brings; a record that is not mapped squashes the clause with 0x45; with no active lane neither does anything.
The commit ends the clause and leaves the lanes of its subset at the next clause's address and every other lane where it was; then a
branch leaves the active lanes at their targets, a nap that is not zero leaves them asleep, an exit leaves them exited, and a clause
without a control instruction changes nothing more. -/
def Obligations.RetirementCommitsThenActs : Prop :=
  ∀ (s : State) (core pos : Nat) (t : Troupe) (cl : Clause), troupeAt s core pos = some t → t.clause = some cl → cl.phase = .retire →
    cl.replies = [] → controlReady s ⟨core, pos, t, cl⟩ = true →
    let x : Ctx := ⟨core, pos, t, cl⟩
    let c := commitClause s x
    let ends (s' : State) : Prop := exec (.clauseRetire core pos) s = .next s'
    ((∀ p, cl.control ≠ .ctxSave p ∧ cl.control ≠ .ctxRestore p) →
      (lateBarFails s x = 0 → ends (boundary (controlEffect c x) x)) ∧
      (lateBarFails s x ≠ 0 → ends (squash s x 0x08 (lastPairAddr cl) (lateBarFails s x) []))) ∧
    (∀ p, (cl.control = .ctxSave p ∨ cl.control = .ctxRestore p) →
      (cl.active = 0 → ends (boundary (controlEffect c x) x)) ∧
      let need := ((liveService s core).map fun d => (d.pos, restoreNeed s p)).toList
      let fits (q : State) : Prop := cl.control = .ctxRestore p → poolTakes need (coreOf q core) ≤ 8064 ∧ tablesOk q core = true
      (cl.active ≠ 0 → recordMapped s p = true → ∀ s', ctxEffect c core cl.control = some s' →
        let q := boundary (controlEffect s' x) x
        fits q → ends q) ∧
      (cl.active ≠ 0 → (recordMapped s p = false ∨ ctxEffect c core cl.control = none) →
        let q := squash s x 0x45 p cl.active []
        fits q → ends q)) ∧
    (∃ u, troupeAt c core pos = some u ∧ u.clause = none ∧ ∀ l, l < 32 →
      (threadOf u l).pc = if cl.subset.getLsbD l then nextHead cl else (threadOf t l).pc) ∧
    ∀ (s' : State) (u : Troupe), troupeAt s' core pos = some u →
      (∀ ts, cl.control = .goto ts → ∃ v, troupeAt (controlEffect s' x) core pos = some v ∧ ∀ l, l < 32 →
        threadOf v l = if cl.active.getLsbD l then { threadOf u l with pc := laneOf ts l } else threadOf u l) ∧
      (∀ cs, cl.control = .nap cs → minuetTroupe s' t = false → ∃ v, troupeAt (controlEffect s' x) core pos = some v ∧ ∀ l, l < 32 →
        threadOf v l = if cl.active.getLsbD l ∧ laneOf cs l ≠ 0 then
          { threadOf u l with st := .napping (s'.cycle + (laneOf cs l).toNat) } else threadOf u l) ∧
      (∀ keep, cl.control = .exit keep → ∃ v, troupeAt (controlEffect s' x) core pos = some v ∧ ∀ l, l < 32 →
        cl.active.getLsbD l = true → (threadOf v l).st = .exited) ∧
      (cl.control = .none → controlEffect s' x = s')

/-- R31, R121, R122: the commit gives each written register, in a lane that took part and has not exited, the value recorded for it, whether
or not it is marked as well, and in the other lanes that have not exited the value it held; a register that is only marked as read last reads
zero in the lanes that took part; a register neither written nor marked is untouched. (Registers with a pending lane are left to the rules
of R139.) R31, R108: written predicates take their values in the lanes that took part, p0 to p6 alone, and so do the meetings set; every other
predicate, meeting and lane stands. R31: a k register records the lowest active lane's value, and takes it at the commit. R168: the flags of the
clause are ORed into MODE at the commit. -/
def Obligations.CommitWritesTheLanesThatTookPart : Prop :=
  (∀ (t : Troupe) (cl : Clause) (n : Nat),
    let u := commitRegs t cl
    (∀ v l, cl.active ≠ 0 → (cl.xw.map Prod.fst).Nodup → tabGet? cl.xw n = some v → v.entry ≠ .pending → (regOf t n).entry ≠ .pending →
      l < 32 → (threadOf t l).st ≠ .exited →
      laneOf (regOf u n).vals l = if cl.active.getLsbD l then laneOf v.vals l else laneOf (regOf t n).vals l) ∧
    (∀ l, tabGet? cl.xw n = none → n ∈ cl.marks → cl.active ≠ 0 → (regOf t n).entry ≠ .pending → l < 32 → (threadOf t l).st ≠ .exited →
      laneOf (regOf u n).vals l = if cl.active.getLsbD l then 0 else laneOf (regOf t n).vals l) ∧
    (tabGet? cl.xw n = none → n ∉ cl.marks → tabGet? u.regs n = tabGet? t.regs n) ∧
    (cl.active = 0 → u = t) ∧
    u.threads = t.threads ∧ u.kregs = t.kregs ∧ u.mode = t.mode ∧ u.sb = t.sb) ∧
  (∀ (t : Troupe) (cl : Clause) (l : Nat), l < 32 → (cl.pw.map Prod.fst).Nodup →
    let h := threadOf t l
    let k := threadOf (commitThreads t cl) l
    (cl.active.getLsbD l = false → k = h) ∧
    (cl.active.getLsbD l = true → k.pc = h.pc ∧ k.st = h.st ∧
      (∀ q, q < 7 → k.preds.getLsbD q = match tabGet? cl.pw q with
        | some m => m.getLsbD l
        | none => h.preds.getLsbD q) ∧
      (k.meet, k.join) = match tabGet? cl.meets l with
        | some m => (m.extractLsb' 0 32, m.extractLsb' 32 32)
        | none => (h.meet, h.join))) ∧
  (∀ (x : Ctx) (cl : Clause) (n : BitVec 5) (r : Reg) (b : Nat), lowLane x.live = some b →
    tabGet? (writeD x cl (.k n) r).kw n.toNat = some (laneOf r.vals b)) ∧
  (∀ (x : Ctx) (cl : Clause) (p : Nat → Bool), writePred x cl 7 p = cl) ∧
  (∀ (s : State) (x : Ctx), troupeAt s x.core x.pos = some x.t → (x.cl.kw.map Prod.fst).Nodup →
    ∃ u, troupeAt (commitClause s x) x.core x.pos = some u ∧
      (∀ n, kOf u n = match tabGet? x.cl.kw n with | some v => v | none => kOf x.t n) ∧
      (x.cl.csrw = [] → ∀ i, u.mode.getLsbD i =
        (x.t.mode.getLsbD i || (decide (8 ≤ i) && decide (i ≤ 12) && x.cl.flags.testBit (i - 8)))))

/-! ## Exceptions -/

/-- R33, R394, R395, R396: a trap of a program's clause squashes it: the troupe runs no clause and is suspended, every register,
predicate, meeting and program counter is as before, its naps end, no byte of memory changes, and one delivery waits behind those
already there, with the cause, the address, the lanes that raised it, the subset and the clause's head as every lane's resume
address; of its store-buffer entries only those of earlier clauses stay. -/
def Obligations.SquashTakesTheTrap : Prop :=
  ∀ (s : State) (x : Ctx) (cause : Nat) (addr : Word) (lanes : LaneMask), ctxOf s = some x → x.pos ≠ 64 →
    let t := squash s x cause addr lanes []
    SameBytes s t ∧ t.focus = none ∧
    (∃ u, troupeAt t x.core x.pos = some u ∧ u.clause = none ∧ u.suspended = true ∧ u.regs = x.t.regs ∧ u.kregs = x.t.kregs ∧
      u.mode = x.t.mode ∧ u.sb = (dropTaken x.t x.cl).sb ∧
      ∀ l, (threadOf u l).pc = (threadOf x.t l).pc ∧ (threadOf u l).preds = (threadOf x.t l).preds ∧
        (threadOf u l).meet = (threadOf x.t l).meet ∧ (threadOf u l).join = (threadOf x.t l).join ∧
        (threadOf u l).st = match (threadOf x.t l).st with | .napping _ => .runnable | st => st) ∧
    (∃ d, (coreOf t x.core).deliveries = (coreOf s x.core).deliveries ++ [d] ∧ d.kind = .troupe ∧ d.cause = cause ∧ d.addr = addr ∧
      d.lanes = lanes ∧ d.subset = x.cl.subset ∧ d.pos = x.pos ∧ d.group = x.t.group ∧ ∀ l, l < 32 → laneOf d.pcs l = x.cl.head)

/-- R397: a trap of the supervisor itself is no delivery: its clause is squashed, the trap troupe stops, and the control node hears of
it by an event with the cause and address. -/
def Obligations.SupervisorFaultsStopTheTrapTroupe : Prop :=
  ∀ (s : State) (x : Ctx) (cause : Nat) (addr : Word) (lanes : LaneMask), ctxOf s = some x → x.pos = 64 →
    let t := squash s x cause addr lanes []
    (coreOf t x.core).supStopped = true ∧ (coreOf t x.core).deliveries = (coreOf s x.core).deliveries ∧
    (∃ u, troupeAt t x.core 64 = some u ∧ u.clause = none ∧ u.regs = x.t.regs) ∧
    .event 0x45 x.core cause addr.toNat ∈ t.outbox ∧ t.mem = s.mem

/-- R395, R393: with nothing in service and the trap troupe not stopped, TRAP_DELIVERY takes up the delivery that arose first: the
service holds it, all 32 lanes of the trap troupe are runnable at TRAPVEC with no meeting armed and MODE at 1, and the trap troupe keeps its
registers. -/
def Obligations.DeliveryStartsTheSupervisor : Prop :=
  ∀ (s : State) (core : Nat) (d : Delivery) (rest : List Delivery) (v : Troupe), (coreOf s core).service = none →
    (coreOf s core).deliveries = d :: rest → (coreOf s core).supStopped = false → (coreOf s core).trace.armed = false →
    troupeAt s core 64 = some v →
    ∃ t u, exec (.trapDelivery core) s = .next t ∧ (coreOf t core).service = some d ∧ (coreOf t core).deliveries = rest ∧
      troupeAt t core 64 = some u ∧ u.clause = none ∧ u.regs = v.regs ∧ u.kregs = v.kregs ∧ u.mode = 1 ∧ t.mem = s.mem ∧
      ∀ l, l < 32 → (threadOf u l).st = .runnable ∧ (threadOf u l).pc = (coreOf s core).trapvec ∧
        (threadOf u l).preds = (threadOf v l).preds ∧ (threadOf u l).meet = 0 ∧ (threadOf u l).join = 0

/-- R408, R395: `tret` keeps its targets for the commit, and the return ends the service: each lane of the suspended subset that has
not exited becomes runnable at TRAPPC, or at the supervisor's address, and the troupe issues again where no other delivery holds it; a misaligned target raises 0x03
(which, in the trap troupe, is a supervisor fault). -/
def Obligations.TretReturnsToTheSuspendedLanes : Prop :=
  (∀ (f : FA) (s : State) (x : Ctx), ctxOf s = some x → settledOps x [f.a] = true →
    (f.a = .zero → exec (.tret f) s = .next (putClause s x (stepped { x.cl with control := .tret none } 1))) ∧
    (f.a ≠ .zero → (∀ d, liveService s x.core = some d → d.kind ≠ .troupe) → ∃ ts, (∀ l, l < 32 → laneOf ts l = word64 s x f.a l) ∧
      exec (.tret f) s = .next (putClause s x (stepped { x.cl with control := .tret (some ts) } 1))) ∧
    (∀ d, f.a ≠ .zero → liveService s x.core = some d → d.kind = .troupe →
      ((∀ l, d.subset.getLsbD l = true → (word64 s x f.a l).toNat % 4 = 0) → ∃ ts, (∀ l, l < 32 → laneOf ts l = word64 s x f.a l) ∧
        exec (.tret f) s = .next (putClause s x (stepped { x.cl with control := .tret (some ts) } 1))) ∧
      (∀ l, x.live ≠ 0 → d.subset.getLsbD l = true → (word64 s x f.a l).toNat % 4 ≠ 0 →
        (∀ m, m < l → d.subset.getLsbD m = true → (word64 s x f.a m).toNat % 4 = 0) →
        exec (.tret f) s = raiseTrap s x 0x03 (word64 s x f.a l) x.live))) ∧
  (∀ (s : State) (core : Nat) (d : Delivery) (v : Troupe) (targets : Option Lanes), (coreOf s core).service = some d →
    d.void = false → d.kind = .troupe → d.syms = [] → d.pos ≠ 64 → heldAgain s core d = false → troupeAt s core d.pos = some v →
    let t := returnFromTrap s core targets
    (coreOf t core).service = none ∧ t.mem = s.mem ∧
    ∃ u, troupeAt t core d.pos = some u ∧ u.suspended = false ∧ u.regs = v.regs ∧
      ∀ l, l < 32 → threadOf u l = if d.subset.getLsbD l = true ∧ (threadOf v l).st ≠ .exited then
        { threadOf v l with st := .runnable, pc := laneOf (targets.getD d.pcs) l,
                            seen := (threadOf v l).seen && (threadOf v l).pc == laneOf (targets.getD d.pcs) l } else threadOf v l)

/-- R396, R406, R52: a supervisor instruction, a register outside a program's column, and a number that is not listed are decode traps of
a program's clause; the supervisor has them all, save a number that is not listed. -/
def Obligations.PrivilegeIsCheckedWhenDecoding : Prop :=
  ∀ (g : Option Grid),
    (∀ f : FA, contextTrap false g (.tret f) = some 0x04 ∧ contextTrap true g (.tret f) = none) ∧
    (∀ f : FX, contextTrap false g (.ctxSave f) = some 0x04 ∧ contextTrap false g (.ctxRestore f) = some 0x04 ∧
      contextTrap true g (.ctxSave f) = none ∧ contextTrap true g (.ctxRestore f) = none) ∧
    (∀ f : FM, ∀ i ∈ [Instr.tlbiPage f, .tlbiKey f, .tlbiAll f], contextTrap false g i = some 0x04 ∧ contextTrap true g i = none) ∧
    (∀ f : FB, ∀ i ∈ [Instr.psreq f, .gangkillReg f], contextTrap false g i = some 0x04 ∧ contextTrap true g i = none) ∧
    (∀ (f : FB) (n : Nat), n = f.imm.toNat →
      let both := n = 0x000 ∨ n = 0x002
      let read := both ∨ n = 0x001 ∨ n = 0x003 ∨ n = 0x080
      let listed := read ∨ (0x040 ≤ n ∧ n ≤ 0x049) ∨ n = 0x081 ∨ n = 0x082
      (listed → contextTrap true g (.csrr f) = none ∧ contextTrap true g (.csrw f) = none) ∧
      (listed → contextTrap false g (.csrr f) = (if read then none else some 0x04) ∧
        contextTrap false g (.csrw f) = (if both then none else some 0x04)) ∧
      (¬listed → ∀ p, contextTrap p g (.csrr f) = some 0x02 ∧ contextTrap p g (.csrw f) = some 0x02))

/-- R406, R396, R446 to R448, R407, R409, R88: the system instructions complete: a control register is recorded in every lane as its rule
reads it: `MODE` and `INHERITED` the troupe's, `CAPTAB` the group's or, for the supervisor, the served group's, `INJLVL` the last window's
deflections, HOLD and level of the core's stop (R422), the trap registers the delivery's in service, and zero outside a service, the rest the core's
or the package's; a write waits for the commit, a trace mark, a disarm and an invalidation take effect, a context move and a growth
are kept or done. -/
def Obligations.SystemInstructionsComplete : Prop :=
  ∀ (s : State) (x : Ctx), ctxOf s = some x → x.live ≠ 0 →
    (∀ f : FB,
      let k := coreOf s x.core
      let h := throttleOf s (coreDie x.core) (coreStop x.core)
      let reads (n : Nat) (v : Nat → Word) : Prop := f.imm.toNat = n → ∃ t, exec (.csrr f) s = .next t ∧ Records s x 1 f.d v 0 t
      reads 0x000 (fun _ => x.t.mode) ∧ reads 0x001 (fun _ => x.t.inherited) ∧
      reads 0x003 (fun _ => word (min 2048 h.last * 2 ^ 16 + (if 4 ≤ h.level then 2 ^ 8 else 0) + h.level)) ∧
      (x.pos ≠ 64 → ∀ g, groupAt s x.t.group = some g → reads 0x002 (fun _ => g.captab)) ∧
      (∀ d, k.service = some d → d.void = false →
        (x.pos = 64 → ∀ g, groupAt s d.group = some g → reads 0x002 (fun _ => g.captab)) ∧
        reads 0x040 (fun _ => word d.cause) ∧ reads 0x041 (fun _ => d.addr) ∧ reads 0x042 (laneOf d.pcs) ∧
        reads 0x043 (fun _ => d.lanes.zeroExtend 64) ∧
        reads 0x044 (fun _ => word (d.group % 2 ^ 32 * 2 ^ 32 + d.pos % 64 * 2 ^ 26 + d.tidx * 2 ^ 21 +
          (match d.kind with | .troupe => 0 | .park => 1 | .notice => 2 | .spill => 3) * 2 ^ 16 + x.core * 2 ^ 8))) ∧
      (k.service = none → ∀ n, 0x040 ≤ n → n ≤ 0x044 → reads n fun _ => 0) ∧
      reads 0x045 (fun _ => k.trapvec) ∧ reads 0x046 (fun _ => word (k.lost * 2 ^ 16 + min 0xFFFF k.deliveries.length)) ∧
      reads 0x047 (fun _ => 0) ∧ reads 0x048 (fun _ => 0) ∧ reads 0x049 (fun _ => k.spillbase) ∧ reads 0x080 (fun _ => word s.cycle) ∧
      reads 0x081 (fun _ => k.tracelost) ∧ reads 0x082 (fun _ => k.wdog)) ∧
    (∀ (f : FB) (b : Nat), lowLane x.live = some b → settledOps x [f.a] = true → ∀ i ∈ [Instr.csrw f, .psreq f, .gangkillReg f],
      exec i s = .next (putClause s x (stepped { x.cl with
        csrw := tabDel x.cl.csrw f.imm.toNat ++ [(f.imm.toNat, word64 s x f.a b)] } 1))) ∧
    (∀ (f : FX) (b : Nat), lowLane x.live = some b → performing x = true → settledOps x [f.a] = true →
      ((gridOfGroup s x.t.group).bind fun g => stopSite g x.cl.head x.cl.hdr.stop) = none →
      exec (.trcMark f) s = .next (putClause (traceRecord s x.core 1 f.imm.toNat (x.t.group % 2 ^ 64) (word64 s x f.a b)) x (stepped x.cl 2))) ∧
    (∀ (f : FX) (b : Nat) (l : Loc), lowLane x.live = some b → performing x = true → settledOps x [f.a] = true →
      (coreOf s x.core).trace.armed = false → tabGet? (found x) b = some l → inlineReady s x [(l, 64)] = true →
      let q := readOwn s x.core x.t x.t.seq l 64
      let d := leNat q.2
      armOk d = true → (∀ i, i < bits d 127 64 / 65536 → pagePinned (noticePoison q.1 x.t l 64) (bits d 63 0 + 65536 * i) = true) →
      ∃ t s', exec (.trcArm f) s = .next t ∧ Records s' x 2 f.d (fun _ => 0) 0 t ∧ (coreOf s' x.core).trace.armed = true ∧
        (coreOf s' x.core).trace.base = word (bits d 63 0) ∧ (coreOf s' x.core).trace.length = bits d 127 64 ∧
        (coreOf s' x.core).trace.written = 0 ∧ (coreOf s' x.core).tracelost = 0) ∧
    (∀ f : FX, performing x = true → ∃ t s', exec (.trcDisarm f) s = .next t ∧
      Records s' x 2 f.d (fun _ => word (coreOf s x.core).trace.written) 0 t ∧ (coreOf s' x.core).trace.armed = false) ∧
    (∀ (f : FM) (b : Nat), lowLane x.live = some b → performing x = true → settledOps x [f.a] = true →
      (bits (word64 s x f.a b).toNat 63 60 ≤ 1 → bits (word64 s x f.a b).toNat 59 52 = 0 →
        pageQuiet s (bits (word64 s x f.a b).toNat 51 0) = true →
        exec (.tlbiPage f) s = .next (putClause (invalidatePage s (word64 s x f.a b)) x (stepped x.cl 2))) ∧
      (tlbiQuiet s (fun e => bits e.leaf 55 52 == (word64 s x f.a b).toNat % 16) = true →
        exec (.tlbiKey f) s = .next (putClause (invalidateKey s ((word64 s x f.a b).toNat % 16)) x (stepped x.cl 2))) ∧
      (tlbiQuiet s (fun _ => true) = true → exec (.tlbiAll f) s = .next (putClause (invalidateAll s) x (stepped x.cl 2)))) ∧
    (∀ (f : FX) (b : Nat), lowLane x.live = some b → settledOps x [f.a] = true → ctxPtrOk s x (word64 s x f.a b) = true →
      (performing x = true ∨ ∀ n ∈ recordPages (word64 s x f.a b), pageMoving s n = false) →
      exec (.ctxSave f) s = .next (putClause s x (stepped { x.cl with control := .ctxSave (word64 s x f.a b) } 2)) ∧
      exec (.ctxRestore f) s = .next (putClause s x (stepped { x.cl with control := .ctxRestore (word64 s x f.a b) } 2))) ∧
    (∀ (f : FA) (b : Nat), lowLane x.live = some b → performing x = true → settledOps x [f.a] = true →
      deferredOpen s x.core x.pos = false → x.t.sb = [] → tabGet s.remote (x.t.group * 32 + x.t.tidx) [] = [] →
      let r := growGrid s (x.t.group / 2 ^ 64) (word64 s x f.a b).toNat
      ∃ t, exec (.grow f) s = .next t ∧ Records r.1 x 1 (lateDest f.d) (fun _ => r.2) 0 t)

/-- R396, R167, R229, R128, R447, R451: what a control register write stores when the clause commits: read-only fields are ignored; a write to
`PSREQ` sends the pointer, the key of the delivery's grid and the core, and one to `GANGKILL` has the trapped troupe's gang killed with 0x44 and the
value for its reason. -/
def Obligations.ControlRegisterWrites : Prop :=
  ∀ (s : State) (core pos : Nat) (t : Troupe) (v : Word), troupeAt s core pos = some t →
    (∃ u, troupeAt (storeCsr s core pos 0x000 v) core pos = some u ∧ u.regs = t.regs ∧
      (u.mode.toNat % 8 = if v.toNat % 8 = 0 ∨ 6 ≤ v.toNat % 8 then 1 else v.toNat % 8) ∧
      u.mode.toNat / 8 % 8 = v.toNat / 8 % 8 ∧ u.mode.toNat / 256 = v.toNat / 256 % 32 ∧ u.mode.toNat / 64 % 4 = 0) ∧
    (coreOf (storeCsr s core pos 0x045 v) core).trapvec = v &&& ~~~3 ∧
    ((coreOf (storeCsr s core pos 0x049 v) core).spillbase.toNat = v.toNat / 65536 * 65536 + v.toNat % 2) ∧
    ((coreOf (storeCsr s core pos 0x082 v) core).wdog.toNat = v.toNat % 2 ^ 32) ∧
    ((coreOf (storeCsr s core pos 0x081 v) core).tracelost.toNat = v.toNat % 2 ^ 33) ∧
    ((coreOf (storeCsr s core pos 0x046 v) core).lost = v.toNat / 65536 % 65536) ∧
    (∀ n, n ∈ [0x001, 0x003, 0x040, 0x041, 0x042, 0x043, 0x044, 0x080] → storeCsr s core pos n v = s) ∧
    (∀ d, (coreOf s core).service = some d → d.void = false →
      storeCsr s core pos 0x047 v = { s with outbox := s.outbox ++ [.pageService v d.key core] } ∧
      (d.kind ≠ .notice → storeCsr s core pos 0x048 v =
        { s with agenda := .gangKill (d.group / 2 ^ 64) (gangOf s d.group).2 (0x44 + 256 * v.toNat) :: s.agenda })) ∧
    (∀ g, pos ≠ 64 → groupAt s t.group = some g →
      ∃ h, groupAt (storeCsr s core pos 0x002 v) t.group = some h ∧ h.captab = v &&& ~~~0x1FFE)

/-! ## Tile, copy and regroup instructions -/

/-- R284, R285, R253: a claim takes the lowest slot handle whose projected state is free, gives it a fresh tag of the requested type
and depth, and records the handle, or all ones where none is free; a retag, a release and a query act on the handle named. -/
def Obligations.SlotInstructions : Prop :=
  ∀ (f : FX) (s : State) (x : Ctx) (b : Nat) (g : Group), ctxOf s = some x → performing x = true → lowLane x.live = some b →
    groupAt s x.t.group = some g →
    let free (h : Nat) : Bool := slotState (projSlot s x x.t.group g h) == 0
    (settledOps x [f.a] = true → requestOk (word64 s x f.a b) = true →
      (∀ h, h < g.nslots → free h = true → (∀ k, k < h → free k = false) →
        ∃ t s' g', exec (.slotClaim f) s = .next t ∧ Records s' x 2 f.d (fun _ => word h) 0 t ∧
          groupAt s' x.t.group = some g' ∧ slotTag g' h = requestTag (word64 s x f.a b) ∧ tabGet? g'.slotWritten h = none) ∧
      ((∀ h, h < g.nslots → free h = false) →
        ∃ t, exec (.slotClaim f) s = .next t ∧ Records s x 2 f.d (fun _ => BitVec.allOnes 64) 0 t)) ∧
    (settledOps x [f.a, f.b] = true → requestOk (word64 s x f.a b) = true → (word64 s x f.b b).toNat < g.nslots →
      free (word64 s x f.b b).toNat = false →
      ∃ t s' g', exec (.slotClaimRetag f) s = .next t ∧ Records s' x 2 f.d (fun _ => word64 s x f.b b) 0 t ∧
        groupAt s' x.t.group = some g' ∧ slotTag g' (word64 s x f.b b).toNat = requestTag (word64 s x f.a b)) ∧
    (settledOps x [f.a] = true → (word64 s x f.a b).toNat < g.nslots →
      (free (word64 s x f.a b).toNat = false → ∃ t g', exec (.slotRelease f) s = .next t ∧ groupAt t x.t.group = some g' ∧
        slotTag g' (word64 s x f.a b).toNat = 0) ∧
      ∃ t, exec (.slotQuery f) s = .next t ∧ Records s x 2 f.d (fun _ => slotTag g (word64 s x f.a b).toNat) 0 t) ∧
    (settledOps x [f.a] = true → g.nslots ≤ (word64 s x f.a b).toNat →
      exec (.slotQuery f) s = .next (squash s x 0x28 x.instrAddr x.live []))

/-- R263, R286 to R289, R291: a performing tile instruction with settled operands completes: it records no result, and keeps for its
clause's commit one entry for the queue that imm12 [0] names, with its operation, its descriptor, the issuing troupe and its MODE, and
the places its check found; a `tmm` that appends keeps one segment instead (R276). The commit puts a kept entry, numbered in enqueue
order, at the end of its queue and changes no other entry; it adds a kept segment to the open entry of its band, which stays open
where the instruction says so. -/
def Obligations.TileInstructionsJoinTheQueues : Prop :=
  (∀ (f : FX) (s : State) (x : Ctx) (b : Nat) (g : Group), ctxOf s = some x → performing x = true → lowLane x.live = some b →
      groupAt s x.t.group = some g →
      let d := word64 s x f.a b
      let keeps (i : Instr) (r : TileReq) : Prop :=
        exec i s = .next (putClause s x (stepped { x.cl with tiles := x.cl.tiles ++ [r] } 2))
      let queued (i : Instr) (op : TileOp) (opn : Bool) : Prop := ∃ e, keeps i (.entry (f.imm.getLsbD 0) e) ∧ e.op = op ∧ e.desc = d ∧
        e.group = x.t.group ∧ e.issuer = x.pos ∧ e.mode = x.t.mode ∧ e.mem = rangeLocs x ∧ e.open_ = opn ∧
        (opn = false → e.notify = tabGet? (found x) syncSlot)
      (settledOps x [f.a, f.c] = true →
        queued (.accZero f) .accZero false ∧
        (f.imm.getLsbD 2 = false →
          queued (.tmm f) (.tmm false) (f.imm.getLsbD 1) ∧ queued (.tmmBfp f) (.tmm true) (f.imm.getLsbD 1)) ∧
        (f.imm.getLsbD 2 = true → ∀ bk, bGroupOf s x.t.group g (dBM d) = some bk → ∀ i ∈ [Instr.tmm f, .tmmBfp f],
          keeps i (.segment (f.imm.getLsbD 1) d (tabGet? (found x) syncSlot) bk))) ∧
      (settledOps x [f.a, f.b, f.c] = true →
        queued (.accLd f) .accLd false ∧ queued (.accSt f) .accSt false ∧ queued (.opmLd f) .opmLd false ∧
        queued (.opmSt f) .opmSt false ∧
        (f.rnd.toNat < 6 → queued (.accCvst f) (.accCvst (rndOf x f) f.sat) false))) ∧
  (∀ (s : State) (x : Ctx) (hi : Bool) (e : TileEntry), x.cl.tiles = [.entry hi e] →
      let k := coreOf s x.core
      let k' := coreOf (enqueueAll s x) x.core
      let e' : TileEntry := { e with id := k.nextEntry, enqueued := s.cycle }
      k'.tileHi = k.tileHi ++ (if hi then [e'] else []) ∧ k'.tileLo = k.tileLo ++ (if hi then [] else [e']) ∧
        k'.nextEntry = k.nextEntry + 1) ∧
  (∀ (s : State) (x : Ctx) (opn : Bool) (d : Word) (n : Option Loc) (bk : Nat) (e : TileEntry),
      x.cl.tiles = [.segment opn d n bk] → (coreOf s x.core).tileLo = [e] → (coreOf s x.core).tileHi = [] → e.open_ = true →
      (entryWrites e).contains (x.t.group, false, dBand d) = true →
      ∃ e', (coreOf (enqueueAll s x) x.core).tileLo = [e'] ∧ (coreOf (enqueueAll s x) x.core).tileHi = [] ∧ e'.id = e.id ∧
        e'.segments = e.segments ++ [{ desc := d, done := false, bGroup := bk }] ∧ e'.open_ = opn ∧
        e'.notify = (if opn then none else n))

/-- R290, R260: a performing cell read records, in every lane that takes part, the 64 bits at its cell address; a cell write writes
each lane's value, in ascending order, at its cell address and changes only cells.
R287, R279: a performing `tsa` whose scale vector may be read now completes: its entry, kept for the commit, holds the bytes of the
vector as the troupe's loads read them. -/
def Obligations.CellAccessesAndScaledAdds : Prop :=
  ∀ (f : FX) (s : State) (x : Ctx) (b : Nat) (g : Group), ctxOf s = some x → performing x = true → lowLane x.live = some b →
    groupAt s x.t.group = some g →
    (settledOps x [f.a] = true → (∀ l, x.live.getLsbD l = true → cellCauses s x g (word64 s x f.a l) = []) →
      ∃ t, exec (.accRd f) s = .next t ∧ Records s x 2 f.d (fun l => word (readCell g (word64 s x f.a l).toNat)) 0 t) ∧
    (settledOps x [f.a, f.b] = true → (∀ l, x.live.getLsbD l = true → cellCauses s x g (word64 s x f.a l) = []) →
      ∃ t g', exec (.accWr f) s = .next t ∧ groupAt t x.t.group = some g' ∧
        g'.cells = ((maskLanes x.live).foldl (fun g l => writeCell g (word64 s x f.a l).toNat (word64 s x f.b l).toNat) g).cells ∧
        g'.bandTags = g.bandTags ∧ g'.slots = g.slots ∧ g'.scratch = g.scratch ∧ t.mem = s.mem) ∧
    (settledOps x [f.a, f.b, f.c] = true → inlineRevoked s x ((rangeLocs x).map fun l => (b, l)) = [] →
      inlineReady s x ((rangeLocs x).map fun l => (l, 64)) = true →
      ∃ e, exec (.tsa f) s =
          .next (putClause (readRange s x).1 x (stepped { x.cl with tiles := x.cl.tiles ++ [.entry (f.imm.getLsbD 0) e] } 2)) ∧
        e.op = .tsa ∧ e.desc = word64 s x f.a b ∧ e.group = x.t.group ∧ e.issuer = x.pos ∧ e.scales = (readRange s x).2 ∧
        e.mem = [] ∧ e.notify = tabGet? (found x) syncSlot)

/-- R322, R323, R305: a performing submission with room in the store buffer puts one entry for each lane that takes part there, and its
clause waits for their replies; the status query records the free window entries of the die each lane names.
R324: a performing `trec` whose records may be read now, with room in the store buffer, puts one entry for each lane that takes part
there, at the place its lane's target names; the bytes of a lane's entry are its source record with the one field replaced. -/
def Obligations.CopyInstructions : Prop :=
  ∀ (s : State) (x : Ctx), ctxOf s = some x → x.live ≠ 0 →
    (∀ f : FM, performing x = true → settledOps x [f.a, f.e] = true → deferredOpen s x.core x.pos = false →
      x.t.sb.length + (maskLanes x.live).length ≤ 64 → (∀ l, x.live.getLsbD l = true → (tabGet? (found x) l).isSome = true) →
      ∀ e ∈ [(Instr.cpy f, false), (.cpqSend f, true)], ∃ t u es, exec e.1 s = .next t ∧ ctxOf t = some u ∧
        u.t.sb = x.t.sb ++ es ∧ es.length = (maskLanes x.live).length ∧
        (∀ q ∈ es, q.kind = .submission ∧ q.release = releaseScope f) ∧
        u.cl.replies = x.cl.replies ++ es.map (fun q => (q.id, (lateDest f.d).code)) ∧
        es.flatMap SBEntry.ops = (maskLanes x.live).filterMap fun l => (tabGet? (found x) l).map fun loc =>
          { lane := l, loc, val := word ((word64 s x f.e l).toNat % 2 ^ 32),
            val2 := word (if e.2 then (word64 s x f.e l).toNat / 2 ^ 32 else coreDie x.core) }) ∧
    (∀ f : FM, performing x = true → settledOps x [f.a] = true → (∀ l, x.live.getLsbD l = true → (word64 s x f.a l).toNat < 4) →
      ∃ t, exec (.cpqStatus f) s = .next t ∧
        Records s x 2 f.d (fun l => word (512 - (dieAt s (word64 s x f.a l).toNat).jobs.length)) 0 t) ∧
    (∀ f : FX, performing x = true → settledOps x [f.a, f.b, f.c] = true →
      let src := (found x).filter fun e => decide (e.1 < 32)
      src.map (fun e => e.1) = maskLanes x.live → (∀ l, x.live.getLsbD l = true → (tabGet? (found x) (32 + l)).isSome = true) →
      inlineRevoked s x src = [] → inlineReady s x (src.map fun e => (e.2, 64)) = true → deferredOpen s x.core x.pos = false →
      x.t.sb.length + (maskLanes x.live).length ≤ 64 →
      ∃ t u es, exec (.trec f) s = .next t ∧ ctxOf t = some u ∧ u.cl.cursor = x.cl.cursor + 2 ∧ u.t.sb = x.t.sb ++ es ∧
        (∀ q ∈ es, q.kind = .record ∧ q.release = none) ∧
        es.map (fun q => some q.loc) = (maskLanes x.live).map (fun l => tabGet? (found x) (32 + l)) ∧
        ∀ b a, src = [(b, a)] → es.map (fun q => q.bytes.map fun v => v.2.1) =
          [replaceField (readOwn s x.core x.t x.t.seq a 64).2 (f.imm.toNat % 16) (word64 s x f.b b)])

/-- R223 to R225, R230: a regroup and its restore, with a well-formed range, a capacity table where one is asked for and the position
record as the form needs it, keep their arrival for the commit; while the clause is checked, a range, table or position record that is
not so raises 0x0A with the instruction's address and the lanes that take part. The capacity update records how many limits it
changed. -/
def Obligations.RegroupArrivalsAndCapacityUpdates : Prop :=
  ∀ (f : FX) (s : State) (x : Ctx) (b : Nat) (g : Group), ctxOf s = some x → lowLane x.live = some b →
    groupAt s x.t.group = some g →
    (performing x = true → ∀ e ∈ [(Instr.regroup f, 0, [f.a, f.b], false), (.regroupRestore f, 1, [f.b], true)],
      settledOps x e.2.2.1 = true → rangeOk (word64 s x f.b b).toNat = true →
      (rangeCap (word64 s x f.b b).toNat = true → captabOn g = true) → g.posRecord = e.2.2.2 →
      ((rangeRegs (word64 s x f.b b).toNat).all fun n => pendMask (regOf x.t n) == 0 && (regOf x.t n).unknown == 0) = true →
      ∃ t u keys, exec e.1 s = .next t ∧ ctxOf t = some u ∧ NothingCommitted s t x ∧
        u.cl.control = .regroup e.2.1 (word64 s x f.b b).toNat f.d.code keys x.instrAddr.toNat ∧
        ∀ l, l < 32 → e.2.1 = 0 → laneOf keys l = word64 s x f.a l) ∧
    (x.cl.phase = .check → ∀ e ∈ [(Instr.regroup f, 0, [f.a, f.b], false), (.regroupRestore f, 1, [f.b], true)],
      settledOps x e.2.2.1 = true →
      (rangeOk (word64 s x f.b b).toNat = false ∨ (rangeCap (word64 s x f.b b).toNat = true ∧ captabOn g = false) ∨
        g.posRecord ≠ e.2.2.2) →
      exec e.1 s = raiseTrap s x 0x0A x.instrAddr x.live) ∧
    (performing x = true → captabOn g = true → deferredOpen s x.core x.pos = false → loadsDone s x.core x.pos x.t.seq = true → x.t.acquires = [] →
      entriesDone s x 4 = true →
      let r := (tableEntries (locsOf (found x))).foldl (updateEntry x.core) (s, 0)
      ∃ t, exec (.regroupCapupd f) s = .next t ∧ Records r.1 x 2 f.d (fun _ => word r.2) 0 t)

/-! ## The whole machine -/

/-- R179, R23, R52: the all-zero word is `nop`; it changes nothing but the clause's cursor, fits a clause of any class, and any other
word with opcode zero is an illegal instruction. -/
def Obligations.NopHasNoEffect : Prop :=
  (∀ v, decode 0x00000000 v = some .nop) ∧
  (∀ (s : State) (x : Ctx), ctxOf s = some x → exec .nop s = .next (putClause s x { x.cl with cursor := x.cl.cursor + 1 })) ∧
  (∀ cls, classFits cls 0x00 = true) ∧
  (∀ (w v k : Nat) (b : Bool) (g : Option Grid) (r : List (Nat × Nat × Nat)), w ≠ 0 → w < 2 ^ 25 →
    decodeAll b g ((k, w, v) :: r) = .inl (k, 0x02))

/-- R185: `mins`, `minn`, `maxs` and `maxn`, opcodes 0x10 to 0x13, complete with the smaller or larger element of each pair, the signed
ones by the elements' signed readings, the unsigned ones by their unsigned ones. -/
def Obligations.MinimumAndMaximumElements : Prop :=
  ∀ (f : FA) (s : State) (x : Ctx), ctxOf s = some x → settledOps x [f.a, f.b] = true →
    let w := packWidth f.pack.toNat
    let a (l i : Nat) : Nat := elemAt w i (valueOf s x (.int w) f.a l)
    let b (l i : Nat) : Nat := elemAt w i (valueOf s x (.int w) f.b l)
    let out (i : Instr) (op : Nat) (g : Nat → Nat → Nat) : Prop := i.spec.op = op ∧
      ∃ t, exec i s = .next t ∧ Records s x 1 f.d (fun l => packed w (g l)) 0 t
    out (.mins f) 0x10 (fun l i => if toSigned w (a l i) ≤ toSigned w (b l i) then a l i else b l i) ∧
    out (.minn f) 0x11 (fun l i => min (a l i) (b l i)) ∧
    out (.maxs f) 0x12 (fun l i => if toSigned w (b l i) ≤ toSigned w (a l i) then a l i else b l i) ∧
    out (.maxn f) 0x13 (fun l i => max (a l i) (b l i))

/-- R36: outside a clause no instruction of the opcode map executes: each stops with the one fault the model has. (The model's own
choice of how to stop: notes/assumptions/1.md.) -/
def Obligations.NoInstructionRunsOutsideAClause : Prop :=
  ∀ (i : Instr) (s : State), i.fmt ≠ .event → ctxOf s = none → exec i s = .fault .noClause

/-- No instruction of the opcode map is refused or stops inside a clause, whatever the operands, and no event ever stops: every trap,
wait and undefined value is a next state. -/
def Obligations.EveryInstructionAndEventGoesOn : Prop :=
  ∀ (i : Instr) (s : State), (i.fmt = .event ∨ ctxOf s ≠ none) → ∃ t, exec i s = .next t

/-- R13, R393, R443, R451, R459, R473: right after reset the part has no power and nothing is resident; every memory reads zero in its
canonical form, the cycle counter is 0, WDOGCFG is 0x4000, MIGPOL is its reset value and every trap troupe's registers are zero.
(That power is off until POWER_ON, and what memory reads, are the model's choice: notes/assumptions/2.md and 6.md.) -/
def Obligations.ResetLeavesTheMachineEmpty : Prop :=
  State.reset.mgmt.powered = false ∧ State.reset.mgmt.boot = 0 ∧ State.reset.cycle = 0 ∧ State.reset.grids = [] ∧
  State.reset.groups = [] ∧ State.reset.agenda = [] ∧ ctxOf State.reset = none ∧
  (∀ l i, rawByte State.reset l i = 0) ∧
  (∀ c, (coreOf State.reset c).wdog = 0x4000 ∧ (coreOf State.reset c).service = none ∧ (coreOf State.reset c).deliveries = [] ∧
    ∃ t, troupeAt State.reset c 64 = some t ∧ t.clause = none ∧ (∀ n, regOf t n = emptyReg) ∧ (∀ n, kOf t n = 0) ∧
      ∀ l, (threadOf t l).preds = 0) ∧
  (∀ d, (dieAt State.reset d).migpol = 0x0000010020000040 ∧ (dieAt State.reset d).jobs = [])

/-- The memories of the machine right after reset stand in their canonical form. -/
def Obligations.MemoriesAreCanonicalAtReset : Prop := MemoriesWf State.reset

/-- Every step from a state whose memories stand in their canonical form (addresses strictly rising, no byte listed that an unlisted
address reads as) leaves them so. -/
def Obligations.EveryStepKeepsMemoriesCanonical : Prop :=
  ∀ s t : State, MemoriesWf s → step s = .next t → MemoriesWf t

/-- R1: a byte written is the byte read, other bytes read as before, and writing keeps the canonical form, so that equal memories are
equal data. -/
def Obligations.MemoryReadsBackWhatWasWritten : Prop :=
  (∀ (m : List Host.Cell) (a : Nat) (bs : List Byte) (b : Nat), memoryWf m = true →
    memoryWf (cellsPut m a bs) = true ∧
    cellGet (cellsPut m a bs) b = if a ≤ b ∧ b < a + bs.length then bs.getD (b - a) 0 else cellGet m b) ∧
  (∀ m n : List Host.Cell, memoryWf m = true → memoryWf n = true → (∀ a, cellGet m a = cellGet n a) → m = n)

/-! ## Events: waiting and issuing -/

/-- R81, R87, R115, R246, R389, R390: a waiting thread wakes when what it waits for is over, and nothing else of the machine changes.
A nap ends at its time: core cycles, or turns of the troupe in Minuet. A plain yield ends, for the whole subset that yielded, when
every troupe that was ready has started, or at its issue cycle or turn; a yield on a queue when the queue has changed, or at its time.
A thread at `swait` is released once its word's generation has advanced. A parked sub-troupe with no page recorded runs again after its
retry time.
R29, R92, R18, R19: a free slot starts its first candidate that is ready: the header at the lanes' program counter is fetched and
checked, then the words it counts; the clause begins its check at its first word with the subset that stands there, active in the
lanes whose guard holds. R393, R397: TRAPRST lets a stopped trap troupe run; an interrupted delivery begins again at TRAPVEC. -/
def Obligations.ThreadsWakeAndClausesStart : Prop :=
  (∀ (s : State) (core pos lane til : Nat) (u : Troupe), troupeAt s core pos = some u → lane < 32 →
    (threadOf u lane).st = .napping til → til ≤ (if minuetTroupe s u then u.turns else s.cycle) →
    exec (.napExpiry core pos lane) s = .next (woken s core pos lane u)) ∧
  (∀ (s : State) (core pos lane : Nat) (u : Troupe), troupeAt s core pos = some u → lane < 32 →
    ((∃ til others, (threadOf u lane).st = .yielded others til ∧
        if minuetTroupe s u then til ≤ u.turns else others = [] ∨ til ≤ tabGet (coreOf s core).slotIssues (slotOf s core pos) 0) ∨
     (∃ q head tail closed til, (threadOf u lane).st = .yieldedOn q head tail closed til ∧
        ((queueAt s q).head ≠ head ∨ (queueAt s q).tail ≠ tail ∨ queueClosed (queueAt s q) ≠ closed ∨
          til ≤ (if minuetTroupe s u then u.turns else s.cycle)))) →
    ∃ t v, exec (.yieldEnd core pos lane) s = .next t ∧ t = setTroupe s core pos v ∧ v.regs = u.regs ∧ v.suspended = u.suspended ∧
      ∀ l, l < 32 → threadOf v l =
        if (threadOf u l).st = (threadOf u lane).st then { threadOf u l with st := .runnable } else threadOf u l) ∧
  (∀ (s : State) (core pos lane gen : Nat) (w : Loc) (u v : Troupe), let r := readSync (dropPlain s core w.line) w
    troupeAt s core pos = some u → lane < 32 → (threadOf u lane).st = .watching w gen none → r.2.gen ≠ gen →
    w.area ≠ .lost → pollStays s core pos w = false → troupeAt r.1 core pos = some v → exec (.watchPoll core pos lane) s = .next (woken r.1 core pos lane v)) ∧
  (∀ (s : State) (core pos til : Nat) (u : Troupe) (k : Park), troupeAt s core pos = some u →
    u.parks.find? (fun e => e.id == k.id) = some k → k.retry = some til → til ≤ s.cycle → k.syms = [] →
    ∃ t v, exec (.parkRetryTimeout core pos k.id) s = .next t ∧ troupeAt t core pos = some v ∧
      v.parks = u.parks.filter (fun e => e.id != k.id) ∧ v.regs = u.regs ∧
      ∀ l, l < 32 → threadOf v l = if k.lanes.getLsbD l = true ∧ (threadOf u l).st = .parked k.id
        then { threadOf u l with st := .runnable } else threadOf u l) ∧
  (∀ (s : State) (core slot pos lane : Nat) (m : LaneMask) (r : List (Nat × Nat × LaneMask)) (u : Troupe) (s1 s2 : State) (h : Nat)
      (ws : List Nat) (cut : List (Nat × Nat × Nat)) (is : List (Nat × Instr)),
    let s0 := settleSlot s core slot
    let who : Who := if pos = 64 then ⟨core, true, 0, 0⟩ else ⟨core, false, troupeKey s0 u, u.group⟩
    let head := (threadOf u ((lowLane m).getD 0)).pc
    let hdr := headerOf h
    let trailer := ws.getD hdr.count 0
    let active := maskOf fun l => m.getLsbD l && (predOf u hdr.guard l != hdr.negate)
    tabGet (coreOf s core).slotBusy slot 0 ≤ s.cycle → candidates s0 core slot = (pos, lane, m) :: r →
    troupeAt s0 core pos = some u → u.clause = none → fetchWords s0 who 1 head = (s1, .inr [h]) → headerOk h = true →
    fetchWords s1 who (hdr.count + (if hdr.trailer then 1 else 0)) (head + 4) = (s2, .inr ws) →
    cutWords 24 0 (ws.take hdr.count) = some cut → placed hdr.cls cut = true → (hdr.trailer = true → trailerOk trailer = true) →
    decodeAll (isSup pos) (gridOfGroup s0 u.group) cut = .inr is → u.nextStart ≤ s2.cycle → waitOk s2 core u hdr = true →
    (pos = 64 ∨ fetchPoison s2 who (1 + ws.length) head = false) →
    (active ≠ 0 → (hdr.trailer = true → (openBatches s2 core u (bits trailer 2 0)).length < 8) ∧
      (hdr.cls = 1 → injectionLevel s2 core ≤ 3 ∧ u.acquires = []) ∧ deferredOpen s2 core pos = false ∧
      ∀ e ∈ is, ∀ n ∈ xNumbers (namedOperands e.2), (regOf u n).entry ≠ .spilled) →
    exec (.clauseStart core slot) s = .next
      { setTroupe s2 core pos { u with clause := some { newClause head hdr (ws.take hdr.count) trailer m active s2.cycle slot
          (is.flatMap fun e => marksOf e.2) with misses := (coreOf s2 core).tlbMisses } } with focus := some (core, pos) }) ∧
  (∀ (s : State) (core : Nat) (d : Delivery) (u : Troupe), (coreOf s core).supStopped = true → (coreOf s core).service = some d →
    troupeAt s core 64 = some u →
    ∃ t v, exec (.traprst core) s = .next t ∧ (coreOf t core).supStopped = false ∧ (coreOf t core).service = some d ∧
      troupeAt t core 64 = some v ∧ v.clause = none ∧ v.regs = u.regs ∧
      ∀ l, l < 32 → (threadOf v l).st = .runnable ∧ (threadOf v l).pc = (coreOf s core).trapvec) ∧
  (∀ (s : State) (core : Nat), (coreOf s core).supStopped = true → (coreOf s core).service = none →
    exec (.traprst core) s = .next (modCore s core fun k => { k with supStopped := false }))

/-- R126, R127: an acknowledged spill leaves its register spilled and frees its granules, where no running clause names it; a refill
that finds room reads the image back from where it was spilled to and encodes it.
R81, R292: a Minuet turn that is used up, or whose troupe a spill delivery has suspended, passes to the next troupe of the rotation once its
clause is complete; as a rotation ends, the grid's gangs that fit are admitted first. R224 to R228: the Quadrille unit moves a
group's threads once every one of them has arrived and its turn has come: a regroup to the places that R226 gives, with its tickets;
a restore back. -/
def Obligations.RegistersTurnsAndThreadsMove : Prop :=
  (∀ (s : State) (core n pos reg : Nat) (u : Troupe), (coreOf s core).spills[n]? = some (pos, reg) →
    troupeAt s core pos = some u → u.clause = none → (regOf u reg).entry = .resident →
    ∃ t v, exec (.spillAck core n) s = .next t ∧ (coreOf t core).spills = (coreOf s core).spills.eraseIdx n ∧
      troupeAt t core pos = some v ∧ regOf v reg = { emptyReg with entry := .spilled, home := pos } ∧ v.threads = u.threads ∧
      ∀ m, m ≠ reg → regOf v m = regOf u m) ∧
  (∀ (s s1 : State) (core pos reg : Nat) (u v : Troupe) (img : List Byte) (named : List Nat), troupeAt s core pos = some u →
    (regOf u reg).entry = .spilled → u.suspended = false → (wantedSets s core u).find? (fun q => q.contains reg) = some named → regsFit (coreOf s core) pos u 4 = true →
    readSpill s core (regOf u reg).home reg = (s1, .inr img) → troupeAt s1 core pos = some v →
    exec (.refill core pos reg) s = .next
      (setTroupe s1 core pos { v with regs := tabPut v.regs reg (encodeReg (formatLanes v) (mkLanes (imageLane img))) })) ∧
  (∀ (s : State) (ticket core pos : Nat) (g : Grid) (u : Troupe) (c p i j : Nat), gridAt s ticket = some g →
    gangSaved s ticket = false → turnTroupeOf s ticket g = some (core, pos, g.turnGroup, g.turnTroupe) →
    s.groups.any (fun e => e.2.ticket == ticket && e.2.closing) = false →
    troupeAt s core pos = some u → heldByTrap s core pos u = false → u.parks = [] → u.halted = false → turnQuiet s core pos u = true →
    (g.turnUsed = true ∨ u.suspended = true) →
    let s1 := setTroupe s core pos { u with turns := u.turns + 1 }
    let last : Prop := ((rotation s1 ticket).getLast?.map fun r => (r.2.2.1, r.2.2.2)) = some (g.turnGroup, g.turnTroupe)
    (¬last → turnAfter s1 ticket g.turnGroup g.turnTroupe = some (c, p, i, j) →
      ∃ t v h, exec (.minuetTurn ticket) s = .next t ∧ troupeAt t core pos = some v ∧ v.turns = u.turns + 1 ∧
        gridAt t ticket = some h ∧ h = { g with turnGroup := i, turnTroupe := j, turnUsed := false }) ∧
    (last → turnAfter (admitMore ticket 64 s1) ticket g.turnGroup g.turnTroupe = some (c, p, i, j) →
      exec (.minuetTurn ticket) s = .next (wakeTurn (modGrid (admitMore ticket 64 s1) ticket fun g =>
        { g with turnGroup := i, turnTroupe := j, turnUsed := false }) c p))) ∧
  (∀ (s : State) (ticket group fn range head : Nat) (g : Group) (q : List (Member × Nat × Nat × Nat × Nat)),
    let key := groupKey ticket group
    groupAt s key = some g → arrivedAll s key = some q →
    (∀ e ∈ q, e.2.1 = fn ∧ e.2.2.1 = range ∧ arrivedWhat s e.1 = some (fn, range, head)) → moveTurn s key g = true →
    (∀ e ∈ g.troupes, moveReady s g.core e.2 range = true) → moveFits (coreOf s g.core) g range ((q.head?.map fun e => e.2.2.2.1).getD 120) (fun e => holding e.2) = true →
    (fn = 1 →
      ∃ t, exec (.quadrilleMove ticket group) s = .next t ∧ t = restoreMove s key g q range ∧
        groupAt t key = some { g with posRecord := false }) ∧
    (fn = 0 → rangeCap range = false →
      let ts := q.map fun e => (memberPos e.1, e.2.2.2.2 % 512)
      ∃ t mv, exec (.quadrilleMove ticket group) s = .next t ∧ t = performMove s key g range false mv ∧
        mv.map (fun e : Move => (e.m, e.dest)) = q.map (fun e => (e.1, e.2.2.2.1)) ∧
        (∀ e ∈ mv, ∀ r, (placement g.ntroupes (fun _ => 1024) ts).find? (fun p => p.pos == memberPos e.m) = some r →
          e.to_ = r.to_ ∧ e.ticket = ticketOf ts r ∧ e.p6 = !r.own) ∧
        groupAt t key = some { g with posRecord := true }))

/-! ## Events: residency -/

/-- R455, R457, R454, R451: a kill of a gang of which no member runs a clause takes every member off its core, counts it, and an event
names the gang and the reason; poison consumed, an uncorrectable error in what it owns and a hang kill it so. R36: while a member runs
a clause the kill is kept, and no member starts another.
R67, R130: a group of which all threads have exited, with nothing of its own, of a job or of a stranger outstanding, retires; with the
last group the grid ends in state 2, or in state 4 after containment. -/
def Obligations.GangsAreKilledAndGroupsRetire : Prop :=
  (∀ (s : State) (ticket gang reason group : Nat) (g : Grid) (w : Group), gridAt s ticket = some g → gangAlive s ticket g gang = true →
    tabGet? g.dying gang = none →
    let key := groupKey ticket group
    (gangRunning s ticket g gang = false →
      let killed (i : Instr) (why : Nat) : Prop :=
        ∃ t h, exec i s = .next t ∧ gridAt t ticket = some h ∧ tabGet h.killed gang 0 = tabGet g.killed gang 0 + 1 ∧
          (∀ m, m < gangSize g → groupAt t (groupKey ticket (gang * gangSize g + m)) = none) ∧
          Message.event (why % 256) ticket gang (why / 256) ∈ t.outbox
      (reason ≠ goOnKill → killed (.gangKill ticket gang reason) reason) ∧ killed (.poisonConsumed ticket gang) 0x40 ∧
      killed (.eccError (.owned ticket gang)) 0x42 ∧
      (groupAt s key = some w → gangOf s key = (ticket, gang) → bits (coreOf s w.core).wdog.toNat 31 0 ≠ 0 →
        bits (coreOf s w.core).wdog.toNat 31 0 * 65536 ≤ w.hang → killed (.hangWatchdogExpiry ticket group) 0x43)) ∧
    (gangRunning s ticket g gang = true → reason ≠ goOnKill →
      ∃ t h, exec (.gangKill ticket gang reason) s = .next t ∧ gridAt t ticket = some h ∧ tabGet? h.dying gang = some reason ∧
        ∀ k ∈ gangResident s ticket g gang, ∃ v, groupAt t k = some v ∧ v.closing = true)) ∧
  (∀ (s : State) (ticket group : Nat) (w : Group) (g : Grid), let key := groupKey ticket group
    groupAt s key = some w → gridAt s ticket = some g → groupDrained s key = true → jobsNaming s [key] = [] →
    rangeSettled s g w = true →
    ∃ t h, exec (.groupRetire ticket group) s = .next t ∧ groupAt t key = none ∧ gridAt t ticket = some h ∧
      h.retired = (if group ∈ g.retired then g.retired else group :: g.retired) ∧
      h.status = if g.status = 1 ∧ g.current ≤ h.retired.length then (if g.contained then 4 else 2) else g.status)

/-- R59, R478: a launch doorbell lets its queue be served again; a queue's turn in round robin takes the entry at the head of a queue
that holds one and moves the head past it. R60, R66, R70, R74: an accepted grid gets the next ticket, stands in state 1, which the
control node hears of, and the tickets and orders count on; a refused record is reported in state 3 with its reason.
R83: a stage period begins with new weights and no admissions, 8,192 cycles long.
R71 to R74: the first gang that fits is admitted, its members at once, each to its core with its scratchpad zero; an idle die
takes a gang from the die with most unstarted ones. R75 to R80, R403, R404, R465: a gang that gives way is flushed or marked for its save, of a
Minuet grid all of them together; a flushed or saved gang is off its cores and pending again; a saved gang whose images are in order is restored, one
with a malformed image is killed with 0x42. -/
def Obligations.GridsAreLaunchedAndGangsPlaced : Prop :=
  (∀ (s : State) (q : Nat), q < 8 → s.mgmt.boot = 5 → s.mgmt.failed = false →
    exec (.launchDoorbell q) s = .next { s with mgmt := { s.mgmt with lqblocked := tabPut s.mgmt.lqblocked q false } }) ∧
  (∀ (s : State) (q : Nat) (l : Loc) (s1 s2 : State) (bs e : List Byte),
    ((List.range 8).map fun n => (s.mgmt.lqnext + n) % 8).find? (queueWaiting s) = some q →
    let s0 := { s with mgmt := { s.mgmt with lqnext := (q + 1) % 8 } }
    s.mgmt.boot = 5 → s.mgmt.failed = false → launchQueue s0 q = some l → unitHome s0 l 64 = (s1, bs) →
    queueOk (queueOf bs) = true → 0 < queueHeld (queueOf bs) → queueHeld (queueOf bs) ≤ (queueOf bs).capacity →
    unitBytes s1 (entryPtr (queueOf bs) (queueOf bs).head) 8 = (s2, some e) →
    let t := takeEntry (homeWrite s2 (l.plus 16) (leBytes 8 ((queueOf bs).head + 1))) q (word (leNat e))
    t.stuck = false → exec .launchQueueServe s = .next t) ∧
  (∀ (s : State) (g : Grid), g.current ≠ 0 →
    gridAt (acceptGrid s g) s.nextTicket = some { g with order := s.nextOrder } ∧
    (acceptGrid s g).nextTicket = ticketAfter s.nextTicket ∧ (acceptGrid s g).nextOrder = s.nextOrder + 1 ∧
    Message.completion s.nextTicket 1 0 ∈ (acceptGrid s g).outbox) ∧
  (∀ (s : State) (ptr : Word) (r : Nat), Message.completion 0 3 r ∈ (refuseRecord s ptr r).outbox) ∧
  (∀ (s : State) (pipe : Nat) (p : Pipeline), tabGet? s.pipelines pipe = some p → p.nextPeriod ≤ s.cycle →
    let q : Pipeline := { p with admitted := [], nextPeriod := s.cycle + 8192,
                                 weights := p.stages.map fun k => ((gridAt s k).map (weightOf s)).getD 0 }
    let s1 := { s with pipelines := tabPut s.pipelines pipe q }
    idleChoice s1 q = none → exec (.stagePeriod pipe) s = .next s1) ∧
  (∀ (s : State) (die donor ticket : Nat) (g : Grid) (p : PendingGang) (cs : List Nat) (i : Instr),
    ((i = .gangAdmit die ∧ donor = die ∧ firstFit s die = some (ticket, g, p, cs) ∧ p.saved = false) ∨
     (i = .workSteal die ∧ die < 4 ∧ dieIdle s die = true ∧ dieIdle s donor = false ∧
       (((List.range 4).filter (· != die)).mergeSort fun a b => decide ((unstarted s b).length ≤ (unstarted s a).length)).head? = some donor ∧
       stolenGang s die donor = some (ticket, g, p, cs))) →
    ∃ t, exec i s = .next t ∧ (∀ q ∈ (dieAt t donor).pending, ¬(q.ticket = ticket ∧ q.gang = p.gang)) ∧
      ∀ m ∈ liveMembers g p.gang, ∃ w, groupAt t (groupKey ticket (p.gang * gangSize g + m)) = some w ∧ w.core = cs.getD m 0 ∧
        w.index = p.gang * gangSize g + m ∧ w.scratch = [] ∧ w.closing = false) ∧
  (∀ (s : State) (die ticket gang : Nat) (g : Grid), preemptChoice s die = some (ticket, g, gang, false) →
    ∃ t, exec (.preempt die) s = .next t ∧ ∀ k ∈ wholeKeys s ticket g gang, ∃ w, groupAt t k = some w ∧ w.closing = true) ∧
  (∀ (s : State) (die ticket gang : Nat) (g : Grid), die < 4 → gridAt s ticket = some g →
    preemptChoice s die = some (ticket, g, gang, true) →
    ∀ i ∈ [Instr.preempt die, Instr.regionFlush ticket gang],
      ∃ t, exec i s = .next t ∧ (∀ k ∈ wholeKeys s ticket g gang, groupAt t k = none) ∧
        (∀ n ∈ givingWay s ticket g gang, ∃ d starts, { ticket, gang := n, requeued := true, saved := false, starts } ∈ (dieAt t d).pending) ∧
        (isMinuet g = false → ∃ starts, { ticket, gang, requeued := true, saved := false, starts } ∈
          (dieAt t (residentDie s ticket g gang)).pending)) ∧
  (∀ (s s1 : State) (ticket gang : Nat) (g : Grid), let keys := wholeKeys s ticket g gang
    gridAt s ticket = some g → tabGet? g.dying gang = none → heldByJob s keys = false → someExited s ticket g gang = false → keys ≠ [] →
    (∀ k ∈ keys, saveReady s k = true) → keys.all (flushable s g) = false → minuetStill s ticket g = true →
    (∀ k ∈ keys, runningEntries s k = []) →
    keys.foldl (fun (a : State × Bool) k => if a.2 then saveGroup a.1 k (imageBase g (k % 2 ^ 64)) false else a)
      (s, true) = (s1, true) →
    ∃ t, exec (.fullSave ticket gang) s = .next t ∧ (∀ k ∈ keys, groupAt t k = none) ∧ ∀ n ∈ givingWay s ticket g gang,
      { ticket, gang := n, requeued := true, saved := true, starts := [] } ∈ (dieAt t (residentDie s ticket g gang)).pending) ∧
  (∀ (s : State) (die ticket : Nat) (g : Grid) (p : PendingGang) (cs : List Nat),
    let ms := liveMembers g p.gang
    let ps := comingBack s die ticket g p
    firstFit s die = some (ticket, g, p, cs) → p.saved = true → imagesReady s g cs ps = true →
    (∀ q, bringBack s die ticket g cs ps = .inl q → (∀ m ∈ ms, tablesOk q (cs.getD m 0) = true ∧
        poolTakes (imageNeed s q ticket g ps (cs.getD m 0)) (coreOf q (cs.getD m 0)) ≤ 8064) →
      exec (.gangRestore die) s = .next (countStage q g)) ∧
    (∀ n, bringBack s die ticket g cs ps = .inr n → exec (.gangRestore die) s = exec (.gangKill ticket n 0x42) s) ∧
    (isMinuet g = false → ∀ s1, ms.foldl (fun (a : Option State) m => a.bind fun s =>
        restoreGroup s (groupKey ticket (p.gang * gangSize g + m)) (imageBase g (p.gang * gangSize g + m)))
          (some (admitGang (dropPending s die ticket p.gang) ticket g p cs)) = some s1 →
      bringBack s die ticket g cs ps = .inl (forgetTiles s1 ticket g p.gang)))

/-! ## Events: arrivals, tile entries, copy jobs -/

/-- R153, R350, R356: an answer arrives in a lane: a load whose turn has come reads its bytes where it performs, but for those that a later
store of its troupe has changed meanwhile (R150), and delivers them to every lane that shares them; a reply that has been made is delivered. R240, R241: an arrival reaches its word.
R432: under a revoked key a load that would leave the package faults with 0x38, and an arrival that would is discarded with an event.
R264, R265: the entry that the sequencer chooses starts, and the high queue's streak is counted.
R266, R270 to R272, R288, R289, R291: an entry that reads no poison leaves its queue with its arrival, and its result: `acc.zero` zeroes;
`tmm` in f64 fuses step by step; in every other format each group's exact sum is rounded once and added to the cell with one rounding; `tmm.bfp`
the exact sum of a block column, modulo 2^32, tagged RAW; `tsa` the scaled raw cell added exactly, with one rounding; `acc.ld` the range's
cells in row order; `acc.st`, `acc.cvst` and `opm.st` write the cells, converted cells or tile in that order; `opm.ld` fills its slot. R269: a
checksum mismatch runs the entry once more. R258, R483: a flit of a job performs, to a slot or at a home. R312: a follow-on joins its tile
queue. The model's own choice in it: what a product above the largest finite f32 is in `tsa` (notes/assumptions/43.md). -/
def Obligations.ArrivalsAndTileEntries : Prop :=
  (∀ (s s1 : State) (core sym lane ty : Nat) (y : Symbol) (u : Troupe) (loc : Loc) (bs : List Byte),
    symbolAt s core sym = some y → y.kind = .element ty → troupeAt s core y.pos = some u → (openLanes y).getLsbD lane = true →
    tabGet? y.replies lane = none → tabGet? y.locs lane = some loc → loc.area ≠ .host →
    readReady s core u y loc (typeWidth ty / 8) = true → hasSlot s core sym y loc.line = true →
    let lanes := (maskLanes (openLanes y)).filter fun l => ((tabGet? y.locs l).map Loc.key) == some loc.key
    let got := (List.range (typeWidth ty / 8)).map fun i => (tabGet? y.shadow (loc.key + i)).getD (bs.getD i 0)
    (answerRevoked s y.pos u loc = false → readOwn s core u y.seq loc (typeWidth ty / 8) = (s1, bs) →
      exec (.symbolArrival core sym lane) s = .next
        (finishSymbol (deliver (noticePoison s1 u loc (typeWidth ty / 8)) core sym
          (lanes.map fun l => (l, extElem ty (leNat got)))) core sym)) ∧
    (loc.area = .peer → isSup y.pos = false → troupeKey s u ∈ s.mgmt.revoked → exec (.symbolArrival core sym lane) s = .next
      (lanes.foldl (fun s l => finishSymbol (raiseFault s core sym l 0x38 (word loc.va)) core sym) s))) ∧
  (∀ (s : State) (core sym lane ty : Nat) (y : Symbol) (u : Troupe) (v : Word),
    symbolAt s core sym = some y → (y.kind = .atomic ty ∨ y.kind = .element ty) → troupeAt s core y.pos = some u →
    (openLanes y).getLsbD lane = true → tabGet? y.replies lane = some v →
    exec (.symbolArrival core sym lane) s = .next (finishSymbol (deliver s core sym [(lane, v)]) core sym)) ∧
  (∀ (s : State) (n : Nat) (a : Arrival), s.arrivals[n]? = some a →
    let rest := { s with arrivals := s.arrivals.eraseIdx n }
    (arrivalRevoked s a = false → arrivalWaits s a = false →
      exec (.syncArrival n) s = .next (arrive (requestTo rest a.key 8 a.word []) a.word a.gen a.bytes)) ∧
    (a.word.area = .peer → a.key ∈ s.mgmt.revoked →
      exec (.syncArrival n) s = .next (send rest (.event evRevoked 0 (a.word.va % 2 ^ 52) 0)))) ∧
  (∀ (s : State) (core : Nat) (hi : Bool) (e : TileEntry),
    (∀ q ∈ coreEntries (coreOf s core), placesKnown q = true ∧ (q.eligible = 0 → entryEligible s core q = false)) →
    chooseEntry (coreOf s core) (entryEligible s core) = some (hi, e) →
    let begun (l : List TileEntry) : List TileEntry :=
      l.map fun q => if q.id = e.id then { q with started := some s.cycle, began := some (q.began.getD s.cycle) } else q
    ∃ t, exec (.tileEntryStart core) s = .next t ∧
      (coreOf t core).hiStreak = (if hi then (coreOf s core).hiStreak + 1 else 0) ∧
      (coreOf t core).tileHi = begun (coreOf s core).tileHi ∧ (coreOf t core).tileLo = begun (coreOf s core).tileLo) ∧
  (∀ (s : State) (core : Nat) (fault : Bool) (e : TileEntry) (g : Group),
    (coreEntries (coreOf s core)).find? (fun q => q.id == e.id && workDone s.cycle q) = some e → e.job = none →
    (fault = true → ∀ bfp, e.op ≠ .tmm bfp) → groupAt s e.group = some g → readsPoison s e = false → (coreOf s core).trace.armed = false →
    let b := dBand e.desc
    let wide := e.fmts.1 == 12
    let cell (h : Group) (i j : Nat) : Nat := if wide then pairAt h b i j else cellAt h b i j
    let num (f : FFmt) (x : Option FVal) : Nat := match x with
      | none => f.canon
      | some .nan => f.canon
      | some v => (fpOut f 1 false false v).1
    let ends (n : Nat) (P : Group → Prop) : Prop := ∃ t h, exec (.tileEntryRetire core e.id fault) s = .next t ∧
      (∀ q ∈ coreEntries (coreOf t core), q.id ≠ e.id) ∧ groupAt t e.group = some h ∧ P h ∧
      t.arrivals = s.arrivals ++ (match e.notify with
        | none => []
        | some w => [{ word := w, gen := dGen e.desc, bytes := n, key := ((gridOfGroup s e.group).map gridKey).getD 0 }])
    let writes (n : Nat) (f : State → State) (bs : List Byte) : Prop := bs.length = n ∧
      exec (.tileEntryRetire core e.id fault) s = .next (retireEntry (countReaders (f (entryWrite s e bs)) false (nowSlots e)) core e)
    (e.op = .accZero → e.segments = [] → ends (if wide then 32768 else 16384) fun h =>
      (∀ i j, i < 64 → j < 64 → cell h i j = 0) ∧ tabGet h.bandTags b 0 = typeTag e.fmts.1) ∧
    (∀ (q : Segment) (gb : Group), e.segments = [q] → q.done = false → q.job = none → e.open_ = false → e.steps = 0 →
        groupAt s q.bGroup = some gb →
      let x (i k : Nat) : Nat := slotElem g (dAH q.desc) i k
      let y (j k : Nat) : Nat := slotElem gb (dBH q.desc) j k
      let k := dKB q.desc
      (e.op = .tmm false → wide = true → ends 32768 fun h => ∀ i j, i < 64 → j < 64 → cell h i j =
        (List.range k).foldl (fun c n => let f := fmtOf 0
          num f (((f.val (x i n)).mul (f.val (y j n))).bind fun p => (f.val c).add p 1)) (cell g i j)) ∧
      (e.op = .tmm false → wide = false → ends 16384 fun h => ∀ i j, i < 64 → j < 64 →
        let n := if e.fmts.1 ≥ 16 then 64 else 32
        let f := fmtOf 1
        cell h i j = (List.range ((k + n - 1) / n)).foldl (fun c m =>
          let sum := (List.range (min n (k - n * m))).foldl (fun (a : Option FVal) r => a.bind fun v =>
            (((fmtOf (e.fmts.1 - 12)).val (x i (n * m + r))).mul ((fmtOf (e.fmts.2 - 12)).val (y j (n * m + r)))).bind fun p => v.add p 1)
            (some (.fin true 0 0))
          if sum = none then f.canon else num f ((f.val c).add (f.val (num f sum)) 1)) (cell g i j)) ∧
      (e.op = .tmm true → wide = false → ends 16384 fun h => tabGet h.bandTags (dBand q.desc) 0 = 3 + 8 * (e.fmts.1 - 16) ∧
        ∀ i j, i < 64 → j < 64 → cellAt h (dBand q.desc) i j = ofSigned 32 (((List.range 32).map fun n =>
          let w := e.fmts.1 - 16
          toSigned w (x i (32 * (k % 32) + n)) * toSigned w (y j (32 * (k % 32) + n))).foldl (· + ·) 0))) ∧
    (e.op = .tsa → e.segments = [] → wide = false → ends 16384 fun h => ∀ i j, i < 64 → j < 64 →
      let q := bits e.desc.toNat 7 4
      let f := fmtOf 1
      let eA := (e.scales.getD i 0).toNat
      let eB := (e.scales.getD (64 + j) 0).toNat
      let raw := toSigned 32 (cellAt g q i j)
      let p : FVal := .fin (decide (raw < 0)) raw.natAbs ((eA : Int) + eB - 254 - 2 * ((tabGet g.bandTags q 0 / 8 : Nat) - 2 : Int))
      cellAt h b i j = if eA = 255 ∨ eB = 255 ∨ f.isNaN (cellAt g b i j) = true then f.canon
        else num f ((f.val (cellAt g b i j)).add (if f.isInf (num f (some p)) then f.val (num f (some p)) else p) 1)) ∧
    (∀ s1 bs, e.op = .accLd → e.segments = [] →
      entryRead (endBands s e.group b wide) e (if wide then 32768 else 16384) (bandSectors e.group b wide) = (s1, bs) →
      ends (if wide then 32768 else 16384) fun h => tabGet h.bandTags b 0 = typeTag e.fmts.1 ∧ ∀ i j, i < 64 → j < 64 →
        cell h i j = leNat ((bs.drop ((if wide then 8 else 4) * (64 * i + j))).take (if wide then 8 else 4))) ∧
    (e.op = .accSt → e.segments = [] → writes (if wide then 32768 else 16384) (fun s => s)
      ((List.range 4096).flatMap fun n => leBytes (if wide then 8 else 4) (cell g (n / 64) (n % 64)))) ∧
    (∀ rnd sat, e.op = .accCvst rnd sat → e.segments = [] → e.fmts.2 < 18 → ∀ (fd : FFmt), fd = fmtOf (e.fmts.2 - 12) →
      let r (n : Nat) : Nat × Nat := convert (fmtOf (e.fmts.1 - 12)) fd rnd 0 sat (flushBit e.mode (e.fmts.1 - 12))
        (flushBit e.mode (e.fmts.2 - 12)) (cell g (n / 64) (n % 64))
      writes (4096 * (fd.w / 8)) (fun s => mergeFlags s core e (orAll ((List.range 4096).map fun n => (r n).2)))
        ((List.range 4096).flatMap fun n => leBytes (fd.w / 8) (r n).1)) ∧
    (∀ rnd sat, e.op = .accCvst rnd sat → e.segments = [] → 18 ≤ e.fmts.2 →
      let w := e.fmts.2 - 16
      let fs := fmtOf (e.fmts.1 - 12)
      let cells (n : Nat) : List Nat := (List.range 32).map fun j => cell g (n / 2) (32 * (n % 2) + j)
      let blk (n : Nat) : Nat × List Nat × Bool := bfpEncode w rnd ((cells n).map fs.val)
      writes (512 * w + 128) (fun s => mergeFlags s core e (orAll ((List.range 128).map fun n => bfpFlags fs (cells n) (blk n))))
        ((List.range 128).flatMap (fun n => leBytes (4 * w) (packElems w 32 fun j => (blk n).2.1.getD j 0)) ++
          (List.range 128).map fun n => BitVec.ofNat 8 (blk n).1)) ∧
    (∀ s1 bs, e.op = .opmLd → e.segments = [] →
      let h := bits e.desc.toNat 4 0
      let size := tileSize (slotTag g h)
      (entryRead s e size fun _ => []) = (s1, bs) → bs.length = size → slotState (slotTag g h) = 1 → slotReaders (slotTag g h) = 0 →
      h < g.nslots → 128 ≤ size → size % 128 = 0 → size ≤ 16384 → tabGet g.slotWritten h [] = [] →
      ends size fun g' => slotState (slotTag g' h) = 3 ∧ ∀ i, i < size → tabGet (tabGet g'.slotBytes h []) i 0 = bs.getD i 0) ∧
    (e.op = .opmSt → e.segments = [] → let h := bits e.desc.toNat 4 0
      writes (tileSize (slotTag g h)) (fun s => s)
        ((List.range (tileSize (slotTag g h))).map fun i => tabGet (tabGet g.slotBytes h []) i 0))) ∧
  (∀ (s : State) (core : Nat) (bfp : Bool) (e : TileEntry),
    (coreEntries (coreOf s core)).find? (fun q => q.id == e.id && workDone s.cycle q) = some e → e.op = .tmm bfp → e.reruns = 0 →
    ∃ t, exec (.tileEntryRetire core e.id true) s = .next t ∧ t.groups = s.groups ∧
      (dieAt t (coreDie core)).reruns = (dieAt s (coreDie core)).reruns + 1 ∧
      ∀ q ∈ coreEntries (coreOf t core), q.id = e.id → q.started = some s.cycle ∧ 0 < q.reruns) ∧
  (∀ (s s1 : State) (die n i : Nat) (j : Job) (f : JobFlit) (p : FlitPlan), jobAt s die n = some j → j.st = .running →
    j.built = true → reachedFlit s die j i = true → j.todo[i]? = some f → scatterWaits j i = false → hasJoined s j = true →
    let j1 := { j with joined := true }
    planFlit (setJob s die j1) die j1 f = (s1, .inr p) → planWaits s1 p = false →
    (s.mgmt.boot = 5 → exec (.homeUnitAccess (.engine die n i)) s = .next (performFlit s1 die j1 i f p)) ∧
    ((slotTarget j).isSome = true → exec (.slotWrite die n i) s = .next (performFlit s1 die j1 i f p))) ∧
  (∀ (s s1 : State) (die n : Nat) (j : Job) (g : Group) (w : Option Loc), let key := followKey j
    let hi := (followWord j 0).testBit 0
    jobAt s die n = some j → j.followed = 1 → j.st = .running → groupAt s key = some g → followCauses s key g j = [] →
    followNotify s j g key = (s1, .inr w) → ((followWord j 0).testBit 2 = false ∨ bits (followWord j 0) 4 3 = 2) →
    queueUsed (coreOf s1 g.core) hi < 16 →
    exec (.followOnEnqueue die n) s = .next
      (enqueue (setJob s1 die { j with followed := 2, enqueued := s1.cycle }) g.core hi (followEntry s1 key g j w)))

/-- R304 to R310: a card that has reached the die is checked and accepted, with its status as the reply, or turned away while the window
is full; held jobs are released by a notice or a poll, or end with 0x87 once nothing can release them; the eligible job of highest
priority takes the lowest free engine; a job stops at a page that is not mapped and goes on when it is.
R312, R313, R315 to R318, R433, R449: after its last write a job's follow-on is issued, or ends it with 0x81 where the group is not
resident, or with 0x82 and a tile record where its scale vector cannot be read; a job with nothing left retires: its stamp is written and it leaves the window; one that meets an error, or whose key is
revoked, ends with its reason, a collective with 0x84; a job that ends leaves the window and an event names it; a collective takes its
chunks, and one whose peer is lost ends with 0x84. -/
def Obligations.JobsRunAndFinish : Prop :=
  (∀ (s : State) (die : Nat) (q : Submission) (r : List Submission), (dieAt s die).inbox = q :: r →
    let s0 := modDie s die fun d => { d with inbox := r }
    let c0 := homeRead s0 q.card 64
    let c1 := homeRead c0.1 (q.card.plus 64) 64
    (512 ≤ (dieAt s die).jobs.length → exec (.cardAcceptance die) s = .next (replyStatus s0 q 1)) ∧
    ((dieAt s die).jobs.length < 512 → ∀ (s1 : State) (j : Job), validate c1.1 die q (wordsOf (c0.2 ++ c1.2)) = (s1, .inr j) →
      exec (.cardAcceptance die) s = .next (replyStatus (acceptJob s1 die j) q (word (j.number % 2 ^ 32 * 65536)))) ∧
    ((dieAt s die).jobs.length < 512 → ∀ (s1 : State) (n : Nat), validate c1.1 die q (wordsOf (c0.2 ++ c1.2)) = (s1, .inl n) →
      exec (.cardAcceptance die) s = .next (replyStatus s1 q (word (n * 256 + 2))))) ∧
  (∀ (s : State) (die gen : Nat) (l : Loc) (r : List (Loc × Nat)), (dieAt s die).notices = (l, gen) :: r →
    exec (.jobRelease die) s = .next (releaseHeld (modDie s die fun d => { d with notices := r }) die l gen)) ∧
  (∀ (s : State) (die n : Nat) (j : Job) (l : Loc), jobAt s die n = some j → j.st = .held → waitLoc s die j = some l →
    exec (.waitWordPoll die n) s = .next (releaseHeld (readSync s l).1 die l (readSync s l).2.gen)) ∧
  (∀ (s : State) (die : Nat) (l : Loc) (gen : Nat) (j : Job), j ∈ (dieAt s die).jobs → j.st = .held →
    (waitLoc s die j).map Loc.key = some l.key → stillHeld (waitGen j) gen = false →
    { j with st := .accepted } ∈ (dieAt (releaseHeld s die l gen) die).jobs) ∧
  (∀ (s : State) (die n r r2 : Nat) (j : Job), jobAt s die n = some j →
    jobAt (endJob s die j r r2) die n = none ∧ Message.event evJob n r r2 ∈ (endJob s die j r r2).outbox) ∧
  (∀ (s : State) (die n : Nat) (j : Job), jobAt s die n = some j → j.st = .held → gridOver s j.ticket = true →
    exec (.waitWordRetired die n) s = .next (endJob s die j 0x87 0)) ∧
  (∀ (s : State) (die e : Nat) (j : Job) (r : List Job), let d := dieAt s die
    (List.range 16).find? (fun e => !(busyEngines d).contains e) = some e →
    ((d.jobs.filter (jobEligible s d)).mergeSort fun a b => decide (cardPrio b ≤ cardPrio a)) = j :: r →
    let j1 := { j with st := .running, engine := some e, started := s.cycle }
    exec (.jobStart die) s = .next (build (writeStamp (setJob s die j1) die j1 0) die j1)) ∧
  (∀ (s : State) (die n i c : Nat) (j : Job) (ptr : Word), jobAt s die n = some j → j.st = .running →
    obstacle s die j i = some (.stall c ptr) →
    exec (.jobPageStall die n i) s = .next
      (send (setJob s die { j with st := .stalled, stalledAt := s.cycle,
                                   stallPage := if remoteFailure s (engineWho die j).core ptr then none
                                     else some (bits ptr.toNat 51 0 / 65536) })
        (.pageService ptr (cardKey j) (256 + die)))) ∧
  (∀ (s : State) (die n : Nat) (j : Job), let s1 := payOwed s
    jobAt s1 die n = some j → j.st = .stalled →
    (∀ p, j.stallPage = some p → pageMapped s1 p = true) → (j.stallPage = none → j.stalledAt + 16384 ≤ s1.cycle) →
    let j1 := { j with st := .running, stalls := j.stalls + (s1.cycle - j.stalledAt), stallPage := none }
    exec (.jobResume die n) s = .next (if j.built then setJob s1 die j1 else build s1 die j1)) ∧
  (∀ (s : State) (die n : Nat) (j : Job), jobAt s die n = some j → j.st = .running → writesDone j = true → j.discarded = false →
    hasFollow j = true → j.followed = 0 →
    ((groupAt s (followKey j)).isSome = true → bits (followWord j 0) 4 3 ≠ 2 →
      exec (.followOnIssue die n) s = .next (setJob s die { j with followed := 1, engine := none })) ∧
    ((groupAt s (followKey j)).isSome = true → bits (followWord j 0) 4 3 = 2 → ∀ (s1 : State) (bs : List Byte) (bad : Bool),
      scaleRead s die j = (s1, .inr (bs, bad)) →
      exec (.followOnIssue die n) s = .next (setJob s1 die { j with followed := 1, scales := bs, badScales := bad, engine := none })) ∧
    (∀ g, groupAt s (followKey j) = some g → bits (followWord j 0) 4 3 = 2 → ∀ (s1 : State) (c : Nat),
      scaleRead s die j = (s1, .inl (.ends c)) → groupAt s1 (followKey j) = some g →
      exec (.followOnIssue die n) s = .next (if c = 0x80 then endJob s1 die j 0x80 0 else
        endJob (writeTileRecord s1 (cardWord j 7) j.number g.core ((followWord j 0).testBit 0) (followEntry s1 (followKey j) g j none) 0 4)
          die j 0x82 c)) ∧
    (groupAt s (followKey j) = none → exec (.followOnIssue die n) s = .next (endJob s die j 0x81 0))) ∧
  (∀ (s : State) (die n : Nat) (j : Job), jobAt s die n = some j → j.st = .running → writesDone j = true →
    (j.discarded = false → (hasFollow j = true → j.followed = 2) → ∀ s1, stampWay s die j = (s1, none) →
      exec (.jobRetire die n) s = .next
        (calm (dropJob (writeStamp (writeCollStatus s1 die j false) die { j with st := .complete } s1.cycle) die n) j.group)) ∧
    (j.discarded = false → (hasFollow j = true → j.followed = 2) → ∀ s1 c, stampWay s die j = (s1, some (.ends c)) →
      exec (.jobRetire die n) s = .next (endJob s1 die j c 0)) ∧
    (j.discarded = true → exec (.jobRetire die n) s = .next (endJob s die j 0x85 0))) ∧
  (∀ (s : State) (die n i : Nat) (j : Job), jobAt s die n = some j →
    (cardKey j ∈ s.mgmt.revoked → cardKind j < 5 → exec (.jobErrorEnd die n i) s = .next (endJob s die j 0x38 0)) ∧
    (cardKey j ∈ s.mgmt.revoked → 5 ≤ cardKind j →
      exec (.jobErrorEnd die n i) s = .next (endJob s die j 0x84 0)) ∧
    (cardKey j ∉ s.mgmt.revoked → j.st = .running → ∀ r, obstacle s die j i = some (.ends r) →
      exec (.jobErrorEnd die n i) s = .next (endJob s die j r 0))) ∧
  (∀ (s : State) (die n c : Nat) (j : Job) (data : List Word), jobAt s die n = some j → j.st = .running → j.built = true →
    c < collMembers j.auxRec → hasJoined s j = true →
    let j1 := { j with joined := true }
    (cardKind j = 5 → exec (.zethesAdder die n c data) s = .next (reduceChunk (setJob s die j1) die j1 c data)) ∧
    (cardKind j = 6 → exec (.zethesAdder die n c data) s = .next (gatherChunk (setJob s die j1) die j1 c data))) ∧
  (∀ (s : State) (die n : Nat) (j : Job), jobAt s die n = some j → 5 ≤ cardKind j →
    exec (.collectiveLost die n) s = .next (endJob s die j 0x84 0))

/-! ## Events: lines, store buffers, paging, the Reel -/

/-- R331, R332, R336 to R341, R363, R424, R483: what the memory system does on its own. A permission grant gives the L1 an empty copy of
the pair; a collapse that waits for no partial of a peer leaves no copy in U anywhere, and one that waits asks for the partials; an evicting
copy asks to merge, gets a slot with a flit that names it, and merges into its die's slice; an invalidation queued for 32,768 cycles takes its
S line; the oldest unsent entry is sent, and a sent store performs and is freed.
R335, R337, R354, R355: `merge` of two elements; a sent returning atomic reads, changes and writes back each lane's location at its home, in the
order of the lanes, and gives the old values as its reply; an update changes the L1's copy where its pair has a U state, and its location at the
home else. R432: an entry under a revoked key that would leave the package performs nothing. -/
def Obligations.LinesAndStoreBuffersMove : Prop :=
  (∀ (s : State) (core pos op ty : Nat) (u : Troupe) (l : Loc), troupeAt s core pos = some u →
    u.sb.findSome? (wantsU s core) = some (op, ty, l) → evictingHere s core l.line = false →
    (otherPair s l.line op ty && collapseWaits s l.line) = false → roomWaits s core l.line = false →
    ∃ t n, exec (.uGrant core pos) s = .next t ∧ lineAt t core l.line = some n ∧ n.st = .u op ty ∧ n.touched = 0 ∧ n.data = [] ∧
      n.key = ((gridOfGroup s u.group).map gridKey).getD 0) ∧
  (∀ (s : State) (line : Nat), collapseWaits s line = false → ∃ t, exec (.collapse line) s = .next t ∧ uPair t line = none ∧ holders t line isU = [] ∧
    holders t line isEvicting = []) ∧
  (∀ (s : State) (line : Nat), collapseWaits s line = true → exec (.collapse line) s = .next ((s.zethes.peers.filter fun m =>
      m.line == line && m.pair.isSome && m.slot.isNone && !s.zethes.partials.any fun p => p.line == line && p.pkg == m.pkg).foldl
    requestPartial s)) ∧
  (∀ (s : State) (core line op ty : Nat) (n : Line), mustEvictU s core line = true → lineAt s core line = some n → n.st = .u op ty →
    ∃ t, exec (.uEviction core line) s = .next t ∧ lineAt t core line = some { n with st := .evicting op ty } ∧
      t.merges = s.merges ++ [(core, line)]) ∧
  (∀ (s : State) (core line i : Nat), (core, line) ∈ s.merges → (∀ e ∈ s.fabric.mergeSlots, ¬(e.1 = core ∧ e.2.1 = line)) →
    let stop := sliceStops.getD (sliceOf line) 0
    let used := (s.fabric.mergeSlots.filter fun e => coreDie e.1 == coreDie core && sliceOf e.2.1 == sliceOf line).map fun e => e.2.2
    (List.range (slotCount stop)).find? (fun i => !used.contains i && (tabGet? s.fabric.slots (slotKey (coreDie core) stop i)).isNone)
      = some i →
    ∃ f, f.kind = 7 ∧ f.die = coreDie core ∧ f.stop = stop ∧ f.ddie = coreDie core ∧ f.dstop = coreStop core ∧ f.rslot = i ∧
      exec (.mergeSlotRequest core line) s = .next { s with fabric := { s.fabric with
        mergeSlots := s.fabric.mergeSlots ++ [(core, line, i)], waiting := s.fabric.waiting ++ [f] } }) ∧
  (∀ (s : State) (core line op ty i : Nat) (n : Line), (core, line) ∈ s.merges → (core, line, i) ∈ s.fabric.mergeSlots →
    lineAt s core line = some n → n.st = .evicting op ty → l2Waits s (coreDie core) line = false →
    ∃ t, exec (.evictionMerge core line) s = .next t ∧ (core, line) ∉ t.merges ∧
      (∀ e ∈ t.fabric.mergeSlots, ¬(e.1 = core ∧ e.2.1 = line)) ∧ lineAt t core line = none ∧
      tabGet? t.sliceU (line * 4 + coreDie core) = some (mergeCopy op ty ((tabGet? s.sliceU (line * 4 + coreDie core)).getD
        { emptyLine (.u op ty) n.va with key := n.key }) { n with st := .u op ty })) ∧
  (∀ (s : State) (die line op ty : Nat) (n : Line), tabGet? s.sliceU (line * 4 + die) = some n → n.st = .u op ty →
    12 ≤ (l2Updates s die line).length → (l2Updates s die line).getLast? = some line → mayRelease s die line = true →
    let home : Prop := (lineLoc line).area = .device ∧ homeDie s (lineLoc line) = die
    (home → exec (.sliceUEviction die line) s = .next (collapseLine s line)) ∧
    (¬home → exec (.sliceUEviction die line) s = .next
      { mergeHome s line op ty n with sliceU := tabDel s.sliceU (line * 4 + die) })) ∧
  (∀ (s : State) (core i line : Nat) (n : Line), (coreOf s core).invMsgs[i]? = some line → lineAt s core line = some n →
    n.st = .s → queuedInval s core line = false → (coreOf s core).invq.length < 256 →
    ∃ t q, exec (.invalidationReceive core i) s = .next t ∧ (coreOf t core).invMsgs = (coreOf s core).invMsgs.eraseIdx i ∧
      (coreOf t core).invq = (coreOf s core).invq ++ [q] ∧ q.line = line ∧ q.at_ = s.cycle ∧ lineAt t core line = some n) ∧
  (∀ (s : State) (core i : Nat) (e : Inval), (coreOf s core).invq[i]? = some e → e.at_ + 32768 ≤ s.cycle →
    ∃ t, exec (.invalidationAgeExpiry core i) s = .next t ∧ queuedInval t core e.line = false ∧ t.mem = s.mem ∧
      ∀ q ∈ (coreOf t core).l1, q.1 = e.line → q.2.st ≠ .s) ∧
  (∀ (s : State) (pa a len : Nat) (bs : List Byte),
    (s.mgmt.boot = 5 → physicalRange pa len = true → rangeWaits s pa len = false → exec (.homeUnitAccess (.ozwynRead pa len)) s = .next
      (send (physicalRead s pa len).1 (.data pa (physicalRead s pa len).2))) ∧
    (s.mgmt.boot = 5 → physicalRange pa bs.length = true → rangeWaits s pa bs.length = false → exec (.homeUnitAccess (.ozwynWrite pa bs)) s = .next (physicalWrite s pa bs)) ∧
    exec (.homeUnitAccess (.hostWrite a bs)) s = .next { s with hostMem := cellsPut s.hostMem a bs }) ∧
  (∀ (s : State) (core pos : Nat) (u : Troupe) (e : SBEntry), troupeAt s core pos = some u →
    u.sb.find? (fun q => !q.sent) = some e → e.again = false → e.kind ≠ .submission →
    ∃ t v, exec (.storeBufferSend core pos) s = .next t ∧ troupeAt t core pos = some v ∧
      v.sb = u.sb.map (fun q => if q.id = e.id then { e with sent := true } else q) ∧ v.regs = u.regs ∧ v.threads = u.threads) ∧
  (∀ (s : State) (core pos : Nat) (u : Troupe) (e : SBEntry), troupeAt s core pos = some u → core < 256 →
    u.sb.find? (fun q => q.id == e.id) = some e → (e.kind = .store ∨ e.kind = .record) → e.loc.area ≠ .host → ackReady s core pos u e = true →
    answerRevoked s pos u e.loc = false → freshSharers s core e.loc.line = [] →
    let s1 := coreRequest s core (troupeKey s u) 1 e.loc ((storeTab e).map fun b => b.2)
    exec (.storeAck core pos e.id) s = .next
      (dropEntry (coreStore (noteRace (noteShadow s1 core pos e) e) core e.loc (storeTab e)) core pos e.id)) ∧
  (∀ (op ty a b : Nat), let w := typeWidth ty
    let f := if ty = 12 then fmtOf 0 else fmtOf 1
    (op = 3 → mergeElem op ty a b = a ||| b) ∧
    (ty < 12 → mergeElem 0 ty a b = (a + b) % 2 ^ w ∧
      mergeElem 1 ty a b = (if ty < 4 then (if toSigned w b < toSigned w a then b else a) else min a b) ∧
      mergeElem 2 ty a b = (if ty < 4 then (if toSigned w a < toSigned w b then b else a) else max a b)) ∧
    (12 ≤ ty → op = 0 ∨ op = 4 → mergeElem op ty a b = if f.isNaN a = true ∨ f.isNaN b = true then f.canon else
      match (f.val a).add (f.val b) 1 with
      | none => f.canon
      | some v => (fpOut f 1 false false v).1) ∧
    (12 ≤ ty → op = 1 ∨ op = 2 → mergeElem op ty a b =
      if f.isNaN a = true ∧ f.isNaN b = true then f.canon else if f.isNaN a = true then b else if f.isNaN b = true then a
      else if op = 1 then (if f.tkey b < f.tkey a then b else a) else if f.tkey a < f.tkey b then b else a)) ∧
  (∀ (s : State) (core pos : Nat) (u : Troupe) (e : SBEntry), troupeAt s core pos = some u → core < 256 →
    u.sb.find? (fun q => q.id == e.id) = some e → ackReady s core pos u e = true → answerRevoked s pos u e.loc = false →
    e.loc.space ≠ 15 → (∀ o ∈ e.ops, o.loc.space ≠ 15) →
    let begun (s : State) : State := noteRace (noteShadow
      (coreRequest s core (troupeKey s u) 4 e.loc ((storeTab e).map fun b => b.2)) core pos e) e
    let one (w ty : Nat) (f : LaneOp → Nat → Nat) (a : State × Tab Word) (o : LaneOp) : State × Tab Word :=
      let r := homeRead (dropPlain a.1 core o.loc.line) o.loc w
      (homeWrite r.1 o.loc (leBytes w (f o (leNat r.2))), tabPut a.2 o.lane (extElem ty (leNat r.2)))
    let all (s : State) (w ty : Nat) (f : LaneOp → Nat → Nat) : State × Tab Word := e.ops.foldl (one w ty f) (begun s, [])
    let replies (y ty : Nat) (f : LaneOp → Nat → Nat) : Prop := ∀ q r t, all (noticePoison s u e.loc 64) (typeWidth ty / 8) ty f = r →
      dropEntry r.1 core pos e.id = t → symbolAt t core y = some q →
      exec (.storeAck core pos e.id) s = .next (setSymbol t core y { q with replies := q.replies ++ r.2 })
    (∀ fl fn ty y, e.kind = .atomic fl fn ty y → fn ≤ 8 → (fl = false → ty < 12) → (fn = 1 ∨ fn = 3 → fl = false → ty < 4) →
      (fn = 2 ∨ fn = 4 → 4 ≤ ty) → replies y ty fun o old =>
        let v := o.val.toNat
        let w := typeWidth ty
        if fl then (if fn = 3 then v else mergeElem fn ty old v) else
          [(old + v) % 2 ^ w, if toSigned w v < toSigned w old then v else old, min old v, if toSigned w old < toSigned w v then v else old,
            max old v, old &&& v, old ||| v, old ^^^ v, v].getD fn v) ∧
    (∀ ty y, e.kind = .cas ty y → replies y ty fun o old => if old = o.val2.toNat then o.val.toNat else old) ∧
    (∀ fl fn ty, e.kind = .update fl fn ty → (∀ o ∈ e.ops, updateInU e o = none) →
      (∀ op ty2, updatePair fl fn ty = some (op, ty2) → exec (.storeAck core pos e.id) s = .next (dropEntry
        (all s (typeWidth ty2 / 8) ty2 fun o old => mergeElem op ty2 old o.val.toNat).1 core pos e.id)) ∧
      (updatePair fl fn ty = none → exec (.storeAck core pos e.id) s = .next (dropEntry
        (all s (typeWidth ty / 8) ty fun o old => if fn = 5 then old &&& o.val.toNat else if fn = 7 then old ^^^ o.val.toNat else o.val.toNat).1
          core pos e.id))) ∧
    (∀ fl fn ty op ty2, e.kind = .update fl fn ty → (∀ o ∈ e.ops, updateInU e o = some (op, ty2)) → copiesHeld s core e = true →
      exec (.storeAck core pos e.id) s = .next (dropEntry (e.ops.foldl (fun s o => match lineAt s core o.loc.line with
        | none => s
        | some n =>
          let off := o.loc.key % 512
          let bs := leBytes (typeWidth ty2 / 8) (mergeElem op ty2 (uElem op ty2 n off) o.val.toNat)
          setLine s core o.loc.line { n with touched := n.touched ||| sectorBit (off / 64), data := putBytes n.data off bs })
        (begun s)) core pos e.id))) ∧
  (∀ (s : State) (core pos : Nat) (u : Troupe) (e : SBEntry), troupeAt s core pos = some u → core < 256 →
    u.sb.find? (fun q => q.id == e.id) = some e → e.kind ≠ .submission → e.loc.area = .peer → ackReady s core pos u e = true →
    copiesHeld s core e = true → isSup pos = false → troupeKey s u ∈ s.mgmt.revoked → replySymbol e.kind = none →
    exec (.storeAck core pos e.id) s = .next (send (dropEntry s core pos e.id) (.event evRevoked core (e.loc.va % 2 ^ 52) 0))) ∧
  (∀ (s : State) (core pos : Nat) (u : Troupe) (e : SBEntry), troupeAt s core pos = some u →
    u.sb.find? (fun q => q.id == e.id && (q.kind == .store || q.kind == .record) && q.loc.area == .host) = some e → ackReady s core pos u e = true →
    poisoned s e.loc 64 = false →
    exec (.hostAccess core pos e.id) s = .next
      (coreStore (noteRace (noteShadow (dropEntry s core pos e.id) core pos e) e) core e.loc (storeTab e)))

/-- R385, R387: a walk for an address that no TLB of the requester's core or die holds puts the leaf, with A set, into both, and writes
it back where that changes it; D is set with it only where a buffered write of the core to that page waits to perform.
R391: a migration of a page that may move begins: MIG is set in the leaf, the die's engine keeps the page and its new frame, and no TLB
of a core keeps a translation of the address. It goes on once no access under an older translation is outstanding and no partial of a
peer is missing; until then nothing changes. The copy leaves at the new frame, byte by byte, what stood at the old one.
R415, R416, R418, R421, R424: the oldest waiting flit of a plane at a stop is injected in a fabric cycle of the tick in which it may
be, stamped with that cycle, on a port that it takes from those the cycle's arrivals left free; the stop's next injection is due after
as many cycles as its level asks. The flits that reach a router in one cycle are served in order of priority; one at its destination
takes the ejection port; any other takes a productive port, in its preferred direction first, and is deflected only where none is free.
R414, R415, R443, R451: a tick is eight cycles in which every flying flit ages by one, to 1,023 at most, and groups that hang count on;
memory, cores and grids stay but for what the flits do that reach their units in it. R421: a throttle window sets the stop's level from its
deflections. -/
def Obligations.PagesAndFlitsMove : Prop :=
  (∀ (s : State) (core va a e level : Nat) (write : Bool), core < 256 → va < 2 ^ 52 → missed s core va = true →
    walk s va = some (a, e, level) →
    let leaf := e ||| 0x80 ||| (if write && writeWaits s core va then 0x40 else 0)
    let n : TlbEntry := ⟨va / pageSize level * pageSize level, pageSize level, leaf⟩
    ∃ t, exec (.pageWalk core va write) s = .next t ∧ n ∈ (coreOf t core).tlb ∧ n ∈ (dieAt t (unitDie core)).tlb2 ∧
      t.mem = if leaf = e then s.mem else (setLeaf s a leaf).mem) ∧
  (∀ (s : State) (die va frame a e size : Nat), (dieAt s die).migrating = none → movable s va = some (a, e, size) →
    (dieAt s die).migpol.getLsbD 63 = true → frameFits s die e frame size va = true → va < 2 ^ 52 →
    ∃ t, exec (.migrationMove die va frame) s = .next t ∧ (dieAt t die).migrating = some (va, frame) ∧
      t.mem = (setLeaf s a (e ||| 0x400)).mem ∧ ∀ core, ∀ n ∈ (coreOf t core).tlb, tlbCovers va n = false) ∧
  (∀ (s : State) (die va frame v f a e level : Nat), (dieAt s die).migrating = some (v, f) → walk s v = some (a, e, level) →
    e.testBit 10 = true → bits e 9 8 ≤ 1 → e.testBit 12 = false →
    let waits := (pageLines s (bits e 51 16 * 2 ^ 16) (pageSize level)).any (collapseWaits s)
    (pageQuiet s v = true → waits = false →
      exec (.migrationMove die va frame) s = .next (finishMove s die v a e (pageSize level) f) ∧
      (dieAt (finishMove s die v a e (pageSize level) f) die).migrating = none) ∧
    (pageQuiet s v = false ∨ waits = true → exec (.migrationMove die va frame) s = .next s)) ∧
  (∀ (s : State) (old new size i : Nat), i < size → (new + size ≤ old ∨ old + size ≤ new) → memoryWf s.mem = true →
    cellGet (copyFrame s old new size).mem (new + i) = cellGet s.mem (old + i) ∧
    cellGet (copyFrame s old new size).mem (old + i) = cellGet s.mem (old + i)) ∧
  (∀ (s s1 : State) (plane die stop d2 s2 n : Nat) (f g1 : Flit) (r : List Flit) (d : Dir) (b : Bool), let h := throttleOf s die stop
    let mine (f : Flit) : Bool := planeOf f.kind == plane && f.die == die && f.stop == stop
    let now := max (max s.cycle (lastRouted s plane die stop)) (if plane = 0 then h.nextInject.1 else h.nextInject.2)
    let g := carried { f with age := 0, seq := now % 8, pref := Config.pref s.moves }
    let left := portsLeft s plane die stop now
    takeFirst mine s.fabric.waiting = some (f, r) → now < s.cycle + 8 → escalated s plane die = false → slotReady s g = true →
    bridgeOk g = true → routedUpTo s plane now = true → (∀ q ∈ s.fabric.flying, mine q = true → now < q.ready) →
    allotSlot s g = some (s1, g1) → choosePort die stop g1 left.1 = some (d, b) → neighbour die stop d = some (d2, s2, n) →
    ∃ t, exec (.flitInject plane die stop) s = .next t ∧ t.fabric.waiting = r ∧
      t.fabric.flying = s.fabric.flying ++ [{ g1 with die := d2, stop := s2, ready := now + 1 + n }] ∧
      portsLeft t plane die stop now = (left.1.filter (fun q => q != d), left.2) ∧
      (if plane = 0 then (throttleOf t die stop).nextInject.1 else (throttleOf t die stop).nextInject.2) = now + 2 ^ h.level) ∧
  (∀ (s : State) (plane die stop now : Nat),
    let mine (f : Flit) : Bool := planeOf f.kind == plane && f.die == die && f.stop == stop && decide (f.ready < s.cycle + 8)
    let here := s.fabric.flying.filter mine
    let l := landDue s now
    let rest := { l with fabric := { l.fabric with flying := l.fabric.flying.filter fun f => !(mine f && f.ready == now) } }
    let q := ((here.filter fun f => f.ready == now).mergeSort flitBefore).foldl (routeOne die stop) (rest, portsLeft l plane die stop now)
    (here.map Flit.ready).min? = some now → routedUpTo s plane now = true →
    exec (.flitRoute plane die stop) s = .next (setPorts q.1 plane die stop now q.2)) ∧
  (∀ (s : State) (die stop : Nat) (free : List Dir) (port : Bool) (f : Flit),
    (f.ddie = die → f.dstop = stop → port = true → routeOne die stop (s, free, port) f =
      ({ s with fabric := { s.fabric with landing := s.fabric.landing ++ [{ f with ready := f.ready + 1 }] } }, free, false)) ∧
    (∀ d lost d2 s2 n, ¬(f.ddie = die ∧ f.dstop = stop ∧ port = true) → choosePort die stop f free = some (d, lost) →
      neighbour die stop d = some (d2, s2, n) →
      let c := countCrossing (if lost then countDeflection s die stop else s) die d n
      (n ≠ 4 → c = if lost then countDeflection s die stop else s) ∧
      routeOne die stop (s, free, port) f =
        ({ c with fabric := { c.fabric with flying := c.fabric.flying ++ [{ f with die := d2, stop := s2, ready := f.ready + n }] } },
          free.filter (fun q => q != d), port)) ∧
    (∀ d, choosePort die stop f free = some (d, false) → d ∈ free ∧ productive die stop f d = true ∧
      (isXDir d = f.pref → ∀ q ∈ free, productive die stop f q = true → isXDir q = f.pref)) ∧
    (∀ d, choosePort die stop f free = some (d, true) → free.head? = some d ∧ ∀ q ∈ free, productive die stop f q = false)) ∧
  (∀ s : State, (s.mgmt.boot = 5 → s.mgmt.image = none → bootStep s = s) ∧
    ∃ t, exec .fabricTick s = .next (bootStep (landDue t (s.cycle + 8))) ∧ t.cycle = s.cycle + 8 ∧
    t.fabric.flying = s.fabric.flying.map (fun f => { f with age := min 1023 (f.age + 1) }) ∧ t.fabric.landing = s.fabric.landing ∧
    t.mem = s.mem ∧ t.cores = s.cores ∧ t.grids = s.grids ∧
    (∀ key g, groupAt s key = some g → groupAt t key = some (if hangs s key g then { g with hang := g.hang + 8 } else g)) ∧
    ((∀ f ∈ s.fabric.landing, s.cycle + 8 < f.ready) → landDue t (s.cycle + 8) = t)) ∧
  (∀ (s : State) (die stop : Nat), die < 4 → stop < 100 → (throttleOf s die stop).windowEnd ≤ s.cycle →
    ∃ t, exec (.throttleWindow die stop) s = .next t ∧ throttleOf t die stop =
      { throttleOf s die stop with level := nextLevel (throttleOf s die stop).level (throttleOf s die stop).window s.mgmt.floor,
                                   last := (throttleOf s die stop).window, window := 0,
                                   windowEnd := (throttleOf s die stop).windowEnd + 256 })

/-! ## Events: links, debug, errors, power and management -/

/-- R428 to R430, R432, R434 to R436: a packet in stream order is rebuilt at once, one ahead of its turn waits; credits acknowledge and
return; a port with more than 16 replays in 3,000 cycles, or found dead, leaves the tables; a peer's partial takes a merge slot; packets
under a revoked key are counted. A queue pair's work is popped, sent and completed, with the arrival of the bytes moved at its sync word, or
fails; remote writes and reads reach registered regions. -/
def Obligations.LinksCarryTraffic : Prop :=
  (∀ (s : State) (p : Packet), let k := inStream p.peer p.plane
    s.mgmt.boot = 5 → p.port < 96 → (portOf s p.port).dead = false → p.crcOk = true → p.flits.length ≤ 4 → p.key ∉ s.mgmt.revoked →
    (p.seq = (streamOf s k).next → (streamOf s k).reorder = [] →
      ∃ t, exec (.zethesPacketReceive p) s = .next t ∧ streamOf t k = { streamOf s k with next := (streamOf s k).next + 1 } ∧
        t.fabric.waiting = s.fabric.waiting ++ p.flits.map (fun f =>
          { f with die := portDie p.port, stop := portStop p.port, sdie := portDie p.port, sstop := portStop p.port,
                   peer := some p.peer })) ∧
    ((streamOf s k).next < p.seq → reorderBytes s (portDie p.port) + 128 * p.flits.length ≤ 2 ^ 21 → (∀ r ∈ (streamOf s k).reorder, r.seq ≠ p.seq ∧ r.seq ≠ (streamOf s k).next) →
      ∃ t, exec (.zethesPacketReceive p) s = .next t ∧ t.fabric = s.fabric ∧
        streamOf t k = { streamOf s k with reorder := (streamOf s k).reorder ++ [p] })) ∧
  (∀ (s : State) (stream n : Nat), let k := 2 ^ 20 + stream
    (streamOf s k).held = [] →
    ∃ t, exec (.zethesCreditReturn stream n) s = .next t ∧ (streamOf t k).credits = (streamOf s k).credits + n ∧
      t.zethes.ports = (acknowledge s k n).zethes.ports) ∧
  (∀ (s : State) (port n : Nat), port < 96 → (portOf s port).dead = false →
    (∃ t, exec (.portDead port) s = .next t ∧ (portOf t port).dead = true ∧ (portOf t port).unacked = []) ∧
    (n < (portOf s port).unacked.length →
      let recent := ((portOf s port).replays ++ [s.cycle]).filter fun t => decide (s.cycle < t + 3000)
      ∃ t, exec (.zethesReplay port n) s = .next t ∧
        (recent.length ≤ 16 → portOf t port = { portOf s port with replays := recent }) ∧
        (16 < recent.length → (portOf t port).dead = true ∧ (portOf t port).unacked = []))) ∧
  (∀ (s : State) (line pkg op ty : Nat) (m : PeerHolder) (data : Tab Byte) (touched : BitVec 8), pkg ≠ Config.package → op ≤ 4 →
    (lineLoc line).area = .device → otherPair s line op ty = false → (∀ e ∈ s.zethes.partials, ¬(e.line = line ∧ e.pkg = pkg)) →
    let asked := s.zethes.peers.find? fun m => m.line == line && m.pkg == pkg && m.pair == some (op, ty) && m.slot.isSome
    (asked = none ∨ (asked = some m ∧ m.key ∈ s.mgmt.revoked) → exec (.partialFold line pkg op ty data touched) s = .next s) ∧
    (asked = some m → m.key ∉ s.mgmt.revoked → exec (.partialFold line pkg op ty data touched) s = .next
      (payOwed { s with zethes := { s.zethes with partials := s.zethes.partials ++ [⟨line, pkg, op, ty, data, touched, m.key⟩] } }))) ∧
  (∀ (s : State) (port key : Nat), port < 96 → key ∈ s.mgmt.revoked →
    ∃ t, exec (.revokedArrival port key) s = .next t ∧
      portOf t port = { portOf s port with revoked := (portOf s port).revoked + 1 }) ∧
  (∀ (s s1 s2 s3 s4 : State) (die qp : Nat) (q : QueuePair) (p : Word) (bs out : List Byte), let k := qpKey die qp
    let w := wordsOf bs
    tabGet? s.qps k = some q → q.error = false → q.connected = true → q.destroying = none → popQueue s q.recv = (s1, none) →
    (dieAt s1 die).paused.getLsbD (Config.qpPriority die qp % 8) = false → popQueue s1 q.send = (s2, some p) → p.toNat % 64 = 0 → bits p.toNat 63 60 = 0 →
    unitBytes s2 p 64 = (s3, some bs) → workOk s3 (k % 2 ^ 24) w = true → workOp w < 4 → localBytes s3 w = (s4, some out) → s4.stuck = false →
    exec (.workRequestPop die qp) s = .next
      (send { s4 with qps := tabPut s4.qps k { q with work := q.work ++ [w] } }
        (.rdma q.die (k % 2 ^ 24) (workOp w) (workWord w 4) (workWord w 5) (bits (workWord w 0) 63 32) out))) ∧
  (∀ (s : State) (die qp n : Nat) (q : QueuePair) (w : List Word) (r : List (List Word)), let k := qpKey die qp
    let ends (s : State) : State := send { s with qps := tabPut s.qps k { q with error := true, work := [], posted := [] } }
      (.event evQp q.die (k % 2 ^ 24) 2)
    tabGet? s.qps k = some q →
    (q.work = w :: r →
      (workOp w < 4 → exec (.workCompletion die qp ⟨false, true, n⟩) s = .next
        (finishQp (workArrival { s with qps := tabPut s.qps k { q with work := r } } w (workLength w)) k)) ∧
      exec (.workCompletion die qp ⟨false, false, n⟩) s = .next (finishQp (ends s) k)) ∧
    (q.posted = w :: r →
      (n ≤ workLength w → 4 ≤ workOp w → ∀ s1,
        localStore { s with qps := tabPut s.qps k { q with posted := r } } w (freeBytes { s with qps := tabPut s.qps k { q with posted := r } } 0 n)
          = (s1, true) → exec (.workCompletion die qp ⟨true, true, n⟩) s = .next (finishQp (workArrival s1 w n) k)) ∧
      exec (.workCompletion die qp ⟨true, false, n⟩) s = .next (finishQp (ends s) k) ∧
      (workLength w < n → exec (.workCompletion die qp ⟨true, true, n⟩) s = .next (finishQp (ends s) k)))) ∧
  (∀ (s : State) (w : List Word) (n : Nat) (l : Loc) (s1 : State), workWordLoc s w = (s1, some l) → workArrival s w n =
    { s1 with arrivals := s1.arrivals ++ [{ word := l, gen := bits (workWord w 7) 31 0, bytes := n, key := bits (workWord w 0) 31 16 }] }) ∧
  (∀ (s s1 : State) (die qp rkey addr len : Nat) (bs : List Byte),
    (s.mgmt.boot = 5 → remoteMay s die qp rkey addr bs.length true = true →
      exec (.rdmaIncomingWrite die qp rkey addr bs) s = .next (unitStore s (word addr) bs).1) ∧
    (remoteMay s die qp rkey addr len false = true → unitBytes s (word addr) len = (s1, some bs) →
      exec (.rdmaIncomingRead die qp rkey addr len) s = .next (send s1 (.rdmaAnswer die qp bs)))) ∧
  (∀ (s : State) (die prio : Nat) (pause : Bool), die < 4 → prio < 8 →
    ∃ t, exec (.priorityFlowControl die prio pause) s = .next t ∧ ∀ i, i < 8 →
      (dieAt t die).paused.getLsbD i = if i = prio then pause else (dieAt s die).paused.getLsbD i) ∧
  (∀ (s : State) (die qp : Nat) (q : QueuePair), tabGet? s.qps (qpKey die qp) = some q →
    ∃ t rate, exec (.congestionNotification die qp) s = .next t ∧ rate ≤ q.rate ∧ tabGet? t.qps (qpKey die qp) = some { q with rate })

/-- R441, R442, R444 to R446, R478: halt requests, the registers of the debugger, triggers, snapshots and samples act as stated.
R452, R453, R458, R459: errors and background work are counted; a data error poisons its sector; a device error ends every grid. -/
def Obligations.DebugAndErrorsAct : Prop :=
  (∀ (s : State) (ticket group : Nat) (g : Group), groupAt s (groupKey ticket group) = some g →
    groupAt (requestHalt s (groupKey ticket group)) (groupKey ticket group) = some { g with haltReq := some (g.haltReq.getD s.cycle) } ∧
    exec (.haltRequest ticket group) s =
      .next (checkGroup (requestHalt s (groupKey ticket group)) (groupKey ticket group)) ∧
    (s.mgmt.debugsel = group → exec (.debugHaltGroup ticket) s =
      .next (checkGroup (requestHalt (nameGrid s ticket) (groupKey ticket group)) (groupKey ticket group))) ∧
    (s.mgmt.debugsel = group → ∃ t, exec (.debugResumeGroup ticket) s = .next (settleRegroup t (groupKey ticket group)) ∧
      groupAt t (groupKey ticket group) = some { g with haltReq := none, halted := false } ∧ t.mem = s.mem ∧
      ∀ e ∈ g.troupes, ∀ u, troupeAt s g.core e.2 = some u → ∃ v, troupeAt t g.core e.2 = some v ∧ v.halted = false ∧ v.regs = u.regs ∧
        ∀ l, l < 32 → threadOf v l = if (threadOf u l).st = .runnable then { threadOf u l with seen := true } else threadOf u l)) ∧
  (∀ (s : State) (core pos : Nat) (u : Troupe), troupeAt s core pos = some u → haltsNow s core u = true →
    ∃ t, exec (.haltTimeout core pos) s = .next t ∧ t = haltTroupe s core pos ∧
      ((coreOf s core).trace.armed = false → troupeAt t core pos = some { u with halted := true })) ∧
  (∀ (s : State) (ticket : Nat) (g : Grid), gridAt s ticket = some g →
    (∃ t, exec (.debugEnable ticket) s = .next t ∧ gridAt t ticket = some { g with debug := true } ∧ t.mgmt.debuggrid = ticket) ∧
    ∃ t, exec (.debugDisable ticket) s = .next t ∧ gridAt t ticket = some { g with debug := false } ∧ t.mgmt.debuggrid = ticket) ∧
  (∀ (s : State) (v : Nat) (g : Grid), gridAt s (bits v 63 32) = some g →
    (v.testBit 24 = true → ∃ t, exec (.brksetSet v) s = .next t ∧
      gridAt t (bits v 63 32) = some { g with breakpoints := tabPut g.breakpoints (bits v 30 28) (word v) }) ∧
    (v.testBit 24 = false → ∃ t, exec (.brksetClear v) s = .next t ∧
      gridAt t (bits v 63 32) = some { g with breakpoints := tabDel g.breakpoints (bits v 30 28) })) ∧
  (∀ (s s1 : State) (base : Nat) (g : Group), groupAt s (groupKey s.mgmt.debuggrid s.mgmt.debugsel) = some g →
    (g.halted = false → exec (.dumpreq base) s = .next (send s (.event evDump s.mgmt.debuggrid s.mgmt.debugsel 1))) ∧
    (g.halted = true → base % 4096 = 0 → base < 2 ^ 52 →
      saveGroup s (groupKey s.mgmt.debuggrid s.mgmt.debugsel) (word base) true = (s1, true) →
      exec (.dumpreq base) s = .next (send s1 (.event evDump s1.mgmt.debuggrid s1.mgmt.debugsel 0))) ∧
    (g.halted = true → base % 4096 ≠ 0 ∨ 2 ^ 52 ≤ base →
      exec (.dumpreq base) s = .next (send s (.event evDump s.mgmt.debuggrid s.mgmt.debugsel 2)))) ∧
  (∀ (s : State) (n : Nat), n < 16 → exec (.triggerSend n) s = .next
    { s with fabric := { s.fabric with triggers := s.fabric.triggers ++ [{ number := n, t0 := s.cycle, reached := [], flit := triggerFlit n s.cycle }] } } ∧
    (triggerFlit n s.cycle).kind = 10) ∧
  (∀ (s : State) (block n time : Nat) (peer : Bool), block < 400 → n < 16 → tabGet? s.snapshots block = none →
    blockAction (tabGet s.mgmt.trigcfg n 0) block = 1 →
    (peer = false → ∃ q ∈ s.fabric.triggers, q.number = n ∧ q.t0 = time ∧ block ∉ q.reached) →
    ∃ t, exec (.triggerReceive block n time peer) s = .next t ∧
      tabGet? t.snapshots block = some { armed := some (time + (if peer then 65536 else 8192)), latched := none, second := 0 }) ∧
  (∀ (s : State) (block due : Nat) (q : Snapshot), tabGet? s.snapshots block = some q →
    (q.armed = some due → due ≤ s.cycle → exec (.snapshotLatch block) s = .next
      { s with snapshots := tabPut s.snapshots block (snapshotOf s block { q with armed := none, latched := some s.cycle }) } ∧
      (block < 256 → (snapshotOf s block { q with armed := none, latched := some s.cycle }).core = some (coreOf s block))) ∧
    exec (.snapshotRead block) s = .next { s with snapshots := tabPut s.snapshots block { q with latched := none } }) ∧
  (∀ (s : State) (core p : Nat) (u : Troupe), let r := (coreOf s core).trace
    (r.armed = true ∨ (coreOf s core).tracelost.getLsbD 32 = true) → r.due ≤ s.cycle → samplePos (coreOf s core) = some p → troupeAt s core p = some u →
    exec (.traceSample core) s = .next (sampleTroupe
      (modCore s core fun k => { k with trace := { r with due := r.due + 2 ^ r.p, nextPos := (p + 1) % 64 } }) core p u)) ∧
  (∀ (s : State) (die pa which ch : Nat), die < 4 →
    exec (.timingRepeat die) s = .next (modDie s die fun d => { d with timingRepeats := d.timingRepeats + 1 }) ∧
    (∃ t, exec (.eccError (.corrected die)) s = .next t ∧ (dieAt t die).corrected = (dieAt s die).corrected + 1 ∧ t.mem = s.mem) ∧
    (∃ t, exec (.eccError (.data pa)) s = .next t ∧ pa / 64 ∈ t.poison ∧ t.mem = s.mem) ∧
    (∀ n f, s.fabric.flying[n]? = some f → exec (.eccError (.flit n)) s =
      .next { s with fabric := { s.fabric with flying := s.fabric.flying.set n { f with poison := true } } }) ∧
    (∃ t, exec (.eccError .device) s = .next t ∧ t.mgmt.failed = true ∧ (∀ k g, gridAt t k = some g → g.status ≠ 1) ∧
      (∀ k, groupAt t k = none) ∧ ∀ d, (dieAt t d).pending = [] ∧ (dieAt t d).jobs = [] ∧ (dieAt t d).inbox = []) ∧
    exec (.patrolScrub die which) s = .next (modDie s die fun d =>
      { d with scrubNear := d.scrubNear + (if which = 0 then 1 else 0), scrubFar := d.scrubFar + (if which = 1 then 1 else 0),
               scrubL2 := d.scrubL2 + (if which ≤ 1 then 0 else 1) }) ∧
    exec (.dramCalibration die ch) s = .next (modDie s die fun d => { d with calibrations := d.calibrations + 1 })) ∧
  (∀ (s : State) (line : Nat), (countMiss s line).l2misses = s.l2misses + 1 ∧ (countMiss s line).missPages =
    if (s.l2misses + 1) % 64 = 0 ∧ (lineLoc line).area = .device then s.missPages ++ [line * 512 / 65536] else s.missPages) ∧
  (∀ (s : State) (page : Nat) (r : List Nat), s.missPages = page :: r →
    ∃ t, exec (.migrationAccounting page) s = .next t ∧ t.missPages = r ∧ t.l2misses = s.l2misses ∧
    ∀ n, tabGet t.migcount n 0 = if n = page then min 0xFFFF (tabGet s.migcount page 0 + 1) else tabGet s.migcount n 0) ∧
  (∀ (s : State) (die : Nat), let period := 2 ^ bits (dieAt s die).migpol.toNat 31 24
    die < 4 → (dieAt s die).nextHalving + period ≤ s.cycle →
    ∃ t, exec (.counterHalving die) s = .next t ∧ (dieAt t die).nextHalving = (dieAt s die).nextHalving + period ∧
      ∀ n, tabGet t.migcount n 0 = if pageDie s n = die then tabGet s.migcount n 0 / 2 else tabGet s.migcount n 0) ∧
  (∀ (s : State) (die stop : Nat), die < 4 → stop < 100 → tabGet (dieAt s die).telemetry stop 0 ≤ s.cycle →
    ∃ t f, exec (.telemetry die stop) s = .next t ∧ t.fabric.waiting = s.fabric.waiting ++ [f] ∧ f.kind = 10 ∧ f.die = die ∧
      f.stop = stop ∧ f.ddie = 0 ∧ f.dstop = 80 ∧ tabGet (dieAt t die).telemetry stop 0 = s.cycle + 65536)

/-- R473 to R476, R480, R481: power-on leaves no grid, group or byte and begins the start, whose steps derive the key pair, take the digest of
an image and verify its signature (state 6 where it does not verify), calibrate the trims (7 where one fails), train the ports, those that fail
staying dead, and leave caches, memories, TLBs and throttle levels at zero; in state 0 a firmware image is taken. An attestation report
names the nonce, the digest, the public key and the state of start, signed with the device's own key; a reset and the end of power end every
running grid with state 4 and leave nothing of it; a power window and a thermal sample set limiting, the floor and the maximum, and 110 degrees is
a loss of power.
R388, R407, R430, R432, R459, R478, R479: a revoked key enters the list once, and no packet under it waits at a port; a restored key
leaves it; an invalidation, once no access under the entries is outstanding, leaves none of them in any TLB; a retrained port is live;
queue-pair commands are done, with status 0, or answered with 1 (malformed), 2 (none free) or 3 (no such queue pair or region); each
writable management register takes its fields, a write to a write-only register or bit asks for the event of its name, and what is write-only
reads zero.
The model's own choices in it: memory that reads zero (notes/assumptions/6.md), what a reset blanks (20), the steps of a start, the floor's rise,
the report's layout and the order of OFF and RESET (28), event codes (8), a queue pair's first rate and number and how many regions a die
registers (19). -/
def Obligations.PowerAndManagementAct : Prop :=
  (∀ s : State, s.mgmt.powered = false → ∃ t, exec .powerOn s = .next t ∧ t.mgmt.powered = true ∧ t.mgmt.boot = 1 ∧
    t.mgmt.identity = none ∧ t.grids = [] ∧ t.groups = [] ∧ t.mem = []) ∧
  (∀ s : State, s.mgmt.powered = true →
    (s.mgmt.boot = 1 → bootStep s =
      { s with mgmt := { s.mgmt with identity := some (Config.publicKey Config.pufIdentity), boot := 0 } }) ∧
    ∀ digest verified trims dead, s.mgmt.image = some (digest, verified, trims, dead) →
      (s.mgmt.boot = 2 → bootStep s = if verified then { s with mgmt := { s.mgmt with firmware := some digest, boot := 3 } }
        else { s with mgmt := { s.mgmt with image := none, boot := 6 } }) ∧
      (s.mgmt.boot = 3 → bootStep s = { s with mgmt := { s.mgmt with boot := if trims then 4 else 7 } }) ∧
      (s.mgmt.boot = 4 → let t := bootStep s
        t.mgmt.boot = 5 ∧ t.mgmt.deadPorts = dead ∧ t.mem = [] ∧ t.qps = [] ∧ (∀ p ∈ dead, (portOf t p).dead = true) ∧
        (∀ c, (coreOf t c).l1 = [] ∧ (coreOf t c).invq = [] ∧ (coreOf t c).tlb = []) ∧ (∀ d, (dieAt t d).l2 = [] ∧ (dieAt t d).tlb2 = []) ∧
        ∀ d stop, (throttleOf t d stop).level = 0)) ∧
  (∀ (s : State) (image : List Byte) (sig : Nat) (trims : Bool) (dead : List Nat), s.mgmt.powered = true → s.mgmt.boot = 0 →
    s.mgmt.identity.isSome = true → exec (.firmwareImage image sig trims dead) s = .next { s with mgmt := { s.mgmt with
      boot := 2, image := some (Config.sm3 image, Config.sm2Verify (Config.sm3 image) sig, trims, dead.filter fun p => decide (p < 96)) } }) ∧
  (∀ (s : State) (nonce key : Nat), s.mgmt.identity = some key → ∃ digest report,
    let signed := leBytes 32 nonce ++ leBytes 32 digest ++ leBytes 64 key ++ leBytes 8 s.mgmt.boot
    exec (.attestationRequest nonce) s = .next
      (send s (.attestation nonce digest key s.mgmt.boot (Config.sm2Sign Config.pufIdentity signed) report)) ∧
    report.length = 128 ∧ ∀ d, s.mgmt.firmware = some d → digest = d) ∧
  (∀ s : State, s.mgmt.powered = true →
    (∃ t, exec .deviceReset s = .next t ∧ t.mgmt.powered = true ∧ t.mgmt.boot = 1 ∧ t.grids = [] ∧ t.groups = [] ∧ t.mem = [] ∧
      (∀ d, (dieAt t d).jobs = [] ∧ (dieAt t d).pending = []) ∧
      ∀ e ∈ s.grids, e.2.status = 1 → Message.completion e.1 4 0 ∈ t.outbox) ∧
    (∃ t, exec .powerOff s = .next t ∧ t.mgmt = State.reset.mgmt ∧ t.grids = [] ∧ t.groups = [] ∧ t.mem = [] ∧ t.dies = [] ∧
      ∀ e ∈ s.grids, e.2.status = 1 → Message.completion e.1 4 0 ∈ t.outbox)) ∧
  (∀ s : State, exec .powerLoss s = .next
    { State.reset with hostMem := s.hostMem, peerMem := s.peerMem, outbox := s.outbox, moves := s.moves }) ∧
  (∀ (s : State) (watts held celsius : Nat), s.mgmt.boot = 5 →
    (let hot := decide (s.mgmt.powerLimit < watts) || decide (100 ≤ s.mgmt.tmax) || s.mgmt.reached;
      exec (.powerWindow watts held) s = .next { s with mgmt := { s.mgmt with
        power := watts % 65536, held := held % 256, limiting := hot, reached := false,
        floor := if hot && s.mgmt.limiting then min 7 (s.mgmt.floor + 1) else if hot then s.mgmt.floor else 0 } }) ∧
    (110 ≤ celsius → exec (.thermalSample celsius) s = exec .powerLoss s) ∧
    (celsius < 110 → exec (.thermalSample celsius) s = .next { s with mgmt := { s.mgmt with
      tmax := celsius, reached := s.mgmt.reached || decide (100 ≤ celsius) } })) ∧
  (∀ (s : State) (key : Nat), key < 2 ^ 16 → key ∉ s.mgmt.revoked →
    ∃ t, exec (.keyRevoke key) s = .next t ∧ t.mgmt.revoked = key :: s.mgmt.revoked ∧
      ∀ n, ∀ p ∈ (portOf t n).unacked, p.key ≠ key) ∧
  (∀ (s : State) (key : Nat), exec (.keyRestore key) s = .next
    { s with mgmt := { s.mgmt with revoked := s.mgmt.revoked.filter fun k => k != key } }) ∧
  (∀ s : State, tlbiQuiet s (fun _ => true) = true → ∃ t, exec .tlbinvAll s = .next t ∧ t.mem = s.mem ∧
    (∀ c, (coreOf t c).tlb = []) ∧ ∀ d, (dieAt t d).tlb2 = [] ∧ ∀ e, tabGet (dieAt t d).engineTlb e [] = []) ∧
  (∀ (s : State) (ptr : Nat), (bits ptr 63 52 = 0 ∨ bits ptr 63 52 = 0x100) → pageQuiet s (bits ptr 51 0) = true →
    ∃ t, exec (.tlbinvPage ptr) s = .next t ∧ t.mem = s.mem ∧
      (∀ c, (coreOf t c).tlb = (coreOf s c).tlb.filter fun e => !tlbCovers (bits ptr 51 0) e) ∧
      ∀ d, ((dieAt t d).tlb2 = (dieAt s d).tlb2.filter fun e => !tlbCovers (bits ptr 51 0) e) ∧
        ∀ n, tabGet (dieAt t d).engineTlb n [] = (tabGet (dieAt s d).engineTlb n []).filter fun e => !tlbCovers (bits ptr 51 0) e) ∧
  (∀ (s : State) (port : Nat), port < 96 → ∃ t, exec (.zretrain port) s = .next t ∧ (portOf t port).dead = false ∧
    t.mgmt.deadPorts = s.mgmt.deadPorts.filter (fun p => p != port)) ∧
  (∀ (s s1 : State) (ptr : Nat) (bs : List Byte), let c := wordsOf bs
    let code := bits (cmdWord c 0) 7 0
    let k := qpKey (cmdDie c) (cmdQp c)
    let fails (i : Instr) (status : Nat) : Prop := exec i s = .next (answerCommand s1 ptr c status none)
    s.mgmt.boot = 5 → ptr % 64 = 0 → bits ptr 63 52 = 0 → unitBytes s (word ptr) 64 = (s1, some bs) →
    (code = 0 ∨ 5 < code → ∀ i ∈ [Instr.qpCreate ptr, .qpConnect ptr, .regionRegister ptr, .regionDeregister ptr, .qpDestroy ptr],
      fails i 1) ∧
    (cmdOk c = false → (code = 1 → fails (.qpCreate ptr) 1) ∧ (code = 2 → fails (.qpConnect ptr) 1) ∧
      (code = 3 → fails (.regionRegister ptr) 1) ∧ (code = 4 → fails (.regionDeregister ptr) 1) ∧ (code = 5 → fails (.qpDestroy ptr) 1)) ∧
    (cmdOk c = true →
    (code = 1 → queuePtrOk (word (cmdWord c 2)) = false ∨ queuePtrOk (word (cmdWord c 3)) = false → fails (.qpCreate ptr) 1) ∧
    (code = 1 → queuePtrOk (word (cmdWord c 2)) = true → queuePtrOk (word (cmdWord c 3)) = true →
      (∀ n, n < 4096 → (tabGet? s1.qps (qpKey (cmdDie c) n)).isSome = true) → fails (.qpCreate ptr) 2) ∧
    ((code = 2 → tabGet? s1.qps k = none → fails (.qpConnect ptr) 3) ∧ (code = 5 → tabGet? s1.qps k = none → fails (.qpDestroy ptr) 3) ∧
      (code = 4 → tabGet? s1.regionsE (bits (cmdWord c 7) 31 0) = none → fails (.regionDeregister ptr) 3)) ∧
    (code = 2 → (tabGet? s1.qps k).isSome = true →
      (bits (cmdWord c 6) 31 24 ≠ 0 ∨ bits (cmdWord c 6) 63 48 ≠ 0 ∨ bits (cmdWord c 6) 47 32 < 256 ∨ 4096 < bits (cmdWord c 6) 47 32) →
      fails (.qpConnect ptr) 1) ∧
    (code = 3 → (cmdWord c 2 % 4096 ≠ 0 ∨ bits (cmdWord c 2) 63 52 ≠ 0 ∨ cmdWord c 3 % 4096 ≠ 0 ∨ bits (cmdWord c 6) 63 2 ≠ 0) →
      fails (.regionRegister ptr) 1) ∧
    (code = 1 → queuePtrOk (word (cmdWord c 2)) = true → queuePtrOk (word (cmdWord c 3)) = true → ∀ n,
      (List.range 4096).find? (fun n => (tabGet? s1.qps (qpKey (cmdDie c) n)).isNone) = some n →
      exec (.qpCreate ptr) s = .next (answerCommand { s1 with qps := (tabPut s1.qps (qpKey (cmdDie c) n)
        { die := cmdDie c, send := word (cmdWord c 2), recv := word (cmdWord c 3), remote := 0, remoteQp := 0, mtu := 0,
          error := false, connected := false, rate := 800, work := [], posted := [], destroying := none }) } ptr c 0 (some (8, n)))) ∧
    (code = 2 → bits (cmdWord c 6) 31 24 = 0 → bits (cmdWord c 6) 63 48 = 0 → 256 ≤ bits (cmdWord c 6) 47 32 →
      bits (cmdWord c 6) 47 32 ≤ 4096 → ∀ q, tabGet? s1.qps k = some q →
      exec (.qpConnect ptr) s = .next (answerCommand { s1 with qps := tabPut s1.qps k { q with
        remote := cmdWord c 4 + cmdWord c 5 * 2 ^ 64, remoteQp := bits (cmdWord c 6) 23 0, mtu := bits (cmdWord c 6) 47 32,
        connected := true } } ptr c 0 none)) ∧
    (code = 3 → cmdWord c 2 % 4096 = 0 → bits (cmdWord c 2) 63 52 = 0 → cmdWord c 3 % 4096 = 0 → bits (cmdWord c 6) 63 2 = 0 →
      (Config.regionEntries < regionsOf s1 (cmdDie c) → fails (.regionRegister ptr) 2) ∧
      (regionsOf s1 (cmdDie c) ≤ Config.regionEntries → exec (.regionRegister ptr) s = .next (answerCommand { s1 with regionsE := (tabPut s1.regionsE (newKey s1)
        { die := cmdDie c, base := word (cmdWord c 2), length := cmdWord c 3, read := (cmdWord c 6).testBit 0,
          write := (cmdWord c 6).testBit 1 }) } ptr c 0 (some (0x38, newKey s1))))) ∧
    (code = 4 → (tabGet? s1.regionsE (bits (cmdWord c 7) 31 0)).isSome = true →
      exec (.regionDeregister ptr) s = .next
        (answerCommand { s1 with regionsE := tabDel s1.regionsE (bits (cmdWord c 7) 31 0) } ptr c 0 none)) ∧
    (code = 5 → ∀ q, tabGet? s1.qps k = some q → exec (.qpDestroy ptr) s = .next
      (finishQp { s1 with qps := tabPut s1.qps k { q with destroying := some (word ptr) } } k)))) ∧
  (∀ (s : State) (k : Nat) (q : QueuePair) (p : Word), tabGet? s.qps k = some q → q.destroying = some p → finishQp s k =
    if q.work = [] ∧ q.posted = [] then
      send (unitStore { s with qps := tabDel s.qps k } (p + 4) (leBytes 4 0)).1 (.event evQp q.die (k % 2 ^ 24) 0)
    else s) ∧
  (∀ (s : State) (v c : Nat), s.mgmt.powered = true → c < 256 →
    let limited := { s with mgmt := { s.mgmt with powerLimit := max 1000 (min 3600 (bits v 47 32)) } }
    exec (.managementRegisterWrite 0x0008 v) s =
      (if v.testBit 0 then exec .powerOff limited else if v.testBit 1 then exec .deviceReset limited else .next limited) ∧
    exec (.managementRegisterWrite 0x0200 v) s = .next { s with mgmt := { s.mgmt with ptroot := word (v / 4096 * 4096) } } ∧
    exec (.managementRegisterWrite 0x0208 v) s = .next { s with mgmt := { s.mgmt with hostwin := word v } } ∧
    exec (.managementRegisterWrite 0x0338 v) s = .next { s with mgmt := { s.mgmt with debugsel := bits v 31 0 } } ∧
    exec (.managementRegisterWrite (0x8000 + 0x40 * c) v) s = .next (storeCsr s c 64 0x045 (word v)) ∧
    exec (.managementRegisterWrite (0x8008 + 0x40 * c) v) s = .next (storeCsr s c 64 0x049 (word v)) ∧
    exec (.managementRegisterWrite (0x8010 + 0x40 * c) v) s = .next (storeCsr s c 64 0x082 (word v))) ∧
  (∀ (s : State) (v n : Nat), s.mgmt.powered = true →
    (n < 8 → exec (.managementRegisterWrite (0x0100 + 8 * n) v) s = .next { s with mgmt := { s.mgmt with
      lqdesc := tabPut s.mgmt.lqdesc n (word v) } }) ∧
    (n < 4 → ∃ t, exec (.managementRegisterWrite (0x0210 + 8 * n) v) s = .next t ∧ ∀ i, tabGet t.mgmt.keytab i 0 =
      if i / 4 = n then BitVec.ofNat 16 (v / 2 ^ (16 * (i % 4))) else tabGet s.mgmt.keytab i 0) ∧
    (n < 4 → exec (.managementRegisterWrite (0x0300 + 8 * n) v) s = .next (modDie s n fun d => { d with migpol := migpolWord v })) ∧
    (n < 16 → let t := { s with mgmt := { s.mgmt with trigcfg := tabPut s.mgmt.trigcfg n (trigcfgWord v) } }
      exec (.managementRegisterWrite (0x0380 + 8 * n) v) s = if v.testBit 63 then exec (.triggerSend n) t else .next t)) ∧
  (∀ (s : State) (v n : Nat), s.mgmt.powered = true →
    (n < 8 → exec (.managementRegisterWrite (0x0140 + 8 * n) v) s = exec (.launchDoorbell n) s) ∧
    exec (.managementRegisterWrite 0x0230 v) s =
      (if v.testBit 16 then exec (.keyRevoke (bits v 15 0)) s else exec (.keyRestore (bits v 15 0)) s) ∧
    exec (.managementRegisterWrite 0x0238 v) s = (if v.testBit 63 then exec .tlbinvAll s else exec (.tlbinvPage v) s) ∧
    exec (.managementRegisterWrite 0x0320 v) s = exec (.zretrain (bits v 6 0)) s ∧
    exec (.managementRegisterWrite 0x0328 v) s = exec (.traprst (bits v 7 0)) s ∧
    (∀ c i, (c, i) ∈ [(1, Instr.debugEnable (bits v 63 32)), (2, .debugDisable (bits v 63 32)), (3, .debugHaltGroup (bits v 63 32)),
        (4, .debugResumeGroup (bits v 63 32))] → bits v 2 0 = c → exec (.managementRegisterWrite 0x0330 v) s = exec i s) ∧
    exec (.managementRegisterWrite 0x0340 v) s = (if v.testBit 24 then exec (.brksetSet v) s else exec (.brksetClear v) s) ∧
    exec (.managementRegisterWrite 0x0348 v) s = exec (.dumpreq v) s ∧
    (∀ s1 bs c i, unitBytes s (word v) 8 = (s1, some bs) → (c, i) ∈ [(1, Instr.qpCreate v), (2, .qpConnect v), (3, .regionRegister v),
        (4, .regionDeregister v), (5, .qpDestroy v)] → bits (leNat bs) 7 0 = c → exec (.managementRegisterWrite 0x0350 v) s = exec i s)) ∧
  (∀ (s : State) (off : Nat), (off ∈ [0x0230, 0x0238, 0x0320, 0x0328, 0x0330, 0x0340, 0x0348, 0x0350] ∨ (0x0140 ≤ off ∧ off < 0x0180)) →
    managementRead s off = 0)
end

