-- ==== Sys2Proof/Laws/Bits.lean ====
section
/-!
SUPPORT. Laws of keyed tables, lanes and lane masks.
-/

namespace Sys2Proof.Machine

/-! ## Tables -/

@[simp] theorem tabGet?_nil {α : Type} (key : Nat) : tabGet? ([] : Tab α) key = none := rfl

@[simp] theorem tabGet_nil {α : Type} (key : Nat) (d : α) : tabGet ([] : Tab α) key d = d := rfl

/-- Reading the key just written gives the value written. -/
@[simp] theorem tabGet?_tabPut_self {α : Type} (t : Tab α) (key : Nat) (v : α) : tabGet? (tabPut t key v) key = some v := by
  induction t with
  | nil => simp [tabPut, tabGet?]
  | cons e r ih =>
    obtain ⟨k, w⟩ := e
    by_cases h : k = key <;> simp [tabPut, tabGet?, h, ih]

/-- Writing a key leaves the others. -/
theorem tabGet?_tabPut_ne {α : Type} (t : Tab α) {key other : Nat} (v : α) (h : key ≠ other) :
    tabGet? (tabPut t key v) other = tabGet? t other := by
  induction t with
  | nil => simp [tabPut, tabGet?, h]
  | cons e r ih =>
    obtain ⟨k, w⟩ := e
    by_cases hk : k = key
    · subst hk; simp [tabPut, tabGet?, h]
    · simp only [tabPut, if_neg hk, tabGet?, ih]

theorem tabGet?_tabPut {α : Type} (t : Tab α) (key other : Nat) (v : α) :
    tabGet? (tabPut t key v) other = if key = other then some v else tabGet? t other := by
  by_cases h : key = other
  · subst h; simp
  · simp [h, tabGet?_tabPut_ne]

@[simp] theorem tabGet_tabPut_self {α : Type} (t : Tab α) (key : Nat) (v d : α) : tabGet (tabPut t key v) key d = v := by
  simp [tabGet]

theorem tabGet_tabPut_ne {α : Type} (t : Tab α) {key other : Nat} (v d : α) (h : key ≠ other) :
    tabGet (tabPut t key v) other d = tabGet t other d := by
  simp [tabGet, tabGet?_tabPut_ne t v h]

/-- Writing a key twice is writing it once. -/
@[simp] theorem tabPut_tabPut {α : Type} (t : Tab α) (key : Nat) (v w : α) :
    tabPut (tabPut t key v) key w = tabPut t key w := by
  induction t with
  | nil => simp [tabPut]
  | cons e r ih =>
    obtain ⟨k, u⟩ := e
    by_cases h : k = key <;> simp [tabPut, h, ih]

/-- Writing what a key already holds changes nothing. -/
theorem tabPut_same {α : Type} {t : Tab α} {key : Nat} {v : α} (h : tabGet? t key = some v) : tabPut t key v = t := by
  induction t with
  | nil => simp at h
  | cons e r ih =>
    obtain ⟨k, w⟩ := e
    by_cases hk : k = key
    · simp [tabGet?, hk] at h
      simp [tabPut, hk, h]
    · simp [tabGet?, hk] at h
      simp [tabPut, hk, ih h]

/-- Reading a mapped table maps what is read. -/
@[simp] theorem tabGet?_tabMap {α β : Type} (t : Tab α) (f : Nat → α → β) (key : Nat) :
    tabGet? (tabMap t f) key = (tabGet? t key).map (f key) := by
  induction t with
  | nil => rfl
  | cons e r ih =>
    obtain ⟨k, w⟩ := e
    simp only [tabMap] at ih
    by_cases h : k = key
    · subst h; simp [tabMap, tabGet?]
    · simp [tabMap, tabGet?, h, ih]

/-! ## Lanes and masks -/

@[simp] theorem mem_laneList (l : Nat) : l ∈ laneList ↔ l < 32 := by simp [laneList]

/-- Reading a lane of a tabulated function. -/
@[simp] theorem laneOf_mkLanes (f : Nat → Word) {l : Nat} (h : l < 32) : laneOf (mkLanes f) l = f l := by
  simp [laneOf, mkLanes, laneList, List.getD_eq_getElem?_getD, h]

@[simp] theorem mem_maskLanes (m : LaneMask) (l : Nat) : l ∈ maskLanes m ↔ m.getLsbD l = true := by
  simp only [maskLanes, List.mem_filter, mem_laneList, and_iff_right_iff_imp]
  exact fun h => BitVec.lt_of_getLsbD h

@[simp] theorem maskLanes_zero : maskLanes 0 = [] := by decide


/-- The fold behind `maskOf`, bit by bit. -/
theorem testBit_maskFold (p : Nat → Bool) (ls : List Nat) (i : Nat) :
    (ls.foldr (fun l a => if p l then a ||| (1 <<< l) else a) 0).testBit i = (ls.contains i && p i) := by
  induction ls with
  | nil => simp
  | cons l r ih =>
    simp only [List.foldr_cons]
    by_cases hp : p l <;> by_cases hl : i = l
    · subst hl; simp [hp, ih, Nat.testBit_shiftLeft]
    · have h1 : (1 <<< l).testBit i = false := by
        rw [Nat.one_shiftLeft, Nat.testBit_two_pow]; simp; omega
      simp [hp, ih, hl, h1]
    · subst hl; simp [hp, ih]
    · simp [hp, ih, hl]

/-- A lane is in the mask of a test where it exists and passes. -/
@[simp] theorem getLsbD_maskOf (p : Nat → Bool) (l : Nat) : (maskOf p).getLsbD l = (decide (l < 32) && p l) := by
  simp only [maskOf, BitVec.getLsbD_ofNat, testBit_maskFold, laneList]
  by_cases h : l < 32 <;> simp [h]

/-- An empty mask has no lowest lane, and only it. -/
theorem lowLane_eq_none {m : LaneMask} : lowLane m = none ↔ m = 0 := by
  constructor
  · intro h
    apply BitVec.eq_of_getLsbD_eq
    intro i hi
    have := List.find?_eq_none.mp h i (by simpa using hi)
    simpa using this
  · rintro rfl; decide

/-- The lowest lane is in the mask. -/
theorem lowLane_mem {m : LaneMask} {l : Nat} (h : lowLane m = some l) : m.getLsbD l = true :=
  List.find?_some (p := fun l => m.getLsbD l) h

end Sys2Proof.Machine
end

