-- ==== Sys2Proof/Laws/State.lean ====
section
/-!
SUPPORT. The fields of State under each named update: one law for each field an update leaves, and reading back what an update
writes.
-/

namespace Sys2Proof.Machine

/-! ## setCore -/

@[simp] theorem setCore_cycle (s : State) (c : Nat) (v : CoreSt) : (setCore s c v).cycle = s.cycle := rfl
@[simp] theorem setCore_mem (s : State) (c : Nat) (v : CoreSt) : (setCore s c v).mem = s.mem := rfl
@[simp] theorem setCore_hostMem (s : State) (c : Nat) (v : CoreSt) : (setCore s c v).hostMem = s.hostMem := rfl
@[simp] theorem setCore_peerMem (s : State) (c : Nat) (v : CoreSt) : (setCore s c v).peerMem = s.peerMem := rfl
@[simp] theorem setCore_poison (s : State) (c : Nat) (v : CoreSt) : (setCore s c v).poison = s.poison := rfl
@[simp] theorem setCore_sliceU (s : State) (c : Nat) (v : CoreSt) : (setCore s c v).sliceU = s.sliceU := rfl
@[simp] theorem setCore_merges (s : State) (c : Nat) (v : CoreSt) : (setCore s c v).merges = s.merges := rfl
@[simp] theorem setCore_arrivals (s : State) (c : Nat) (v : CoreSt) : (setCore s c v).arrivals = s.arrivals := rfl
@[simp] theorem setCore_racedWords (s : State) (c : Nat) (v : CoreSt) : (setCore s c v).racedWords = s.racedWords := rfl
@[simp] theorem setCore_mgmt (s : State) (c : Nat) (v : CoreSt) : (setCore s c v).mgmt = s.mgmt := rfl
@[simp] theorem setCore_migcount (s : State) (c : Nat) (v : CoreSt) : (setCore s c v).migcount = s.migcount := rfl
@[simp] theorem setCore_l2misses (s : State) (c : Nat) (v : CoreSt) : (setCore s c v).l2misses = s.l2misses := rfl
@[simp] theorem setCore_missPages (s : State) (c : Nat) (v : CoreSt) : (setCore s c v).missPages = s.missPages := rfl
@[simp] theorem setCore_owed (s : State) (c : Nat) (v : CoreSt) : (setCore s c v).owed = s.owed := rfl
@[simp] theorem setCore_stuck (s : State) (c : Nat) (v : CoreSt) : (setCore s c v).stuck = s.stuck := rfl
@[simp] theorem setCore_nextTicket (s : State) (c : Nat) (v : CoreSt) : (setCore s c v).nextTicket = s.nextTicket := rfl
@[simp] theorem setCore_nextOrder (s : State) (c : Nat) (v : CoreSt) : (setCore s c v).nextOrder = s.nextOrder := rfl
@[simp] theorem setCore_grids (s : State) (c : Nat) (v : CoreSt) : (setCore s c v).grids = s.grids := rfl
@[simp] theorem setCore_groups (s : State) (c : Nat) (v : CoreSt) : (setCore s c v).groups = s.groups := rfl
@[simp] theorem setCore_pipelines (s : State) (c : Nat) (v : CoreSt) : (setCore s c v).pipelines = s.pipelines := rfl
@[simp] theorem setCore_dies (s : State) (c : Nat) (v : CoreSt) : (setCore s c v).dies = s.dies := rfl
@[simp] theorem setCore_remote (s : State) (c : Nat) (v : CoreSt) : (setCore s c v).remote = s.remote := rfl
@[simp] theorem setCore_savedTiles (s : State) (c : Nat) (v : CoreSt) : (setCore s c v).savedTiles = s.savedTiles := rfl
@[simp] theorem setCore_fabric (s : State) (c : Nat) (v : CoreSt) : (setCore s c v).fabric = s.fabric := rfl
@[simp] theorem setCore_zethes (s : State) (c : Nat) (v : CoreSt) : (setCore s c v).zethes = s.zethes := rfl
@[simp] theorem setCore_qps (s : State) (c : Nat) (v : CoreSt) : (setCore s c v).qps = s.qps := rfl
@[simp] theorem setCore_regionsE (s : State) (c : Nat) (v : CoreSt) : (setCore s c v).regionsE = s.regionsE := rfl
@[simp] theorem setCore_snapshots (s : State) (c : Nat) (v : CoreSt) : (setCore s c v).snapshots = s.snapshots := rfl
@[simp] theorem setCore_outbox (s : State) (c : Nat) (v : CoreSt) : (setCore s c v).outbox = s.outbox := rfl
@[simp] theorem setCore_agenda (s : State) (c : Nat) (v : CoreSt) : (setCore s c v).agenda = s.agenda := rfl
@[simp] theorem setCore_focus (s : State) (c : Nat) (v : CoreSt) : (setCore s c v).focus = s.focus := rfl
@[simp] theorem setCore_moves (s : State) (c : Nat) (v : CoreSt) : (setCore s c v).moves = s.moves := rfl

/-! ## modCore -/

@[simp] theorem modCore_cycle (s : State) (c : Nat) (f : CoreSt → CoreSt) : (modCore s c f).cycle = s.cycle := rfl
@[simp] theorem modCore_mem (s : State) (c : Nat) (f : CoreSt → CoreSt) : (modCore s c f).mem = s.mem := rfl
@[simp] theorem modCore_hostMem (s : State) (c : Nat) (f : CoreSt → CoreSt) : (modCore s c f).hostMem = s.hostMem := rfl
@[simp] theorem modCore_peerMem (s : State) (c : Nat) (f : CoreSt → CoreSt) : (modCore s c f).peerMem = s.peerMem := rfl
@[simp] theorem modCore_poison (s : State) (c : Nat) (f : CoreSt → CoreSt) : (modCore s c f).poison = s.poison := rfl
@[simp] theorem modCore_sliceU (s : State) (c : Nat) (f : CoreSt → CoreSt) : (modCore s c f).sliceU = s.sliceU := rfl
@[simp] theorem modCore_merges (s : State) (c : Nat) (f : CoreSt → CoreSt) : (modCore s c f).merges = s.merges := rfl
@[simp] theorem modCore_arrivals (s : State) (c : Nat) (f : CoreSt → CoreSt) : (modCore s c f).arrivals = s.arrivals := rfl
@[simp] theorem modCore_racedWords (s : State) (c : Nat) (f : CoreSt → CoreSt) : (modCore s c f).racedWords = s.racedWords := rfl
@[simp] theorem modCore_mgmt (s : State) (c : Nat) (f : CoreSt → CoreSt) : (modCore s c f).mgmt = s.mgmt := rfl
@[simp] theorem modCore_migcount (s : State) (c : Nat) (f : CoreSt → CoreSt) : (modCore s c f).migcount = s.migcount := rfl
@[simp] theorem modCore_l2misses (s : State) (c : Nat) (f : CoreSt → CoreSt) : (modCore s c f).l2misses = s.l2misses := rfl
@[simp] theorem modCore_missPages (s : State) (c : Nat) (f : CoreSt → CoreSt) : (modCore s c f).missPages = s.missPages := rfl
@[simp] theorem modCore_owed (s : State) (c : Nat) (f : CoreSt → CoreSt) : (modCore s c f).owed = s.owed := rfl
@[simp] theorem modCore_stuck (s : State) (c : Nat) (f : CoreSt → CoreSt) : (modCore s c f).stuck = s.stuck := rfl
@[simp] theorem modCore_nextTicket (s : State) (c : Nat) (f : CoreSt → CoreSt) : (modCore s c f).nextTicket = s.nextTicket := rfl
@[simp] theorem modCore_nextOrder (s : State) (c : Nat) (f : CoreSt → CoreSt) : (modCore s c f).nextOrder = s.nextOrder := rfl
@[simp] theorem modCore_grids (s : State) (c : Nat) (f : CoreSt → CoreSt) : (modCore s c f).grids = s.grids := rfl
@[simp] theorem modCore_groups (s : State) (c : Nat) (f : CoreSt → CoreSt) : (modCore s c f).groups = s.groups := rfl
@[simp] theorem modCore_pipelines (s : State) (c : Nat) (f : CoreSt → CoreSt) : (modCore s c f).pipelines = s.pipelines := rfl
@[simp] theorem modCore_dies (s : State) (c : Nat) (f : CoreSt → CoreSt) : (modCore s c f).dies = s.dies := rfl
@[simp] theorem modCore_remote (s : State) (c : Nat) (f : CoreSt → CoreSt) : (modCore s c f).remote = s.remote := rfl
@[simp] theorem modCore_savedTiles (s : State) (c : Nat) (f : CoreSt → CoreSt) : (modCore s c f).savedTiles = s.savedTiles := rfl
@[simp] theorem modCore_fabric (s : State) (c : Nat) (f : CoreSt → CoreSt) : (modCore s c f).fabric = s.fabric := rfl
@[simp] theorem modCore_zethes (s : State) (c : Nat) (f : CoreSt → CoreSt) : (modCore s c f).zethes = s.zethes := rfl
@[simp] theorem modCore_qps (s : State) (c : Nat) (f : CoreSt → CoreSt) : (modCore s c f).qps = s.qps := rfl
@[simp] theorem modCore_regionsE (s : State) (c : Nat) (f : CoreSt → CoreSt) : (modCore s c f).regionsE = s.regionsE := rfl
@[simp] theorem modCore_snapshots (s : State) (c : Nat) (f : CoreSt → CoreSt) : (modCore s c f).snapshots = s.snapshots := rfl
@[simp] theorem modCore_outbox (s : State) (c : Nat) (f : CoreSt → CoreSt) : (modCore s c f).outbox = s.outbox := rfl
@[simp] theorem modCore_agenda (s : State) (c : Nat) (f : CoreSt → CoreSt) : (modCore s c f).agenda = s.agenda := rfl
@[simp] theorem modCore_focus (s : State) (c : Nat) (f : CoreSt → CoreSt) : (modCore s c f).focus = s.focus := rfl
@[simp] theorem modCore_moves (s : State) (c : Nat) (f : CoreSt → CoreSt) : (modCore s c f).moves = s.moves := rfl

/-! ## setTroupe -/

@[simp] theorem setTroupe_cycle (s : State) (c p : Nat) (t : Troupe) : (setTroupe s c p t).cycle = s.cycle := rfl
@[simp] theorem setTroupe_mem (s : State) (c p : Nat) (t : Troupe) : (setTroupe s c p t).mem = s.mem := rfl
@[simp] theorem setTroupe_hostMem (s : State) (c p : Nat) (t : Troupe) : (setTroupe s c p t).hostMem = s.hostMem := rfl
@[simp] theorem setTroupe_peerMem (s : State) (c p : Nat) (t : Troupe) : (setTroupe s c p t).peerMem = s.peerMem := rfl
@[simp] theorem setTroupe_poison (s : State) (c p : Nat) (t : Troupe) : (setTroupe s c p t).poison = s.poison := rfl
@[simp] theorem setTroupe_sliceU (s : State) (c p : Nat) (t : Troupe) : (setTroupe s c p t).sliceU = s.sliceU := rfl
@[simp] theorem setTroupe_merges (s : State) (c p : Nat) (t : Troupe) : (setTroupe s c p t).merges = s.merges := rfl
@[simp] theorem setTroupe_arrivals (s : State) (c p : Nat) (t : Troupe) : (setTroupe s c p t).arrivals = s.arrivals := rfl
@[simp] theorem setTroupe_racedWords (s : State) (c p : Nat) (t : Troupe) : (setTroupe s c p t).racedWords = s.racedWords := rfl
@[simp] theorem setTroupe_mgmt (s : State) (c p : Nat) (t : Troupe) : (setTroupe s c p t).mgmt = s.mgmt := rfl
@[simp] theorem setTroupe_migcount (s : State) (c p : Nat) (t : Troupe) : (setTroupe s c p t).migcount = s.migcount := rfl
@[simp] theorem setTroupe_l2misses (s : State) (c p : Nat) (t : Troupe) : (setTroupe s c p t).l2misses = s.l2misses := rfl
@[simp] theorem setTroupe_missPages (s : State) (c p : Nat) (t : Troupe) : (setTroupe s c p t).missPages = s.missPages := rfl
@[simp] theorem setTroupe_owed (s : State) (c p : Nat) (t : Troupe) : (setTroupe s c p t).owed = s.owed := rfl
@[simp] theorem setTroupe_stuck (s : State) (c p : Nat) (t : Troupe) : (setTroupe s c p t).stuck = s.stuck := rfl
@[simp] theorem setTroupe_nextTicket (s : State) (c p : Nat) (t : Troupe) : (setTroupe s c p t).nextTicket = s.nextTicket := rfl
@[simp] theorem setTroupe_nextOrder (s : State) (c p : Nat) (t : Troupe) : (setTroupe s c p t).nextOrder = s.nextOrder := rfl
@[simp] theorem setTroupe_grids (s : State) (c p : Nat) (t : Troupe) : (setTroupe s c p t).grids = s.grids := rfl
@[simp] theorem setTroupe_groups (s : State) (c p : Nat) (t : Troupe) : (setTroupe s c p t).groups = s.groups := rfl
@[simp] theorem setTroupe_pipelines (s : State) (c p : Nat) (t : Troupe) : (setTroupe s c p t).pipelines = s.pipelines := rfl
@[simp] theorem setTroupe_dies (s : State) (c p : Nat) (t : Troupe) : (setTroupe s c p t).dies = s.dies := rfl
@[simp] theorem setTroupe_remote (s : State) (c p : Nat) (t : Troupe) : (setTroupe s c p t).remote = s.remote := rfl
@[simp] theorem setTroupe_savedTiles (s : State) (c p : Nat) (t : Troupe) : (setTroupe s c p t).savedTiles = s.savedTiles := rfl
@[simp] theorem setTroupe_fabric (s : State) (c p : Nat) (t : Troupe) : (setTroupe s c p t).fabric = s.fabric := rfl
@[simp] theorem setTroupe_zethes (s : State) (c p : Nat) (t : Troupe) : (setTroupe s c p t).zethes = s.zethes := rfl
@[simp] theorem setTroupe_qps (s : State) (c p : Nat) (t : Troupe) : (setTroupe s c p t).qps = s.qps := rfl
@[simp] theorem setTroupe_regionsE (s : State) (c p : Nat) (t : Troupe) : (setTroupe s c p t).regionsE = s.regionsE := rfl
@[simp] theorem setTroupe_snapshots (s : State) (c p : Nat) (t : Troupe) : (setTroupe s c p t).snapshots = s.snapshots := rfl
@[simp] theorem setTroupe_outbox (s : State) (c p : Nat) (t : Troupe) : (setTroupe s c p t).outbox = s.outbox := rfl
@[simp] theorem setTroupe_agenda (s : State) (c p : Nat) (t : Troupe) : (setTroupe s c p t).agenda = s.agenda := rfl
@[simp] theorem setTroupe_focus (s : State) (c p : Nat) (t : Troupe) : (setTroupe s c p t).focus = s.focus := rfl
@[simp] theorem setTroupe_moves (s : State) (c p : Nat) (t : Troupe) : (setTroupe s c p t).moves = s.moves := rfl

/-! ## modTroupe -/

@[simp] theorem modTroupe_cycle (s : State) (c p : Nat) (f : Troupe → Troupe) : (modTroupe s c p f).cycle = s.cycle := by
  unfold modTroupe; split <;> rfl
@[simp] theorem modTroupe_mem (s : State) (c p : Nat) (f : Troupe → Troupe) : (modTroupe s c p f).mem = s.mem := by
  unfold modTroupe; split <;> rfl
@[simp] theorem modTroupe_hostMem (s : State) (c p : Nat) (f : Troupe → Troupe) : (modTroupe s c p f).hostMem = s.hostMem := by
  unfold modTroupe; split <;> rfl
@[simp] theorem modTroupe_peerMem (s : State) (c p : Nat) (f : Troupe → Troupe) : (modTroupe s c p f).peerMem = s.peerMem := by
  unfold modTroupe; split <;> rfl
@[simp] theorem modTroupe_poison (s : State) (c p : Nat) (f : Troupe → Troupe) : (modTroupe s c p f).poison = s.poison := by
  unfold modTroupe; split <;> rfl
@[simp] theorem modTroupe_sliceU (s : State) (c p : Nat) (f : Troupe → Troupe) : (modTroupe s c p f).sliceU = s.sliceU := by
  unfold modTroupe; split <;> rfl
@[simp] theorem modTroupe_merges (s : State) (c p : Nat) (f : Troupe → Troupe) : (modTroupe s c p f).merges = s.merges := by
  unfold modTroupe; split <;> rfl
@[simp] theorem modTroupe_arrivals (s : State) (c p : Nat) (f : Troupe → Troupe) : (modTroupe s c p f).arrivals = s.arrivals := by
  unfold modTroupe; split <;> rfl
@[simp] theorem modTroupe_racedWords (s : State) (c p : Nat) (f : Troupe → Troupe) : (modTroupe s c p f).racedWords = s.racedWords := by
  unfold modTroupe; split <;> rfl
@[simp] theorem modTroupe_mgmt (s : State) (c p : Nat) (f : Troupe → Troupe) : (modTroupe s c p f).mgmt = s.mgmt := by
  unfold modTroupe; split <;> rfl
@[simp] theorem modTroupe_migcount (s : State) (c p : Nat) (f : Troupe → Troupe) : (modTroupe s c p f).migcount = s.migcount := by
  unfold modTroupe; split <;> rfl
@[simp] theorem modTroupe_l2misses (s : State) (c p : Nat) (f : Troupe → Troupe) : (modTroupe s c p f).l2misses = s.l2misses := by
  unfold modTroupe; split <;> rfl
@[simp] theorem modTroupe_missPages (s : State) (c p : Nat) (f : Troupe → Troupe) : (modTroupe s c p f).missPages = s.missPages := by
  unfold modTroupe; split <;> rfl
@[simp] theorem modTroupe_owed (s : State) (c p : Nat) (f : Troupe → Troupe) : (modTroupe s c p f).owed = s.owed := by
  unfold modTroupe; split <;> rfl
@[simp] theorem modTroupe_stuck (s : State) (c p : Nat) (f : Troupe → Troupe) : (modTroupe s c p f).stuck = s.stuck := by
  unfold modTroupe; split <;> rfl
@[simp] theorem modTroupe_nextTicket (s : State) (c p : Nat) (f : Troupe → Troupe) : (modTroupe s c p f).nextTicket = s.nextTicket := by
  unfold modTroupe; split <;> rfl
@[simp] theorem modTroupe_nextOrder (s : State) (c p : Nat) (f : Troupe → Troupe) : (modTroupe s c p f).nextOrder = s.nextOrder := by
  unfold modTroupe; split <;> rfl
@[simp] theorem modTroupe_grids (s : State) (c p : Nat) (f : Troupe → Troupe) : (modTroupe s c p f).grids = s.grids := by
  unfold modTroupe; split <;> rfl
@[simp] theorem modTroupe_groups (s : State) (c p : Nat) (f : Troupe → Troupe) : (modTroupe s c p f).groups = s.groups := by
  unfold modTroupe; split <;> rfl
@[simp] theorem modTroupe_pipelines (s : State) (c p : Nat) (f : Troupe → Troupe) : (modTroupe s c p f).pipelines = s.pipelines := by
  unfold modTroupe; split <;> rfl
@[simp] theorem modTroupe_dies (s : State) (c p : Nat) (f : Troupe → Troupe) : (modTroupe s c p f).dies = s.dies := by
  unfold modTroupe; split <;> rfl
@[simp] theorem modTroupe_remote (s : State) (c p : Nat) (f : Troupe → Troupe) : (modTroupe s c p f).remote = s.remote := by
  unfold modTroupe; split <;> rfl
@[simp] theorem modTroupe_savedTiles (s : State) (c p : Nat) (f : Troupe → Troupe) : (modTroupe s c p f).savedTiles = s.savedTiles := by
  unfold modTroupe; split <;> rfl
@[simp] theorem modTroupe_fabric (s : State) (c p : Nat) (f : Troupe → Troupe) : (modTroupe s c p f).fabric = s.fabric := by
  unfold modTroupe; split <;> rfl
@[simp] theorem modTroupe_zethes (s : State) (c p : Nat) (f : Troupe → Troupe) : (modTroupe s c p f).zethes = s.zethes := by
  unfold modTroupe; split <;> rfl
@[simp] theorem modTroupe_qps (s : State) (c p : Nat) (f : Troupe → Troupe) : (modTroupe s c p f).qps = s.qps := by
  unfold modTroupe; split <;> rfl
@[simp] theorem modTroupe_regionsE (s : State) (c p : Nat) (f : Troupe → Troupe) : (modTroupe s c p f).regionsE = s.regionsE := by
  unfold modTroupe; split <;> rfl
@[simp] theorem modTroupe_snapshots (s : State) (c p : Nat) (f : Troupe → Troupe) : (modTroupe s c p f).snapshots = s.snapshots := by
  unfold modTroupe; split <;> rfl
@[simp] theorem modTroupe_outbox (s : State) (c p : Nat) (f : Troupe → Troupe) : (modTroupe s c p f).outbox = s.outbox := by
  unfold modTroupe; split <;> rfl
@[simp] theorem modTroupe_agenda (s : State) (c p : Nat) (f : Troupe → Troupe) : (modTroupe s c p f).agenda = s.agenda := by
  unfold modTroupe; split <;> rfl
@[simp] theorem modTroupe_focus (s : State) (c p : Nat) (f : Troupe → Troupe) : (modTroupe s c p f).focus = s.focus := by
  unfold modTroupe; split <;> rfl
@[simp] theorem modTroupe_moves (s : State) (c p : Nat) (f : Troupe → Troupe) : (modTroupe s c p f).moves = s.moves := by
  unfold modTroupe; split <;> rfl

/-! ## setGroup -/

@[simp] theorem setGroup_cycle (s : State) (key : Nat) (g : Group) : (setGroup s key g).cycle = s.cycle := rfl
@[simp] theorem setGroup_mem (s : State) (key : Nat) (g : Group) : (setGroup s key g).mem = s.mem := rfl
@[simp] theorem setGroup_hostMem (s : State) (key : Nat) (g : Group) : (setGroup s key g).hostMem = s.hostMem := rfl
@[simp] theorem setGroup_peerMem (s : State) (key : Nat) (g : Group) : (setGroup s key g).peerMem = s.peerMem := rfl
@[simp] theorem setGroup_poison (s : State) (key : Nat) (g : Group) : (setGroup s key g).poison = s.poison := rfl
@[simp] theorem setGroup_sliceU (s : State) (key : Nat) (g : Group) : (setGroup s key g).sliceU = s.sliceU := rfl
@[simp] theorem setGroup_merges (s : State) (key : Nat) (g : Group) : (setGroup s key g).merges = s.merges := rfl
@[simp] theorem setGroup_arrivals (s : State) (key : Nat) (g : Group) : (setGroup s key g).arrivals = s.arrivals := rfl
@[simp] theorem setGroup_racedWords (s : State) (key : Nat) (g : Group) : (setGroup s key g).racedWords = s.racedWords := rfl
@[simp] theorem setGroup_mgmt (s : State) (key : Nat) (g : Group) : (setGroup s key g).mgmt = s.mgmt := rfl
@[simp] theorem setGroup_migcount (s : State) (key : Nat) (g : Group) : (setGroup s key g).migcount = s.migcount := rfl
@[simp] theorem setGroup_l2misses (s : State) (key : Nat) (g : Group) : (setGroup s key g).l2misses = s.l2misses := rfl
@[simp] theorem setGroup_missPages (s : State) (key : Nat) (g : Group) : (setGroup s key g).missPages = s.missPages := rfl
@[simp] theorem setGroup_owed (s : State) (key : Nat) (g : Group) : (setGroup s key g).owed = s.owed := rfl
@[simp] theorem setGroup_stuck (s : State) (key : Nat) (g : Group) : (setGroup s key g).stuck = s.stuck := rfl
@[simp] theorem setGroup_nextTicket (s : State) (key : Nat) (g : Group) : (setGroup s key g).nextTicket = s.nextTicket := rfl
@[simp] theorem setGroup_nextOrder (s : State) (key : Nat) (g : Group) : (setGroup s key g).nextOrder = s.nextOrder := rfl
@[simp] theorem setGroup_grids (s : State) (key : Nat) (g : Group) : (setGroup s key g).grids = s.grids := rfl
@[simp] theorem setGroup_pipelines (s : State) (key : Nat) (g : Group) : (setGroup s key g).pipelines = s.pipelines := rfl
@[simp] theorem setGroup_dies (s : State) (key : Nat) (g : Group) : (setGroup s key g).dies = s.dies := rfl
@[simp] theorem setGroup_cores (s : State) (key : Nat) (g : Group) : (setGroup s key g).cores = s.cores := rfl
@[simp] theorem setGroup_remote (s : State) (key : Nat) (g : Group) : (setGroup s key g).remote = s.remote := rfl
@[simp] theorem setGroup_savedTiles (s : State) (key : Nat) (g : Group) : (setGroup s key g).savedTiles = s.savedTiles := rfl
@[simp] theorem setGroup_fabric (s : State) (key : Nat) (g : Group) : (setGroup s key g).fabric = s.fabric := rfl
@[simp] theorem setGroup_zethes (s : State) (key : Nat) (g : Group) : (setGroup s key g).zethes = s.zethes := rfl
@[simp] theorem setGroup_qps (s : State) (key : Nat) (g : Group) : (setGroup s key g).qps = s.qps := rfl
@[simp] theorem setGroup_regionsE (s : State) (key : Nat) (g : Group) : (setGroup s key g).regionsE = s.regionsE := rfl
@[simp] theorem setGroup_snapshots (s : State) (key : Nat) (g : Group) : (setGroup s key g).snapshots = s.snapshots := rfl
@[simp] theorem setGroup_outbox (s : State) (key : Nat) (g : Group) : (setGroup s key g).outbox = s.outbox := rfl
@[simp] theorem setGroup_agenda (s : State) (key : Nat) (g : Group) : (setGroup s key g).agenda = s.agenda := rfl
@[simp] theorem setGroup_focus (s : State) (key : Nat) (g : Group) : (setGroup s key g).focus = s.focus := rfl
@[simp] theorem setGroup_moves (s : State) (key : Nat) (g : Group) : (setGroup s key g).moves = s.moves := rfl

/-! ## modGroup -/

@[simp] theorem modGroup_cycle (s : State) (key : Nat) (f : Group → Group) : (modGroup s key f).cycle = s.cycle := by
  unfold modGroup; split <;> rfl
@[simp] theorem modGroup_mem (s : State) (key : Nat) (f : Group → Group) : (modGroup s key f).mem = s.mem := by
  unfold modGroup; split <;> rfl
@[simp] theorem modGroup_hostMem (s : State) (key : Nat) (f : Group → Group) : (modGroup s key f).hostMem = s.hostMem := by
  unfold modGroup; split <;> rfl
@[simp] theorem modGroup_peerMem (s : State) (key : Nat) (f : Group → Group) : (modGroup s key f).peerMem = s.peerMem := by
  unfold modGroup; split <;> rfl
@[simp] theorem modGroup_poison (s : State) (key : Nat) (f : Group → Group) : (modGroup s key f).poison = s.poison := by
  unfold modGroup; split <;> rfl
@[simp] theorem modGroup_sliceU (s : State) (key : Nat) (f : Group → Group) : (modGroup s key f).sliceU = s.sliceU := by
  unfold modGroup; split <;> rfl
@[simp] theorem modGroup_merges (s : State) (key : Nat) (f : Group → Group) : (modGroup s key f).merges = s.merges := by
  unfold modGroup; split <;> rfl
@[simp] theorem modGroup_arrivals (s : State) (key : Nat) (f : Group → Group) : (modGroup s key f).arrivals = s.arrivals := by
  unfold modGroup; split <;> rfl
@[simp] theorem modGroup_racedWords (s : State) (key : Nat) (f : Group → Group) : (modGroup s key f).racedWords = s.racedWords := by
  unfold modGroup; split <;> rfl
@[simp] theorem modGroup_mgmt (s : State) (key : Nat) (f : Group → Group) : (modGroup s key f).mgmt = s.mgmt := by
  unfold modGroup; split <;> rfl
@[simp] theorem modGroup_migcount (s : State) (key : Nat) (f : Group → Group) : (modGroup s key f).migcount = s.migcount := by
  unfold modGroup; split <;> rfl
@[simp] theorem modGroup_l2misses (s : State) (key : Nat) (f : Group → Group) : (modGroup s key f).l2misses = s.l2misses := by
  unfold modGroup; split <;> rfl
@[simp] theorem modGroup_missPages (s : State) (key : Nat) (f : Group → Group) : (modGroup s key f).missPages = s.missPages := by
  unfold modGroup; split <;> rfl
@[simp] theorem modGroup_owed (s : State) (key : Nat) (f : Group → Group) : (modGroup s key f).owed = s.owed := by
  unfold modGroup; split <;> rfl
@[simp] theorem modGroup_stuck (s : State) (key : Nat) (f : Group → Group) : (modGroup s key f).stuck = s.stuck := by
  unfold modGroup; split <;> rfl
@[simp] theorem modGroup_nextTicket (s : State) (key : Nat) (f : Group → Group) : (modGroup s key f).nextTicket = s.nextTicket := by
  unfold modGroup; split <;> rfl
@[simp] theorem modGroup_nextOrder (s : State) (key : Nat) (f : Group → Group) : (modGroup s key f).nextOrder = s.nextOrder := by
  unfold modGroup; split <;> rfl
@[simp] theorem modGroup_grids (s : State) (key : Nat) (f : Group → Group) : (modGroup s key f).grids = s.grids := by
  unfold modGroup; split <;> rfl
@[simp] theorem modGroup_pipelines (s : State) (key : Nat) (f : Group → Group) : (modGroup s key f).pipelines = s.pipelines := by
  unfold modGroup; split <;> rfl
@[simp] theorem modGroup_dies (s : State) (key : Nat) (f : Group → Group) : (modGroup s key f).dies = s.dies := by
  unfold modGroup; split <;> rfl
@[simp] theorem modGroup_cores (s : State) (key : Nat) (f : Group → Group) : (modGroup s key f).cores = s.cores := by
  unfold modGroup; split <;> rfl
@[simp] theorem modGroup_remote (s : State) (key : Nat) (f : Group → Group) : (modGroup s key f).remote = s.remote := by
  unfold modGroup; split <;> rfl
@[simp] theorem modGroup_savedTiles (s : State) (key : Nat) (f : Group → Group) : (modGroup s key f).savedTiles = s.savedTiles := by
  unfold modGroup; split <;> rfl
@[simp] theorem modGroup_fabric (s : State) (key : Nat) (f : Group → Group) : (modGroup s key f).fabric = s.fabric := by
  unfold modGroup; split <;> rfl
@[simp] theorem modGroup_zethes (s : State) (key : Nat) (f : Group → Group) : (modGroup s key f).zethes = s.zethes := by
  unfold modGroup; split <;> rfl
@[simp] theorem modGroup_qps (s : State) (key : Nat) (f : Group → Group) : (modGroup s key f).qps = s.qps := by
  unfold modGroup; split <;> rfl
@[simp] theorem modGroup_regionsE (s : State) (key : Nat) (f : Group → Group) : (modGroup s key f).regionsE = s.regionsE := by
  unfold modGroup; split <;> rfl
@[simp] theorem modGroup_snapshots (s : State) (key : Nat) (f : Group → Group) : (modGroup s key f).snapshots = s.snapshots := by
  unfold modGroup; split <;> rfl
@[simp] theorem modGroup_outbox (s : State) (key : Nat) (f : Group → Group) : (modGroup s key f).outbox = s.outbox := by
  unfold modGroup; split <;> rfl
@[simp] theorem modGroup_agenda (s : State) (key : Nat) (f : Group → Group) : (modGroup s key f).agenda = s.agenda := by
  unfold modGroup; split <;> rfl
@[simp] theorem modGroup_focus (s : State) (key : Nat) (f : Group → Group) : (modGroup s key f).focus = s.focus := by
  unfold modGroup; split <;> rfl
@[simp] theorem modGroup_moves (s : State) (key : Nat) (f : Group → Group) : (modGroup s key f).moves = s.moves := by
  unfold modGroup; split <;> rfl

/-! ## setGrid -/

@[simp] theorem setGrid_cycle (s : State) (ticket : Nat) (g : Grid) : (setGrid s ticket g).cycle = s.cycle := rfl
@[simp] theorem setGrid_mem (s : State) (ticket : Nat) (g : Grid) : (setGrid s ticket g).mem = s.mem := rfl
@[simp] theorem setGrid_hostMem (s : State) (ticket : Nat) (g : Grid) : (setGrid s ticket g).hostMem = s.hostMem := rfl
@[simp] theorem setGrid_peerMem (s : State) (ticket : Nat) (g : Grid) : (setGrid s ticket g).peerMem = s.peerMem := rfl
@[simp] theorem setGrid_poison (s : State) (ticket : Nat) (g : Grid) : (setGrid s ticket g).poison = s.poison := rfl
@[simp] theorem setGrid_sliceU (s : State) (ticket : Nat) (g : Grid) : (setGrid s ticket g).sliceU = s.sliceU := rfl
@[simp] theorem setGrid_merges (s : State) (ticket : Nat) (g : Grid) : (setGrid s ticket g).merges = s.merges := rfl
@[simp] theorem setGrid_arrivals (s : State) (ticket : Nat) (g : Grid) : (setGrid s ticket g).arrivals = s.arrivals := rfl
@[simp] theorem setGrid_racedWords (s : State) (ticket : Nat) (g : Grid) : (setGrid s ticket g).racedWords = s.racedWords := rfl
@[simp] theorem setGrid_mgmt (s : State) (ticket : Nat) (g : Grid) : (setGrid s ticket g).mgmt = s.mgmt := rfl
@[simp] theorem setGrid_migcount (s : State) (ticket : Nat) (g : Grid) : (setGrid s ticket g).migcount = s.migcount := rfl
@[simp] theorem setGrid_l2misses (s : State) (ticket : Nat) (g : Grid) : (setGrid s ticket g).l2misses = s.l2misses := rfl
@[simp] theorem setGrid_missPages (s : State) (ticket : Nat) (g : Grid) : (setGrid s ticket g).missPages = s.missPages := rfl
@[simp] theorem setGrid_owed (s : State) (ticket : Nat) (g : Grid) : (setGrid s ticket g).owed = s.owed := rfl
@[simp] theorem setGrid_stuck (s : State) (ticket : Nat) (g : Grid) : (setGrid s ticket g).stuck = s.stuck := rfl
@[simp] theorem setGrid_nextTicket (s : State) (ticket : Nat) (g : Grid) : (setGrid s ticket g).nextTicket = s.nextTicket := rfl
@[simp] theorem setGrid_nextOrder (s : State) (ticket : Nat) (g : Grid) : (setGrid s ticket g).nextOrder = s.nextOrder := rfl
@[simp] theorem setGrid_groups (s : State) (ticket : Nat) (g : Grid) : (setGrid s ticket g).groups = s.groups := rfl
@[simp] theorem setGrid_pipelines (s : State) (ticket : Nat) (g : Grid) : (setGrid s ticket g).pipelines = s.pipelines := rfl
@[simp] theorem setGrid_dies (s : State) (ticket : Nat) (g : Grid) : (setGrid s ticket g).dies = s.dies := rfl
@[simp] theorem setGrid_cores (s : State) (ticket : Nat) (g : Grid) : (setGrid s ticket g).cores = s.cores := rfl
@[simp] theorem setGrid_remote (s : State) (ticket : Nat) (g : Grid) : (setGrid s ticket g).remote = s.remote := rfl
@[simp] theorem setGrid_savedTiles (s : State) (ticket : Nat) (g : Grid) : (setGrid s ticket g).savedTiles = s.savedTiles := rfl
@[simp] theorem setGrid_fabric (s : State) (ticket : Nat) (g : Grid) : (setGrid s ticket g).fabric = s.fabric := rfl
@[simp] theorem setGrid_zethes (s : State) (ticket : Nat) (g : Grid) : (setGrid s ticket g).zethes = s.zethes := rfl
@[simp] theorem setGrid_qps (s : State) (ticket : Nat) (g : Grid) : (setGrid s ticket g).qps = s.qps := rfl
@[simp] theorem setGrid_regionsE (s : State) (ticket : Nat) (g : Grid) : (setGrid s ticket g).regionsE = s.regionsE := rfl
@[simp] theorem setGrid_snapshots (s : State) (ticket : Nat) (g : Grid) : (setGrid s ticket g).snapshots = s.snapshots := rfl
@[simp] theorem setGrid_outbox (s : State) (ticket : Nat) (g : Grid) : (setGrid s ticket g).outbox = s.outbox := rfl
@[simp] theorem setGrid_agenda (s : State) (ticket : Nat) (g : Grid) : (setGrid s ticket g).agenda = s.agenda := rfl
@[simp] theorem setGrid_focus (s : State) (ticket : Nat) (g : Grid) : (setGrid s ticket g).focus = s.focus := rfl
@[simp] theorem setGrid_moves (s : State) (ticket : Nat) (g : Grid) : (setGrid s ticket g).moves = s.moves := rfl

/-! ## modGrid -/

@[simp] theorem modGrid_cycle (s : State) (ticket : Nat) (f : Grid → Grid) : (modGrid s ticket f).cycle = s.cycle := by
  unfold modGrid; split <;> rfl
@[simp] theorem modGrid_mem (s : State) (ticket : Nat) (f : Grid → Grid) : (modGrid s ticket f).mem = s.mem := by
  unfold modGrid; split <;> rfl
@[simp] theorem modGrid_hostMem (s : State) (ticket : Nat) (f : Grid → Grid) : (modGrid s ticket f).hostMem = s.hostMem := by
  unfold modGrid; split <;> rfl
@[simp] theorem modGrid_peerMem (s : State) (ticket : Nat) (f : Grid → Grid) : (modGrid s ticket f).peerMem = s.peerMem := by
  unfold modGrid; split <;> rfl
@[simp] theorem modGrid_poison (s : State) (ticket : Nat) (f : Grid → Grid) : (modGrid s ticket f).poison = s.poison := by
  unfold modGrid; split <;> rfl
@[simp] theorem modGrid_sliceU (s : State) (ticket : Nat) (f : Grid → Grid) : (modGrid s ticket f).sliceU = s.sliceU := by
  unfold modGrid; split <;> rfl
@[simp] theorem modGrid_merges (s : State) (ticket : Nat) (f : Grid → Grid) : (modGrid s ticket f).merges = s.merges := by
  unfold modGrid; split <;> rfl
@[simp] theorem modGrid_arrivals (s : State) (ticket : Nat) (f : Grid → Grid) : (modGrid s ticket f).arrivals = s.arrivals := by
  unfold modGrid; split <;> rfl
@[simp] theorem modGrid_racedWords (s : State) (ticket : Nat) (f : Grid → Grid) : (modGrid s ticket f).racedWords = s.racedWords := by
  unfold modGrid; split <;> rfl
@[simp] theorem modGrid_mgmt (s : State) (ticket : Nat) (f : Grid → Grid) : (modGrid s ticket f).mgmt = s.mgmt := by
  unfold modGrid; split <;> rfl
@[simp] theorem modGrid_migcount (s : State) (ticket : Nat) (f : Grid → Grid) : (modGrid s ticket f).migcount = s.migcount := by
  unfold modGrid; split <;> rfl
@[simp] theorem modGrid_l2misses (s : State) (ticket : Nat) (f : Grid → Grid) : (modGrid s ticket f).l2misses = s.l2misses := by
  unfold modGrid; split <;> rfl
@[simp] theorem modGrid_missPages (s : State) (ticket : Nat) (f : Grid → Grid) : (modGrid s ticket f).missPages = s.missPages := by
  unfold modGrid; split <;> rfl
@[simp] theorem modGrid_owed (s : State) (ticket : Nat) (f : Grid → Grid) : (modGrid s ticket f).owed = s.owed := by
  unfold modGrid; split <;> rfl
@[simp] theorem modGrid_stuck (s : State) (ticket : Nat) (f : Grid → Grid) : (modGrid s ticket f).stuck = s.stuck := by
  unfold modGrid; split <;> rfl
@[simp] theorem modGrid_nextTicket (s : State) (ticket : Nat) (f : Grid → Grid) : (modGrid s ticket f).nextTicket = s.nextTicket := by
  unfold modGrid; split <;> rfl
@[simp] theorem modGrid_nextOrder (s : State) (ticket : Nat) (f : Grid → Grid) : (modGrid s ticket f).nextOrder = s.nextOrder := by
  unfold modGrid; split <;> rfl
@[simp] theorem modGrid_groups (s : State) (ticket : Nat) (f : Grid → Grid) : (modGrid s ticket f).groups = s.groups := by
  unfold modGrid; split <;> rfl
@[simp] theorem modGrid_pipelines (s : State) (ticket : Nat) (f : Grid → Grid) : (modGrid s ticket f).pipelines = s.pipelines := by
  unfold modGrid; split <;> rfl
@[simp] theorem modGrid_dies (s : State) (ticket : Nat) (f : Grid → Grid) : (modGrid s ticket f).dies = s.dies := by
  unfold modGrid; split <;> rfl
@[simp] theorem modGrid_cores (s : State) (ticket : Nat) (f : Grid → Grid) : (modGrid s ticket f).cores = s.cores := by
  unfold modGrid; split <;> rfl
@[simp] theorem modGrid_remote (s : State) (ticket : Nat) (f : Grid → Grid) : (modGrid s ticket f).remote = s.remote := by
  unfold modGrid; split <;> rfl
@[simp] theorem modGrid_savedTiles (s : State) (ticket : Nat) (f : Grid → Grid) : (modGrid s ticket f).savedTiles = s.savedTiles := by
  unfold modGrid; split <;> rfl
@[simp] theorem modGrid_fabric (s : State) (ticket : Nat) (f : Grid → Grid) : (modGrid s ticket f).fabric = s.fabric := by
  unfold modGrid; split <;> rfl
@[simp] theorem modGrid_zethes (s : State) (ticket : Nat) (f : Grid → Grid) : (modGrid s ticket f).zethes = s.zethes := by
  unfold modGrid; split <;> rfl
@[simp] theorem modGrid_qps (s : State) (ticket : Nat) (f : Grid → Grid) : (modGrid s ticket f).qps = s.qps := by
  unfold modGrid; split <;> rfl
@[simp] theorem modGrid_regionsE (s : State) (ticket : Nat) (f : Grid → Grid) : (modGrid s ticket f).regionsE = s.regionsE := by
  unfold modGrid; split <;> rfl
@[simp] theorem modGrid_snapshots (s : State) (ticket : Nat) (f : Grid → Grid) : (modGrid s ticket f).snapshots = s.snapshots := by
  unfold modGrid; split <;> rfl
@[simp] theorem modGrid_outbox (s : State) (ticket : Nat) (f : Grid → Grid) : (modGrid s ticket f).outbox = s.outbox := by
  unfold modGrid; split <;> rfl
@[simp] theorem modGrid_agenda (s : State) (ticket : Nat) (f : Grid → Grid) : (modGrid s ticket f).agenda = s.agenda := by
  unfold modGrid; split <;> rfl
@[simp] theorem modGrid_focus (s : State) (ticket : Nat) (f : Grid → Grid) : (modGrid s ticket f).focus = s.focus := by
  unfold modGrid; split <;> rfl
@[simp] theorem modGrid_moves (s : State) (ticket : Nat) (f : Grid → Grid) : (modGrid s ticket f).moves = s.moves := by
  unfold modGrid; split <;> rfl

/-! ## setDie -/

@[simp] theorem setDie_cycle (s : State) (d : Nat) (v : DieSt) : (setDie s d v).cycle = s.cycle := rfl
@[simp] theorem setDie_mem (s : State) (d : Nat) (v : DieSt) : (setDie s d v).mem = s.mem := rfl
@[simp] theorem setDie_hostMem (s : State) (d : Nat) (v : DieSt) : (setDie s d v).hostMem = s.hostMem := rfl
@[simp] theorem setDie_peerMem (s : State) (d : Nat) (v : DieSt) : (setDie s d v).peerMem = s.peerMem := rfl
@[simp] theorem setDie_poison (s : State) (d : Nat) (v : DieSt) : (setDie s d v).poison = s.poison := rfl
@[simp] theorem setDie_sliceU (s : State) (d : Nat) (v : DieSt) : (setDie s d v).sliceU = s.sliceU := rfl
@[simp] theorem setDie_merges (s : State) (d : Nat) (v : DieSt) : (setDie s d v).merges = s.merges := rfl
@[simp] theorem setDie_arrivals (s : State) (d : Nat) (v : DieSt) : (setDie s d v).arrivals = s.arrivals := rfl
@[simp] theorem setDie_racedWords (s : State) (d : Nat) (v : DieSt) : (setDie s d v).racedWords = s.racedWords := rfl
@[simp] theorem setDie_mgmt (s : State) (d : Nat) (v : DieSt) : (setDie s d v).mgmt = s.mgmt := rfl
@[simp] theorem setDie_migcount (s : State) (d : Nat) (v : DieSt) : (setDie s d v).migcount = s.migcount := rfl
@[simp] theorem setDie_l2misses (s : State) (d : Nat) (v : DieSt) : (setDie s d v).l2misses = s.l2misses := rfl
@[simp] theorem setDie_missPages (s : State) (d : Nat) (v : DieSt) : (setDie s d v).missPages = s.missPages := rfl
@[simp] theorem setDie_owed (s : State) (d : Nat) (v : DieSt) : (setDie s d v).owed = s.owed := rfl
@[simp] theorem setDie_stuck (s : State) (d : Nat) (v : DieSt) : (setDie s d v).stuck = s.stuck := rfl
@[simp] theorem setDie_nextTicket (s : State) (d : Nat) (v : DieSt) : (setDie s d v).nextTicket = s.nextTicket := rfl
@[simp] theorem setDie_nextOrder (s : State) (d : Nat) (v : DieSt) : (setDie s d v).nextOrder = s.nextOrder := rfl
@[simp] theorem setDie_grids (s : State) (d : Nat) (v : DieSt) : (setDie s d v).grids = s.grids := rfl
@[simp] theorem setDie_groups (s : State) (d : Nat) (v : DieSt) : (setDie s d v).groups = s.groups := rfl
@[simp] theorem setDie_pipelines (s : State) (d : Nat) (v : DieSt) : (setDie s d v).pipelines = s.pipelines := rfl
@[simp] theorem setDie_cores (s : State) (d : Nat) (v : DieSt) : (setDie s d v).cores = s.cores := rfl
@[simp] theorem setDie_remote (s : State) (d : Nat) (v : DieSt) : (setDie s d v).remote = s.remote := rfl
@[simp] theorem setDie_savedTiles (s : State) (d : Nat) (v : DieSt) : (setDie s d v).savedTiles = s.savedTiles := rfl
@[simp] theorem setDie_fabric (s : State) (d : Nat) (v : DieSt) : (setDie s d v).fabric = s.fabric := rfl
@[simp] theorem setDie_zethes (s : State) (d : Nat) (v : DieSt) : (setDie s d v).zethes = s.zethes := rfl
@[simp] theorem setDie_qps (s : State) (d : Nat) (v : DieSt) : (setDie s d v).qps = s.qps := rfl
@[simp] theorem setDie_regionsE (s : State) (d : Nat) (v : DieSt) : (setDie s d v).regionsE = s.regionsE := rfl
@[simp] theorem setDie_snapshots (s : State) (d : Nat) (v : DieSt) : (setDie s d v).snapshots = s.snapshots := rfl
@[simp] theorem setDie_outbox (s : State) (d : Nat) (v : DieSt) : (setDie s d v).outbox = s.outbox := rfl
@[simp] theorem setDie_agenda (s : State) (d : Nat) (v : DieSt) : (setDie s d v).agenda = s.agenda := rfl
@[simp] theorem setDie_focus (s : State) (d : Nat) (v : DieSt) : (setDie s d v).focus = s.focus := rfl
@[simp] theorem setDie_moves (s : State) (d : Nat) (v : DieSt) : (setDie s d v).moves = s.moves := rfl

/-! ## modDie -/

@[simp] theorem modDie_cycle (s : State) (d : Nat) (f : DieSt → DieSt) : (modDie s d f).cycle = s.cycle := rfl
@[simp] theorem modDie_mem (s : State) (d : Nat) (f : DieSt → DieSt) : (modDie s d f).mem = s.mem := rfl
@[simp] theorem modDie_hostMem (s : State) (d : Nat) (f : DieSt → DieSt) : (modDie s d f).hostMem = s.hostMem := rfl
@[simp] theorem modDie_peerMem (s : State) (d : Nat) (f : DieSt → DieSt) : (modDie s d f).peerMem = s.peerMem := rfl
@[simp] theorem modDie_poison (s : State) (d : Nat) (f : DieSt → DieSt) : (modDie s d f).poison = s.poison := rfl
@[simp] theorem modDie_sliceU (s : State) (d : Nat) (f : DieSt → DieSt) : (modDie s d f).sliceU = s.sliceU := rfl
@[simp] theorem modDie_merges (s : State) (d : Nat) (f : DieSt → DieSt) : (modDie s d f).merges = s.merges := rfl
@[simp] theorem modDie_arrivals (s : State) (d : Nat) (f : DieSt → DieSt) : (modDie s d f).arrivals = s.arrivals := rfl
@[simp] theorem modDie_racedWords (s : State) (d : Nat) (f : DieSt → DieSt) : (modDie s d f).racedWords = s.racedWords := rfl
@[simp] theorem modDie_mgmt (s : State) (d : Nat) (f : DieSt → DieSt) : (modDie s d f).mgmt = s.mgmt := rfl
@[simp] theorem modDie_migcount (s : State) (d : Nat) (f : DieSt → DieSt) : (modDie s d f).migcount = s.migcount := rfl
@[simp] theorem modDie_l2misses (s : State) (d : Nat) (f : DieSt → DieSt) : (modDie s d f).l2misses = s.l2misses := rfl
@[simp] theorem modDie_missPages (s : State) (d : Nat) (f : DieSt → DieSt) : (modDie s d f).missPages = s.missPages := rfl
@[simp] theorem modDie_owed (s : State) (d : Nat) (f : DieSt → DieSt) : (modDie s d f).owed = s.owed := rfl
@[simp] theorem modDie_stuck (s : State) (d : Nat) (f : DieSt → DieSt) : (modDie s d f).stuck = s.stuck := rfl
@[simp] theorem modDie_nextTicket (s : State) (d : Nat) (f : DieSt → DieSt) : (modDie s d f).nextTicket = s.nextTicket := rfl
@[simp] theorem modDie_nextOrder (s : State) (d : Nat) (f : DieSt → DieSt) : (modDie s d f).nextOrder = s.nextOrder := rfl
@[simp] theorem modDie_grids (s : State) (d : Nat) (f : DieSt → DieSt) : (modDie s d f).grids = s.grids := rfl
@[simp] theorem modDie_groups (s : State) (d : Nat) (f : DieSt → DieSt) : (modDie s d f).groups = s.groups := rfl
@[simp] theorem modDie_pipelines (s : State) (d : Nat) (f : DieSt → DieSt) : (modDie s d f).pipelines = s.pipelines := rfl
@[simp] theorem modDie_cores (s : State) (d : Nat) (f : DieSt → DieSt) : (modDie s d f).cores = s.cores := rfl
@[simp] theorem modDie_remote (s : State) (d : Nat) (f : DieSt → DieSt) : (modDie s d f).remote = s.remote := rfl
@[simp] theorem modDie_savedTiles (s : State) (d : Nat) (f : DieSt → DieSt) : (modDie s d f).savedTiles = s.savedTiles := rfl
@[simp] theorem modDie_fabric (s : State) (d : Nat) (f : DieSt → DieSt) : (modDie s d f).fabric = s.fabric := rfl
@[simp] theorem modDie_zethes (s : State) (d : Nat) (f : DieSt → DieSt) : (modDie s d f).zethes = s.zethes := rfl
@[simp] theorem modDie_qps (s : State) (d : Nat) (f : DieSt → DieSt) : (modDie s d f).qps = s.qps := rfl
@[simp] theorem modDie_regionsE (s : State) (d : Nat) (f : DieSt → DieSt) : (modDie s d f).regionsE = s.regionsE := rfl
@[simp] theorem modDie_snapshots (s : State) (d : Nat) (f : DieSt → DieSt) : (modDie s d f).snapshots = s.snapshots := rfl
@[simp] theorem modDie_outbox (s : State) (d : Nat) (f : DieSt → DieSt) : (modDie s d f).outbox = s.outbox := rfl
@[simp] theorem modDie_agenda (s : State) (d : Nat) (f : DieSt → DieSt) : (modDie s d f).agenda = s.agenda := rfl
@[simp] theorem modDie_focus (s : State) (d : Nat) (f : DieSt → DieSt) : (modDie s d f).focus = s.focus := rfl
@[simp] theorem modDie_moves (s : State) (d : Nat) (f : DieSt → DieSt) : (modDie s d f).moves = s.moves := rfl

/-! ## send -/

@[simp] theorem send_cycle (s : State) (m : Message) : (send s m).cycle = s.cycle := rfl
@[simp] theorem send_mem (s : State) (m : Message) : (send s m).mem = s.mem := rfl
@[simp] theorem send_hostMem (s : State) (m : Message) : (send s m).hostMem = s.hostMem := rfl
@[simp] theorem send_peerMem (s : State) (m : Message) : (send s m).peerMem = s.peerMem := rfl
@[simp] theorem send_poison (s : State) (m : Message) : (send s m).poison = s.poison := rfl
@[simp] theorem send_sliceU (s : State) (m : Message) : (send s m).sliceU = s.sliceU := rfl
@[simp] theorem send_merges (s : State) (m : Message) : (send s m).merges = s.merges := rfl
@[simp] theorem send_arrivals (s : State) (m : Message) : (send s m).arrivals = s.arrivals := rfl
@[simp] theorem send_racedWords (s : State) (m : Message) : (send s m).racedWords = s.racedWords := rfl
@[simp] theorem send_mgmt (s : State) (m : Message) : (send s m).mgmt = s.mgmt := rfl
@[simp] theorem send_migcount (s : State) (m : Message) : (send s m).migcount = s.migcount := rfl
@[simp] theorem send_l2misses (s : State) (m : Message) : (send s m).l2misses = s.l2misses := rfl
@[simp] theorem send_missPages (s : State) (m : Message) : (send s m).missPages = s.missPages := rfl
@[simp] theorem send_owed (s : State) (m : Message) : (send s m).owed = s.owed := rfl
@[simp] theorem send_stuck (s : State) (m : Message) : (send s m).stuck = s.stuck := rfl
@[simp] theorem send_nextTicket (s : State) (m : Message) : (send s m).nextTicket = s.nextTicket := rfl
@[simp] theorem send_nextOrder (s : State) (m : Message) : (send s m).nextOrder = s.nextOrder := rfl
@[simp] theorem send_grids (s : State) (m : Message) : (send s m).grids = s.grids := rfl
@[simp] theorem send_groups (s : State) (m : Message) : (send s m).groups = s.groups := rfl
@[simp] theorem send_pipelines (s : State) (m : Message) : (send s m).pipelines = s.pipelines := rfl
@[simp] theorem send_dies (s : State) (m : Message) : (send s m).dies = s.dies := rfl
@[simp] theorem send_cores (s : State) (m : Message) : (send s m).cores = s.cores := rfl
@[simp] theorem send_remote (s : State) (m : Message) : (send s m).remote = s.remote := rfl
@[simp] theorem send_savedTiles (s : State) (m : Message) : (send s m).savedTiles = s.savedTiles := rfl
@[simp] theorem send_fabric (s : State) (m : Message) : (send s m).fabric = s.fabric := rfl
@[simp] theorem send_zethes (s : State) (m : Message) : (send s m).zethes = s.zethes := rfl
@[simp] theorem send_qps (s : State) (m : Message) : (send s m).qps = s.qps := rfl
@[simp] theorem send_regionsE (s : State) (m : Message) : (send s m).regionsE = s.regionsE := rfl
@[simp] theorem send_snapshots (s : State) (m : Message) : (send s m).snapshots = s.snapshots := rfl
@[simp] theorem send_agenda (s : State) (m : Message) : (send s m).agenda = s.agenda := rfl
@[simp] theorem send_focus (s : State) (m : Message) : (send s m).focus = s.focus := rfl
@[simp] theorem send_moves (s : State) (m : Message) : (send s m).moves = s.moves := rfl

/-! ## putClause -/

@[simp] theorem putClause_cycle (s : State) (x : Ctx) (cl : Clause) : (putClause s x cl).cycle = s.cycle := rfl
@[simp] theorem putClause_mem (s : State) (x : Ctx) (cl : Clause) : (putClause s x cl).mem = s.mem := rfl
@[simp] theorem putClause_hostMem (s : State) (x : Ctx) (cl : Clause) : (putClause s x cl).hostMem = s.hostMem := rfl
@[simp] theorem putClause_peerMem (s : State) (x : Ctx) (cl : Clause) : (putClause s x cl).peerMem = s.peerMem := rfl
@[simp] theorem putClause_poison (s : State) (x : Ctx) (cl : Clause) : (putClause s x cl).poison = s.poison := rfl
@[simp] theorem putClause_sliceU (s : State) (x : Ctx) (cl : Clause) : (putClause s x cl).sliceU = s.sliceU := rfl
@[simp] theorem putClause_merges (s : State) (x : Ctx) (cl : Clause) : (putClause s x cl).merges = s.merges := rfl
@[simp] theorem putClause_arrivals (s : State) (x : Ctx) (cl : Clause) : (putClause s x cl).arrivals = s.arrivals := rfl
@[simp] theorem putClause_racedWords (s : State) (x : Ctx) (cl : Clause) : (putClause s x cl).racedWords = s.racedWords := rfl
@[simp] theorem putClause_mgmt (s : State) (x : Ctx) (cl : Clause) : (putClause s x cl).mgmt = s.mgmt := rfl
@[simp] theorem putClause_migcount (s : State) (x : Ctx) (cl : Clause) : (putClause s x cl).migcount = s.migcount := rfl
@[simp] theorem putClause_l2misses (s : State) (x : Ctx) (cl : Clause) : (putClause s x cl).l2misses = s.l2misses := rfl
@[simp] theorem putClause_missPages (s : State) (x : Ctx) (cl : Clause) : (putClause s x cl).missPages = s.missPages := rfl
@[simp] theorem putClause_owed (s : State) (x : Ctx) (cl : Clause) : (putClause s x cl).owed = s.owed := rfl
@[simp] theorem putClause_stuck (s : State) (x : Ctx) (cl : Clause) : (putClause s x cl).stuck = s.stuck := rfl
@[simp] theorem putClause_nextTicket (s : State) (x : Ctx) (cl : Clause) : (putClause s x cl).nextTicket = s.nextTicket := rfl
@[simp] theorem putClause_nextOrder (s : State) (x : Ctx) (cl : Clause) : (putClause s x cl).nextOrder = s.nextOrder := rfl
@[simp] theorem putClause_grids (s : State) (x : Ctx) (cl : Clause) : (putClause s x cl).grids = s.grids := rfl
@[simp] theorem putClause_groups (s : State) (x : Ctx) (cl : Clause) : (putClause s x cl).groups = s.groups := rfl
@[simp] theorem putClause_pipelines (s : State) (x : Ctx) (cl : Clause) : (putClause s x cl).pipelines = s.pipelines := rfl
@[simp] theorem putClause_dies (s : State) (x : Ctx) (cl : Clause) : (putClause s x cl).dies = s.dies := rfl
@[simp] theorem putClause_remote (s : State) (x : Ctx) (cl : Clause) : (putClause s x cl).remote = s.remote := rfl
@[simp] theorem putClause_savedTiles (s : State) (x : Ctx) (cl : Clause) : (putClause s x cl).savedTiles = s.savedTiles := rfl
@[simp] theorem putClause_fabric (s : State) (x : Ctx) (cl : Clause) : (putClause s x cl).fabric = s.fabric := rfl
@[simp] theorem putClause_zethes (s : State) (x : Ctx) (cl : Clause) : (putClause s x cl).zethes = s.zethes := rfl
@[simp] theorem putClause_qps (s : State) (x : Ctx) (cl : Clause) : (putClause s x cl).qps = s.qps := rfl
@[simp] theorem putClause_regionsE (s : State) (x : Ctx) (cl : Clause) : (putClause s x cl).regionsE = s.regionsE := rfl
@[simp] theorem putClause_snapshots (s : State) (x : Ctx) (cl : Clause) : (putClause s x cl).snapshots = s.snapshots := rfl
@[simp] theorem putClause_outbox (s : State) (x : Ctx) (cl : Clause) : (putClause s x cl).outbox = s.outbox := rfl
@[simp] theorem putClause_agenda (s : State) (x : Ctx) (cl : Clause) : (putClause s x cl).agenda = s.agenda := rfl
@[simp] theorem putClause_focus (s : State) (x : Ctx) (cl : Clause) : (putClause s x cl).focus = s.focus := rfl
@[simp] theorem putClause_moves (s : State) (x : Ctx) (cl : Clause) : (putClause s x cl).moves = s.moves := rfl

/-! ## setSymbol -/

@[simp] theorem setSymbol_cycle (s : State) (core id : Nat) (y : Symbol) : (setSymbol s core id y).cycle = s.cycle := rfl
@[simp] theorem setSymbol_mem (s : State) (core id : Nat) (y : Symbol) : (setSymbol s core id y).mem = s.mem := rfl
@[simp] theorem setSymbol_hostMem (s : State) (core id : Nat) (y : Symbol) : (setSymbol s core id y).hostMem = s.hostMem := rfl
@[simp] theorem setSymbol_peerMem (s : State) (core id : Nat) (y : Symbol) : (setSymbol s core id y).peerMem = s.peerMem := rfl
@[simp] theorem setSymbol_poison (s : State) (core id : Nat) (y : Symbol) : (setSymbol s core id y).poison = s.poison := rfl
@[simp] theorem setSymbol_sliceU (s : State) (core id : Nat) (y : Symbol) : (setSymbol s core id y).sliceU = s.sliceU := rfl
@[simp] theorem setSymbol_merges (s : State) (core id : Nat) (y : Symbol) : (setSymbol s core id y).merges = s.merges := rfl
@[simp] theorem setSymbol_arrivals (s : State) (core id : Nat) (y : Symbol) : (setSymbol s core id y).arrivals = s.arrivals := rfl
@[simp] theorem setSymbol_racedWords (s : State) (core id : Nat) (y : Symbol) : (setSymbol s core id y).racedWords = s.racedWords := rfl
@[simp] theorem setSymbol_mgmt (s : State) (core id : Nat) (y : Symbol) : (setSymbol s core id y).mgmt = s.mgmt := rfl
@[simp] theorem setSymbol_migcount (s : State) (core id : Nat) (y : Symbol) : (setSymbol s core id y).migcount = s.migcount := rfl
@[simp] theorem setSymbol_l2misses (s : State) (core id : Nat) (y : Symbol) : (setSymbol s core id y).l2misses = s.l2misses := rfl
@[simp] theorem setSymbol_missPages (s : State) (core id : Nat) (y : Symbol) : (setSymbol s core id y).missPages = s.missPages := rfl
@[simp] theorem setSymbol_owed (s : State) (core id : Nat) (y : Symbol) : (setSymbol s core id y).owed = s.owed := rfl
@[simp] theorem setSymbol_stuck (s : State) (core id : Nat) (y : Symbol) : (setSymbol s core id y).stuck = s.stuck := rfl
@[simp] theorem setSymbol_nextTicket (s : State) (core id : Nat) (y : Symbol) : (setSymbol s core id y).nextTicket = s.nextTicket := rfl
@[simp] theorem setSymbol_nextOrder (s : State) (core id : Nat) (y : Symbol) : (setSymbol s core id y).nextOrder = s.nextOrder := rfl
@[simp] theorem setSymbol_grids (s : State) (core id : Nat) (y : Symbol) : (setSymbol s core id y).grids = s.grids := rfl
@[simp] theorem setSymbol_groups (s : State) (core id : Nat) (y : Symbol) : (setSymbol s core id y).groups = s.groups := rfl
@[simp] theorem setSymbol_pipelines (s : State) (core id : Nat) (y : Symbol) : (setSymbol s core id y).pipelines = s.pipelines := rfl
@[simp] theorem setSymbol_dies (s : State) (core id : Nat) (y : Symbol) : (setSymbol s core id y).dies = s.dies := rfl
@[simp] theorem setSymbol_remote (s : State) (core id : Nat) (y : Symbol) : (setSymbol s core id y).remote = s.remote := rfl
@[simp] theorem setSymbol_savedTiles (s : State) (core id : Nat) (y : Symbol) : (setSymbol s core id y).savedTiles = s.savedTiles := rfl
@[simp] theorem setSymbol_fabric (s : State) (core id : Nat) (y : Symbol) : (setSymbol s core id y).fabric = s.fabric := rfl
@[simp] theorem setSymbol_zethes (s : State) (core id : Nat) (y : Symbol) : (setSymbol s core id y).zethes = s.zethes := rfl
@[simp] theorem setSymbol_qps (s : State) (core id : Nat) (y : Symbol) : (setSymbol s core id y).qps = s.qps := rfl
@[simp] theorem setSymbol_regionsE (s : State) (core id : Nat) (y : Symbol) : (setSymbol s core id y).regionsE = s.regionsE := rfl
@[simp] theorem setSymbol_snapshots (s : State) (core id : Nat) (y : Symbol) : (setSymbol s core id y).snapshots = s.snapshots := rfl
@[simp] theorem setSymbol_outbox (s : State) (core id : Nat) (y : Symbol) : (setSymbol s core id y).outbox = s.outbox := rfl
@[simp] theorem setSymbol_agenda (s : State) (core id : Nat) (y : Symbol) : (setSymbol s core id y).agenda = s.agenda := rfl
@[simp] theorem setSymbol_focus (s : State) (core id : Nat) (y : Symbol) : (setSymbol s core id y).focus = s.focus := rfl
@[simp] theorem setSymbol_moves (s : State) (core id : Nat) (y : Symbol) : (setSymbol s core id y).moves = s.moves := rfl

/-! ## raiseDelivery -/

@[simp] theorem raiseDelivery_cycle (s : State) (core : Nat) (d : Delivery) : (raiseDelivery s core d).cycle = s.cycle := rfl
@[simp] theorem raiseDelivery_mem (s : State) (core : Nat) (d : Delivery) : (raiseDelivery s core d).mem = s.mem := rfl
@[simp] theorem raiseDelivery_hostMem (s : State) (core : Nat) (d : Delivery) : (raiseDelivery s core d).hostMem = s.hostMem := rfl
@[simp] theorem raiseDelivery_peerMem (s : State) (core : Nat) (d : Delivery) : (raiseDelivery s core d).peerMem = s.peerMem := rfl
@[simp] theorem raiseDelivery_poison (s : State) (core : Nat) (d : Delivery) : (raiseDelivery s core d).poison = s.poison := rfl
@[simp] theorem raiseDelivery_sliceU (s : State) (core : Nat) (d : Delivery) : (raiseDelivery s core d).sliceU = s.sliceU := rfl
@[simp] theorem raiseDelivery_merges (s : State) (core : Nat) (d : Delivery) : (raiseDelivery s core d).merges = s.merges := rfl
@[simp] theorem raiseDelivery_arrivals (s : State) (core : Nat) (d : Delivery) : (raiseDelivery s core d).arrivals = s.arrivals := rfl
@[simp] theorem raiseDelivery_racedWords (s : State) (core : Nat) (d : Delivery) : (raiseDelivery s core d).racedWords = s.racedWords := rfl
@[simp] theorem raiseDelivery_mgmt (s : State) (core : Nat) (d : Delivery) : (raiseDelivery s core d).mgmt = s.mgmt := rfl
@[simp] theorem raiseDelivery_migcount (s : State) (core : Nat) (d : Delivery) : (raiseDelivery s core d).migcount = s.migcount := rfl
@[simp] theorem raiseDelivery_l2misses (s : State) (core : Nat) (d : Delivery) : (raiseDelivery s core d).l2misses = s.l2misses := rfl
@[simp] theorem raiseDelivery_missPages (s : State) (core : Nat) (d : Delivery) : (raiseDelivery s core d).missPages = s.missPages := rfl
@[simp] theorem raiseDelivery_owed (s : State) (core : Nat) (d : Delivery) : (raiseDelivery s core d).owed = s.owed := rfl
@[simp] theorem raiseDelivery_stuck (s : State) (core : Nat) (d : Delivery) : (raiseDelivery s core d).stuck = s.stuck := rfl
@[simp] theorem raiseDelivery_nextTicket (s : State) (core : Nat) (d : Delivery) : (raiseDelivery s core d).nextTicket = s.nextTicket := rfl
@[simp] theorem raiseDelivery_nextOrder (s : State) (core : Nat) (d : Delivery) : (raiseDelivery s core d).nextOrder = s.nextOrder := rfl
@[simp] theorem raiseDelivery_grids (s : State) (core : Nat) (d : Delivery) : (raiseDelivery s core d).grids = s.grids := rfl
@[simp] theorem raiseDelivery_groups (s : State) (core : Nat) (d : Delivery) : (raiseDelivery s core d).groups = s.groups := rfl
@[simp] theorem raiseDelivery_pipelines (s : State) (core : Nat) (d : Delivery) : (raiseDelivery s core d).pipelines = s.pipelines := rfl
@[simp] theorem raiseDelivery_dies (s : State) (core : Nat) (d : Delivery) : (raiseDelivery s core d).dies = s.dies := rfl
@[simp] theorem raiseDelivery_remote (s : State) (core : Nat) (d : Delivery) : (raiseDelivery s core d).remote = s.remote := rfl
@[simp] theorem raiseDelivery_savedTiles (s : State) (core : Nat) (d : Delivery) : (raiseDelivery s core d).savedTiles = s.savedTiles := rfl
@[simp] theorem raiseDelivery_fabric (s : State) (core : Nat) (d : Delivery) : (raiseDelivery s core d).fabric = s.fabric := rfl
@[simp] theorem raiseDelivery_zethes (s : State) (core : Nat) (d : Delivery) : (raiseDelivery s core d).zethes = s.zethes := rfl
@[simp] theorem raiseDelivery_qps (s : State) (core : Nat) (d : Delivery) : (raiseDelivery s core d).qps = s.qps := rfl
@[simp] theorem raiseDelivery_regionsE (s : State) (core : Nat) (d : Delivery) : (raiseDelivery s core d).regionsE = s.regionsE := rfl
@[simp] theorem raiseDelivery_snapshots (s : State) (core : Nat) (d : Delivery) : (raiseDelivery s core d).snapshots = s.snapshots := rfl
@[simp] theorem raiseDelivery_outbox (s : State) (core : Nat) (d : Delivery) : (raiseDelivery s core d).outbox = s.outbox := rfl
@[simp] theorem raiseDelivery_agenda (s : State) (core : Nat) (d : Delivery) : (raiseDelivery s core d).agenda = s.agenda := rfl
@[simp] theorem raiseDelivery_focus (s : State) (core : Nat) (d : Delivery) : (raiseDelivery s core d).focus = s.focus := rfl
@[simp] theorem raiseDelivery_moves (s : State) (core : Nat) (d : Delivery) : (raiseDelivery s core d).moves = s.moves := rfl

/-! ## notice -/

@[simp] theorem notice_cycle (s : State) (core cause : Nat) (addr : Word) (key : Nat) : (notice s core cause addr key).cycle = s.cycle := rfl
@[simp] theorem notice_mem (s : State) (core cause : Nat) (addr : Word) (key : Nat) : (notice s core cause addr key).mem = s.mem := rfl
@[simp] theorem notice_hostMem (s : State) (core cause : Nat) (addr : Word) (key : Nat) : (notice s core cause addr key).hostMem = s.hostMem := rfl
@[simp] theorem notice_peerMem (s : State) (core cause : Nat) (addr : Word) (key : Nat) : (notice s core cause addr key).peerMem = s.peerMem := rfl
@[simp] theorem notice_poison (s : State) (core cause : Nat) (addr : Word) (key : Nat) : (notice s core cause addr key).poison = s.poison := rfl
@[simp] theorem notice_sliceU (s : State) (core cause : Nat) (addr : Word) (key : Nat) : (notice s core cause addr key).sliceU = s.sliceU := rfl
@[simp] theorem notice_merges (s : State) (core cause : Nat) (addr : Word) (key : Nat) : (notice s core cause addr key).merges = s.merges := rfl
@[simp] theorem notice_arrivals (s : State) (core cause : Nat) (addr : Word) (key : Nat) : (notice s core cause addr key).arrivals = s.arrivals := rfl
@[simp] theorem notice_racedWords (s : State) (core cause : Nat) (addr : Word) (key : Nat) : (notice s core cause addr key).racedWords = s.racedWords := rfl
@[simp] theorem notice_mgmt (s : State) (core cause : Nat) (addr : Word) (key : Nat) : (notice s core cause addr key).mgmt = s.mgmt := rfl
@[simp] theorem notice_migcount (s : State) (core cause : Nat) (addr : Word) (key : Nat) : (notice s core cause addr key).migcount = s.migcount := rfl
@[simp] theorem notice_l2misses (s : State) (core cause : Nat) (addr : Word) (key : Nat) : (notice s core cause addr key).l2misses = s.l2misses := rfl
@[simp] theorem notice_missPages (s : State) (core cause : Nat) (addr : Word) (key : Nat) : (notice s core cause addr key).missPages = s.missPages := rfl
@[simp] theorem notice_owed (s : State) (core cause : Nat) (addr : Word) (key : Nat) : (notice s core cause addr key).owed = s.owed := rfl
@[simp] theorem notice_stuck (s : State) (core cause : Nat) (addr : Word) (key : Nat) : (notice s core cause addr key).stuck = s.stuck := rfl
@[simp] theorem notice_nextTicket (s : State) (core cause : Nat) (addr : Word) (key : Nat) : (notice s core cause addr key).nextTicket = s.nextTicket := rfl
@[simp] theorem notice_nextOrder (s : State) (core cause : Nat) (addr : Word) (key : Nat) : (notice s core cause addr key).nextOrder = s.nextOrder := rfl
@[simp] theorem notice_grids (s : State) (core cause : Nat) (addr : Word) (key : Nat) : (notice s core cause addr key).grids = s.grids := rfl
@[simp] theorem notice_groups (s : State) (core cause : Nat) (addr : Word) (key : Nat) : (notice s core cause addr key).groups = s.groups := rfl
@[simp] theorem notice_pipelines (s : State) (core cause : Nat) (addr : Word) (key : Nat) : (notice s core cause addr key).pipelines = s.pipelines := rfl
@[simp] theorem notice_dies (s : State) (core cause : Nat) (addr : Word) (key : Nat) : (notice s core cause addr key).dies = s.dies := rfl
@[simp] theorem notice_remote (s : State) (core cause : Nat) (addr : Word) (key : Nat) : (notice s core cause addr key).remote = s.remote := rfl
@[simp] theorem notice_savedTiles (s : State) (core cause : Nat) (addr : Word) (key : Nat) : (notice s core cause addr key).savedTiles = s.savedTiles := rfl
@[simp] theorem notice_fabric (s : State) (core cause : Nat) (addr : Word) (key : Nat) : (notice s core cause addr key).fabric = s.fabric := rfl
@[simp] theorem notice_zethes (s : State) (core cause : Nat) (addr : Word) (key : Nat) : (notice s core cause addr key).zethes = s.zethes := rfl
@[simp] theorem notice_qps (s : State) (core cause : Nat) (addr : Word) (key : Nat) : (notice s core cause addr key).qps = s.qps := rfl
@[simp] theorem notice_regionsE (s : State) (core cause : Nat) (addr : Word) (key : Nat) : (notice s core cause addr key).regionsE = s.regionsE := rfl
@[simp] theorem notice_snapshots (s : State) (core cause : Nat) (addr : Word) (key : Nat) : (notice s core cause addr key).snapshots = s.snapshots := rfl
@[simp] theorem notice_outbox (s : State) (core cause : Nat) (addr : Word) (key : Nat) : (notice s core cause addr key).outbox = s.outbox := rfl
@[simp] theorem notice_agenda (s : State) (core cause : Nat) (addr : Word) (key : Nat) : (notice s core cause addr key).agenda = s.agenda := rfl
@[simp] theorem notice_focus (s : State) (core cause : Nat) (addr : Word) (key : Nat) : (notice s core cause addr key).focus = s.focus := rfl
@[simp] theorem notice_moves (s : State) (core cause : Nat) (addr : Word) (key : Nat) : (notice s core cause addr key).moves = s.moves := rfl

/-! ## blackBox -/

@[simp] theorem blackBox_cycle (s : State) (die core kind group payload : Nat) : (blackBox s die core kind group payload).cycle = s.cycle := rfl
@[simp] theorem blackBox_mem (s : State) (die core kind group payload : Nat) : (blackBox s die core kind group payload).mem = s.mem := rfl
@[simp] theorem blackBox_hostMem (s : State) (die core kind group payload : Nat) : (blackBox s die core kind group payload).hostMem = s.hostMem := rfl
@[simp] theorem blackBox_peerMem (s : State) (die core kind group payload : Nat) : (blackBox s die core kind group payload).peerMem = s.peerMem := rfl
@[simp] theorem blackBox_poison (s : State) (die core kind group payload : Nat) : (blackBox s die core kind group payload).poison = s.poison := rfl
@[simp] theorem blackBox_sliceU (s : State) (die core kind group payload : Nat) : (blackBox s die core kind group payload).sliceU = s.sliceU := rfl
@[simp] theorem blackBox_merges (s : State) (die core kind group payload : Nat) : (blackBox s die core kind group payload).merges = s.merges := rfl
@[simp] theorem blackBox_arrivals (s : State) (die core kind group payload : Nat) : (blackBox s die core kind group payload).arrivals = s.arrivals := rfl
@[simp] theorem blackBox_racedWords (s : State) (die core kind group payload : Nat) : (blackBox s die core kind group payload).racedWords = s.racedWords := rfl
@[simp] theorem blackBox_mgmt (s : State) (die core kind group payload : Nat) : (blackBox s die core kind group payload).mgmt = s.mgmt := rfl
@[simp] theorem blackBox_migcount (s : State) (die core kind group payload : Nat) : (blackBox s die core kind group payload).migcount = s.migcount := rfl
@[simp] theorem blackBox_l2misses (s : State) (die core kind group payload : Nat) : (blackBox s die core kind group payload).l2misses = s.l2misses := rfl
@[simp] theorem blackBox_missPages (s : State) (die core kind group payload : Nat) : (blackBox s die core kind group payload).missPages = s.missPages := rfl
@[simp] theorem blackBox_owed (s : State) (die core kind group payload : Nat) : (blackBox s die core kind group payload).owed = s.owed := rfl
@[simp] theorem blackBox_stuck (s : State) (die core kind group payload : Nat) : (blackBox s die core kind group payload).stuck = s.stuck := rfl
@[simp] theorem blackBox_nextTicket (s : State) (die core kind group payload : Nat) : (blackBox s die core kind group payload).nextTicket = s.nextTicket := rfl
@[simp] theorem blackBox_nextOrder (s : State) (die core kind group payload : Nat) : (blackBox s die core kind group payload).nextOrder = s.nextOrder := rfl
@[simp] theorem blackBox_grids (s : State) (die core kind group payload : Nat) : (blackBox s die core kind group payload).grids = s.grids := rfl
@[simp] theorem blackBox_groups (s : State) (die core kind group payload : Nat) : (blackBox s die core kind group payload).groups = s.groups := rfl
@[simp] theorem blackBox_pipelines (s : State) (die core kind group payload : Nat) : (blackBox s die core kind group payload).pipelines = s.pipelines := rfl
@[simp] theorem blackBox_cores (s : State) (die core kind group payload : Nat) : (blackBox s die core kind group payload).cores = s.cores := rfl
@[simp] theorem blackBox_remote (s : State) (die core kind group payload : Nat) : (blackBox s die core kind group payload).remote = s.remote := rfl
@[simp] theorem blackBox_savedTiles (s : State) (die core kind group payload : Nat) : (blackBox s die core kind group payload).savedTiles = s.savedTiles := rfl
@[simp] theorem blackBox_fabric (s : State) (die core kind group payload : Nat) : (blackBox s die core kind group payload).fabric = s.fabric := rfl
@[simp] theorem blackBox_zethes (s : State) (die core kind group payload : Nat) : (blackBox s die core kind group payload).zethes = s.zethes := rfl
@[simp] theorem blackBox_qps (s : State) (die core kind group payload : Nat) : (blackBox s die core kind group payload).qps = s.qps := rfl
@[simp] theorem blackBox_regionsE (s : State) (die core kind group payload : Nat) : (blackBox s die core kind group payload).regionsE = s.regionsE := rfl
@[simp] theorem blackBox_snapshots (s : State) (die core kind group payload : Nat) : (blackBox s die core kind group payload).snapshots = s.snapshots := rfl
@[simp] theorem blackBox_outbox (s : State) (die core kind group payload : Nat) : (blackBox s die core kind group payload).outbox = s.outbox := rfl
@[simp] theorem blackBox_agenda (s : State) (die core kind group payload : Nat) : (blackBox s die core kind group payload).agenda = s.agenda := rfl
@[simp] theorem blackBox_focus (s : State) (die core kind group payload : Nat) : (blackBox s die core kind group payload).focus = s.focus := rfl
@[simp] theorem blackBox_moves (s : State) (die core kind group payload : Nat) : (blackBox s die core kind group payload).moves = s.moves := rfl

/-! ## endService -/

@[simp] theorem endService_cycle (s : State) (core : Nat) : (endService s core).cycle = s.cycle := by simp [endService]
@[simp] theorem endService_mem (s : State) (core : Nat) : (endService s core).mem = s.mem := by simp [endService]
@[simp] theorem endService_hostMem (s : State) (core : Nat) : (endService s core).hostMem = s.hostMem := by simp [endService]
@[simp] theorem endService_peerMem (s : State) (core : Nat) : (endService s core).peerMem = s.peerMem := by simp [endService]
@[simp] theorem endService_poison (s : State) (core : Nat) : (endService s core).poison = s.poison := by simp [endService]
@[simp] theorem endService_sliceU (s : State) (core : Nat) : (endService s core).sliceU = s.sliceU := by simp [endService]
@[simp] theorem endService_merges (s : State) (core : Nat) : (endService s core).merges = s.merges := by simp [endService]
@[simp] theorem endService_arrivals (s : State) (core : Nat) : (endService s core).arrivals = s.arrivals := by simp [endService]
@[simp] theorem endService_racedWords (s : State) (core : Nat) : (endService s core).racedWords = s.racedWords := by simp [endService]
@[simp] theorem endService_mgmt (s : State) (core : Nat) : (endService s core).mgmt = s.mgmt := by simp [endService]
@[simp] theorem endService_migcount (s : State) (core : Nat) : (endService s core).migcount = s.migcount := by simp [endService]
@[simp] theorem endService_l2misses (s : State) (core : Nat) : (endService s core).l2misses = s.l2misses := by simp [endService]
@[simp] theorem endService_missPages (s : State) (core : Nat) : (endService s core).missPages = s.missPages := by simp [endService]
@[simp] theorem endService_owed (s : State) (core : Nat) : (endService s core).owed = s.owed := by simp [endService]
@[simp] theorem endService_stuck (s : State) (core : Nat) : (endService s core).stuck = s.stuck := by simp [endService]
@[simp] theorem endService_nextTicket (s : State) (core : Nat) : (endService s core).nextTicket = s.nextTicket := by simp [endService]
@[simp] theorem endService_nextOrder (s : State) (core : Nat) : (endService s core).nextOrder = s.nextOrder := by simp [endService]
@[simp] theorem endService_grids (s : State) (core : Nat) : (endService s core).grids = s.grids := by simp [endService]
@[simp] theorem endService_groups (s : State) (core : Nat) : (endService s core).groups = s.groups := by simp [endService]
@[simp] theorem endService_pipelines (s : State) (core : Nat) : (endService s core).pipelines = s.pipelines := by simp [endService]
@[simp] theorem endService_dies (s : State) (core : Nat) : (endService s core).dies = s.dies := by simp [endService]
@[simp] theorem endService_remote (s : State) (core : Nat) : (endService s core).remote = s.remote := by simp [endService]
@[simp] theorem endService_savedTiles (s : State) (core : Nat) : (endService s core).savedTiles = s.savedTiles := by simp [endService]
@[simp] theorem endService_fabric (s : State) (core : Nat) : (endService s core).fabric = s.fabric := by simp [endService]
@[simp] theorem endService_zethes (s : State) (core : Nat) : (endService s core).zethes = s.zethes := by simp [endService]
@[simp] theorem endService_qps (s : State) (core : Nat) : (endService s core).qps = s.qps := by simp [endService]
@[simp] theorem endService_regionsE (s : State) (core : Nat) : (endService s core).regionsE = s.regionsE := by simp [endService]
@[simp] theorem endService_snapshots (s : State) (core : Nat) : (endService s core).snapshots = s.snapshots := by simp [endService]
@[simp] theorem endService_outbox (s : State) (core : Nat) : (endService s core).outbox = s.outbox := by simp [endService]
@[simp] theorem endService_agenda (s : State) (core : Nat) : (endService s core).agenda = s.agenda := by simp [endService]
@[simp] theorem endService_focus (s : State) (core : Nat) : (endService s core).focus = s.focus := by simp [endService]
@[simp] theorem endService_moves (s : State) (core : Nat) : (endService s core).moves = s.moves := by simp [endService]

/-! ## Reading back -/

@[simp] theorem coreOf_setCore_self (s : State) (c : Nat) (v : CoreSt) : coreOf (setCore s c v) c = v := by
  simp [coreOf, setCore]

theorem coreOf_setCore_ne (s : State) {c d : Nat} (v : CoreSt) (h : c ≠ d) : coreOf (setCore s c v) d = coreOf s d := by
  simp [coreOf, setCore, tabGet_tabPut_ne _ _ _ h]

@[simp] theorem coreOf_modCore_self (s : State) (c : Nat) (f : CoreSt → CoreSt) : coreOf (modCore s c f) c = f (coreOf s c) := by
  simp [modCore]

theorem coreOf_modCore_ne (s : State) {c d : Nat} (f : CoreSt → CoreSt) (h : c ≠ d) : coreOf (modCore s c f) d = coreOf s d := by
  simp [modCore, coreOf_setCore_ne s _ h]

@[simp] theorem troupeAt_setTroupe_self (s : State) (c p : Nat) (t : Troupe) : troupeAt (setTroupe s c p t) c p = some t := by
  simp [troupeAt, setTroupe]

theorem troupeAt_setTroupe_ne (s : State) (c : Nat) {p q : Nat} (t : Troupe) (h : p ≠ q) :
    troupeAt (setTroupe s c p t) c q = troupeAt s c q := by
  simp [troupeAt, setTroupe, tabGet?_tabPut_ne _ _ h]

theorem troupeAt_setTroupe_core (s : State) {c d : Nat} (p q : Nat) (t : Troupe) (h : c ≠ d) :
    troupeAt (setTroupe s c p t) d q = troupeAt s d q := by
  simp [troupeAt, setTroupe, coreOf_modCore_ne s _ h]

@[simp] theorem setTroupe_setTroupe (s : State) (c p : Nat) (t u : Troupe) : setTroupe (setTroupe s c p t) c p u = setTroupe s c p u := by
  simp [setTroupe, modCore, setCore, coreOf]

theorem modTroupe_eq {s : State} {c p : Nat} {t : Troupe} (h : troupeAt s c p = some t) (f : Troupe → Troupe) :
    modTroupe s c p f = setTroupe s c p (f t) := by
  simp [modTroupe, h]

@[simp] theorem groupAt_setGroup_self (s : State) (key : Nat) (g : Group) : groupAt (setGroup s key g) key = some g := by
  simp [groupAt, setGroup]

theorem groupAt_setGroup_ne (s : State) {key other : Nat} (g : Group) (h : key ≠ other) :
    groupAt (setGroup s key g) other = groupAt s other := by
  simp [groupAt, setGroup, tabGet?_tabPut_ne _ _ h]

theorem modGroup_eq {s : State} {key : Nat} {g : Group} (h : groupAt s key = some g) (f : Group → Group) :
    modGroup s key f = setGroup s key (f g) := by
  simp [modGroup, h]

@[simp] theorem gridAt_setGrid_self (s : State) (ticket : Nat) (g : Grid) : gridAt (setGrid s ticket g) ticket = some g := by
  simp [gridAt, setGrid]

theorem modGrid_eq {s : State} {ticket : Nat} {g : Grid} (h : gridAt s ticket = some g) (f : Grid → Grid) :
    modGrid s ticket f = setGrid s ticket (f g) := by
  simp [modGrid, h]

@[simp] theorem dieAt_setDie_self (s : State) (d : Nat) (v : DieSt) : dieAt (setDie s d v) d = v := by
  simp [dieAt, setDie]

@[simp] theorem dieAt_modDie_self (s : State) (d : Nat) (f : DieSt → DieSt) : dieAt (modDie s d f) d = f (dieAt s d) := by
  simp [modDie]

@[simp] theorem send_outbox (s : State) (m : Message) : (send s m).outbox = s.outbox ++ [m] := rfl

/-- Other tables do not see an update of the cores. -/
@[simp] theorem groupAt_setTroupe (s : State) (c p : Nat) (t : Troupe) (key : Nat) : groupAt (setTroupe s c p t) key = groupAt s key := rfl
@[simp] theorem gridAt_setTroupe (s : State) (c p : Nat) (t : Troupe) (k : Nat) : gridAt (setTroupe s c p t) k = gridAt s k := rfl
@[simp] theorem groupAt_modCore (s : State) (c : Nat) (f : CoreSt → CoreSt) (key : Nat) : groupAt (modCore s c f) key = groupAt s key := rfl
@[simp] theorem gridAt_modCore (s : State) (c : Nat) (f : CoreSt → CoreSt) (k : Nat) : gridAt (modCore s c f) k = gridAt s k := rfl

/-! ## The clause in execution -/

/-- The clause's record is written where it is read. -/
@[simp] theorem troupeAt_putClause (s : State) (x : Ctx) (cl : Clause) :
    troupeAt (putClause s x cl) x.core x.pos = some { x.t with clause := some cl } := by
  simp [putClause]

/-- What `ctxOf` answers is where the machine stands. -/
theorem ctxOf_some {s : State} {x : Ctx} (h : ctxOf s = some x) :
    s.focus = some (x.core, x.pos) ∧ troupeAt s x.core x.pos = some x.t ∧ x.t.clause = some x.cl := by
  unfold ctxOf at h
  split at h
  · exact absurd h (by simp)
  · rename_i c p hf
    split at h
    · exact absurd h (by simp)
    · rename_i t ht
      split at h
      · exact absurd h (by simp)
      · rename_i cl hc
        obtain rfl := Option.some.inj h
        exact ⟨hf, ht, hc⟩

/-- The clause stays in execution under its new record. -/
theorem ctxOf_putClause {s : State} {x : Ctx} (h : ctxOf s = some x) (cl : Clause) :
    ctxOf (putClause s x cl) = some ⟨x.core, x.pos, { x.t with clause := some cl }, cl⟩ := by
  simp [ctxOf, (ctxOf_some h).1]

/-- Outside a clause no instruction executes (R36). -/
theorem inClause_none {s : State} (h : ctxOf s = none) (k : Ctx → Out) : inClause s k = .fault .noClause := by
  simp [inClause, h]

theorem inClause_some {s : State} {x : Ctx} (h : ctxOf s = some x) (k : Ctx → Out) : inClause s k = k x := by
  simp [inClause, h]

end Sys2Proof.Machine
end

