-- ==== Sys2Proof/Laws/Clause.lean ====
section
/-!
SUPPORT. What the readings shared by the instructions do when nothing is in their way.
-/

namespace Sys2Proof.Machine

/-- Operands settled in the active lanes are read without a wait, a fault or a park (R146, R147). -/
theorem use_settled (s : State) (x : Ctx) (ops : List Operand) (k : State → Ctx → Out) (h : settledOps x ops = true) :
    use s x ops k = k s x := by
  simp only [settledOps, List.all_eq_true, Bool.and_eq_true, beq_iff_eq] at h
  have sound : ∀ r ∈ ops.filterMap (regOperand x), faultedIn s x.core r &&& x.cl.active = 0 := by
    intro r hr
    unfold faultedIn
    split
    · simp
    · rw [BitVec.and_assoc, BitVec.and_comm _ x.cl.active, ← BitVec.and_assoc, (h r hr).1]; simp
  have waits : (ops.filterMap (regOperand x)).any (fun r => unsettled s x r != 0) = false := by
    rw [List.any_eq_false]; intro r hr; simp [unsettled, (h r hr).1]
  have fold : ∀ (rs : List Reg) (m : LaneMask), m &&& x.cl.active = 0 →
      (∀ r ∈ rs, r.unknown &&& x.cl.active = 0 ∧ faultedIn s x.core r &&& x.cl.active = 0) →
      rs.foldl (fun m r => m ||| r.unknown ||| faultedIn s x.core r) m &&& x.cl.active = 0 := by
    intro rs
    induction rs with
    | nil => intro m hm _; exact hm
    | cons r rs ih =>
      intro m hm hr
      refine ih _ ?_ fun q hq => hr q (List.mem_cons_of_mem _ hq)
      have h1 := hr r (List.mem_cons_self ..)
      ext i hi
      have hb (v : LaneMask) (e : v &&& x.cl.active = 0) : (v[i] && x.cl.active[i]) = false := by
        have := congrArg (fun w : LaneMask => w[i]) e
        simpa using this
      have e0 := hb _ hm
      have e1 := hb _ h1.1
      have e2 := hb _ h1.2
      simp only [BitVec.getElem_and, BitVec.getElem_or]
      cases hx : x.cl.active[i] <;> simp_all
  have none : unavailable s x (ops.filterMap (regOperand x)) = 0 :=
    fold _ 0 (by simp) fun r hr => ⟨(h r hr).2, sound r hr⟩
  unfold use useRegs
  rw [waits]
  simp [none]

end Sys2Proof.Machine
end

