-- ==== Sys2Proof/Laws/Encoding.lean ====
section
/-!
SUPPORT. Reading the fields of an encoded word gives back the fields (R39, R44).
-/

namespace Sys2Proof

/-- An operand's code names it. -/
@[simp] theorem Operand.ofCode_code (o : Operand) : Operand.ofCode o.code = some o := by
  cases o with
  | x n => revert n; decide
  | c n => revert n; decide
  | k n => revert n; decide
  | ic n => revert n; decide
  | fc n => revert n; decide
  | _ => rfl

theorem Operand.code_lt (o : Operand) : o.code < 127 := by
  cases o <;> simp only [Operand.code]
  case x n => have := n.isLt; omega
  case c n => have := n.isLt; omega
  case k n => have := n.isLt; omega
  case ic n => have := n.isLt; omega
  case fc n => have := n.isLt; omega
  all_goals omega

theorem b2n_lt (b : Bool) : b2n b < 2 := by cases b <;> decide

@[simp] theorem b2n_beq_one (b : Bool) : (b2n b == 1) = b := by cases b <;> decide

theorem field_op_A (op : Nat) (f : FA) (h : op < 128) : field (f.word op) 25 7 = op := by
  have := f.d.code_lt; have := f.a.code_lt; have := f.b.code_lt; have := b2n_lt f.la; have := b2n_lt f.lb
  have := f.pack.isLt
  simp only [field, FA.word]; omega

theorem field_op_B (op : Nat) (f : FB) (h : op < 128) : field (f.word op) 25 7 = op := by
  have := f.d.code_lt; have := f.a.code_lt; have := b2n_lt f.la; have := f.imm.isLt
  simp only [field, FB.word]; omega

theorem field_op_X (op : Nat) (f : FX) (h : op < 128) : field (f.word0 op) 25 7 = op := by
  have := f.d.code_lt; have := f.a.code_lt; have := f.b.code_lt; have := b2n_lt f.la; have := b2n_lt f.lb
  have := f.pack.isLt
  simp only [field, FX.word0]; omega

theorem field_op_L (op : Nat) (f : FL) (h : op < 128) : field (f.word0 op) 25 7 = op := by
  have := f.d.code_lt; have := f.a.code_lt; have := b2n_lt f.la
  simp only [field, FL.word0]; omega

theorem field_op_M (op : Nat) (f : FM) (h : op < 128) : field (f.word0 op) 25 7 = op := by
  have := f.d.code_lt; have := f.a.code_lt; have := b2n_lt f.la; have := f.ord.isLt; have := f.scope.isLt; have := f.off.isLt
  simp only [field, FM.word0]; omega

theorem field_op_C (op : Nat) (f : FC) (h : op < 128) : field (f.word op) 25 7 = op := by
  have := f.a.code_lt; have := f.b.code_lt; have := b2n_lt f.la; have := b2n_lt f.lb; have := f.pack.isLt
  have := f.q.isLt; have := f.cond.isLt
  simp only [field, FC.word]; omega

theorem field_op_S (op : Nat) (f : FS) (h : op < 128) : field (f.word op) 25 7 = op := by
  have := f.off.isLt
  simp only [field, FS.word]; omega

/-- The fields of a format-A word. -/
theorem FA.ofWord_word (op : Nat) (f : FA) : FA.ofWord (f.word op) = some f := by
  have := f.d.code_lt; have := f.a.code_lt; have := f.b.code_lt; have := b2n_lt f.la; have := b2n_lt f.lb
  have := f.pack.isLt
  have e1 : field (f.word op) 18 7 = f.d.code := by simp only [field, FA.word]; omega
  have e2 : field (f.word op) 11 7 = f.a.code := by simp only [field, FA.word]; omega
  have e3 : field (f.word op) 4 7 = f.b.code := by simp only [field, FA.word]; omega
  have e4 : field (f.word op) 3 1 = b2n f.la := by simp only [field, FA.word]; omega
  have e5 : field (f.word op) 2 1 = b2n f.lb := by simp only [field, FA.word]; omega
  have e6 : field (f.word op) 0 2 = f.pack.toNat := by simp only [field, FA.word]; omega
  simp [FA.ofWord, e1, e2, e3, e4, e5, e6]

/-- The fields of a format-B word. -/
theorem FB.ofWord_word (op : Nat) (f : FB) : FB.ofWord (f.word op) = some f := by
  have := f.d.code_lt; have := f.a.code_lt; have := b2n_lt f.la; have := f.imm.isLt
  have e1 : field (f.word op) 18 7 = f.d.code := by simp only [field, FB.word]; omega
  have e2 : field (f.word op) 11 7 = f.a.code := by simp only [field, FB.word]; omega
  have e3 : field (f.word op) 10 1 = b2n f.la := by simp only [field, FB.word]; omega
  have e4 : field (f.word op) 0 10 = f.imm.toNat := by simp only [field, FB.word]; omega
  simp [FB.ofWord, e1, e2, e3, e4]

/-- The fields of a format-X pair of words. -/
theorem FX.ofWords_words (op : Nat) (f : FX) : FX.ofWords (f.word0 op) f.word1 = some f := by
  have := f.d.code_lt; have := f.a.code_lt; have := f.b.code_lt; have := b2n_lt f.la; have := b2n_lt f.lb
  have := f.pack.isLt; have := f.c.code_lt; have := b2n_lt f.lc; have := f.fn.isLt; have := f.rnd.isLt; have := b2n_lt f.sat
  have := f.flg.isLt; have := f.imm.isLt
  have e1 : field (f.word0 op) 18 7 = f.d.code := by simp only [field, FX.word0]; omega
  have e2 : field (f.word0 op) 11 7 = f.a.code := by simp only [field, FX.word0]; omega
  have e3 : field (f.word0 op) 4 7 = f.b.code := by simp only [field, FX.word0]; omega
  have e4 : field (f.word0 op) 3 1 = b2n f.la := by simp only [field, FX.word0]; omega
  have e5 : field (f.word0 op) 2 1 = b2n f.lb := by simp only [field, FX.word0]; omega
  have e6 : field (f.word0 op) 0 2 = f.pack.toNat := by simp only [field, FX.word0]; omega
  have e7 : field f.word1 25 7 = f.c.code := by simp only [field, FX.word1]; omega
  have e8 : field f.word1 24 1 = b2n f.lc := by simp only [field, FX.word1]; omega
  have e9 : field f.word1 20 4 = f.fn.toNat := by simp only [field, FX.word1]; omega
  have e10 : field f.word1 17 3 = f.rnd.toNat := by simp only [field, FX.word1]; omega
  have e11 : field f.word1 16 1 = b2n f.sat := by simp only [field, FX.word1]; omega
  have e12 : field f.word1 12 4 = f.flg.toNat := by simp only [field, FX.word1]; omega
  have e13 : field f.word1 0 12 = f.imm.toNat := by simp only [field, FX.word1]; omega
  simp [FX.ofWords, e1, e2, e3, e4, e5, e6, e7, e8, e9, e10, e11, e12, e13]

/-- The fields of a format-L pair of words. -/
theorem FL.ofWords_words (op : Nat) (f : FL) : FL.ofWords (f.word0 op) f.imm.toNat = some f := by
  have := f.d.code_lt; have := f.a.code_lt; have := b2n_lt f.la; have := f.imm.isLt
  have e1 : field (f.word0 op) 18 7 = f.d.code := by simp only [field, FL.word0]; omega
  have e2 : field (f.word0 op) 11 7 = f.a.code := by simp only [field, FL.word0]; omega
  have e3 : field (f.word0 op) 10 1 = b2n f.la := by simp only [field, FL.word0]; omega
  have e4 : field (f.word0 op) 0 10 = 0 := by simp only [field, FL.word0]; omega
  have e5 : field f.imm.toNat 0 32 = f.imm.toNat := by simp only [field]; omega
  simp [FL.ofWords, e1, e2, e3, e4, e5]

/-- The fields of a format-M pair of words. -/
theorem FM.ofWords_words (op : Nat) (f : FM) : FM.ofWords (f.word0 op) f.word1 = some f := by
  have := f.d.code_lt; have := f.a.code_lt; have := b2n_lt f.la; have := f.ord.isLt; have := f.scope.isLt; have := f.off.isLt
  have := f.ty.isLt; have := f.fn.isLt; have := f.e.code_lt; have := b2n_lt f.le; have := b2n_lt f.ld
  have e1 : field (f.word0 op) 18 7 = f.d.code := by simp only [field, FM.word0]; omega
  have e2 : field (f.word0 op) 11 7 = f.a.code := by simp only [field, FM.word0]; omega
  have e3 : field (f.word0 op) 10 1 = b2n f.la := by simp only [field, FM.word0]; omega
  have e4 : field (f.word0 op) 8 2 = f.ord.toNat := by simp only [field, FM.word0]; omega
  have e5 : field (f.word0 op) 5 3 = f.scope.toNat := by simp only [field, FM.word0]; omega
  have e6 : field (f.word0 op) 0 5 = f.off.toNat := by simp only [field, FM.word0]; omega
  have e7 : field f.word1 27 5 = f.ty.toNat := by simp only [field, FM.word1]; omega
  have e8 : field f.word1 23 4 = f.fn.toNat := by simp only [field, FM.word1]; omega
  have e9 : field f.word1 13 7 = f.e.code := by simp only [field, FM.word1]; omega
  have e10 : field f.word1 12 1 = b2n f.le := by simp only [field, FM.word1]; omega
  have e11 : field f.word1 11 1 = b2n f.ld := by simp only [field, FM.word1]; omega
  have e12 : field f.word1 20 3 = 0 := by simp only [field, FM.word1]; omega
  have e13 : field f.word1 0 11 = 0 := by simp only [field, FM.word1]; omega
  simp [FM.ofWords, e1, e2, e3, e4, e5, e6, e7, e8, e9, e10, e11, e12, e13]

/-- The fields of a Compare word. -/
theorem FC.ofWord_word (op : Nat) (f : FC) : FC.ofWord (f.word op) = some f := by
  have := f.a.code_lt; have := f.b.code_lt; have := b2n_lt f.la; have := b2n_lt f.lb; have := f.pack.isLt
  have := f.q.isLt; have := f.cond.isLt
  have e1 : field (f.word op) 22 3 = f.q.toNat := by simp only [field, FC.word]; omega
  have e2 : field (f.word op) 18 4 = f.cond.toNat := by simp only [field, FC.word]; omega
  have e3 : field (f.word op) 11 7 = f.a.code := by simp only [field, FC.word]; omega
  have e4 : field (f.word op) 4 7 = f.b.code := by simp only [field, FC.word]; omega
  have e5 : field (f.word op) 3 1 = b2n f.la := by simp only [field, FC.word]; omega
  have e6 : field (f.word op) 2 1 = b2n f.lb := by simp only [field, FC.word]; omega
  have e7 : field (f.word op) 0 2 = f.pack.toNat := by simp only [field, FC.word]; omega
  simp [FC.ofWord, e1, e2, e3, e4, e5, e6, e7]

/-- The offset of an S word. -/
theorem FS.ofWord_word (op : Nat) (f : FS) : FS.ofWord (f.word op) = f := by
  have := f.off.isLt
  have e1 : field (f.word op) 0 25 = f.off.toNat := by simp only [field, FS.word]; omega
  simp [FS.ofWord, e1]

/-- The four bytes of a word give it back. -/
theorem wordOfBytes_wordBytes (w : Nat) (h : w < 2 ^ 32) : wordOfBytes (wordBytes w) = w := by
  simp [wordBytes, wordOfBytes, List.range, List.range.loop]
  omega

end Sys2Proof
end

