-- ==== Sys2Proof/Laws/Memory.lean ====
section
/-!
SUPPORT. Laws of the cell lists that memories are: what a write leaves, and that every write keeps the canonical form.
-/

namespace Sys2Proof.Machine

/-- The canonical form of a list with one more cell in front: the cell is not zero and stands below the rest. -/
theorem memoryWf_cons (k : Nat) (v : Byte) (m : List Host.Cell) :
    memoryWf ((k, v) :: m) = true ↔ v ≠ 0 ∧ memoryWf m = true ∧ ∀ e ∈ m.head?, k < e.1 := by
  cases m with
  | nil => simp [memoryWf]
  | cons e r => obtain ⟨j, w⟩ := e; simp [memoryWf]; tauto

/-- The first cell after a write is the first one before, or the one written. -/
theorem cellPut_head (m : List Host.Cell) (a : Nat) (b : Byte) (k : Nat) (hk : k < a) (hm : memoryWf m = true)
    (h : ∀ e ∈ m.head?, k < e.1) : ∀ e ∈ (cellPut m a b).head?, k < e.1 := by
  cases m with
  | nil => simp only [cellPut]; split <;> simp [hk]
  | cons e r =>
    obtain ⟨j, w⟩ := e
    have hj : k < j := h (j, w) rfl
    have hr := ((memoryWf_cons j w r).1 hm).2.2
    simp only [cellPut]
    split
    · split <;> simp [hj, hk]
    · split
      · split
        · intro e he; exact Nat.lt_trans hj (hr e he)
        · simp [hj]
      · simp [hj]

/-- A write of a byte keeps the canonical form. -/
theorem cellPut_wf (m : List Host.Cell) (a : Nat) (b : Byte) (hm : memoryWf m = true) : memoryWf (cellPut m a b) = true := by
  induction m with
  | nil =>
    simp only [cellPut]
    split
    · rfl
    · simpa [memoryWf] using ‹¬b = 0›
  | cons e r ih =>
    obtain ⟨k, v⟩ := e
    obtain ⟨hv, hr, hk⟩ := (memoryWf_cons k v r).1 hm
    simp only [cellPut]
    split
    · split
      · exact hm
      · exact (memoryWf_cons _ _ _).2 ⟨‹_›, hm, by simpa⟩
    · split
      · split
        · exact hr
        · exact (memoryWf_cons _ _ _).2 ⟨‹_›, hr, hk⟩
      · exact (memoryWf_cons _ _ _).2 ⟨hv, ih hr, cellPut_head r a b k (by omega) hr hk⟩

/-- A write of bytes keeps the canonical form. -/
theorem cellsPut_wf (bs : List Byte) (m : List Host.Cell) (a : Nat) (hm : memoryWf m = true) : memoryWf (cellsPut m a bs) = true := by
  induction bs generalizing m a with
  | nil => exact hm
  | cons b r ih => exact ih _ _ (cellPut_wf m a b hm)

/-- A group stands under the key it was written to, and under the others as before. -/
theorem groupAt_setGroup (s : State) (key k : Nat) (g : Group) :
    groupAt (setGroup s key g) k = if key = k then some g else groupAt s k := tabGet?_tabPut _ _ _ _

/-- Writing bytes at a location keeps every memory canonical. -/
theorem rawWrite_wf (s : State) (l : Loc) (bs : List Byte) (h : MemoriesWf s) : MemoriesWf (rawWrite s l bs) := by
  obtain ⟨h1, h2, h3, h4⟩ := h
  unfold rawWrite
  split
  · exact ⟨cellsPut_wf _ _ _ h1, h2, h3, h4⟩
  · exact ⟨h1, cellsPut_wf _ _ _ h2, h3, h4⟩
  · exact ⟨h1, h2, cellsPut_wf _ _ _ h3, h4⟩
  · unfold modGroup
    split
    · exact ⟨h1, h2, h3, h4⟩
    · rename_i g hg
      refine ⟨h1, h2, h3, fun k q hq => ?_⟩
      rw [groupAt_setGroup] at hq
      split at hq
      · cases hq; exact cellsPut_wf _ _ _ (h4 _ _ hg)
      · exact h4 _ _ hq
  · exact ⟨h1, h2, h3, h4⟩

/-- Device memory right after reset is in canonical form. -/
theorem reset_mem_wf : memoryWf State.reset.mem = true := rfl

end Sys2Proof.Machine
end

