-- ==== Sys2Proof/Laws/PerInstr.lean ====
section
/-!
SUPPORT. For each instruction: the first word of its encoding carries its major opcode in bits [31:25] (R39, R50).
-/

namespace Sys2Proof.Laws.OpcodeField

/-- The first word of an instruction's encoding holds its major opcode; an event has no word. -/
def Statement (i : Instr) : Prop := ∀ w, (encode i).head? = some w → field w 25 7 = i.spec.op

/-- An opcode fits its field. -/
theorem op_lt (i : Instr) : i.spec.op < 128 := by cases i <;> exact of_decide_eq_true rfl

/-- An instruction with one encoding word whose opcode field reads back. -/
theorem ofHead {i : Instr} {u : Nat} {r : List Nat} (h : encode i = u :: r) (hu : field u 25 7 = i.spec.op) : Statement i := by
  intro w hw
  rw [h] at hw
  obtain rfl := Option.some.inj hw
  exact hu

/-- An event is not encoded. -/
theorem ofEvent {i : Instr} (h : encode i = []) : Statement i := by
  intro w hw
  rw [h] at hw
  exact absurd hw (by simp)

theorem nop : Statement (.nop) := ofHead rfl (field_op_A _ _ (op_lt _))
theorem add (f : _) : Statement (.add f) := ofHead rfl (field_op_A _ f (op_lt _))
theorem sub (f : _) : Statement (.sub f) := ofHead rfl (field_op_A _ f (op_lt _))
theorem addi (f : _) : Statement (.addi f) := ofHead rfl (field_op_B _ f (op_lt _))
theorem mul (f : _) : Statement (.mul f) := ofHead rfl (field_op_A _ f (op_lt _))
theorem mulhs (f : _) : Statement (.mulhs f) := ofHead rfl (field_op_A _ f (op_lt _))
theorem mulhn (f : _) : Statement (.mulhn f) := ofHead rfl (field_op_A _ f (op_lt _))
theorem mad (f : _) : Statement (.mad f) := ofHead rfl (field_op_X _ f (op_lt _))
theorem andI (f : _) : Statement (.andI f) := ofHead rfl (field_op_A _ f (op_lt _))
theorem orI (f : _) : Statement (.orI f) := ofHead rfl (field_op_A _ f (op_lt _))
theorem xorI (f : _) : Statement (.xorI f) := ofHead rfl (field_op_A _ f (op_lt _))
theorem andn (f : _) : Statement (.andn f) := ofHead rfl (field_op_A _ f (op_lt _))
theorem shl (f : _) : Statement (.shl f) := ofHead rfl (field_op_A _ f (op_lt _))
theorem shr (f : _) : Statement (.shr f) := ofHead rfl (field_op_A _ f (op_lt _))
theorem sar (f : _) : Statement (.sar f) := ofHead rfl (field_op_A _ f (op_lt _))
theorem rot (f : _) : Statement (.rot f) := ofHead rfl (field_op_A _ f (op_lt _))
theorem mins (f : _) : Statement (.mins f) := ofHead rfl (field_op_A _ f (op_lt _))
theorem minn (f : _) : Statement (.minn f) := ofHead rfl (field_op_A _ f (op_lt _))
theorem maxs (f : _) : Statement (.maxs f) := ofHead rfl (field_op_A _ f (op_lt _))
theorem maxn (f : _) : Statement (.maxn f) := ofHead rfl (field_op_A _ f (op_lt _))
theorem bitClz (f : _) : Statement (.bitClz f) := ofHead rfl (field_op_A _ f (op_lt _))
theorem bitCtz (f : _) : Statement (.bitCtz f) := ofHead rfl (field_op_A _ f (op_lt _))
theorem bitPopc (f : _) : Statement (.bitPopc f) := ofHead rfl (field_op_A _ f (op_lt _))
theorem bitBrev (f : _) : Statement (.bitBrev f) := ofHead rfl (field_op_A _ f (op_lt _))
theorem bitAbs (f : _) : Statement (.bitAbs f) := ofHead rfl (field_op_A _ f (op_lt _))
theorem bitNeg (f : _) : Statement (.bitNeg f) := ofHead rfl (field_op_A _ f (op_lt _))
theorem bitNot (f : _) : Statement (.bitNot f) := ofHead rfl (field_op_A _ f (op_lt _))
theorem bitSext8 (f : _) : Statement (.bitSext8 f) := ofHead rfl (field_op_A _ f (op_lt _))
theorem bitSext16 (f : _) : Statement (.bitSext16 f) := ofHead rfl (field_op_A _ f (op_lt _))
theorem bitSext32 (f : _) : Statement (.bitSext32 f) := ofHead rfl (field_op_A _ f (op_lt _))
theorem bfe (f : _) : Statement (.bfe f) := ofHead rfl (field_op_X _ f (op_lt _))
theorem bfi (f : _) : Statement (.bfi f) := ofHead rfl (field_op_X _ f (op_lt _))
theorem lea (f : _) : Statement (.lea f) := ofHead rfl (field_op_X _ f (op_lt _))
theorem sel (f : _) : Statement (.sel f) := ofHead rfl (field_op_X _ f (op_lt _))
theorem divQuos (f : _) : Statement (.divQuos f) := ofHead rfl (field_op_X _ f (op_lt _))
theorem divQuon (f : _) : Statement (.divQuon f) := ofHead rfl (field_op_X _ f (op_lt _))
theorem divRems (f : _) : Statement (.divRems f) := ofHead rfl (field_op_X _ f (op_lt _))
theorem divRemn (f : _) : Statement (.divRemn f) := ofHead rfl (field_op_X _ f (op_lt _))
theorem movi (f : _) : Statement (.movi f) := ofHead rfl (field_op_L _ f (op_lt _))
theorem moviShifted (f : _) : Statement (.moviShifted f) := ofHead rfl (field_op_L _ f (op_lt _))
theorem mov (f : _) : Statement (.mov f) := ofHead rfl (field_op_A _ f (op_lt _))
theorem cmpEq (f : _) : Statement (.cmpEq f) := ofHead rfl (field_op_C _ f (op_lt _))
theorem cmpNe (f : _) : Statement (.cmpNe f) := ofHead rfl (field_op_C _ f (op_lt _))
theorem cmpLts (f : _) : Statement (.cmpLts f) := ofHead rfl (field_op_C _ f (op_lt _))
theorem cmpLes (f : _) : Statement (.cmpLes f) := ofHead rfl (field_op_C _ f (op_lt _))
theorem cmpGts (f : _) : Statement (.cmpGts f) := ofHead rfl (field_op_C _ f (op_lt _))
theorem cmpGes (f : _) : Statement (.cmpGes f) := ofHead rfl (field_op_C _ f (op_lt _))
theorem cmpLtn (f : _) : Statement (.cmpLtn f) := ofHead rfl (field_op_C _ f (op_lt _))
theorem cmpLen (f : _) : Statement (.cmpLen f) := ofHead rfl (field_op_C _ f (op_lt _))
theorem cmpGtn (f : _) : Statement (.cmpGtn f) := ofHead rfl (field_op_C _ f (op_lt _))
theorem cmpGen (f : _) : Statement (.cmpGen f) := ofHead rfl (field_op_C _ f (op_lt _))
theorem cmpTst (f : _) : Statement (.cmpTst f) := ofHead rfl (field_op_C _ f (op_lt _))
theorem cmpTsz (f : _) : Statement (.cmpTsz f) := ofHead rfl (field_op_C _ f (op_lt _))
theorem plAnd (f : _) : Statement (.plAnd f) := ofHead rfl (field_op_C _ f (op_lt _))
theorem plOr (f : _) : Statement (.plOr f) := ofHead rfl (field_op_C _ f (op_lt _))
theorem plXor (f : _) : Statement (.plXor f) := ofHead rfl (field_op_C _ f (op_lt _))
theorem plAndn (f : _) : Statement (.plAndn f) := ofHead rfl (field_op_C _ f (op_lt _))
theorem plOrn (f : _) : Statement (.plOrn f) := ofHead rfl (field_op_C _ f (op_lt _))
theorem plFrommask (f : _) : Statement (.plFrommask f) := ofHead rfl (field_op_C _ f (op_lt _))
theorem plTomask (f : _) : Statement (.plTomask f) := ofHead rfl (field_op_C _ f (op_lt _))
theorem icvt (f : _) : Statement (.icvt f) := ofHead rfl (field_op_X _ f (op_lt _))
theorem fadd (f : _) : Statement (.fadd f) := ofHead rfl (field_op_X _ f (op_lt _))
theorem fsub (f : _) : Statement (.fsub f) := ofHead rfl (field_op_X _ f (op_lt _))
theorem fmul (f : _) : Statement (.fmul f) := ofHead rfl (field_op_X _ f (op_lt _))
theorem fma (f : _) : Statement (.fma f) := ofHead rfl (field_op_X _ f (op_lt _))
theorem fmin (f : _) : Statement (.fmin f) := ofHead rfl (field_op_X _ f (op_lt _))
theorem fmax (f : _) : Statement (.fmax f) := ofHead rfl (field_op_X _ f (op_lt _))
theorem fsgnCopy (f : _) : Statement (.fsgnCopy f) := ofHead rfl (field_op_X _ f (op_lt _))
theorem fsgnCopyneg (f : _) : Statement (.fsgnCopyneg f) := ofHead rfl (field_op_X _ f (op_lt _))
theorem fsgnXor (f : _) : Statement (.fsgnXor f) := ofHead rfl (field_op_X _ f (op_lt _))
theorem fcmpEq (f : _) : Statement (.fcmpEq f) := ofHead rfl (field_op_C _ f (op_lt _))
theorem fcmpNe (f : _) : Statement (.fcmpNe f) := ofHead rfl (field_op_C _ f (op_lt _))
theorem fcmpLt (f : _) : Statement (.fcmpLt f) := ofHead rfl (field_op_C _ f (op_lt _))
theorem fcmpLe (f : _) : Statement (.fcmpLe f) := ofHead rfl (field_op_C _ f (op_lt _))
theorem fcmpGt (f : _) : Statement (.fcmpGt f) := ofHead rfl (field_op_C _ f (op_lt _))
theorem fcmpGe (f : _) : Statement (.fcmpGe f) := ofHead rfl (field_op_C _ f (op_lt _))
theorem fcmpUno (f : _) : Statement (.fcmpUno f) := ofHead rfl (field_op_C _ f (op_lt _))
theorem fcmpOrd (f : _) : Statement (.fcmpOrd f) := ofHead rfl (field_op_C _ f (op_lt _))
theorem fdiv (f : _) : Statement (.fdiv f) := ofHead rfl (field_op_X _ f (op_lt _))
theorem fsqrt (f : _) : Statement (.fsqrt f) := ofHead rfl (field_op_X _ f (op_lt _))
theorem frcp (f : _) : Statement (.frcp f) := ofHead rfl (field_op_X _ f (op_lt _))
theorem frsq (f : _) : Statement (.frsq f) := ofHead rfl (field_op_X _ f (op_lt _))
theorem fexp2 (f : _) : Statement (.fexp2 f) := ofHead rfl (field_op_X _ f (op_lt _))
theorem flog2 (f : _) : Statement (.flog2 f) := ofHead rfl (field_op_X _ f (op_lt _))
theorem fsin (f : _) : Statement (.fsin f) := ofHead rfl (field_op_X _ f (op_lt _))
theorem fcos (f : _) : Statement (.fcos f) := ofHead rfl (field_op_X _ f (op_lt _))
theorem ftanh (f : _) : Statement (.ftanh f) := ofHead rfl (field_op_X _ f (op_lt _))
theorem fcvt (f : _) : Statement (.fcvt f) := ofHead rfl (field_op_X _ f (op_lt _))
theorem ficvt (f : _) : Statement (.ficvt f) := ofHead rfl (field_op_X _ f (op_lt _))
theorem ifcvt (f : _) : Statement (.ifcvt f) := ofHead rfl (field_op_X _ f (op_lt _))
theorem frnd (f : _) : Statement (.frnd f) := ofHead rfl (field_op_X _ f (op_lt _))
theorem fclass (f : _) : Statement (.fclass f) := ofHead rfl (field_op_X _ f (op_lt _))
theorem fscale (f : _) : Statement (.fscale f) := ofHead rfl (field_op_X _ f (op_lt _))
theorem fdot2 (f : _) : Statement (.fdot2 f) := ofHead rfl (field_op_X _ f (op_lt _))
theorem perm (f : _) : Statement (.perm f) := ofHead rfl (field_op_X _ f (op_lt _))
theorem shflIdx (f : _) : Statement (.shflIdx f) := ofHead rfl (field_op_X _ f (op_lt _))
theorem shflUp (f : _) : Statement (.shflUp f) := ofHead rfl (field_op_X _ f (op_lt _))
theorem shflDown (f : _) : Statement (.shflDown f) := ofHead rfl (field_op_X _ f (op_lt _))
theorem shflXor (f : _) : Statement (.shflXor f) := ofHead rfl (field_op_X _ f (op_lt _))
theorem ballot (f : _) : Statement (.ballot f) := ofHead rfl (field_op_X _ f (op_lt _))
theorem ballotPlane (f : _) : Statement (.ballotPlane f) := ofHead rfl (field_op_X _ f (op_lt _))
theorem voteAll (f : _) : Statement (.voteAll f) := ofHead rfl (field_op_X _ f (op_lt _))
theorem voteAny (f : _) : Statement (.voteAny f) := ofHead rfl (field_op_X _ f (op_lt _))
theorem voteUni (f : _) : Statement (.voteUni f) := ofHead rfl (field_op_X _ f (op_lt _))
theorem lredAdd (f : _) : Statement (.lredAdd f) := ofHead rfl (field_op_X _ f (op_lt _))
theorem lredMins (f : _) : Statement (.lredMins f) := ofHead rfl (field_op_X _ f (op_lt _))
theorem lredMinn (f : _) : Statement (.lredMinn f) := ofHead rfl (field_op_X _ f (op_lt _))
theorem lredMaxs (f : _) : Statement (.lredMaxs f) := ofHead rfl (field_op_X _ f (op_lt _))
theorem lredMaxn (f : _) : Statement (.lredMaxn f) := ofHead rfl (field_op_X _ f (op_lt _))
theorem lredAnd (f : _) : Statement (.lredAnd f) := ofHead rfl (field_op_X _ f (op_lt _))
theorem lredOr (f : _) : Statement (.lredOr f) := ofHead rfl (field_op_X _ f (op_lt _))
theorem lredXor (f : _) : Statement (.lredXor f) := ofHead rfl (field_op_X _ f (op_lt _))
theorem lredFadd (f : _) : Statement (.lredFadd f) := ofHead rfl (field_op_X _ f (op_lt _))
theorem lredFmin (f : _) : Statement (.lredFmin f) := ofHead rfl (field_op_X _ f (op_lt _))
theorem lredFmax (f : _) : Statement (.lredFmax f) := ofHead rfl (field_op_X _ f (op_lt _))
theorem lscanAdd (f : _) : Statement (.lscanAdd f) := ofHead rfl (field_op_X _ f (op_lt _))
theorem lscanMins (f : _) : Statement (.lscanMins f) := ofHead rfl (field_op_X _ f (op_lt _))
theorem lscanMinn (f : _) : Statement (.lscanMinn f) := ofHead rfl (field_op_X _ f (op_lt _))
theorem lscanMaxs (f : _) : Statement (.lscanMaxs f) := ofHead rfl (field_op_X _ f (op_lt _))
theorem lscanMaxn (f : _) : Statement (.lscanMaxn f) := ofHead rfl (field_op_X _ f (op_lt _))
theorem lscanAnd (f : _) : Statement (.lscanAnd f) := ofHead rfl (field_op_X _ f (op_lt _))
theorem lscanOr (f : _) : Statement (.lscanOr f) := ofHead rfl (field_op_X _ f (op_lt _))
theorem lscanXor (f : _) : Statement (.lscanXor f) := ofHead rfl (field_op_X _ f (op_lt _))
theorem lscanFadd (f : _) : Statement (.lscanFadd f) := ofHead rfl (field_op_X _ f (op_lt _))
theorem lscanFmin (f : _) : Statement (.lscanFmin f) := ofHead rfl (field_op_X _ f (op_lt _))
theorem lscanFmax (f : _) : Statement (.lscanFmax f) := ofHead rfl (field_op_X _ f (op_lt _))
theorem rsel (f : _) : Statement (.rsel f) := ofHead rfl (field_op_X _ f (op_lt _))
theorem rselFin (f : _) : Statement (.rselFin f) := ofHead rfl (field_op_X _ f (op_lt _))
theorem regroup (f : _) : Statement (.regroup f) := ofHead rfl (field_op_X _ f (op_lt _))
theorem regroupRestore (f : _) : Statement (.regroupRestore f) := ofHead rfl (field_op_X _ f (op_lt _))
theorem regroupCapupd (f : _) : Statement (.regroupCapupd f) := ofHead rfl (field_op_X _ f (op_lt _))
theorem ld (f : _) : Statement (.ld f) := ofHead rfl (field_op_M _ f (op_lt _))
theorem ld2 (f : _) : Statement (.ld2 f) := ofHead rfl (field_op_M _ f (op_lt _))
theorem st (f : _) : Statement (.st f) := ofHead rfl (field_op_M _ f (op_lt _))
theorem st2 (f : _) : Statement (.st2 f) := ofHead rfl (field_op_M _ f (op_lt _))
theorem pf (f : _) : Statement (.pf f) := ofHead rfl (field_op_M _ f (op_lt _))
theorem clClean (f : _) : Statement (.clClean f) := ofHead rfl (field_op_M _ f (op_lt _))
theorem clInvalidate (f : _) : Statement (.clInvalidate f) := ofHead rfl (field_op_M _ f (op_lt _))
theorem clCollapse (f : _) : Statement (.clCollapse f) := ofHead rfl (field_op_M _ f (op_lt _))
theorem clWriteback (f : _) : Statement (.clWriteback f) := ofHead rfl (field_op_M _ f (op_lt _))
theorem ldk (f : _) : Statement (.ldk f) := ofHead rfl (field_op_M _ f (op_lt _))
theorem stk (f : _) : Statement (.stk f) := ofHead rfl (field_op_M _ f (op_lt _))
theorem amoAdd (f : _) : Statement (.amoAdd f) := ofHead rfl (field_op_M _ f (op_lt _))
theorem amoMins (f : _) : Statement (.amoMins f) := ofHead rfl (field_op_M _ f (op_lt _))
theorem amoMinn (f : _) : Statement (.amoMinn f) := ofHead rfl (field_op_M _ f (op_lt _))
theorem amoMaxs (f : _) : Statement (.amoMaxs f) := ofHead rfl (field_op_M _ f (op_lt _))
theorem amoMaxn (f : _) : Statement (.amoMaxn f) := ofHead rfl (field_op_M _ f (op_lt _))
theorem amoAnd (f : _) : Statement (.amoAnd f) := ofHead rfl (field_op_M _ f (op_lt _))
theorem amoOr (f : _) : Statement (.amoOr f) := ofHead rfl (field_op_M _ f (op_lt _))
theorem amoXor (f : _) : Statement (.amoXor f) := ofHead rfl (field_op_M _ f (op_lt _))
theorem amoExch (f : _) : Statement (.amoExch f) := ofHead rfl (field_op_M _ f (op_lt _))
theorem amofAdd (f : _) : Statement (.amofAdd f) := ofHead rfl (field_op_M _ f (op_lt _))
theorem amofMin (f : _) : Statement (.amofMin f) := ofHead rfl (field_op_M _ f (op_lt _))
theorem amofMax (f : _) : Statement (.amofMax f) := ofHead rfl (field_op_M _ f (op_lt _))
theorem amofExch (f : _) : Statement (.amofExch f) := ofHead rfl (field_op_M _ f (op_lt _))
theorem cas (f : _) : Statement (.cas f) := ofHead rfl (field_op_M _ f (op_lt _))
theorem redAdd (f : _) : Statement (.redAdd f) := ofHead rfl (field_op_M _ f (op_lt _))
theorem redMins (f : _) : Statement (.redMins f) := ofHead rfl (field_op_M _ f (op_lt _))
theorem redMinn (f : _) : Statement (.redMinn f) := ofHead rfl (field_op_M _ f (op_lt _))
theorem redMaxs (f : _) : Statement (.redMaxs f) := ofHead rfl (field_op_M _ f (op_lt _))
theorem redMaxn (f : _) : Statement (.redMaxn f) := ofHead rfl (field_op_M _ f (op_lt _))
theorem redAnd (f : _) : Statement (.redAnd f) := ofHead rfl (field_op_M _ f (op_lt _))
theorem redOr (f : _) : Statement (.redOr f) := ofHead rfl (field_op_M _ f (op_lt _))
theorem redXor (f : _) : Statement (.redXor f) := ofHead rfl (field_op_M _ f (op_lt _))
theorem redfAdd (f : _) : Statement (.redfAdd f) := ofHead rfl (field_op_M _ f (op_lt _))
theorem redfMin (f : _) : Statement (.redfMin f) := ofHead rfl (field_op_M _ f (op_lt _))
theorem redfMax (f : _) : Statement (.redfMax f) := ofHead rfl (field_op_M _ f (op_lt _))
theorem redfAcc (f : _) : Statement (.redfAcc f) := ofHead rfl (field_op_M _ f (op_lt _))
theorem spill (f : _) : Statement (.spill f) := ofHead rfl (field_op_M _ f (op_lt _))
theorem fill (f : _) : Statement (.fill f) := ofHead rfl (field_op_M _ f (op_lt _))
theorem bind (f : _) : Statement (.bind f) := ofHead rfl (field_op_M _ f (op_lt _))
theorem unbind (f : _) : Statement (.unbind f) := ofHead rfl (field_op_M _ f (op_lt _))
theorem fenceMem (f : _) : Statement (.fenceMem f) := ofHead rfl (field_op_M _ f (op_lt _))
theorem fenceEng (f : _) : Statement (.fenceEng f) := ofHead rfl (field_op_M _ f (op_lt _))
theorem sarm (f : _) : Statement (.sarm f) := ofHead rfl (field_op_M _ f (op_lt _))
theorem swait (f : _) : Statement (.swait f) := ofHead rfl (field_op_M _ f (op_lt _))
theorem sadd (f : _) : Statement (.sadd f) := ofHead rfl (field_op_M _ f (op_lt _))
theorem gsp (f : _) : Statement (.gsp f) := ofHead rfl (field_op_M _ f (op_lt _))
theorem stqPush (f : _) : Statement (.stqPush f) := ofHead rfl (field_op_M _ f (op_lt _))
theorem stqPop (f : _) : Statement (.stqPop f) := ofHead rfl (field_op_M _ f (op_lt _))
theorem stqPeek (f : _) : Statement (.stqPeek f) := ofHead rfl (field_op_M _ f (op_lt _))
theorem cpy (f : _) : Statement (.cpy f) := ofHead rfl (field_op_M _ f (op_lt _))
theorem cpqSend (f : _) : Statement (.cpqSend f) := ofHead rfl (field_op_M _ f (op_lt _))
theorem cpqStatus (f : _) : Statement (.cpqStatus f) := ofHead rfl (field_op_M _ f (op_lt _))
theorem trec (f : _) : Statement (.trec f) := ofHead rfl (field_op_X _ f (op_lt _))
theorem br (f : _) : Statement (.br f) := ofHead rfl (field_op_S _ f (op_lt _))
theorem brx (f : _) : Statement (.brx f) := ofHead rfl (field_op_A _ f (op_lt _))
theorem call (f : _) : Statement (.call f) := ofHead rfl (field_op_S _ f (op_lt _))
theorem ret (f : _) : Statement (.ret f) := ofHead rfl (field_op_A _ f (op_lt _))
theorem meet (f : _) : Statement (.meet f) := ofHead rfl (field_op_X _ f (op_lt _))
theorem meetPacked (f : _) : Statement (.meetPacked f) := ofHead rfl (field_op_X _ f (op_lt _))
theorem meetq (f : _) : Statement (.meetq f) := ofHead rfl (field_op_C _ f (op_lt _))
theorem bar (f : _) : Statement (.bar f) := ofHead rfl (field_op_X _ f (op_lt _))
theorem nap (f : _) : Statement (.nap f) := ofHead rfl (field_op_B _ f (op_lt _))
theorem exitPlain (f : _) : Statement (.exitPlain f) := ofHead rfl (field_op_B _ f (op_lt _))
theorem exitInherit (f : _) : Statement (.exitInherit f) := ofHead rfl (field_op_B _ f (op_lt _))
theorem yieldPlain (f : _) : Statement (.yieldPlain f) := ofHead rfl (field_op_A _ f (op_lt _))
theorem yieldQueue (f : _) : Statement (.yieldQueue f) := ofHead rfl (field_op_A _ f (op_lt _))
theorem grow (f : _) : Statement (.grow f) := ofHead rfl (field_op_A _ f (op_lt _))
theorem trap (f : _) : Statement (.trap f) := ofHead rfl (field_op_B _ f (op_lt _))
theorem brk (f : _) : Statement (.brk f) := ofHead rfl (field_op_B _ f (op_lt _))
theorem slotClaim (f : _) : Statement (.slotClaim f) := ofHead rfl (field_op_X _ f (op_lt _))
theorem slotClaimRetag (f : _) : Statement (.slotClaimRetag f) := ofHead rfl (field_op_X _ f (op_lt _))
theorem slotRelease (f : _) : Statement (.slotRelease f) := ofHead rfl (field_op_X _ f (op_lt _))
theorem slotQuery (f : _) : Statement (.slotQuery f) := ofHead rfl (field_op_X _ f (op_lt _))
theorem tmm (f : _) : Statement (.tmm f) := ofHead rfl (field_op_X _ f (op_lt _))
theorem tmmBfp (f : _) : Statement (.tmmBfp f) := ofHead rfl (field_op_X _ f (op_lt _))
theorem tsa (f : _) : Statement (.tsa f) := ofHead rfl (field_op_X _ f (op_lt _))
theorem accZero (f : _) : Statement (.accZero f) := ofHead rfl (field_op_X _ f (op_lt _))
theorem accRd (f : _) : Statement (.accRd f) := ofHead rfl (field_op_X _ f (op_lt _))
theorem accWr (f : _) : Statement (.accWr f) := ofHead rfl (field_op_X _ f (op_lt _))
theorem accLd (f : _) : Statement (.accLd f) := ofHead rfl (field_op_X _ f (op_lt _))
theorem accSt (f : _) : Statement (.accSt f) := ofHead rfl (field_op_X _ f (op_lt _))
theorem accCvst (f : _) : Statement (.accCvst f) := ofHead rfl (field_op_X _ f (op_lt _))
theorem opmLd (f : _) : Statement (.opmLd f) := ofHead rfl (field_op_X _ f (op_lt _))
theorem opmSt (f : _) : Statement (.opmSt f) := ofHead rfl (field_op_X _ f (op_lt _))
theorem csrr (f : _) : Statement (.csrr f) := ofHead rfl (field_op_B _ f (op_lt _))
theorem csrw (f : _) : Statement (.csrw f) := ofHead rfl (field_op_B _ f (op_lt _))
theorem psreq (f : _) : Statement (.psreq f) := ofHead rfl (field_op_B _ f (op_lt _))
theorem gangkillReg (f : _) : Statement (.gangkillReg f) := ofHead rfl (field_op_B _ f (op_lt _))
theorem tlbiPage (f : _) : Statement (.tlbiPage f) := ofHead rfl (field_op_M _ f (op_lt _))
theorem tlbiKey (f : _) : Statement (.tlbiKey f) := ofHead rfl (field_op_M _ f (op_lt _))
theorem tlbiAll (f : _) : Statement (.tlbiAll f) := ofHead rfl (field_op_M _ f (op_lt _))
theorem tret (f : _) : Statement (.tret f) := ofHead rfl (field_op_A _ f (op_lt _))
theorem ctxSave (f : _) : Statement (.ctxSave f) := ofHead rfl (field_op_X _ f (op_lt _))
theorem ctxRestore (f : _) : Statement (.ctxRestore f) := ofHead rfl (field_op_X _ f (op_lt _))
theorem trcMark (f : _) : Statement (.trcMark f) := ofHead rfl (field_op_X _ f (op_lt _))
theorem trcArm (f : _) : Statement (.trcArm f) := ofHead rfl (field_op_X _ f (op_lt _))
theorem trcDisarm (f : _) : Statement (.trcDisarm f) := ofHead rfl (field_op_X _ f (op_lt _))
theorem quadrilleMove : ∀ v0 v1, Statement (.quadrilleMove v0 v1) := fun _ _ => ofEvent rfl
theorem clauseStart : ∀ v0 v1, Statement (.clauseStart v0 v1) := fun _ _ => ofEvent rfl
theorem clauseRetire : ∀ v0 v1, Statement (.clauseRetire v0 v1) := fun _ _ => ofEvent rfl
theorem groupRetire : ∀ v0 v1, Statement (.groupRetire v0 v1) := fun _ _ => ofEvent rfl
theorem napExpiry : ∀ v0 v1 v2, Statement (.napExpiry v0 v1 v2) := fun _ _ _ => ofEvent rfl
theorem yieldEnd : ∀ v0 v1 v2, Statement (.yieldEnd v0 v1 v2) := fun _ _ _ => ofEvent rfl
theorem launchDoorbell : ∀ v0, Statement (.launchDoorbell v0) := fun _ => ofEvent rfl
theorem launchQueueServe : Statement (.launchQueueServe) := ofEvent rfl
theorem gangAdmit : ∀ v0, Statement (.gangAdmit v0) := fun _ => ofEvent rfl
theorem workSteal : ∀ v0, Statement (.workSteal v0) := fun _ => ofEvent rfl
theorem preempt : ∀ v0, Statement (.preempt v0) := fun _ => ofEvent rfl
theorem regionFlush : ∀ v0 v1, Statement (.regionFlush v0 v1) := fun _ _ => ofEvent rfl
theorem fullSave : ∀ v0 v1, Statement (.fullSave v0 v1) := fun _ _ => ofEvent rfl
theorem gangRestore : ∀ v0, Statement (.gangRestore v0) := fun _ => ofEvent rfl
theorem minuetTurn : ∀ v0, Statement (.minuetTurn v0) := fun _ => ofEvent rfl
theorem stagePeriod : ∀ v0, Statement (.stagePeriod v0) := fun _ => ofEvent rfl
theorem spillAck : ∀ v0 v1, Statement (.spillAck v0 v1) := fun _ _ => ofEvent rfl
theorem refill : ∀ v0 v1 v2, Statement (.refill v0 v1 v2) := fun _ _ _ => ofEvent rfl
theorem symbolArrival : ∀ v0 v1 v2, Statement (.symbolArrival v0 v1 v2) := fun _ _ _ => ofEvent rfl
theorem syncArrival : ∀ v0, Statement (.syncArrival v0) := fun _ => ofEvent rfl
theorem watchPoll : ∀ v0 v1 v2, Statement (.watchPoll v0 v1 v2) := fun _ _ _ => ofEvent rfl
theorem tileEntryStart : ∀ v0, Statement (.tileEntryStart v0) := fun _ => ofEvent rfl
theorem tileEntryRetire : ∀ v0 v1 v2, Statement (.tileEntryRetire v0 v1 v2) := fun _ _ _ => ofEvent rfl
theorem slotWrite : ∀ v0 v1 v2, Statement (.slotWrite v0 v1 v2) := fun _ _ _ => ofEvent rfl
theorem followOnEnqueue : ∀ v0 v1, Statement (.followOnEnqueue v0 v1) := fun _ _ => ofEvent rfl
theorem cardAcceptance : ∀ v0, Statement (.cardAcceptance v0) := fun _ => ofEvent rfl
theorem jobRelease : ∀ v0, Statement (.jobRelease v0) := fun _ => ofEvent rfl
theorem waitWordPoll : ∀ v0 v1, Statement (.waitWordPoll v0 v1) := fun _ _ => ofEvent rfl
theorem waitWordRetired : ∀ v0 v1, Statement (.waitWordRetired v0 v1) := fun _ _ => ofEvent rfl
theorem jobStart : ∀ v0, Statement (.jobStart v0) := fun _ => ofEvent rfl
theorem jobPageStall : ∀ v0 v1 v2, Statement (.jobPageStall v0 v1 v2) := fun _ _ _ => ofEvent rfl
theorem jobResume : ∀ v0 v1, Statement (.jobResume v0 v1) := fun _ _ => ofEvent rfl
theorem followOnIssue : ∀ v0 v1, Statement (.followOnIssue v0 v1) := fun _ _ => ofEvent rfl
theorem jobRetire : ∀ v0 v1, Statement (.jobRetire v0 v1) := fun _ _ => ofEvent rfl
theorem jobErrorEnd : ∀ v0 v1 v2, Statement (.jobErrorEnd v0 v1 v2) := fun _ _ _ => ofEvent rfl
theorem zethesAdder : ∀ v0 v1 v2 v3, Statement (.zethesAdder v0 v1 v2 v3) := fun _ _ _ _ => ofEvent rfl
theorem collectiveLost : ∀ v0 v1, Statement (.collectiveLost v0 v1) := fun _ _ => ofEvent rfl
theorem uGrant : ∀ v0 v1, Statement (.uGrant v0 v1) := fun _ _ => ofEvent rfl
theorem collapse : ∀ v0, Statement (.collapse v0) := fun _ => ofEvent rfl
theorem uEviction : ∀ v0 v1, Statement (.uEviction v0 v1) := fun _ _ => ofEvent rfl
theorem evictionMerge : ∀ v0 v1, Statement (.evictionMerge v0 v1) := fun _ _ => ofEvent rfl
theorem sliceUEviction : ∀ v0 v1, Statement (.sliceUEviction v0 v1) := fun _ _ => ofEvent rfl
theorem invalidationReceive : ∀ v0 v1, Statement (.invalidationReceive v0 v1) := fun _ _ => ofEvent rfl
theorem invalidationAgeExpiry : ∀ v0 v1, Statement (.invalidationAgeExpiry v0 v1) := fun _ _ => ofEvent rfl
theorem homeUnitAccess : ∀ v0, Statement (.homeUnitAccess v0) := fun _ => ofEvent rfl
theorem storeBufferSend : ∀ v0 v1, Statement (.storeBufferSend v0 v1) := fun _ _ => ofEvent rfl
theorem storeAck : ∀ v0 v1 v2, Statement (.storeAck v0 v1 v2) := fun _ _ _ => ofEvent rfl
theorem pageWalk : ∀ v0 v1 v2, Statement (.pageWalk v0 v1 v2) := fun _ _ _ => ofEvent rfl
theorem parkRetryTimeout : ∀ v0 v1 v2, Statement (.parkRetryTimeout v0 v1 v2) := fun _ _ _ => ofEvent rfl
theorem migrationMove : ∀ v0 v1 v2, Statement (.migrationMove v0 v1 v2) := fun _ _ _ => ofEvent rfl
theorem trapDelivery : ∀ v0, Statement (.trapDelivery v0) := fun _ => ofEvent rfl
theorem flitRoute : ∀ v0 v1 v2, Statement (.flitRoute v0 v1 v2) := fun _ _ _ => ofEvent rfl
theorem flitInject : ∀ v0 v1 v2, Statement (.flitInject v0 v1 v2) := fun _ _ _ => ofEvent rfl
theorem fabricTick : Statement (.fabricTick) := ofEvent rfl
theorem throttleWindow : ∀ v0 v1, Statement (.throttleWindow v0 v1) := fun _ _ => ofEvent rfl
theorem mergeSlotRequest : ∀ v0 v1, Statement (.mergeSlotRequest v0 v1) := fun _ _ => ofEvent rfl
theorem zethesPacketReceive : ∀ v0, Statement (.zethesPacketReceive v0) := fun _ => ofEvent rfl
theorem zethesReplay : ∀ v0 v1, Statement (.zethesReplay v0 v1) := fun _ _ => ofEvent rfl
theorem portDead : ∀ v0, Statement (.portDead v0) := fun _ => ofEvent rfl
theorem partialFold : ∀ v0 v1 v2 v3 v4 v5, Statement (.partialFold v0 v1 v2 v3 v4 v5) := fun _ _ _ _ _ _ => ofEvent rfl
theorem revokedArrival : ∀ v0 v1, Statement (.revokedArrival v0 v1) := fun _ _ => ofEvent rfl
theorem workRequestPop : ∀ v0 v1, Statement (.workRequestPop v0 v1) := fun _ _ => ofEvent rfl
theorem workCompletion : ∀ v0 v1 v2, Statement (.workCompletion v0 v1 v2) := fun _ _ _ => ofEvent rfl
theorem rdmaIncomingWrite : ∀ v0 v1 v2 v3 v4, Statement (.rdmaIncomingWrite v0 v1 v2 v3 v4) := fun _ _ _ _ _ => ofEvent rfl
theorem hostAccess : ∀ v0 v1 v2, Statement (.hostAccess v0 v1 v2) := fun _ _ _ => ofEvent rfl
theorem haltRequest : ∀ v0 v1, Statement (.haltRequest v0 v1) := fun _ _ => ofEvent rfl
theorem haltTimeout : ∀ v0 v1, Statement (.haltTimeout v0 v1) := fun _ _ => ofEvent rfl
theorem triggerReceive : ∀ v0 v1 v2 v3, Statement (.triggerReceive v0 v1 v2 v3) := fun _ _ _ _ => ofEvent rfl
theorem snapshotLatch : ∀ v0, Statement (.snapshotLatch v0) := fun _ => ofEvent rfl
theorem traceSample : ∀ v0, Statement (.traceSample v0) := fun _ => ofEvent rfl
theorem hangWatchdogExpiry : ∀ v0 v1, Statement (.hangWatchdogExpiry v0 v1) := fun _ _ => ofEvent rfl
theorem timingRepeat : ∀ v0, Statement (.timingRepeat v0) := fun _ => ofEvent rfl
theorem eccError : ∀ v0, Statement (.eccError v0) := fun _ => ofEvent rfl
theorem poisonConsumed : ∀ v0 v1, Statement (.poisonConsumed v0 v1) := fun _ _ => ofEvent rfl
theorem gangKill : ∀ v0 v1 v2, Statement (.gangKill v0 v1 v2) := fun _ _ _ => ofEvent rfl
theorem patrolScrub : ∀ v0 v1, Statement (.patrolScrub v0 v1) := fun _ _ => ofEvent rfl
theorem dramCalibration : ∀ v0 v1, Statement (.dramCalibration v0 v1) := fun _ _ => ofEvent rfl
theorem migrationAccounting : ∀ v0, Statement (.migrationAccounting v0) := fun _ => ofEvent rfl
theorem counterHalving : ∀ v0, Statement (.counterHalving v0) := fun _ => ofEvent rfl
theorem telemetry : ∀ v0 v1, Statement (.telemetry v0 v1) := fun _ _ => ofEvent rfl
theorem powerOn : Statement (.powerOn) := ofEvent rfl
theorem firmwareImage : ∀ v0 v1 v2 v3, Statement (.firmwareImage v0 v1 v2 v3) := fun _ _ _ _ => ofEvent rfl
theorem attestationRequest : ∀ v0, Statement (.attestationRequest v0) := fun _ => ofEvent rfl
theorem deviceReset : Statement (.deviceReset) := ofEvent rfl
theorem powerOff : Statement (.powerOff) := ofEvent rfl
theorem powerWindow : ∀ v0 v1, Statement (.powerWindow v0 v1) := fun _ _ => ofEvent rfl
theorem thermalSample : ∀ v0, Statement (.thermalSample v0) := fun _ => ofEvent rfl
theorem keyRevoke : ∀ v0, Statement (.keyRevoke v0) := fun _ => ofEvent rfl
theorem keyRestore : ∀ v0, Statement (.keyRestore v0) := fun _ => ofEvent rfl
theorem tlbinvAll : Statement (.tlbinvAll) := ofEvent rfl
theorem tlbinvPage : ∀ v0, Statement (.tlbinvPage v0) := fun _ => ofEvent rfl
theorem zretrain : ∀ v0, Statement (.zretrain v0) := fun _ => ofEvent rfl
theorem traprst : ∀ v0, Statement (.traprst v0) := fun _ => ofEvent rfl
theorem debugEnable : ∀ v0, Statement (.debugEnable v0) := fun _ => ofEvent rfl
theorem debugDisable : ∀ v0, Statement (.debugDisable v0) := fun _ => ofEvent rfl
theorem debugHaltGroup : ∀ v0, Statement (.debugHaltGroup v0) := fun _ => ofEvent rfl
theorem debugResumeGroup : ∀ v0, Statement (.debugResumeGroup v0) := fun _ => ofEvent rfl
theorem brksetSet : ∀ v0, Statement (.brksetSet v0) := fun _ => ofEvent rfl
theorem brksetClear : ∀ v0, Statement (.brksetClear v0) := fun _ => ofEvent rfl
theorem dumpreq : ∀ v0, Statement (.dumpreq v0) := fun _ => ofEvent rfl
theorem qpCreate : ∀ v0, Statement (.qpCreate v0) := fun _ => ofEvent rfl
theorem qpConnect : ∀ v0, Statement (.qpConnect v0) := fun _ => ofEvent rfl
theorem regionRegister : ∀ v0, Statement (.regionRegister v0) := fun _ => ofEvent rfl
theorem regionDeregister : ∀ v0, Statement (.regionDeregister v0) := fun _ => ofEvent rfl
theorem qpDestroy : ∀ v0, Statement (.qpDestroy v0) := fun _ => ofEvent rfl
theorem triggerSend : ∀ v0, Statement (.triggerSend v0) := fun _ => ofEvent rfl
theorem managementRegisterWrite : ∀ v0 v1, Statement (.managementRegisterWrite v0 v1) := fun _ _ => ofEvent rfl
theorem powerLoss : Statement (.powerLoss) := ofEvent rfl
theorem snapshotRead : ∀ v0, Statement (.snapshotRead v0) := fun _ => ofEvent rfl
theorem zethesCreditReturn : ∀ v0 v1, Statement (.zethesCreditReturn v0 v1) := fun _ _ => ofEvent rfl
theorem rdmaIncomingRead : ∀ v0 v1 v2 v3 v4, Statement (.rdmaIncomingRead v0 v1 v2 v3 v4) := fun _ _ _ _ _ => ofEvent rfl
theorem priorityFlowControl : ∀ v0 v1 v2, Statement (.priorityFlowControl v0 v1 v2) := fun _ _ _ => ofEvent rfl
theorem congestionNotification : ∀ v0 v1, Statement (.congestionNotification v0 v1) := fun _ _ => ofEvent rfl

end Sys2Proof.Laws.OpcodeField
end

