-- ==== Sys2Proof/Tests/Slice0.lean ====
section
/-!
SUPPORT. Tests on fixed values: ill-formed terms that are refused, one word for each row of the opcode map, and, for each statement
with hypotheses, a state and operands that meet them together. Expected values come from the tables and formulas of spec/.
-/

open Sys2Proof Sys2Proof.Machine

section
set_option Elab.async false

/-! ## Well-formedness: one ill-formed term for each check -/

/-- `add x1, x2, x3`, `fadd`, `ld`, `cmp.eq` and `addi` on the same registers. -/
def testA : FA := ⟨.x 1, .x 2, .x 3, false, false, 0⟩
def testB : FB := ⟨.x 1, .x 2, false, 0⟩
def testX : FX := ⟨.x 1, .x 2, .x 3, false, false, 0, .x 0, false, 0, 0, false, 0, 0⟩
def testM : FM := ⟨.x 1, .x 2, false, 0, 0, 0, 3, 0, .x 0, false, false⟩
def testC : FC := ⟨1, 0, .x 2, .x 3, false, false, 0⟩

theorem test_wellformed_accepts :
    [Instr.add testA, .addi testB, .fadd testX, .ld testM, .cmpEq testC].all WellFormed = true := by decide

theorem test_wellformed_refuses_fields :
    [Instr.add { testA with d := .ic 1 }, .add { testA with a := .fc 1 }, .add { testA with a := .clk, pack := 1 },
      .add { testA with a := .k 1, la := true }, .add { testA with b := .zero, lb := true },
      .bitClz testA, .bitSext32 { testA with b := .x 9, pack := 1 }, .mov { testA with lb := true, b := .x 0 },
      .addi { testB with d := .lane }, .addi { testB with a := .fc 0 }, .addi { testB with a := .lane, la := true },
      .fadd { testX with d := .fc 0 }, .fadd { testX with rnd := 6 }, .fadd { testX with flg := 8, fn := 0, c := .x 1 },
      .fadd { testX with fn := 1 }, .fadd { testX with imm := 1 }, .fmin { testX with sat := true },
      .mad { testX with c := .fc 1 }, .mad { testX with flg := 1 }, .mad { testX with lc := true, c := .k 1 },
      .movi ⟨.ic 0, .zero, false, 0⟩, .moviShifted ⟨.x 1, .fc 2, false, 0⟩,
      .cmpEq { testC with cond := 1 }, .cmpEq { testC with b := .fc 1 }, .plAnd { testC with a := .x 8 },
      .plTomask { testC with a := .lane, b := .x 0 }].all (fun i => !WellFormed i) = true := by decide

theorem test_wellformed_refuses_memory_fields :
    [Instr.ld { testM with d := .k 1 }, .ldk testM, .ld { testM with e := .x 1 }, .ld { testM with ld := true },
      .ld { testM with ty := 31 }, .ld { testM with ord := 2 }, .ld { testM with scope := 1 }, .ld { testM with ord := 1, scope := 5 },
      .ld { testM with fn := 1 }, .st { testM with d := .fc 0 }, .st { testM with ty := 16, d := .fc 6 },
      .fenceMem { testM with d := .x 0, a := .x 0, ty := 0, ord := 3, off := 1 }, .fill { testM with d := .zero },
      .spill { testM with d := .k 0 }, .stk testM].all (fun i => !WellFormed i) = true := by decide

theorem test_wellformed_refuses_extra :
    [Instr.bfe { testX with pack := 2 }, .movi ⟨.x 1, .x 2, false, 0⟩, .moviShifted ⟨.x 1, .zero, false, 0⟩,
      .icvt { testX with b := .x 0, pack := 1, fn := 3 }, .fcvt { testX with b := .x 0, rnd := 6, c := .zero },
      .shflIdx { testX with imm := 6 }, .lredAdd { testX with b := .x 0, imm := 6 }, .rsel { testX with imm := 33 },
      .rselFin { testX with imm := 63 }, .meet { testX with b := .x 0 }, .meetPacked { testX with a := .x 0, imm := 1 },
      .yieldPlain { testA with d := .x 0, b := .x 0 }, .slotClaim { testX with b := .x 0, imm := 1 }, .slotClaimRetag testX,
      .trap { testB with d := .x 0, imm := 71 }, .brk { testB with d := .x 0, imm := 512 }, .csrr { testB with a := .x 0, imm := 512 },
      .csrw { testB with d := .x 0, imm := 0x47 }, .exitPlain { testB with d := .x 0, a := .x 0, imm := 1 },
      .exitInherit { testB with d := .x 0, a := .x 0 }, .psreq { testB with d := .x 0 }, .gangkillReg { testB with d := .x 0 },
      .trec { testX with d := .x 0, c := .x 4, imm := 14 }, .clauseStart 0 0].all (fun i => !WellFormed i) = true := by decide

/-! ## Decoding: one word for each row of the opcode map, from R39, R44, R50 and R51 -/

theorem test_decode_integer_arithmetic :
    ([(0x00000000, 0x00000000, .nop),
      (0x0204103B, 0x00000000, .add ⟨.x 1, .x 2, .x 3, true, false, 3⟩),
      (0x0404103B, 0x00000000, .sub ⟨.x 1, .x 2, .x 3, true, false, 3⟩),
      (0x060417FF, 0x00000000, .addi ⟨.x 1, .x 2, true, 1023⟩),
      (0x0804103B, 0x00000000, .mul ⟨.x 1, .x 2, .x 3, true, false, 3⟩),
      (0x0A04103B, 0x00000000, .mulhs ⟨.x 1, .x 2, .x 3, true, false, 3⟩),
      (0x0C04103B, 0x00000000, .mulhn ⟨.x 1, .x 2, .x 3, true, false, 3⟩),
      (0x0E04103B, 0x0A010001, .mad ⟨.x 1, .x 2, .x 3, true, false, 3, .x 5, false, 0, 0, true, 0, 1⟩),
      (0x1004103B, 0x00000000, .andI ⟨.x 1, .x 2, .x 3, true, false, 3⟩),
      (0x1204103B, 0x00000000, .orI ⟨.x 1, .x 2, .x 3, true, false, 3⟩),
      (0x1404103B, 0x00000000, .xorI ⟨.x 1, .x 2, .x 3, true, false, 3⟩),
      (0x1604103B, 0x00000000, .andn ⟨.x 1, .x 2, .x 3, true, false, 3⟩),
      (0x1804103B, 0x00000000, .shl ⟨.x 1, .x 2, .x 3, true, false, 3⟩),
      (0x1A04103B, 0x00000000, .shr ⟨.x 1, .x 2, .x 3, true, false, 3⟩),
      (0x1C04103B, 0x00000000, .sar ⟨.x 1, .x 2, .x 3, true, false, 3⟩),
      (0x1E04103B, 0x00000000, .rot ⟨.x 1, .x 2, .x 3, true, false, 3⟩),
      (0x2004103B, 0x00000000, .mins ⟨.x 1, .x 2, .x 3, true, false, 3⟩),
      (0x2204103B, 0x00000000, .minn ⟨.x 1, .x 2, .x 3, true, false, 3⟩),
      (0x2404103B, 0x00000000, .maxs ⟨.x 1, .x 2, .x 3, true, false, 3⟩),
      (0x2604103B, 0x00000000, .maxn ⟨.x 1, .x 2, .x 3, true, false, 3⟩)] : List (Nat × Nat × Instr)).all (fun e => decode e.1 e.2.1 == some e.2.2) = true := by
  decide

theorem test_decode_bit_and_fields :
    ([(0x2804100B, 0x00000000, .bitClz ⟨.x 1, .x 2, .x 0, true, false, 3⟩),
      (0x2804101B, 0x00000000, .bitCtz ⟨.x 1, .x 2, .x 1, true, false, 3⟩),
      (0x2804102B, 0x00000000, .bitPopc ⟨.x 1, .x 2, .x 2, true, false, 3⟩),
      (0x2804103B, 0x00000000, .bitBrev ⟨.x 1, .x 2, .x 3, true, false, 3⟩),
      (0x2804104B, 0x00000000, .bitAbs ⟨.x 1, .x 2, .x 4, true, false, 3⟩),
      (0x2804105B, 0x00000000, .bitNeg ⟨.x 1, .x 2, .x 5, true, false, 3⟩),
      (0x2804106B, 0x00000000, .bitNot ⟨.x 1, .x 2, .x 6, true, false, 3⟩),
      (0x2804107A, 0x00000000, .bitSext8 ⟨.x 1, .x 2, .x 7, true, false, 2⟩),
      (0x28041089, 0x00000000, .bitSext16 ⟨.x 1, .x 2, .x 8, true, false, 1⟩),
      (0x28041098, 0x00000000, .bitSext32 ⟨.x 1, .x 2, .x 9, true, false, 0⟩),
      (0x2A041039, 0x00000001, .bfe ⟨.x 1, .x 2, .x 3, true, false, 1, .x 0, false, 0, 0, false, 0, 1⟩),
      (0x2C041039, 0x0A000000, .bfi ⟨.x 1, .x 2, .x 3, true, false, 1, .x 5, false, 0, 0, false, 0, 0⟩),
      (0x2E041038, 0x0A000003, .lea ⟨.x 1, .x 2, .x 3, true, false, 0, .x 5, false, 0, 0, false, 0, 3⟩),
      (0x30041038, 0x00000003, .sel ⟨.x 1, .x 2, .x 3, true, false, 0, .x 0, false, 0, 0, false, 0, 3⟩),
      (0x3204103B, 0x00010000, .divQuos ⟨.x 1, .x 2, .x 3, true, false, 3, .x 0, false, 0, 0, true, 0, 0⟩),
      (0x3204103B, 0x00100000, .divQuon ⟨.x 1, .x 2, .x 3, true, false, 3, .x 0, false, 1, 0, false, 0, 0⟩),
      (0x3204103B, 0x00200000, .divRems ⟨.x 1, .x 2, .x 3, true, false, 3, .x 0, false, 2, 0, false, 0, 0⟩),
      (0x3204103B, 0x00300000, .divRemn ⟨.x 1, .x 2, .x 3, true, false, 3, .x 0, false, 3, 0, false, 0, 0⟩),
      (0x3407C000, 0xFFFFFFFE, .movi ⟨.x 1, .zero, false, 0xFFFFFFFE⟩),
      (0x34041000, 0xFFFFFFFE, .moviShifted ⟨.x 1, .x 2, false, 0xFFFFFFFE⟩),
      (0x3604100B, 0x00000000, .mov ⟨.x 1, .x 2, .x 0, true, false, 3⟩)] : List (Nat × Nat × Instr)).all (fun e => decode e.1 e.2.1 == some e.2.2) = true := by
  decide

theorem test_decode_compares_and_predicates :
    ([(0x3940103B, 0x00000000, .cmpEq ⟨5, 0, .x 2, .x 3, true, false, 3⟩),
      (0x3944103B, 0x00000000, .cmpNe ⟨5, 1, .x 2, .x 3, true, false, 3⟩),
      (0x3948103B, 0x00000000, .cmpLts ⟨5, 2, .x 2, .x 3, true, false, 3⟩),
      (0x394C103B, 0x00000000, .cmpLes ⟨5, 3, .x 2, .x 3, true, false, 3⟩),
      (0x3950103B, 0x00000000, .cmpGts ⟨5, 4, .x 2, .x 3, true, false, 3⟩),
      (0x3954103B, 0x00000000, .cmpGes ⟨5, 5, .x 2, .x 3, true, false, 3⟩),
      (0x3958103B, 0x00000000, .cmpLtn ⟨5, 6, .x 2, .x 3, true, false, 3⟩),
      (0x395C103B, 0x00000000, .cmpLen ⟨5, 7, .x 2, .x 3, true, false, 3⟩),
      (0x3960103B, 0x00000000, .cmpGtn ⟨5, 8, .x 2, .x 3, true, false, 3⟩),
      (0x3964103B, 0x00000000, .cmpGen ⟨5, 9, .x 2, .x 3, true, false, 3⟩),
      (0x3968103B, 0x00000000, .cmpTst ⟨5, 10, .x 2, .x 3, true, false, 3⟩),
      (0x396C103B, 0x00000000, .cmpTsz ⟨5, 11, .x 2, .x 3, true, false, 3⟩),
      (0x3B401030, 0x00000000, .plAnd ⟨5, 0, .x 2, .x 3, false, false, 0⟩),
      (0x3B441030, 0x00000000, .plOr ⟨5, 1, .x 2, .x 3, false, false, 0⟩),
      (0x3B481030, 0x00000000, .plXor ⟨5, 2, .x 2, .x 3, false, false, 0⟩),
      (0x3B4C1030, 0x00000000, .plAndn ⟨5, 3, .x 2, .x 3, false, false, 0⟩),
      (0x3B501030, 0x00000000, .plOrn ⟨5, 4, .x 2, .x 3, false, false, 0⟩),
      (0x3B541008, 0x00000000, .plFrommask ⟨5, 5, .x 2, .x 0, true, false, 0⟩),
      (0x3B580800, 0x00000000, .plTomask ⟨5, 6, .x 1, .x 0, false, false, 0⟩),
      (0x3C041008, 0x00110100, .icvt ⟨.x 1, .x 2, .x 0, true, false, 0, .x 0, false, 1, 0, true, 0, 256⟩)] : List (Nat × Nat × Instr)).all (fun e => decode e.1 e.2.1 == some e.2.2) = true := by
  decide

theorem test_decode_floating_arithmetic :
    ([(0x4004103B, 0x0005E000, .fadd ⟨.x 1, .x 2, .x 3, true, false, 3, .x 0, false, 0, 2, true, 14, 0⟩),
      (0x4204103B, 0x0005E000, .fsub ⟨.x 1, .x 2, .x 3, true, false, 3, .x 0, false, 0, 2, true, 14, 0⟩),
      (0x4404103B, 0x0005E000, .fmul ⟨.x 1, .x 2, .x 3, true, false, 3, .x 0, false, 0, 2, true, 14, 0⟩),
      (0x4604103B, 0x0A05F000, .fma ⟨.x 1, .x 2, .x 3, true, false, 3, .x 5, false, 0, 2, true, 15, 0⟩),
      (0x4804103B, 0x0000E000, .fmin ⟨.x 1, .x 2, .x 3, true, false, 3, .x 0, false, 0, 0, false, 14, 0⟩),
      (0x4A04103B, 0x0000E000, .fmax ⟨.x 1, .x 2, .x 3, true, false, 3, .x 0, false, 0, 0, false, 14, 0⟩),
      (0x4C04103B, 0x00000000, .fsgnCopy ⟨.x 1, .x 2, .x 3, true, false, 3, .x 0, false, 0, 0, false, 0, 0⟩),
      (0x4C04103B, 0x00100000, .fsgnCopyneg ⟨.x 1, .x 2, .x 3, true, false, 3, .x 0, false, 1, 0, false, 0, 0⟩),
      (0x4C04103B, 0x00200000, .fsgnXor ⟨.x 1, .x 2, .x 3, true, false, 3, .x 0, false, 2, 0, false, 0, 0⟩)] : List (Nat × Nat × Instr)).all (fun e => decode e.1 e.2.1 == some e.2.2) = true := by
  decide

theorem test_decode_floating_compares_and_conversions :
    ([(0x4F40103B, 0x00000000, .fcmpEq ⟨5, 0, .x 2, .x 3, true, false, 3⟩),
      (0x4F44103B, 0x00000000, .fcmpNe ⟨5, 1, .x 2, .x 3, true, false, 3⟩),
      (0x4F48103B, 0x00000000, .fcmpLt ⟨5, 2, .x 2, .x 3, true, false, 3⟩),
      (0x4F4C103B, 0x00000000, .fcmpLe ⟨5, 3, .x 2, .x 3, true, false, 3⟩),
      (0x4F50103B, 0x00000000, .fcmpGt ⟨5, 4, .x 2, .x 3, true, false, 3⟩),
      (0x4F54103B, 0x00000000, .fcmpGe ⟨5, 5, .x 2, .x 3, true, false, 3⟩),
      (0x4F58103B, 0x00000000, .fcmpUno ⟨5, 6, .x 2, .x 3, true, false, 3⟩),
      (0x4F5C103B, 0x00000000, .fcmpOrd ⟨5, 7, .x 2, .x 3, true, false, 3⟩),
      (0x5004103B, 0x0005E000, .fdiv ⟨.x 1, .x 2, .x 3, true, false, 3, .x 0, false, 0, 2, true, 14, 0⟩),
      (0x5204100B, 0x0004C000, .fsqrt ⟨.x 1, .x 2, .x 0, true, false, 3, .x 0, false, 0, 2, false, 12, 0⟩),
      (0x5404100B, 0x0005C000, .frcp ⟨.x 1, .x 2, .x 0, true, false, 3, .x 0, false, 0, 2, true, 12, 0⟩),
      (0x5604100B, 0x0000C000, .frsq ⟨.x 1, .x 2, .x 0, true, false, 3, .x 0, false, 0, 0, false, 12, 0⟩),
      (0x6004100B, 0x0001C000, .fexp2 ⟨.x 1, .x 2, .x 0, true, false, 3, .x 0, false, 0, 0, true, 12, 0⟩),
      (0x6204100B, 0x0000C000, .flog2 ⟨.x 1, .x 2, .x 0, true, false, 3, .x 0, false, 0, 0, false, 12, 0⟩),
      (0x6404100B, 0x0000C000, .fsin ⟨.x 1, .x 2, .x 0, true, false, 3, .x 0, false, 0, 0, false, 12, 0⟩),
      (0x6604100B, 0x0000C000, .fcos ⟨.x 1, .x 2, .x 0, true, false, 3, .x 0, false, 0, 0, false, 12, 0⟩),
      (0x6804100B, 0x0000C000, .ftanh ⟨.x 1, .x 2, .x 0, true, false, 3, .x 0, false, 0, 0, false, 12, 0⟩),
      (0x58041008, 0x00150100, .fcvt ⟨.x 1, .x 2, .x 0, true, false, 0, .x 0, false, 1, 2, true, 0, 256⟩),
      (0x5A041008, 0x00150100, .ficvt ⟨.x 1, .x 2, .x 0, true, false, 0, .x 0, false, 1, 2, true, 0, 256⟩),
      (0x5C041008, 0x00150100, .ifcvt ⟨.x 1, .x 2, .x 0, true, false, 0, .x 0, false, 1, 2, true, 0, 256⟩),
      (0x5E04100B, 0x0004C000, .frnd ⟨.x 1, .x 2, .x 0, true, false, 3, .x 0, false, 0, 2, false, 12, 0⟩),
      (0x6A04100B, 0x00000000, .fclass ⟨.x 1, .x 2, .x 0, true, false, 3, .x 0, false, 0, 0, false, 0, 0⟩),
      (0x6C04103B, 0x0005C000, .fscale ⟨.x 1, .x 2, .x 3, true, false, 3, .x 0, false, 0, 2, true, 12, 0⟩),
      (0x6E04103B, 0x0A05B000, .fdot2 ⟨.x 1, .x 2, .x 3, true, false, 3, .x 5, false, 0, 2, true, 11, 0⟩)] : List (Nat × Nat × Instr)).all (fun e => decode e.1 e.2.1 == some e.2.2) = true := by
  decide

theorem test_decode_crossbar :
    ([(0x7004103B, 0x00000000, .perm ⟨.x 1, .x 2, .x 3, true, false, 3, .x 0, false, 0, 0, false, 0, 0⟩),
      (0x72041038, 0x00000003, .shflIdx ⟨.x 1, .x 2, .x 3, true, false, 0, .x 0, false, 0, 0, false, 0, 3⟩),
      (0x72041038, 0x00100003, .shflUp ⟨.x 1, .x 2, .x 3, true, false, 0, .x 0, false, 1, 0, false, 0, 3⟩),
      (0x72041038, 0x00200003, .shflDown ⟨.x 1, .x 2, .x 3, true, false, 0, .x 0, false, 2, 0, false, 0, 3⟩),
      (0x72041038, 0x00300003, .shflXor ⟨.x 1, .x 2, .x 3, true, false, 0, .x 0, false, 3, 0, false, 0, 3⟩),
      (0x74040000, 0x00000003, .ballot ⟨.x 1, .x 0, .x 0, false, false, 0, .x 0, false, 0, 0, false, 0, 3⟩),
      (0x74041008, 0x0A100003, .ballotPlane ⟨.x 1, .x 2, .x 0, true, false, 0, .x 5, false, 1, 0, false, 0, 3⟩),
      (0x76040000, 0x00000003, .voteAll ⟨.x 1, .x 0, .x 0, false, false, 0, .x 0, false, 0, 0, false, 0, 3⟩),
      (0x76040000, 0x00100003, .voteAny ⟨.x 1, .x 0, .x 0, false, false, 0, .x 0, false, 1, 0, false, 0, 3⟩),
      (0x76041008, 0x00200000, .voteUni ⟨.x 1, .x 2, .x 0, true, false, 0, .x 0, false, 2, 0, false, 0, 0⟩)] : List (Nat × Nat × Instr)).all (fun e => decode e.1 e.2.1 == some e.2.2) = true := by
  decide

theorem test_decode_reductions :
    ([(0x7804100B, 0x00000003, .lredAdd ⟨.x 1, .x 2, .x 0, true, false, 3, .x 0, false, 0, 0, false, 0, 3⟩),
      (0x7804100B, 0x00100003, .lredMins ⟨.x 1, .x 2, .x 0, true, false, 3, .x 0, false, 1, 0, false, 0, 3⟩),
      (0x7804100B, 0x00200003, .lredMinn ⟨.x 1, .x 2, .x 0, true, false, 3, .x 0, false, 2, 0, false, 0, 3⟩),
      (0x7804100B, 0x00300003, .lredMaxs ⟨.x 1, .x 2, .x 0, true, false, 3, .x 0, false, 3, 0, false, 0, 3⟩),
      (0x7804100B, 0x00400003, .lredMaxn ⟨.x 1, .x 2, .x 0, true, false, 3, .x 0, false, 4, 0, false, 0, 3⟩),
      (0x7804100B, 0x00500003, .lredAnd ⟨.x 1, .x 2, .x 0, true, false, 3, .x 0, false, 5, 0, false, 0, 3⟩),
      (0x7804100B, 0x00600003, .lredOr ⟨.x 1, .x 2, .x 0, true, false, 3, .x 0, false, 6, 0, false, 0, 3⟩),
      (0x7804100B, 0x00700003, .lredXor ⟨.x 1, .x 2, .x 0, true, false, 3, .x 0, false, 7, 0, false, 0, 3⟩),
      (0x7804100B, 0x00840003, .lredFadd ⟨.x 1, .x 2, .x 0, true, false, 3, .x 0, false, 8, 2, false, 0, 3⟩),
      (0x7804100B, 0x00900003, .lredFmin ⟨.x 1, .x 2, .x 0, true, false, 3, .x 0, false, 9, 0, false, 0, 3⟩),
      (0x7804100B, 0x00A00003, .lredFmax ⟨.x 1, .x 2, .x 0, true, false, 3, .x 0, false, 10, 0, false, 0, 3⟩)] : List (Nat × Nat × Instr)).all (fun e => decode e.1 e.2.1 == some e.2.2) = true := by
  decide

theorem test_decode_scans :
    ([(0x7A04100B, 0x00000003, .lscanAdd ⟨.x 1, .x 2, .x 0, true, false, 3, .x 0, false, 0, 0, false, 0, 3⟩),
      (0x7A04100B, 0x00100003, .lscanMins ⟨.x 1, .x 2, .x 0, true, false, 3, .x 0, false, 1, 0, false, 0, 3⟩),
      (0x7A04100B, 0x00200003, .lscanMinn ⟨.x 1, .x 2, .x 0, true, false, 3, .x 0, false, 2, 0, false, 0, 3⟩),
      (0x7A04100B, 0x00300003, .lscanMaxs ⟨.x 1, .x 2, .x 0, true, false, 3, .x 0, false, 3, 0, false, 0, 3⟩),
      (0x7A04100B, 0x00400003, .lscanMaxn ⟨.x 1, .x 2, .x 0, true, false, 3, .x 0, false, 4, 0, false, 0, 3⟩),
      (0x7A04100B, 0x00500003, .lscanAnd ⟨.x 1, .x 2, .x 0, true, false, 3, .x 0, false, 5, 0, false, 0, 3⟩),
      (0x7A04100B, 0x00600003, .lscanOr ⟨.x 1, .x 2, .x 0, true, false, 3, .x 0, false, 6, 0, false, 0, 3⟩),
      (0x7A04100B, 0x00700003, .lscanXor ⟨.x 1, .x 2, .x 0, true, false, 3, .x 0, false, 7, 0, false, 0, 3⟩),
      (0x7A04100B, 0x00840003, .lscanFadd ⟨.x 1, .x 2, .x 0, true, false, 3, .x 0, false, 8, 2, false, 0, 3⟩),
      (0x7A04100B, 0x00900003, .lscanFmin ⟨.x 1, .x 2, .x 0, true, false, 3, .x 0, false, 9, 0, false, 0, 3⟩),
      (0x7A04100B, 0x00A00003, .lscanFmax ⟨.x 1, .x 2, .x 0, true, false, 3, .x 0, false, 10, 0, false, 0, 3⟩),
      (0x7C041038, 0x00000003, .rsel ⟨.x 1, .x 2, .x 3, true, false, 0, .x 0, false, 0, 0, false, 0, 3⟩),
      (0x7C041038, 0x00000040, .rselFin ⟨.x 1, .x 2, .x 3, true, false, 0, .x 0, false, 0, 0, false, 0, 64⟩),
      (0x7E041038, 0x00000000, .regroup ⟨.x 1, .x 2, .x 3, true, false, 0, .x 0, false, 0, 0, false, 0, 0⟩),
      (0x7E040030, 0x00100000, .regroupRestore ⟨.x 1, .x 0, .x 3, false, false, 0, .x 0, false, 1, 0, false, 0, 0⟩),
      (0x7E040000, 0x00200000, .regroupCapupd ⟨.x 1, .x 0, .x 0, false, false, 0, .x 0, false, 2, 0, false, 0, 0⟩)] : List (Nat × Nat × Instr)).all (fun e => decode e.1 e.2.1 == some e.2.2) = true := by
  decide

theorem test_decode_memory :
    ([(0x8004155F, 0x88000000, .ld ⟨.x 1, .x 2, true, 1, 2, 31, 17, 0, .x 0, false, false⟩),
      (0x8204155F, 0x88006000, .ld2 ⟨.x 1, .x 2, true, 1, 2, 31, 17, 0, .x 3, false, false⟩),
      (0x8410165F, 0x88000000, .st ⟨.x 4, .x 2, true, 2, 2, 31, 17, 0, .x 0, false, false⟩),
      (0x8610165F, 0x8800A000, .st2 ⟨.x 4, .x 2, true, 2, 2, 31, 17, 0, .x 5, false, false⟩),
      (0x8800141F, 0x00000000, .pf ⟨.x 0, .x 2, true, 0, 0, 31, 0, 0, .x 0, false, false⟩),
      (0x8A00141F, 0x00000000, .clClean ⟨.x 0, .x 2, true, 0, 0, 31, 0, 0, .x 0, false, false⟩),
      (0x8A00141F, 0x00800000, .clInvalidate ⟨.x 0, .x 2, true, 0, 0, 31, 0, 1, .x 0, false, false⟩),
      (0x8A00141F, 0x01000000, .clCollapse ⟨.x 0, .x 2, true, 0, 0, 31, 0, 2, .x 0, false, false⟩),
      (0x8A00141F, 0x01800000, .clWriteback ⟨.x 0, .x 2, true, 0, 0, 31, 0, 3, .x 0, false, false⟩)] : List (Nat × Nat × Instr)).all (fun e => decode e.1 e.2.1 == some e.2.2) = true := by
  decide

theorem test_decode_atomics :
    ([(0x9124155F, 0x88000000, .ldk ⟨.k 1, .x 2, true, 1, 2, 31, 17, 0, .x 0, false, false⟩),
      (0x9328165F, 0x88000000, .stk ⟨.k 2, .x 2, true, 2, 2, 31, 17, 0, .x 0, false, false⟩),
      (0x8C10141F, 0x58000000, .spill ⟨.x 4, .x 2, true, 0, 0, 31, 11, 0, .x 0, false, false⟩),
      (0x8E04141F, 0x58000000, .fill ⟨.x 1, .x 2, true, 0, 0, 31, 11, 0, .x 0, false, false⟩)] : List (Nat × Nat × Instr)).all (fun e => decode e.1 e.2.1 == some e.2.2) = true := by
  decide

theorem test_decode_updates_and_lines :
    ([(0xA004175F, 0x5800A000, .amoAdd ⟨.x 1, .x 2, true, 3, 2, 31, 11, 0, .x 5, false, false⟩),
      (0xA004175F, 0x1880A000, .amoMins ⟨.x 1, .x 2, true, 3, 2, 31, 3, 1, .x 5, false, false⟩),
      (0xA004175F, 0x3900A000, .amoMinn ⟨.x 1, .x 2, true, 3, 2, 31, 7, 2, .x 5, false, false⟩),
      (0xA004175F, 0x1980A000, .amoMaxs ⟨.x 1, .x 2, true, 3, 2, 31, 3, 3, .x 5, false, false⟩),
      (0xA004175F, 0x3A00A000, .amoMaxn ⟨.x 1, .x 2, true, 3, 2, 31, 7, 4, .x 5, false, false⟩),
      (0xA004175F, 0x5A80A000, .amoAnd ⟨.x 1, .x 2, true, 3, 2, 31, 11, 5, .x 5, false, false⟩),
      (0xA004175F, 0x5B00A000, .amoOr ⟨.x 1, .x 2, true, 3, 2, 31, 11, 6, .x 5, false, false⟩),
      (0xA004175F, 0x5B80A000, .amoXor ⟨.x 1, .x 2, true, 3, 2, 31, 11, 7, .x 5, false, false⟩),
      (0xA004175F, 0x5C00A000, .amoExch ⟨.x 1, .x 2, true, 3, 2, 31, 11, 8, .x 5, false, false⟩),
      (0xA204175F, 0x6800A000, .amofAdd ⟨.x 1, .x 2, true, 3, 2, 31, 13, 0, .x 5, false, false⟩),
      (0xA204175F, 0x6880A000, .amofMin ⟨.x 1, .x 2, true, 3, 2, 31, 13, 1, .x 5, false, false⟩),
      (0xA204175F, 0x6900A000, .amofMax ⟨.x 1, .x 2, true, 3, 2, 31, 13, 2, .x 5, false, false⟩),
      (0xA204175F, 0x6980A000, .amofExch ⟨.x 1, .x 2, true, 3, 2, 31, 13, 3, .x 5, false, false⟩),
      (0xA410175F, 0x6800A000, .cas ⟨.x 4, .x 2, true, 3, 2, 31, 13, 0, .x 5, false, false⟩),
      (0xA600165F, 0x5800A000, .redAdd ⟨.x 0, .x 2, true, 2, 2, 31, 11, 0, .x 5, false, false⟩),
      (0xA600165F, 0x1880A000, .redMins ⟨.x 0, .x 2, true, 2, 2, 31, 3, 1, .x 5, false, false⟩),
      (0xA600165F, 0x3900A000, .redMinn ⟨.x 0, .x 2, true, 2, 2, 31, 7, 2, .x 5, false, false⟩),
      (0xA600165F, 0x1980A000, .redMaxs ⟨.x 0, .x 2, true, 2, 2, 31, 3, 3, .x 5, false, false⟩),
      (0xA600165F, 0x3A00A000, .redMaxn ⟨.x 0, .x 2, true, 2, 2, 31, 7, 4, .x 5, false, false⟩),
      (0xA600165F, 0x5A80A000, .redAnd ⟨.x 0, .x 2, true, 2, 2, 31, 11, 5, .x 5, false, false⟩),
      (0xA600165F, 0x5B00A000, .redOr ⟨.x 0, .x 2, true, 2, 2, 31, 11, 6, .x 5, false, false⟩),
      (0xA600165F, 0x5B80A000, .redXor ⟨.x 0, .x 2, true, 2, 2, 31, 11, 7, .x 5, false, false⟩),
      (0xA800165F, 0x6800A000, .redfAdd ⟨.x 0, .x 2, true, 2, 2, 31, 13, 0, .x 5, false, false⟩),
      (0xA800165F, 0x6880A000, .redfMin ⟨.x 0, .x 2, true, 2, 2, 31, 13, 1, .x 5, false, false⟩),
      (0xA800165F, 0x6900A000, .redfMax ⟨.x 0, .x 2, true, 2, 2, 31, 13, 2, .x 5, false, false⟩),
      (0xA800165F, 0x7980A000, .redfAcc ⟨.x 0, .x 2, true, 2, 2, 31, 15, 3, .x 5, false, false⟩),
      (0xAA101400, 0x0000A000, .bind ⟨.x 4, .x 2, true, 0, 0, 0, 0, 0, .x 5, false, false⟩),
      (0xAC001400, 0x00000000, .unbind ⟨.x 0, .x 2, true, 0, 0, 0, 0, 0, .x 0, false, false⟩),
      (0xAE000340, 0x00000000, .fenceMem ⟨.x 0, .x 0, false, 3, 2, 0, 0, 0, .x 0, false, false⟩),
      (0xAE000380, 0x00800000, .fenceEng ⟨.x 0, .x 0, false, 3, 4, 0, 0, 1, .x 0, false, false⟩),
      (0xB210165F, 0x00006000, .sarm ⟨.x 4, .x 2, true, 2, 2, 31, 0, 0, .x 3, false, false⟩),
      (0xB410155F, 0x00000000, .swait ⟨.x 4, .x 2, true, 1, 2, 31, 0, 0, .x 0, false, false⟩),
      (0xB610165F, 0x0000A000, .sadd ⟨.x 4, .x 2, true, 2, 2, 31, 0, 0, .x 5, false, false⟩),
      (0xB804155F, 0x00000000, .gsp ⟨.x 1, .x 2, true, 1, 2, 31, 0, 0, .x 0, false, false⟩)] : List (Nat × Nat × Instr)).all (fun e => decode e.1 e.2.1 == some e.2.2) = true := by
  decide

theorem test_decode_control :
    ([(0xD6101640, 0x58002000, .stqPush ⟨.x 4, .x 2, true, 2, 2, 0, 11, 0, .x 1, false, false⟩),
      (0xD6041540, 0x58802000, .stqPop ⟨.x 1, .x 2, true, 1, 2, 0, 11, 1, .x 1, false, false⟩),
      (0xD6041540, 0x59002000, .stqPeek ⟨.x 1, .x 2, true, 1, 2, 0, 11, 2, .x 1, false, false⟩),
      (0xC1FFFFFE, 0x00000000, .br ⟨0x1FFFFFE⟩),
      (0xC2001038, 0x00000000, .brx ⟨.x 0, .x 2, .x 3, true, false, 0⟩),
      (0xC5FFFFFE, 0x00000000, .call ⟨0x1FFFFFE⟩),
      (0xC6001008, 0x00000000, .ret ⟨.x 0, .x 2, .x 0, true, false, 0⟩),
      (0xC8041008, 0x00000FFF, .meet ⟨.x 1, .x 2, .x 0, true, false, 0, .x 0, false, 0, 0, false, 0, 4095⟩),
      (0xC8040030, 0x00000000, .meetPacked ⟨.x 1, .x 0, .x 3, false, false, 0, .x 0, false, 0, 0, false, 0, 0⟩),
      (0xCB401008, 0x00000000, .meetq ⟨5, 0, .x 2, .x 0, true, false, 0⟩),
      (0xCC001038, 0x00000003, .bar ⟨.x 0, .x 2, .x 3, true, false, 0, .x 0, false, 0, 0, false, 0, 3⟩),
      (0xCE001405, 0x00000000, .nap ⟨.x 0, .x 2, true, 5⟩),
      (0xD0000000, 0x00000000, .exitPlain ⟨.x 0, .x 0, false, 0⟩),
      (0xD0000001, 0x00000000, .exitInherit ⟨.x 0, .x 0, false, 1⟩),
      (0xD203C000, 0x00000000, .yieldPlain ⟨.x 0, .zero, .x 0, false, false, 0⟩),
      (0xD2001008, 0x00000000, .yieldQueue ⟨.x 0, .x 2, .x 0, true, false, 0⟩),
      (0xD4041008, 0x00000000, .grow ⟨.x 1, .x 2, .x 0, true, false, 0⟩),
      (0xD8001448, 0x00000000, .trap ⟨.x 0, .x 2, true, 72⟩),
      (0xDA001441, 0x00000000, .brk ⟨.x 0, .x 2, true, 65⟩)] : List (Nat × Nat × Instr)).all (fun e => decode e.1 e.2.1 == some e.2.2) = true := by
  decide

theorem test_decode_tile :
    ([(0xEA04165F, 0x0000A000, .cpy ⟨.x 1, .x 2, true, 2, 2, 31, 0, 0, .x 5, false, false⟩),
      (0xEC04165F, 0x0000A000, .cpqSend ⟨.x 1, .x 2, true, 2, 2, 31, 0, 0, .x 5, false, false⟩),
      (0xEC041400, 0x00800000, .cpqStatus ⟨.x 1, .x 2, true, 0, 0, 0, 0, 1, .x 0, false, false⟩),
      (0xE0041008, 0x00000000, .slotClaim ⟨.x 1, .x 2, .x 0, true, false, 0, .x 0, false, 0, 0, false, 0, 0⟩),
      (0xE0041038, 0x00000001, .slotClaimRetag ⟨.x 1, .x 2, .x 3, true, false, 0, .x 0, false, 0, 0, false, 0, 1⟩),
      (0xE0001008, 0x00100000, .slotRelease ⟨.x 0, .x 2, .x 0, true, false, 0, .x 0, false, 1, 0, false, 0, 0⟩),
      (0xE0041008, 0x00200000, .slotQuery ⟨.x 1, .x 2, .x 0, true, false, 0, .x 0, false, 2, 0, false, 0, 0⟩),
      (0xE2001008, 0x0A000003, .tmm ⟨.x 0, .x 2, .x 0, true, false, 0, .x 5, false, 0, 0, false, 0, 3⟩),
      (0xE2001008, 0x0A100003, .tmmBfp ⟨.x 0, .x 2, .x 0, true, false, 0, .x 5, false, 1, 0, false, 0, 3⟩),
      (0xE4001038, 0x0A000001, .tsa ⟨.x 0, .x 2, .x 3, true, false, 0, .x 5, false, 0, 0, false, 0, 1⟩),
      (0xE6001008, 0x0A000001, .accZero ⟨.x 0, .x 2, .x 0, true, false, 0, .x 5, false, 0, 0, false, 0, 1⟩),
      (0xE6041008, 0x00100000, .accRd ⟨.x 1, .x 2, .x 0, true, false, 0, .x 0, false, 1, 0, false, 0, 0⟩),
      (0xE6001038, 0x00200000, .accWr ⟨.x 0, .x 2, .x 3, true, false, 0, .x 0, false, 2, 0, false, 0, 0⟩),
      (0xE6001038, 0x0A300001, .accLd ⟨.x 0, .x 2, .x 3, true, false, 0, .x 5, false, 3, 0, false, 0, 1⟩),
      (0xE6001038, 0x0A400001, .accSt ⟨.x 0, .x 2, .x 3, true, false, 0, .x 5, false, 4, 0, false, 0, 1⟩),
      (0xE6001038, 0x0A550001, .accCvst ⟨.x 0, .x 2, .x 3, true, false, 0, .x 5, false, 5, 2, true, 0, 1⟩),
      (0xE8001038, 0x0A000001, .opmLd ⟨.x 0, .x 2, .x 3, true, false, 0, .x 5, false, 0, 0, false, 0, 1⟩),
      (0xE8001038, 0x0A100001, .opmSt ⟨.x 0, .x 2, .x 3, true, false, 0, .x 5, false, 1, 0, false, 0, 1⟩)] : List (Nat × Nat × Instr)).all (fun e => decode e.1 e.2.1 == some e.2.2) = true := by
  decide

theorem test_decode_copy_and_system :
    ([(0xEE001038, 0x0A000003, .trec ⟨.x 0, .x 2, .x 3, true, false, 0, .x 5, false, 0, 0, false, 0, 3⟩),
      (0xF0040002, 0x00000000, .csrr ⟨.x 1, .x 0, false, 2⟩),
      (0xF2001402, 0x00000000, .csrw ⟨.x 0, .x 2, true, 2⟩),
      (0xF2001447, 0x00000000, .psreq ⟨.x 0, .x 2, true, 71⟩),
      (0xF2001448, 0x00000000, .gangkillReg ⟨.x 0, .x 2, true, 72⟩),
      (0xF4001400, 0x00000000, .tlbiPage ⟨.x 0, .x 2, true, 0, 0, 0, 0, 0, .x 0, false, false⟩),
      (0xF4001400, 0x00800000, .tlbiKey ⟨.x 0, .x 2, true, 0, 0, 0, 0, 1, .x 0, false, false⟩),
      (0xF4000000, 0x01000000, .tlbiAll ⟨.x 0, .x 0, false, 0, 0, 0, 0, 2, .x 0, false, false⟩),
      (0xF6001008, 0x00000000, .tret ⟨.x 0, .x 2, .x 0, true, false, 0⟩),
      (0xF8001008, 0x00000000, .ctxSave ⟨.x 0, .x 2, .x 0, true, false, 0, .x 0, false, 0, 0, false, 0, 0⟩),
      (0xF8001008, 0x00100000, .ctxRestore ⟨.x 0, .x 2, .x 0, true, false, 0, .x 0, false, 1, 0, false, 0, 0⟩),
      (0xFA001008, 0x00000003, .trcMark ⟨.x 0, .x 2, .x 0, true, false, 0, .x 0, false, 0, 0, false, 0, 3⟩),
      (0xFA041008, 0x00100000, .trcArm ⟨.x 1, .x 2, .x 0, true, false, 0, .x 0, false, 1, 0, false, 0, 0⟩),
      (0xFA040000, 0x00200000, .trcDisarm ⟨.x 1, .x 0, .x 0, false, false, 0, .x 0, false, 2, 0, false, 0, 0⟩)] : List (Nat × Nat × Instr)).all (fun e => decode e.1 e.2.1 == some e.2.2) = true := by
  decide

/-! ## Witnesses: for each statement with hypotheses, a state and operands that meet them -/

/-- A program's troupe of the probe grid runs the clause of one `nop`, in lane 0 alone, changed as given. -/
def wTroupe (t : Troupe → Troupe) (f : Clause → Clause) : Troupe :=
  { t (probeTroupe (groupKey 1 0) [0]) with clause := some (f { probeClause [0] with active := 1 }) }
def wState (t : Troupe → Troupe) (f : Clause → Clause) : State := setTroupe (State.reset.withFetchWord 32 0) 0 0 (wTroupe t f)
def wCtx (t : Troupe → Troupe) (f : Clause → Clause) : Ctx := ⟨0, 0, wTroupe t f, f { probeClause [0] with active := 1 }⟩

/-- A booted part whose first 16 GiB of device memory are mapped as they stand; some bytes of it are given. -/
def wMapped (bs : List (Nat × Nat)) (s : State) : State :=
  { s with mem := (bs ++ [(0x10000, 0x20001), (0x20000, 0xDF)]).foldl (fun (m : List Host.Cell) (e : Nat × Nat) => cellsPut m e.1 (leBytes 8 e.2)) [],
           mgmt := { s.mgmt with boot := 5, powered := true, failed := false, ptroot := 0x10000, lqdesc := [(0, 0x3000)] } }

/-- A place of device memory, and a clause that performs with lane 0's place found there. -/
def wLoc : Loc := ⟨.device, 4096, 0, false, 0, 4096, none⟩
def wPerform (cl : Clause) : Clause := { cl with phase := .perform, xlat := [(0, [(0, wLoc)])] }
def wS : State := wState id wPerform
def wX : Ctx := wCtx id wPerform

/-- Statements O4 to O7, O9 to O15, O25, O26, O27, O42 and O43: operands settled in the lanes that take part. -/
theorem witness_settled_operands : ctxOf wS = some wX ∧ settledOps wX [.x 1, .x 2, .x 3] = true ∧ lowLane wX.live = some 0 ∧
    (word64 wS wX (.x 1) 0).toNat % 4 = 0 := ⟨rfl, by decide, by decide, by decide⟩

/-- O3: a word that decodes, a check at its end, a clause that has performed, one to retire, a word that decodes to nothing. -/
theorem witness_StepRunsTheClausesNextWord :
    (let x := wCtx id id; ctxOf (wState id id) = some x ∧ x.cl.words.drop x.cl.cursor = [0] ∧ decode 0 0 = some .nop) ∧
    (let f (cl : Clause) := { cl with cursor := 1 }
     ctxOf (wState id f) = some (wCtx id f) ∧ (wCtx id f).cl.words.length ≤ (wCtx id f).cl.cursor ∧ (wCtx id f).cl.phase = .check) ∧
    (let f (cl : Clause) := { cl with cursor := 1, phase := .perform }
     ctxOf (wState id f) = some (wCtx id f) ∧ (wCtx id f).cl.words.length ≤ (wCtx id f).cl.cursor ∧ (wCtx id f).cl.phase = .perform) ∧
    (let f (cl : Clause) := { cl with cursor := 1, phase := .retire }
     ctxOf (wState id f) = some (wCtx id f) ∧ (wCtx id f).cl.words.length ≤ (wCtx id f).cl.cursor ∧ (wCtx id f).cl.phase = .retire) ∧
    (let f (cl : Clause) := { cl with words := [0xB0000000] }
     ctxOf (wState id f) = some (wCtx id f) ∧ (wCtx id f).cl.words.drop 0 = [0xB0000000] ∧ decode 0xB0000000 0 = none) :=
  ⟨⟨rfl, rfl, by decide⟩, ⟨rfl, by decide, rfl⟩, ⟨rfl, by decide, rfl⟩, ⟨rfl, by decide, rfl⟩, rfl, rfl, by decide⟩

/-- A troupe whose x2 pends on symbol 5 in lane 0. -/
def wPend (t : Troupe) : Troupe := { t with regs := [(2, freshForm 1 5)] }

/-- O8 and O17: a pending register in a place that composes, or as a load's address. -/
theorem witness_IntegerForwarding : let s := wState wPend wPerform; let x := wCtx wPend wPerform
    ctxOf s = some x ∧ x.cl.hdr.strict = false ∧ holdsPending testA.d = true ∧ regOperand x (.x 2) = some (freshForm 1 5) ∧
    pendMask (freshForm 1 5) ≠ 0 ∧ (freshForm 1 5).chain = [] ∧ foundBlocking x (freshForm 1 5) = false ∧
    notPending x [.x 3] = true ∧ performing x = true ∧ x.live ≠ 0 ∧ testM.ord = 0 :=
  ⟨rfl, by decide, by decide, by decide, by decide, by decide, by decide, by decide, by decide, by decide, by decide⟩

/-- O8: a pending source of each f64 operation, and a register with a recorded operation and a lane to come. -/
theorem witness_FloatingForwarding : let s := wState wPend wPerform; let x := wCtx wPend wPerform
    ctxOf s = some x ∧ x.cl.hdr.strict = false ∧ testX.pack = 0 ∧ testX.sat = false ∧ holdsPending testX.d = true ∧ absA testX = false ∧
    (∀ e ∈ (floatElements testX (rndOf x testX) false).take 4, regOperand x (e.2.1.getD 0 .zero) = some (freshForm 1 5) ∧
      notPending x (e.2.1.eraseIdx 0) = true) ∧
    pendMask (freshForm 1 5) &&& x.live ≠ 0 ∧ foundBlocking x (freshForm 1 5) = false ∧ (freshForm 1 5).chain = [] ∧
    ((maskLanes x.live).all fun l => laneOf (freshForm 1 5).scale l == 1 && laneOf (freshForm 1 5).vals l == 0) = true ∧
    (let r : Reg := { freshForm 1 5 with chain := [default], pend := 1 }; (pendMask r).getLsbD 0 = true ∧ r.chain ≠ []) := by
  refine ⟨rfl, by decide, by decide, by decide, by decide, by decide, fun e h => ?_, by decide, by decide, by decide, by decide, by decide⟩
  simp only [floatElements, List.take_succ_cons, List.take_zero] at h
  fin_cases h <;> exact ⟨by decide, by decide⟩

/-- O16, O18 to O20, O22, O23, O39 to O41: a performing clause with its places found and room. -/
theorem witness_performing : ctxOf wS = some wX ∧ performing wX = true ∧ wX.live ≠ 0 ∧ (notPending wX [.x 2] = true ∧ settledOps wX [.x 2] = true) ∧
    (Operand.isK (.x 1) = false ∧ Operand.isK (.k 1) = true ∧ inlineReady wS wX [(wLoc, 2 * (typeWidth 3 / 8))] = true) ∧
    deferredOpen wS 0 0 = false ∧ found wX = [(0, wLoc)] ∧ wX.t.acquires = [] ∧
    wX.t.sb.length + storeNeeds wX.t none ((sectorStores (laneBytes wS wX 3 [.x 1])).map fun g => g.1) ≤ 64 ∧
    wX.t.sb.length + (grouped 16 (laneOps wX (fun _ => 0) fun _ => 0)).length ≤ 64 ∧ loadsDone wS 0 0 wX.t.seq = true ∧
    entriesDone wS wX 4 = true ∧ inlineReady wS wX [(wLoc, 8)] = true ∧ wordReady wS wX none (locsOf (found wX)) = true ∧
    (inlineRevoked wS wX [(0, wLoc)] = [] ∧ inlineRevoked wS wX (found wX) = [] ∧
      inlineRevoked wS wX ((rangeLocs wX).map fun l => (0, l)) = []) :=
  ⟨rfl, by decide, by decide, by decide, by decide, by decide, by decide, by decide, by decide, by decide, by decide, by decide, by decide, by decide, by decide⟩

/-- O21: a check with a misaligned address in lane 0; a trap chosen. -/
theorem witness_MisalignedAccessesTrap :
    (let t (u : Troupe) : Troupe := { u with regs := [(2, known fun _ => 1)] }
     let x := wCtx t id
     ctxOf (wState t id) = some x ∧ x.cl.phase = .check ∧ x.live ≠ 0 ∧ lowLane x.cl.active = some 0 ∧ (notPending x [.x 2] = true ∧ settledOps x [.x 2] = true) ∧
     (memAddr (wState t id) x testM 8 0).toNat % 8 ≠ 0 ∧ ∀ l, x.cl.active.getLsbD l = true → l = 0) ∧
    (let f (cl : Clause) := { cl with trap := some ⟨0, 3, 1, 1, []⟩ }
     ctxOf (wState id f) = some (wCtx id f) ∧ (wCtx id f).pos ≠ 64 ∧ (wCtx id f).cl.trap = some ⟨0, 3, 1, 1, []⟩) := by
  refine ⟨⟨rfl, by decide, by decide, by decide, by decide, by decide, ?_⟩, rfl, by decide, rfl⟩
  intro l h
  by_cases h1 : l < 32
  · interval_cases l <;> first | rfl | (revert h; decide)
  · simp [BitVec.getLsbD_of_ge _ _ (Nat.le_of_not_lt h1)] at h

/-- A clause that binds or unbinds, in a grid with a table and the bindings given. -/
def wGrid (bs : Tab (Word × Word)) : Grid := { probeGrid with record := probeGrid.record.set 6 65536, bindings := bs }
def wBind (u : Bool) (cl : Clause) : Clause := { cl with binds := [{ unbind := u, cursor := 0, base := 4096, len := 512, obj := 64 }] }

/-- O22: a clause that binds, and one that unbinds. -/
theorem witness_PrefetchBindAndFenceComplete :
    (let s := setGrid (wState id (wBind false)) 1 (wGrid []); let x := wCtx id (wBind false)
     ctxOf s = some x ∧ groupAt s x.t.group = some probeGroup ∧ gridAt s (x.t.group / 2 ^ 64) = some (wGrid []) ∧
     probeGroup.ticket = x.t.group / 2 ^ 64 ∧ x.cl.trap = none ∧ recWord (wGrid []) 6 ≠ 0 ∧ liveBindings (wGrid []) = [] ∧
     bits (tabGet (wGrid []).bindings 0 (0, 0)).1.toNat 59 44 = 0) ∧
    (let b : Word × Word := (word (8 + 2 ^ 44), 64)
     let s := setGrid (wState id (wBind true)) 1 (wGrid [(0, b)]); let x := wCtx id (wBind true)
     ctxOf s = some x ∧ gridAt s (x.t.group / 2 ^ 64) = some (wGrid [(0, b)]) ∧
     (liveBindings (wGrid [(0, b)])).find? (fun e => regionStart e.2.1.toNat == regionBase probeGroup.member 4096) = some (0, b) ∧
     exactBase 4096 = true) :=
  ⟨⟨rfl, by decide, by decide, by decide, by decide, by decide, by decide, by decide⟩, rfl, by decide, by decide, by decide⟩

/-- O23: a queue operation that every lane carries out. -/
theorem witness_InlineMemoryInstructions : (stqAll .push wX (word64 wS wX (.x 1)) (maskLanes wX.live) wS [] []).isSome = true := by
  decide +kernel

/-- Memory with a sync word at `wLoc`: armed, generation 0, count 0, target 2 where asked. -/
def wWord (armed : Bool) (target : Nat) : State :=
  { wS with mem := (if target = 0 then [] else [(4096, BitVec.ofNat 8 target)]) ++ (if armed then [(4108, 4)] else []) }

/-- O24: a word with counts to come, one that reaches its target, one not armed. -/
theorem witness_SyncArrivalAndQueueRules :
    (let w := (readSync (wWord true 2) wLoc).2
     w.flags.testBit 2 = true ∧ 0 % 2 ^ 32 = w.gen ∧ w.count + 1 % 2 ^ 32 < w.target) ∧
    (let w := (readSync (wWord true 2) wLoc).2
     w.flags.testBit 2 = true ∧ w.target = w.count + 2 % 2 ^ 32 ∧ w.flags.testBit 1 = false) ∧
    (let w := (readSync (wWord false 0) wLoc).2
     w.flags.testBit 2 = false ∧ w.flags.testBit 3 = false) := by decide

/-- Registers that hold 1 in every lane. -/
def wOnes (t : Troupe) : Troupe := { t with regs := [(2, known fun _ => 1), (3, known fun _ => 1)] }

/-- O25: a misaligned target. O27: masks that agree and masks that do not. -/
theorem witness_BranchesAndBarriers : let s := wState wOnes wPerform; let x := wCtx wOnes wPerform
    ctxOf s = some x ∧ settledOps x [.x 2, .x 3] = true ∧ lowLane x.live = some 0 ∧ (word64 s x (.x 2) 0).toNat % 4 ≠ 0 ∧
    gridOfGroup s x.t.group = some probeGrid ∧
    barFails s x probeGrid 0 (fun l => BitVec.ofNat 32 (word64 s x (.x 2) l).toNat) (fun l => BitVec.ofNat 32 (word64 s x (.x 3) l).toNat) = 0 ∧
    barFails s x probeGrid 0 (fun _ => 0) (fun _ => 0) ≠ 0 ∧ tabGet? (found x) 0 = some wLoc :=
  ⟨rfl, by decide, by decide, by decide, by decide, by decide, by decide, by decide⟩

/-- Two lanes take part; x2 holds v in lane 0 and w in lane 1. -/
def wTwo (v w : Word) (t : Troupe) : Troupe := { t with regs := [(2, known fun l => if l = 0 then v else w)] }
def wBoth (cl : Clause) : Clause := { wPerform cl with active := 3, subset := 3 }

/-- O25: a misaligned target after an aligned one, a target of 2^52 after one below it, and targets that are all well formed. -/
theorem witness_BranchTargets :
    (∀ q ∈ [((4 : Word), (1 : Word)), (4, 2 ^ 52), (4, 8)], let x := wCtx (wTwo q.1 q.2) wBoth
      ctxOf (wState (wTwo q.1 q.2) wBoth) = some x ∧ settledOps x [.x 2, .x 3] = true ∧ x.live = 3) ∧
    (let v (l : Nat) : Word := word64 (wState (wTwo 4 1) wBoth) (wCtx (wTwo 4 1) wBoth) (.x 2) l
     (v 0).toNat % 4 = 0 ∧ (v 1).toNat % 4 ≠ 0) ∧
    (let v (l : Nat) : Word := word64 (wState (wTwo 4 (2 ^ 52)) wBoth) (wCtx (wTwo 4 (2 ^ 52)) wBoth) (.x 2) l
     (v 0).toNat % 4 = 0 ∧ (v 1).toNat % 4 = 0 ∧ (v 0).toNat < 2 ^ 52 ∧ 2 ^ 52 ≤ (v 1).toNat) ∧
    (let v (l : Nat) : Word := word64 (wState (wTwo 4 8) wBoth) (wCtx (wTwo 4 8) wBoth) (.x 2) l
     (v 0).toNat % 4 = 0 ∧ (v 0).toNat < 2 ^ 52 ∧ (v 1).toNat % 4 = 0 ∧ (v 1).toNat < 2 ^ 52) ∧
    (wCtx (wTwo 4 (2 ^ 52)) fun cl => { wBoth cl with phase := .check }).cl.phase = .check ∧ (wBoth (probeClause [0])).phase ≠ .check := by
  refine ⟨fun q h => ?_, by decide, by decide, by decide, by decide, by decide⟩
  fin_cases h <;> exact ⟨rfl, by decide, by decide⟩

/-- O28: clauses that retire, with each control effect the statement names, a barrier whose masks no longer agree, and context moves of a
record that is mapped and of one that is not. -/
def wRetire (c : Control) (cl : Clause) : Clause := { cl with cursor := 1, phase := .retire, control := c }
theorem witness_RetirementCommitsThenActs :
    (∀ c ∈ [Control.none, .goto [], .nap (mkLanes fun _ => 5), .exit false],
      let x := wCtx id (wRetire c)
      troupeAt (wState id (wRetire c)) 0 0 = some x.t ∧ x.t.clause = some x.cl ∧ x.cl.replies = [] ∧
      controlReady (wState id (wRetire c)) x = true ∧ lateBarFails (wState id (wRetire c)) x = 0 ∧ minuetTroupe wS x.t = false) ∧
    (let x := wCtx id (wRetire (.bar 0 [] []))
     controlReady (wState id (wRetire (.bar 0 [] []))) x = true ∧ lateBarFails (wState id (wRetire (.bar 0 [] []))) x ≠ 0) := by
  refine ⟨fun c h => ?_, by decide, by decide⟩
  fin_cases h <;> exact ⟨rfl, rfl, by decide, by decide, by decide, by decide⟩

/-- O28: a context move's clause, over whatever its commit leaves: a record that is not mapped, and one that is. -/
theorem witness_ContextMoves : ∀ c ∈ [Control.ctxSave 0, .ctxRestore 0],
    (let s := wState id (wRetire c); let x := wCtx id (wRetire c)
     troupeAt s 0 0 = some x.t ∧ x.cl.control = c ∧ x.cl.active ≠ 0 ∧ controlReady s x = true ∧ recordMapped s 0 = false ∧
     (let q := squash s x 0x45 0 x.cl.active []; poolTakes [] (coreOf q 0) ≤ 8064 ∧ tablesOk q 0 = true)) ∧
    (let s := wMapped [] (wState id (wRetire c)); let x := wCtx id (wRetire c)
     troupeAt s 0 0 = some x.t ∧ controlReady s x = true ∧ recordMapped s 0 = true ∧ liveService s 0 = none ∧
     ∃ s', ctxEffect (commitClause s x) 0 c = some s' ∧
       (let q := boundary (controlEffect s' x) x; poolTakes [] (coreOf q 0) ≤ 8064 ∧ tablesOk q 0 = true)) := by
  intro c h
  rcases List.mem_pair.1 h with rfl | rfl <;>
    exact ⟨by decide +kernel, by decide +kernel, by decide +kernel, by decide +kernel, by decide +kernel, _, rfl, by decide +kernel⟩

/-- O29: a write, and a mark. O30: a program's clause. O31: the supervisor's. -/
def wSup (f : CoreSt → CoreSt) : State := modCore (State.reset.withFetchWord 32 0xF6001008) 0 f
def wSupX : Ctx := ⟨0, 64, probeTroupe 0 [0xF6001008], probeClause [0xF6001008]⟩
theorem witness_commit_and_squash :
    (let cl : Clause := { probeClause [0] with xw := [(1, known fun _ => 7), (2, known fun _ => 8)], marks := [1, 3] }
     cl.active ≠ 0 ∧ (cl.xw.map Prod.fst).Nodup ∧ tabGet? cl.xw 1 = some (known fun _ => 7) ∧ (known fun _ => 7).entry ≠ .pending ∧
     (regOf (probeTroupe 0 []) 1).entry ≠ .pending ∧ (threadOf (probeTroupe 0 []) 0).st ≠ .exited ∧ tabGet? cl.xw 3 = none ∧ 3 ∈ cl.marks ∧
     tabGet? cl.xw 4 = none ∧ 4 ∉ cl.marks) ∧
    (let cl : Clause := { probeClause [0] with pw := [(0, 1), (2, 0)], meets := [(0, 5)] }
     (cl.pw.map Prod.fst).Nodup ∧ cl.active.getLsbD 0 = true) ∧
    (let f (cl : Clause) : Clause := { wPerform cl with kw := [(1, 5)] }; let x := wCtx id f
     lowLane x.live = some 0 ∧ troupeAt (wState id f) x.core x.pos = some x.t ∧ (x.cl.kw.map Prod.fst).Nodup ∧ x.cl.csrw = []) ∧
    ctxOf wS = some wX ∧ wX.pos ≠ 64 ∧ ctxOf (wSup id) = some wSupX ∧ wSupX.pos = 64 := by
  refine ⟨by decide, by decide, by decide, rfl, by decide, rfl, rfl⟩

/-- A troupe's delivery of lane 0. -/
def wDelivery : Delivery :=
  { kind := .troupe, cause := 3, addr := 0, lanes := 1, pcs := [], subset := 1, pos := 0, group := groupKey 1 0, tidx := 0, key := 0,
    void := false, syms := [] }

/-- O32, O33, O36, O50: a delivery that waits, one in service, and a supervisor that returns from it, or is stopped in it. -/
theorem witness_deliveries :
    (let s := wSup fun k => { k with deliveries := [wDelivery] }
     (coreOf s 0).service = none ∧ (coreOf s 0).deliveries = [wDelivery] ∧ (coreOf s 0).supStopped = false ∧
     (coreOf s 0).trace.armed = false ∧ troupeAt s 0 64 = some wSupX.t) ∧
    (let s := wSup fun k => { k with service := some wDelivery, troupes := tabPut k.troupes 0 trapTroupe }
     ctxOf s = some wSupX ∧ liveService s 0 = some wDelivery ∧ (coreOf s 0).service = some wDelivery ∧
     (settledOps wSupX [.x 2] = true ∧ heldAgain s 0 wDelivery = false) ∧
     troupeAt s 0 wDelivery.pos = some trapTroupe ∧ wSupX.live ≠ 0) ∧
    (let s := wSup fun k => { k with service := some wDelivery, supStopped := true }
     (coreOf s 0).supStopped = true ∧ (coreOf s 0).service = some wDelivery ∧ (troupeAt s 0 64).isSome = true) ∧
    (let s := wSup fun k => { k with supStopped := true }
     (coreOf s 0).supStopped = true ∧ (coreOf s 0).service = none) ∧
    (∀ d, liveService (wSup id) 0 = some d → d.kind ≠ .troupe) ∧ wDelivery.kind ≠ .notice ∧ wDelivery.syms = [] ∧ wDelivery.void = false :=
  ⟨⟨by decide, by decide, by decide, by decide, rfl⟩, ⟨rfl, by decide, by decide, by decide, by decide, by decide⟩, by decide, by decide,
    by decide, by decide, by decide, by decide⟩

/-- O33: a misaligned target of `tret` for the one lane of the subset. -/
theorem witness_tret_misaligned :
    (word64 (wSup id) { wSupX with t := wOnes wSupX.t } (.x 2) 0).toNat % 4 ≠ 0 ∧ wDelivery.subset.getLsbD 0 = true ∧
    (word64 (wSup id) wSupX (.x 2) 0).toNat % 4 = 0 := by decide

/-- O35: a trace unit armed; a descriptor that arms it; TLBs with nothing outstanding; a trap in service, a save pointer
meanwhile; no service; a store buffer that is empty. -/
theorem witness_SystemInstructionsComplete :
    (coreOf (modCore wS 0 fun k => { k with trace := { k.trace with armed := true } }) 0).trace.armed = true ∧
    ((gridOfGroup wS wX.t.group).bind fun g => stopSite g wX.cl.head wX.cl.hdr.stop) = none ∧ (coreOf wS 0).trace.armed = false ∧
    (let s := wMapped [] wS
     let s := { s with mem := cellsPut (cellsPut s.mem 4096 ((leBytes 16 (65536 * 2 ^ 64)) ++ leBytes 2 (8 * 256))) 0x20000 (leBytes 8 0x10DF) }
     let q := readOwn s 0 wX.t wX.t.seq wLoc 64
     let d := leNat q.2
     armOk d = true ∧ bits d 127 64 / 65536 = 1 ∧ pagePinned (noticePoison q.1 wX.t wLoc 64) (bits d 63 0 + 65536 * 0) = true) ∧
    tlbiQuiet wS (fun _ => true) = true ∧ tlbiQuiet wS (fun e => bits e.leaf 55 52 == (word64 wS wX (.x 2) 0).toNat % 16) = true ∧
    (word64 wS wX (.x 2) 0).toNat < 2 ^ 52 ∧ pageQuiet wS 0 = true ∧
    (let s := wSup fun k => { k with service := some wDelivery }
     ctxPtrOk s wSupX 4096 = true ∧ (∀ n ∈ recordPages 4096, pageMoving s n = false) ∧ (coreOf s 0).service = some wDelivery ∧
     wDelivery.void = false ∧ (groupAt s wDelivery.group).isSome = true ∧ wSupX.live ≠ 0) ∧
    (coreOf wS 0).service = none ∧ (groupAt wS wX.t.group).isSome = true ∧ wX.pos ≠ 64 ∧ wX.t.sb = [] ∧
    tabGet wS.remote (wX.t.group * 32 + wX.t.tidx) [] = [] := by decide +kernel

/-- The group with slots, bands and a capacity table. -/
def wGroup : Group := { probeGroup with nslots := 2, nbands := 2, captab := 1 }
def wG (g : Group) : State := setGroup wS (groupKey 1 0) g

/-- O36 to O41: a group with a free slot, one with none, a busy slot, a handle beyond the last, cells of band 0, a range to regroup. -/
theorem witness_groups :
    ctxOf (wG wGroup) = some wX ∧ groupAt (wG wGroup) wX.t.group = some wGroup ∧ requestOk 0x100C = true ∧
    slotState (projSlot (wG wGroup) wX wX.t.group wGroup 0) = 0 ∧
    (∀ h, h < 2 → slotState (projSlot (wG { wGroup with slots := [(0, 1), (1, 1)] }) wX wX.t.group { wGroup with slots := [(0, 1), (1, 1)] } h) ≠ 0) ∧
    probeGroup.nslots ≤ 0 ∧ bGroupOf (wG wGroup) wX.t.group wGroup (dBM 0x3C000) = some wX.t.group ∧
    cellCauses (wG wGroup) wX wGroup (word64 (wG wGroup) wX (.x 2) 0) = [] ∧
    inlineReady (wG wGroup) wX ((rangeLocs wX).map fun l => (l, 64)) = true ∧
    rangeOk 0 = true ∧ captabOn wGroup = true ∧ wGroup.posRecord = false ∧
    ((rangeRegs 0).all fun n => pendMask (regOf wX.t n) == 0 && (regOf wX.t n).unknown == 0) = true ∧
    (wCtx id id).cl.phase = .check ∧ rangeOk 1 = false :=
  ⟨rfl, by decide, by decide, by decide +kernel, by decide +kernel, by decide, by decide, by decide +kernel, by decide +kernel, by decide,
    by decide, by decide, by decide, by decide, by decide⟩

/-- O38: one kept entry, and one kept segment with its open entry. -/
def wEntry : TileEntry := { (default : TileEntry) with op := .tmm false, group := groupKey 1 0, open_ := true }
theorem witness_TileInstructionsJoinTheQueues :
    (let f (cl : Clause) := { cl with tiles := [.entry true wEntry] }
     (wCtx id f).cl.tiles = [.entry true wEntry]) ∧
    (let s := modCore wS 0 fun k => { k with tileLo := [wEntry] }
     (coreOf s 0).tileLo = [wEntry] ∧ (coreOf s 0).tileHi = [] ∧ wEntry.open_ = true ∧
     (entryWrites wEntry).contains (wX.t.group, false, dBand 0) = true) := by decide

/-- O40: every lane's place of a record and its target. -/
theorem witness_CopyInstructions :
    let f (cl : Clause) : Clause := { wPerform cl with xlat := [(0, [(0, wLoc), (32, wLoc)])] }
    let x := wCtx id f
    (((found x).filter fun e => decide (e.1 < 32)).map fun e => e.1) = maskLanes x.live ∧ (tabGet? (found x) 32).isSome = true ∧
    x.t.sb.length + (maskLanes x.live).length ≤ 64 ∧ (word64 wS wX (.x 2) 0).toNat < 4 := by decide

/-- O44: no clause runs. O45: an event. O48: a step from canonical memories. O49: a memory in canonical form. -/
theorem witness_whole_machine :
    ctxOf State.reset = none ∧ Instr.fmt .nop ≠ .event ∧ Instr.fmt .fabricTick = .event ∧ ctxOf wS ≠ none ∧
    (∃ t, step wS = .next t) ∧ MemoriesWf wS ∧ memoryWf [(4096, 1)] = true := by
  refine ⟨by decide, by decide, by decide, by decide, ⟨_, rfl⟩, ⟨by decide, by decide, by decide, fun k g h => ?_⟩, by decide⟩
  have : wS.groups = [(groupKey 1 0, probeGroup)] := rfl
  simp only [groupAt, this, tabGet?] at h
  split at h <;> simp at h
  subst h
  rfl

/-! ## Witnesses for the events -/

/-- The probe grid's troupe with no clause, changed as given, after a hundred cycles; its page is in the core's TLB. -/
def wIdle (t : Troupe → Troupe) : State :=
  let s := setTroupe (State.reset.withFetchWord 32 0) 0 0 { t (probeTroupe (groupKey 1 0) [0]) with clause := none }
  modCore { s with focus := none, cycle := 100, mem := cellsPut [] 0x01000000 (leBytes 4 0xC9000001) } 0 fun k =>
    { k with tlb := [⟨0x01000000, 65536, 0x0100008F⟩] }

/-- Lane 0 of a troupe in a state. -/
def wLane (st : ThreadState) (t : Troupe) : Troupe := { t with threads := tabPut t.threads 0 { threadOf t 0 with st } }
def wIdleT (t : Troupe → Troupe) : Troupe := { t (probeTroupe (groupKey 1 0) [0]) with clause := none }

/-- O50: a nap, a yield, a wait and a park that are over. -/
theorem witness_ThreadsWake :
    (let t := wLane (.napping 50); troupeAt (wIdle t) 0 0 = some (wIdleT t) ∧ (threadOf (wIdleT t) 0).st = .napping 50 ∧
     50 ≤ (if minuetTroupe (wIdle t) (wIdleT t) then (wIdleT t).turns else (wIdle t).cycle)) ∧
    (let t := wLane (.yielded [] 900); troupeAt (wIdle t) 0 0 = some (wIdleT t) ∧ (threadOf (wIdleT t) 0).st = .yielded [] 900 ∧
     minuetTroupe (wIdle t) (wIdleT t) = false) ∧
    (let t := wLane (.watching wLoc 7 none); let s := wIdle t; let r := readSync (dropPlain s 0 wLoc.line) wLoc
     troupeAt s 0 0 = some (wIdleT t) ∧ (threadOf (wIdleT t) 0).st = .watching wLoc 7 none ∧ r.2.gen ≠ 7 ∧ wLoc.area ≠ .lost ∧
     pollStays s 0 0 wLoc = false ∧
     troupeAt r.1 0 0 = some (wIdleT t)) ∧
    (let k : Park := { id := 3, lanes := 1, pages := [], retry := some 60, syms := [] }
     let t (u : Troupe) : Troupe := { wLane (.parked 3) u with parks := [k] }
     troupeAt (wIdle t) 0 0 = some (wIdleT t) ∧ (wIdleT t).parks.find? (fun e => e.id == k.id) = some k ∧ k.retry = some 60 ∧
     60 ≤ (wIdle t).cycle ∧ k.syms = []) :=
  ⟨⟨by decide, by decide, by decide⟩, ⟨by decide, by decide, by decide⟩, ⟨by decide, by decide, by decide +kernel, by decide +kernel⟩,
   by decide, by decide, by decide, by decide, by decide⟩

/-- O50: a free slot with one candidate, whose clause of one `nop` stands in memory. -/
theorem witness_ClausesStart : let s0 := settleSlot (wIdle id) 0 0; let u := wIdleT id
    tabGet (coreOf (wIdle id) 0).slotBusy 0 0 ≤ (wIdle id).cycle ∧ candidates s0 0 0 = [(0, 0, -1)] ∧ troupeAt s0 0 0 = some u ∧
    u.clause = none ∧ fetchWords s0 ⟨0, false, troupeKey s0 u, u.group⟩ 1 (threadOf u 0).pc = (s0, .inr [0xC9000001]) ∧
    headerOk 0xC9000001 = true ∧ fetchWords s0 ⟨0, false, troupeKey s0 u, u.group⟩ 1 ((threadOf u 0).pc + 4) = (s0, .inr [0]) ∧
    cutWords 24 0 [0] = some [(0, 0, 0)] ∧ placed (headerOf 0xC9000001).cls [(0, 0, 0)] = true ∧
    decodeAll (isSup 0) (gridOfGroup s0 u.group) [(0, 0, 0)] = .inr [(0, .nop)] ∧ u.nextStart ≤ s0.cycle ∧
    waitOk s0 0 u (headerOf 0xC9000001) = true ∧
    fetchPoison s0 ⟨0, false, troupeKey s0 u, u.group⟩ 2 (threadOf u 0).pc = false ∧ (headerOf 0xC9000001).trailer = false ∧ (headerOf 0xC9000001).cls ≠ 1 ∧
    deferredOpen s0 0 0 = false ∧ xNumbers (namedOperands .nop) = [] := by decide +kernel

/-- O50: a stopped trap troupe. -/
def wStopped (d : Option Delivery) : State :=
  setTroupe (modCore (wIdle id) 0 fun k => { k with supStopped := true, service := d }) 0 64 trapTroupe

theorem witness_Traprst : let d : Delivery := default
    ((coreOf (wStopped (some d)) 0).supStopped = true ∧ (coreOf (wStopped (some d)) 0).service = some d ∧
      troupeAt (wStopped (some d)) 0 64 = some trapTroupe) ∧
    (coreOf (wStopped none) 0).supStopped = true ∧ (coreOf (wStopped none) 0).service = none := by decide +kernel

/-- O51: a spill under way, and a spilled register whose image is read back for a clause that names it. -/
theorem witness_RegistersMove :
    (let t (u : Troupe) : Troupe := { u with regs := [(2, { emptyReg with entry := .resident })] }
     let s := modCore (wIdle t) 0 fun k => { k with spills := [(0, 2)] }
     (coreOf s 0).spills[0]? = some (0, 2) ∧ troupeAt s 0 0 = some (wIdleT t) ∧ (regOf (wIdleT t) 2).entry = .resident) := by
  decide +kernel

/-- One thread that has arrived at a regroup, or restore, of an empty range; the others have exited. -/
def wArrived (fn : Nat) (t : Troupe) : Troupe :=
  { t with threads := [(0, { threadOf t 0 with st := .arrived fn 0x0FC0 3 5 0x01000000 0x01000004 })] }

def wMember (fn : Nat) : Member := ⟨groupKey 1 0, 0, 0, 0, 0, threadOf (wIdleT (wArrived fn)) 0⟩

/-- O51: a turn that is used up; a group whose one thread has arrived. -/
theorem witness_TurnsAndThreadsMove :
    (let g : Grid := { probeGrid with turnUsed := true }; let s := setGrid (wIdle id) 1 g; let u := wIdleT id
     gridAt s 1 = some g ∧ gangSaved s 1 = false ∧ turnTroupeOf s 1 g = some (0, 0, g.turnGroup, g.turnTroupe) ∧
     troupeAt s 0 0 = some u ∧ heldByTrap s 0 0 u = false ∧ u.parks = [] ∧ u.halted = false ∧ turnQuiet s 0 0 u = true ∧
     s.groups.any (fun e => e.2.ticket == 1 && e.2.closing) = false ∧
     turnAfter (admitMore 1 64 (setTroupe s 0 0 { u with turns := u.turns + 1 })) 1 g.turnGroup g.turnTroupe = some (0, 0, 0, 0)) ∧
    (∀ fn ∈ [0, 1], (arrivedAll (wIdle (wArrived fn)) (groupKey 1 0)).map (fun q => q.map fun e => [e.1.key, e.1.lane, e.2.1, e.2.2.1]) =
       some [[groupKey 1 0, 0, fn, 0x0FC0]] ∧
     arrivedWhat (wIdle (wArrived fn)) (wMember fn) = some (fn, 0x0FC0, 0x01000000) ∧
     moveTurn (wIdle (wArrived fn)) (groupKey 1 0) probeGroup = true ∧ moveReady (wIdle (wArrived fn)) 0 0 0x0FC0 = true ∧
     moveFits (coreOf (wIdle (wArrived fn)) 0) probeGroup 0x0FC0 3 (fun e => holding e.2) = true) ∧ rangeCap 0x0FC0 = false :=
  ⟨by decide +kernel, fun fn h => by rcases List.mem_pair.1 h with rfl | rfl <;> decide +kernel, by decide⟩

/-- The probe grid's group with a second troupe, at position 1, and its first troupe's turn used up. -/
def wPair : State :=
  let s := setGrid (wIdle id) 1 { probeGrid with turnUsed := true }
  setTroupe (modGroup s (groupKey 1 0) fun g => { g with ntroupes := 2, troupes := [(0, 0), (1, 1)] }) 0 1
    { wIdleT id with tidx := 1 }

/-- The pair after its first troupe's turn is counted. -/
def wTurned : State := setTroupe wPair 0 0 { wIdleT id with turns := (wIdleT id).turns + 1 }

theorem witness_PairRotates : Machine.rotation wPair 1 = [(0, 0, 0, 0), (0, 1, 0, 1)] ∧ Machine.rotation wTurned 1 = [(0, 0, 0, 0), (0, 1, 0, 1)] := by
  constructor <;> rw [Machine.rotation, List.mergeSort_of_pairwise (by decide +kernel)] <;> decide +kernel

/-- O51: a turn that is used up with another troupe to come. -/
theorem witness_TurnsPass : let g : Grid := { probeGrid with turnUsed := true }; let u := wIdleT id
    gridAt wPair 1 = some g ∧ gangSaved wPair 1 = false ∧ troupeAt wPair 0 0 = some u ∧ heldByTrap wPair 0 0 u = false ∧
    wPair.groups.any (fun e => e.2.ticket == 1 && e.2.closing) = false ∧ turnQuiet wPair 0 0 u = true ∧
    turnTroupeOf wPair 1 g = some (0, 0, g.turnGroup, g.turnTroupe) ∧
    ((Machine.rotation wTurned 1).getLast?.map fun r => (r.2.2.1, r.2.2.2)) = some (0, 1) ∧
    turnAfter wTurned 1 g.turnGroup g.turnTroupe = some (0, 1, 0, 1) := by
  refine ⟨by decide +kernel, by decide +kernel, by decide +kernel, by decide +kernel, by decide +kernel, by decide +kernel, ?_, ?_, ?_⟩
  · rw [turnTroupeOf, witness_PairRotates.1]; decide
  · rw [witness_PairRotates.2]; decide
  · rw [turnAfter, witness_PairRotates.2]; decide

/-- O51: a spilled register of the range an arrived thread names; its image is read. -/
theorem witness_Refill :
    let t (u : Troupe) : Troupe := { u with threads := [(0, { threadOf u 0 with st := .arrived 0 0x82 3 5 0 4 })],
                                            regs := [(2, { emptyReg with entry := .spilled })] }
    let s := modCore (wIdle t) 0 fun k => { k with tlb := ⟨0, 65536, 0xEF⟩ :: k.tlb }
    troupeAt s 0 0 = some (wIdleT t) ∧ (regOf (wIdleT t) 2).entry = .spilled ∧ (wIdleT t).suspended = false ∧
    ((wantedSets s 0 (wIdleT t)).find? fun q => q.contains 2).isSome = true ∧ regsFit (coreOf s 0) 0 (wIdleT t) 4 = true ∧ (readSpill s 0 0 2).2.isRight = true ∧
    (troupeAt (readSpill s 0 0 2).1 0 0).isSome = true := by decide +kernel

/-- O52: a gang whose member runs nothing, with its watchdog spent; one whose member runs a clause; a group whose threads have exited. -/
theorem witness_GangsAreKilledAndGroupsRetire :
    (let s := modGroup (modCore (wIdle id) 0 fun k => { k with wdog := 4 }) (groupKey 1 0) fun g => { g with hang := 2 ^ 18 }
     let w := { probeGroup with hang := 2 ^ 18 }
     gridAt s 1 = some probeGrid ∧ gangAlive s 1 probeGrid 0 = true ∧ tabGet? probeGrid.dying 0 = none ∧ gangRunning s 1 probeGrid 0 = false ∧
     groupAt s (groupKey 1 0) = some w ∧ gangOf s (groupKey 1 0) = (1, 0) ∧ bits (coreOf s 0).wdog.toNat 31 0 ≠ 0 ∧
     bits (coreOf s 0).wdog.toNat 31 0 * 65536 ≤ w.hang) ∧
    (gridAt wS 1 = some probeGrid ∧ gangAlive wS 1 probeGrid 0 = true ∧ gangRunning wS 1 probeGrid 0 = true ∧ 0x44 ≠ goOnKill) ∧
    (let s := wIdle fun t => { t with threads := [] }
     groupAt s (groupKey 1 0) = some probeGroup ∧ groupDrained s (groupKey 1 0) = true ∧ jobsNaming s [groupKey 1 0] = [] ∧
     rangeSettled s probeGrid probeGroup = true) := by decide +kernel

/-- A place of device memory as `wMapped` translates its address. -/
def wPage (a : Nat) : Loc := ⟨.device, a, 0, false, 0, a, some ⟨0, 2 ^ 34, 0xDF⟩⟩

/-- O53: a launch queue at address 0x3000 whose one entry stands at 0x4000. -/
theorem witness_LaunchQueue : let s := wMapped [(0x3000, 0x4000), (0x3008, 1), (0x3018, 1), (0x4000, 0x5000)] (wIdle id)
    let s0 := { s with mgmt := { s.mgmt with lqnext := 1 } }
    let l := wPage 0x3000
    ((List.range 8).map fun n => (s.mgmt.lqnext + n) % 8).find? (queueWaiting s) = some 0 ∧ s.mgmt.boot = 5 ∧ s.mgmt.failed = false ∧
    launchQueue s0 0 = some l ∧
    (let q := queueOf (unitHome s0 l 64).2
     queueOk q = true ∧ 0 < queueHeld q ∧ queueHeld q ≤ q.capacity ∧
     (let r := unitBytes (unitHome s0 l 64).1 (entryPtr q q.head) 8
      r.2 = some [0, 0x50, 0, 0, 0, 0, 0, 0] ∧
      (takeEntry (homeWrite r.1 (l.plus 16) (leBytes 8 (q.head + 1))) 0 0x5000).stuck = false)) := by decide +kernel

/-- A grid of priority 5 whose gangs take 32 slots: in Minuet on core 0, or of four members; and a gang that waits. -/
def wMinuet : Grid :=
  { probeGrid with record := probeGrid.record.set 4 (word (128 * 2 ^ 22 + 2 ^ 50 + 5 * 2 ^ 46 + 32 * 2 ^ 40)), minuetCore := some 0 }
def wFour : Grid := { probeGrid with record := probeGrid.record.set 1 (word (5 + 2 * 2 ^ 14 + 3 * 2 ^ 42 + 2 ^ 45 + 2 * 2 ^ 48 + 3 * 2 ^ 51)) }
def wPendGang (t : Nat) (saved : Bool) : PendingGang := { ticket := t, gang := 0, requeued := false, saved, starts := [] }

/-- The probe grid and another, whose gang waits on a die; cores of the first block of four on dies 0 and 1 spill. -/
def wWaits (die : Nat) (b g : Grid) (p : PendingGang) (s : State) : State :=
  let s := { s with grids := [(1, b), (2, g)] }
  let s := [0, 1, 8, 9, 64, 65, 72, 73].foldl (fun s c => modCore s c fun k => { k with spillbase := 1 }) s
  modGroup (modDie s die fun d => { d with pending := [p] }) (groupKey 1 0) fun q => { q with nslots := 1 }

/-- The probe grid's group is gone. -/
def wAlone (s : State) : State := removeGroup s (groupKey 1 0)

def wSteals : State := wAlone (wWaits 1 probeGrid wFour (wPendGang 2 false) (wIdle id))

/-- O53: a gang that waits and fits, on its die and on another. -/
theorem witness_GangsPlaced :
    firstFit (wAlone (wWaits 0 probeGrid wMinuet (wPendGang 2 false) (wIdle id))) 0 = some (2, wMinuet, wPendGang 2 false, [0]) ∧
    (((List.range 4).filter (· != 0)).mergeSort fun a b =>
      decide ((unstarted wSteals b).length ≤ (unstarted wSteals a).length)).head? = some 1 ∧
    dieIdle wSteals 0 = true ∧ dieIdle wSteals 1 = false ∧
    (stolenGang wSteals 0 1).map (fun q => (q.1, q.2.2.1)) = some (2, wPendGang 2 false) :=
  ⟨by decide +kernel, by rw [List.mergeSort_of_pairwise (by decide +kernel)]; decide, by decide +kernel, by decide +kernel,
   by decide +kernel⟩

/-- O53: a gang that gives way, with a save area or with a region that all its threads stand in. -/
theorem witness_GangsGiveWay :
    (let b : Grid := { probeGrid with record := probeGrid.record.set 9 0x100000 }
     let s := wWaits 0 b wMinuet (wPendGang 2 false) (wIdle id)
     preemptChoice s 0 = some (1, b, 0, false) ∧ wholeKeys s 1 b 0 = [groupKey 1 0]) ∧
    (let b : Grid := { probeGrid with regions := [(0x01000000, 0x01001000)] }
     let s := wWaits 0 b wMinuet (wPendGang 2 false) (wIdle id)
     gridAt s 1 = some b ∧ preemptChoice s 0 = some (1, b, 0, true)) := by decide +kernel

/-- The probe grid with a save area. -/
def wSaves : Grid := { probeGrid with record := probeGrid.record.set 9 0x100000 }

/-- A gang of a grid was saved and waits on die 0. -/
def wSaved (g : Grid) : State := wMapped [] (wAlone (wWaits 0 probeGrid g (wPendGang 2 true) (wIdle id)))

/-- O53: a gang ready for its save (the writing of its image is not run here). -/
theorem witness_GangsSaved :
    let s := modGroup (wMapped [] (wWaits 0 wSaves wMinuet (wPendGang 2 false) (wIdle id))) (groupKey 1 0) fun q => { q with closing := true }
     let keys := wholeKeys s 1 wSaves 0
     gridAt s 1 = some wSaves ∧ tabGet? wSaves.dying 0 = none ∧ heldByJob s keys = false ∧ someExited s 1 wSaves 0 = false ∧
     keys = [groupKey 1 0] ∧ saveReady s (groupKey 1 0) = true ∧ keys.all (flushable s wSaves) = false ∧ minuetStill s 1 wSaves = true ∧
     runningEntries s (groupKey 1 0) = [] ∧ givingWay s 1 wSaves 0 = [0] := by decide +kernel

/-- The saved gang's grid with its one member retired. -/
def wEmptied : Grid := { wSaves with retired := [0] }

/-- O53: a saved gang whose members have all retired, restored (the reading of an image is not run here). -/
theorem witness_GangsRestored :
    firstFit (wSaved wEmptied) 0 = some (2, wEmptied, wPendGang 2 true, [0]) ∧ liveMembers wEmptied 0 = [] ∧ isMinuet wEmptied = false ∧
    imagesReady (wSaved wEmptied) wEmptied [0] [wPendGang 2 true] = true ∧
    comingBack (wSaved wEmptied) 0 2 wEmptied (wPendGang 2 true) = [wPendGang 2 true] ∧
    (bringBack (wSaved wEmptied) 0 2 wEmptied [0] [wPendGang 2 true]).isLeft = true :=
  ⟨by decide +kernel, by decide +kernel, by decide +kernel, by decide +kernel, by decide +kernel, by decide +kernel⟩

/-- O53: a pipeline whose period is over and none of whose gangs is idle. -/
theorem witness_StagePeriod : let p : Pipeline := { stages := [1], admitted := [(0, 3)], weights := [1], nextPeriod := 50 }
    let s := { wIdle id with pipelines := [(1, p)] }
    tabGet? s.pipelines 1 = some p ∧ p.nextPeriod ≤ s.cycle ∧
    idleChoice s { p with admitted := [], nextPeriod := s.cycle + 8192, weights := p.stages.map fun k => ((gridAt s k).map (weightOf s)).getD 0 } = none := by
  decide +kernel

/-- A place in a peer's memory, and the machine with the probe grid's key revoked. -/
def wPeer : Loc := ⟨.peer, 4096, 0, false, 2, 4096, none⟩
def wRevoked (s : State) : State := { s with mgmt := { s.mgmt with revoked := [0] } }
def wSym (l : Loc) : Symbol := { (default : Symbol) with kind := .element 3, lanes := 1, locs := [(0, l)] }
def wSymbols (y : Symbol) : State := modCore (wIdle id) 0 fun k => { k with symbols := [(5, y)] }

/-- O54: a load to be answered in lane 0, with and without a reply, and arrivals at a word here and in a peer. -/
theorem witness_Arrivals :
    (∀ l ∈ [wLoc, wPeer], symbolAt (wSymbols (wSym l)) 0 5 = some (wSym l) ∧ troupeAt (wSymbols (wSym l)) 0 (wSym l).pos = some (wIdleT id) ∧
     (openLanes (wSym l)).getLsbD 0 = true ∧ tabGet? (wSym l).replies 0 = none ∧ tabGet? (wSym l).locs 0 = some l ∧ l.area ≠ .host) ∧
    (readReady (wSymbols (wSym wLoc)) 0 (wIdleT id) (wSym wLoc) wLoc (typeWidth 3 / 8) = true ∧
     hasSlot (wSymbols (wSym wLoc)) 0 5 (wSym wLoc) wLoc.line = true ∧ answerRevoked (wSymbols (wSym wLoc)) 0 (wIdleT id) wLoc = false) ∧
    (let y : Symbol := { (default : Symbol) with kind := .element 3, lanes := 1, replies := [(0, 9)] }
     symbolAt (wSymbols y) 0 5 = some y ∧ troupeAt (wSymbols y) 0 y.pos = some (wIdleT id) ∧ (openLanes y).getLsbD 0 = true ∧
     tabGet? y.replies 0 = some 9) ∧
    (let a : Arrival := ⟨wLoc, 1, 16, 0⟩; let s : State := { wIdle id with arrivals := [a] }
     s.arrivals[0]? = some a ∧ arrivalRevoked s a = false ∧ arrivalWaits s a = false) ∧
    (let a : Arrival := ⟨wPeer, 1, 16, 0⟩; let s := wRevoked { wIdle id with arrivals := [a] }
     s.arrivals[0]? = some a ∧ a.word.area = .peer ∧ a.key ∈ s.mgmt.revoked) := by decide +kernel

/-- O54: a load that a revoked key keeps in the package. -/
theorem witness_RevokedLoad : let s := wRevoked (wSymbols (wSym wPeer))
    readReady s 0 (wIdleT id) (wSym wPeer) wPeer (typeWidth 3 / 8) = true ∧ hasSlot s 0 5 (wSym wPeer) wPeer.line = true ∧
    symbolAt s 0 5 = some (wSym wPeer) ∧ troupeAt s 0 (wSym wPeer).pos = some (wIdleT id) ∧
    wPeer.area = .peer ∧ isSup (wSym wPeer).pos = false ∧ troupeKey s (wIdleT id) ∈ s.mgmt.revoked := by
  refine ⟨?_, by decide +kernel, by decide +kernel, by decide +kernel, by decide +kernel, by decide +kernel, by decide +kernel⟩
  have h : answerRevoked (wRevoked (wSymbols (wSym wPeer))) (wSym wPeer).pos (wIdleT id) wPeer = true := by decide +kernel
  rw [readReady, h, Bool.or_true]
  decide +kernel

/-- A tile entry of the probe group, and a core whose high queue holds it. -/
def wTile (op : TileOp) (st : Option Nat) : TileEntry :=
  { id := 3, op, group := groupKey 1 0, issuer := 0, desc := 0, mem := [], notify := none, open_ := false, fmts := (0, 0), segments := [],
    mode := 0, scales := [], enqueued := 0, eligible := 1, started := st, reruns := 0, job := none, steps := 0 }
def wTiles (e : TileEntry) : State := modCore (wIdle id) 0 fun k => { k with tileHi := [e] }

/-- O54: an entry to start. -/
theorem witness_TileEntries :
    (∀ q ∈ coreEntries (coreOf (wTiles (wTile .accZero none)) 0), placesKnown q = true ∧ q.eligible ≠ 0) ∧
    chooseEntry (coreOf (wTiles (wTile .accZero none)) 0) (entryEligible (wTiles (wTile .accZero none)) 0) =
      some (true, wTile .accZero none) := by decide +kernel

/-- A tile entry of the probe group, changed as given, that has run on core 0, whose group is the one given. -/
def wRan (op : TileOp) (f : TileEntry → TileEntry) : TileEntry :=
  f { id := 3, op, group := groupKey 1 0, issuer := 0, desc := 0, mem := [], notify := none, open_ := false, fmts := (0, 0), segments := [],
      mode := 0, scales := [], enqueued := 0, eligible := 1, started := some 1, reruns := 0, job := none, steps := 0 }
def wRun (e : TileEntry) (g : Group) : State := setGroup { wTiles e with cycle := 2 ^ 20 } (groupKey 1 0) g
def wSeg (e : TileEntry) : TileEntry := { e with segments := [{ desc := 0, done := false, bGroup := groupKey 1 0 }] }

/-- The entries of each operation, in each kind of format. -/
def wEntries : List TileEntry :=
  [wRan .accZero id, wRan (.tmm false) (fun e => wSeg { e with fmts := (12, 12) }), wRan (.tmm false) (fun e => wSeg { e with fmts := (13, 13) }),
    wRan (.tmm true) (fun e => wSeg { e with fmts := (18, 18) }), wRan .tsa id, wRan .accLd id, wRan .accSt id,
    wRan (.accCvst 1 false) (fun e => { e with fmts := (13, 14) }), wRan (.accCvst 1 false) (fun e => { e with fmts := (13, 20) }),
    wRan .opmSt id]

/-- O54: entries of each operation that have run, a tile to load, and a product with a mismatch. -/
theorem witness_TileResults :
    (wEntries.all fun e => let s := wRun e wGroup
      (coreEntries (coreOf s 0)).find? (fun q => q.id == e.id && workDone s.cycle q) == some e && groupAt s e.group == some wGroup &&
      e.job == none && !readsPoison s e && !(coreOf s 0).trace.armed &&
      e.segments.all fun q => !q.done && q.job == none && !e.open_ && e.steps == 0 && (groupAt s q.bGroup).isSome) = true ∧
    (let e := wRan .opmLd fun e => { e with mem := [wLoc, wLoc.plus 64] }
     let g := { wGroup with slots := [(0, claimedTag 0 2)] }
     let s := wRun e g
     (coreEntries (coreOf s 0)).find? (fun q => q.id == e.id && workDone s.cycle q) = some e ∧ groupAt s e.group = some g ∧
     readsPoison s e = false ∧ (entryRead s e 128 fun _ => []).2.length = 128 ∧ tileSize (slotTag g 0) = 128 ∧ slotState (slotTag g 0) = 1 ∧
     slotReaders (slotTag g 0) = 0 ∧ 0 < g.nslots ∧ tabGet g.slotWritten 0 [] = []) ∧
    (let e := wRan (.tmm false) id; let s := wRun e wGroup
     (coreEntries (coreOf s 0)).find? (fun q => q.id == e.id && workDone s.cycle q) = some e ∧ e.reruns = 0) :=
  ⟨by decide +kernel, by decide +kernel, by decide +kernel⟩

/-- A job of the probe grid at die 0, running and laid out, changed as given. -/
def wJob (f : Job → Job) : Job := f { (default : Job) with number := 4, ticket := 1, group := groupKey 1 0, st := .running, built := true }
def wJobs (f : Job → Job) (s : State) : State := modDie s 0 fun d => { d with jobs := [wJob f] }

/-- A flit that writes four given bytes at an address of space 0x0. -/
def wFlit : JobFlit := { dst := 0x6000, src := [.val 1, .val 2, .val 3, .val 4] }
def wRegion (j : Job) : Job := { j with card := [0, 0, 0, 0, 0, 0, 0, 0, 0, 0, 0, 0, word (48 + 2 ^ 44)], todo := [wFlit] }

/-- O54: a flit at a home, and a follow-on that joins its queue. -/
theorem witness_JobAccesses :
    (let s := wMapped [] (wJobs wRegion (wIdle id)); let j := wJob wRegion
     jobAt s 0 4 = some j ∧ j.built = true ∧ reachedFlit s 0 j 0 = true ∧ j.todo[0]? = some wFlit ∧ scatterWaits j 0 = false ∧
     hasJoined s j = true ∧
     (match planFlit (setJob s 0 { j with joined := true }) 0 { j with joined := true } wFlit with
      | (s1, .inr p) => !planWaits s1 p
      | _ => false) = true) ∧
    (let f (j : Job) : Job := { j with follow := [word (2 * 8 + 4), 0x10, 0, 0], followed := 1 }
     let s := modGroup (wJobs f (wIdle id)) (groupKey 1 0) fun g => { g with nbands := 2, bandTags := [(1, 3)] }; let j := wJob f
     let g := { probeGroup with nbands := 2, bandTags := [(1, 3)] }
     jobAt s 0 4 = some j ∧ followKey j = groupKey 1 0 ∧ groupAt s (followKey j) = some g ∧ followCauses s (followKey j) g j = [] ∧
     (followNotify s j g (followKey j)).2.isRight = true ∧ bits (followWord j 0) 4 3 = 2 ∧ queueUsed (coreOf s 0) false < 16) := by
  decide +kernel

/-- O54: a flit of a job whose destination is a slot of its group. -/
theorem witness_SlotFlit : let f (j : Job) : Job := { wRegion j with dstRec := [0, 256] }
    let s := modGroup (wMapped [] (wJobs f (wIdle id))) (groupKey 1 0) fun _ => { wGroup with slots := [(0, claimedTag 0 2)] }; let j := wJob f
    jobAt s 0 4 = some j ∧ j.st = .running ∧ j.built = true ∧ (slotTarget j).isSome = true ∧ reachedFlit s 0 j 0 = true ∧
    j.todo[0]? = some wFlit ∧ scatterWaits j 0 = false ∧ hasJoined s j = true ∧
    (match planFlit (setJob s 0 { j with joined := true }) 0 { j with joined := true } wFlit with
     | (s1, .inr p) => !planWaits s1 p
     | _ => false) = true := by decide +kernel

/-- A die to which a card has come, and as many jobs as given. -/
def wInbox (card : Nat) (jobs : List Job) (s : State) : State := modDie s 0 fun d =>
  { d with jobs, inbox := [{ core := 0, pos := 0, lane := 0, entry := 1, group := groupKey 1 0, ticket := 1, card := ⟨.device, card, 0, false, 0, card, none⟩, gen := 0 }] }

/-- What the scheduler makes of the card. -/
def wValidated (s : State) : Option Nat :=
  match (dieAt s 0).inbox with
  | [] => none
  | q :: _ =>
    let c0 := homeRead s q.card 64
    let c1 := homeRead c0.1 (q.card.plus 64) 64
    match (validate c1.1 0 q (wordsOf (c0.2 ++ c1.2))).2 with
    | .inl n => some n
    | .inr _ => some 0

/-- O55: a full window, a card of a fill that is accepted, and one whose records are not tensors. -/
theorem witness_CardsAreAccepted :
    512 ≤ (dieAt (wInbox 0x7000 (List.replicate 512 (default : Job)) (wIdle id)) 0).jobs.length ∧
    wValidated (wInbox 0x7000 [] (wMapped [(0x7000, 4), (0x7010, 0x7100), (0x7100, 0x6000), (0x7108, 0x23)] (wIdle id))) = some 0 ∧
    wValidated (wInbox 0x7000 [] (wMapped [] (wIdle id))) = some 3 := by decide +kernel

/-- O55: held jobs, whose word advances or whose grid is over; a notice; a job that may start. -/
theorem witness_JobsWaitAndStart :
    (let f (j : Job) : Job := { j with st := .held, card := [0, 0, 0, 0, 0, 0x6000] }
     let s := wMapped [] (wJobs f (wIdle id)); let j := wJob f
     jobAt s 0 4 = some j ∧ j.st = .held ∧ waitLoc s 0 j = some (wPage 0x6000) ∧ j ∈ (dieAt s 0).jobs ∧
     (waitLoc s 0 j).map Loc.key = some (Loc.key (wPage 0x6000)) ∧ stillHeld (waitGen j) 0 = false) ∧
    (let f (j : Job) : Job := { j with st := .held, ticket := 9 }
     jobAt (wJobs f (wIdle id)) 0 4 = some (wJob f) ∧ (wJob f).st = .held ∧ gridOver (wJobs f (wIdle id)) (wJob f).ticket = true) ∧
    (let s := modDie (wIdle id) 0 fun d => { d with notices := [(wLoc, 3)] }; (dieAt s 0).notices = [(wLoc, 3)]) ∧
    (let f (j : Job) : Job := { j with st := .accepted }
     let s := wJobs f (wIdle id); let d := dieAt s 0
     (List.range 16).find? (fun e => !(busyEngines d).contains e) = some 0 ∧
     ((d.jobs.filter (jobEligible s d)).mergeSort fun a b => decide (cardPrio b ≤ cardPrio a)) = [wJob f]) := by decide +kernel

/-- Which obstacle a job meets. -/
def wMeets (s : State) (j : Job) : Option (Nat × Word) :=
  match obstacle s 0 j 0 with
  | some (.stall c p) => some (c, p)
  | some (.ends r) => some (r, 0)
  | _ => none

/-- O55: a job at a page that is not mapped; jobs that stalled; one that leaves its regions; one of a revoked key; a collective. -/
theorem witness_JobsStopAndGoOn :
    (jobAt (wJobs wRegion (wIdle id)) 0 4 = some (wJob wRegion) ∧ (wJob wRegion).st = .running ∧
     wMeets (wJobs wRegion (wIdle id)) (wJob wRegion) = some (0x10, 0x6000)) ∧
    (let f (j : Job) : Job := { j with st := .stalled, stallPage := some 0 }
     jobAt (wMapped [] (wJobs f (wIdle id))) 0 4 = some (wJob f) ∧ pageMapped (wMapped [] (wJobs f (wIdle id))) 0 = true ∧ (wJob f).built = true) ∧
    (let f (j : Job) : Job := { j with todo := [wFlit] }
     jobAt (wJobs f (wIdle id)) 0 4 = some (wJob f) ∧ cardKey (wJob f) ∉ (wJobs f (wIdle id)).mgmt.revoked ∧
     wMeets (wJobs f (wIdle id)) (wJob f) = some (0x80, 0)) ∧
    (let s := { wJobs id (wIdle id) with mgmt := { (wIdle id).mgmt with revoked := [0] } }
     jobAt s 0 4 = some (wJob id) ∧ cardKey (wJob id) ∈ s.mgmt.revoked ∧ cardKind (wJob id) < 5) ∧
    (∀ k ∈ [5, 6], let f (j : Job) : Job := { j with card := [word k], auxRec := [2], joined := true }
     jobAt (wJobs f (wIdle id)) 0 4 = some (wJob f) ∧ (wJob f).st = .running ∧ (wJob f).built = true ∧ 1 < collMembers (wJob f).auxRec ∧
     hasJoined (wJobs f (wIdle id)) (wJob f) = true ∧ cardKind (wJob f) = k) := by
  refine ⟨by decide +kernel, by decide +kernel, by decide +kernel, by decide +kernel, fun k h => ?_⟩
  rcases List.mem_pair.1 h with rfl | rfl <;> decide +kernel

/-- A job whose writes are done, with a follow-on of the probe group of the code given. -/
def wFollow (code followed : Nat) (j : Job) : Job :=
  { j with card := [0, 0, 0, 0, 0, 0, 0x8000, 0, word (48 + 2 ^ 44)], follow := [word (8 * code), 0, 0x6000, 0], followed }

/-- O55: jobs whose last write is done. -/
theorem witness_JobsFinish :
    (let s := wMapped [] (wJobs (wFollow 2 0) (wIdle id)); let j := wJob (wFollow 2 0)
     jobAt s 0 4 = some j ∧ j.st = .running ∧ writesDone j = true ∧ j.discarded = false ∧ hasFollow j = true ∧ j.followed = 0 ∧
     (groupAt s (followKey j)).isSome = true ∧ bits (followWord j 0) 4 3 = 2 ∧ (scaleRead s 0 j).2.isRight = true) ∧
    (let s := wJobs (wFollow 0 0) (wIdle id); let j := wJob (wFollow 0 0)
     (groupAt s (followKey j)).isSome = true ∧ bits (followWord j 0) 4 3 ≠ 2) ∧
    (let s := wAlone (wJobs (wFollow 0 0) (wIdle id)); groupAt s (followKey (wJob (wFollow 0 0))) = none) ∧
    writesDone (wJob (wFollow 0 2)) = true ∧ (wJob (wFollow 0 2)).followed = 2 ∧
    (stampWay (wIdle id) 0 (wJob id)).2 = none ∧
    (let f (j : Job) : Job := { j with discarded := true }; writesDone (wJob f) = true ∧ (wJob f).st = .running) := by decide +kernel

/-- A job whose scale vector lies outside its regions, and one that writes a stamp. -/
def wOutside (j : Job) : Job := { wFollow 2 0 j with follow := [word (8 * 2), 0, 0x700006000, 0] }
def wStamp (j : Job) : Job := { j with card := [0, 0, 0, 0, 0, 0, 0, 0x8000] }

/-- Where a way ends. -/
def wEnds : Option Reached → Option Nat
  | some (.ends c) => some c
  | _ => none

def wScale (s : State) : Option Nat := match (scaleRead s 0 (wJob wOutside)).2 with
  | .inl x => wEnds (some x)
  | .inr _ => none

def wScale2 (s : State) : Option Nat := match (scaleRead s 0 (wJob (wFollow 2 0))).2 with
  | .inl x => wEnds (some x)
  | .inr _ => none

/-- The pages of `wMapped` may not be written, or not be read. -/
def wLeaf (n : Nat) (s : State) : State := { s with mem := cellsPut s.mem 0x20000 (leBytes 8 n) }

/-- O55: jobs that stalled at a page and at a remote failure, and go on; a scale vector outside the regions and on a page that may not be read;
a stamp that may not be written. -/
theorem witness_JobsGoOnAndFail :
    (∀ b, let f (j : Job) : Job := { j with st := .stalled, built := b, stallPage := some 0 }
     let s := payOwed (wMapped [] (wJobs f (wIdle id)))
     jobAt s 0 4 = some (wJob f) ∧ pageMapped s 0 = true ∧ (wJob f).built = b) ∧
    (let f (j : Job) : Job := { j with st := .stalled, stallPage := none }
     let s := payOwed { wJobs f (wIdle id) with cycle := 20000 }
     jobAt s 0 4 = some (wJob f) ∧ (wJob f).stalledAt + 16384 ≤ s.cycle) ∧
    (let s := wMapped [] (wJobs wOutside (wIdle id)); let j := wJob wOutside
     jobAt s 0 4 = some j ∧ (groupAt s (followKey j)).isSome = true ∧ bits (followWord j 0) 4 3 = 2 ∧ wScale s = some 0x80 ∧
     groupAt (scaleRead s 0 j).1 (followKey j) = groupAt s (followKey j)) ∧
    (let s := wLeaf 0xDD (wMapped [] (wJobs (wFollow 2 0) (wIdle id))); let j := wJob (wFollow 2 0)
     jobAt s 0 4 = some j ∧ (groupAt s (followKey j)).isSome = true ∧ wScale2 s = some 0x11 ∧
     groupAt (scaleRead s 0 j).1 (followKey j) = groupAt s (followKey j)) ∧
    (let s := wLeaf 0xDB (wMapped [] (wJobs wStamp (wIdle id))); let j := wJob wStamp
     jobAt s 0 4 = some j ∧ j.st = .running ∧ writesDone j = true ∧ j.discarded = false ∧ hasFollow j = false ∧
     wEnds (stampWay s 0 j).2 = some 0x12) := by decide +kernel

/-- Line i of one set of an L1, and of one set of a slice, update-only in function add. -/
def wLine (i : Nat) : Nat := i * 65536
def wU : Line := emptyLine (.u 0 3) 0
def wAdd (line : Nat) (sent : Bool) : SBEntry :=
  { id := 7, seq := 0, kind := .update false 0 3, loc := ⟨.device, line * 512, 0, false, 0, line * 512, none⟩, bytes := [],
    ops := [⟨0, ⟨.device, line * 512, 0, false, 0, line * 512, none⟩, 1, 0⟩], release := none, committed := 0, sent, granted := false }

/-- O56: a sent update that wants a copy; a full set of update-only lines; an evicting copy with its slot. -/
theorem witness_UpdateLines :
    (let t (u : Troupe) : Troupe := { u with sb := [wAdd 8 true] }; let s := wIdle t
     troupeAt s 0 0 = some (wIdleT t) ∧ ((wIdleT t).sb.findSome? (wantsU s 0)).isSome = true ∧ evictingHere s 0 8 = false ∧
     (otherPair s 8 0 3 && collapseWaits s 8) = false ∧ collapseWaits s 8 = false) ∧
    (let t (u : Troupe) : Troupe := { u with sb := [wAdd (wLine 9) true] }
     let s := modCore (wIdle t) 0 fun k => { k with l1 := (List.range 8).map fun i => (wLine i, wU) }
     mustEvictU s 0 (wLine 7) = true ∧ lineAt s 0 (wLine 7) = some wU ∧ wU.st = .u 0 3) ∧
    (let s := { modCore (wIdle id) 0 fun k => { k with l1 := [(8, { wU with st := .evicting 0 3 })] } with merges := [(0, 8)] }
     let stop := sliceStops.getD (sliceOf 8) 0
     (0, 8) ∈ s.merges ∧ s.fabric.mergeSlots = [] ∧ lineAt s 0 8 = some { wU with st := .evicting 0 3 } ∧
     (let used := (s.fabric.mergeSlots.filter fun e => coreDie e.1 == coreDie 0 && sliceOf e.2.1 == sliceOf 8).map fun e => e.2.2
      (List.range (slotCount stop)).find? (fun i =>
        !used.contains i && (tabGet? s.fabric.slots (slotKey (coreDie 0) stop i)).isNone) = some 0) ∧
     (0, 8, 0) ∈ ({ s with fabric := { s.fabric with mergeSlots := [(0, 8, 0)] } } : State).fabric.mergeSlots) ∧
    (∀ die ∈ [0, 1], let s := { wIdle id with sliceU := (List.range 12).map fun i => (wLine i * 4 + die, wU) }
     (l2Updates s die (wLine 11)).getLast? = some (wLine 11) ∧ mayRelease s die (wLine 11) = true ∧
     tabGet? s.sliceU (wLine 11 * 4 + die) = some wU ∧ 12 ≤ (l2Updates s die (wLine 11)).length ∧
     (lineLoc (wLine 11)).area = .device ∧ homeDie s (lineLoc (wLine 11)) = 0) := by
  refine ⟨by decide +kernel, by decide +kernel, by decide +kernel, fun d h => ?_⟩
  rcases List.mem_pair.1 h with rfl | rfl <;> decide +kernel

/-- A sent entry of one operation of lane 0; a machine whose troupe holds it, with symbol 5 for a reply and a copy in U of line 8. -/
def wOp (kind : SBKind) (uncached : Bool) : SBEntry :=
  let l : Loc := ⟨.device, 4096, 0, uncached, if uncached then 1 else 0, 4096, none⟩
  { id := 7, seq := 0, kind, loc := l, bytes := [], ops := [⟨0, l, 1, 0⟩], release := none, committed := 0, sent := true, granted := false }
def wHolds (e : SBEntry) (u : Troupe) : Troupe := { u with sb := [e] }
def wOps (e : SBEntry) : State := modCore (wIdle (wHolds e)) 0 fun k =>
  { k with l1 := [(8, wU)], symbols := [(5, { (default : Symbol) with kind := .atomic 3, lanes := 1 })] }

/-- O56: atomics, an update at its home, one that has no update pair, and one in a copy. -/
theorem witness_AtomicsAndUpdates :
    ([wOp (.atomic false 0 3 5) false, wOp (.cas 3 5) false, wOp (.update false 0 3) true, wOp (.update false 5 3) false,
        wOp (.update false 0 3) false].all fun e =>
      troupeAt (wOps e) 0 0 == some (wIdleT (wHolds e)) && (wIdleT (wHolds e)).sb.find? (fun q => q.id == e.id) == some e &&
      ackReady (wOps e) 0 0 (wIdleT (wHolds e)) e && !answerRevoked (wOps e) 0 (wIdleT (wHolds e)) e.loc && e.loc.space != 15 &&
      e.ops.all (fun o => o.loc.space != 15) && (symbolAt (dropEntry (wOps e) 0 0 7) 0 5).isSome && copiesHeld (wOps e) 0 e) = true ∧
    (∀ o ∈ (wOp (.update false 0 3) true).ops, updateInU (wOp (.update false 0 3) true) o = none) ∧ updatePair false 0 3 = some (0, 3) ∧
    (∀ o ∈ (wOp (.update false 5 3) false).ops, updateInU (wOp (.update false 5 3) false) o = none) ∧ updatePair false 5 3 = none ∧
    (∀ o ∈ (wOp (.update false 0 3) false).ops, updateInU (wOp (.update false 0 3) false) o = some (0, 3)) := by decide +kernel

/-- O56: a store to a peer under a revoked key. -/
theorem witness_RevokedStore : let e : SBEntry := { wOp .store false with loc := wPeer, ops := [] }
    let s := wRevoked (wOps e); let u := wIdleT (wHolds e)
    ackReady s 0 0 u e = true ∧ troupeAt s 0 0 = some u ∧ u.sb.find? (fun q => q.id == e.id) = some e ∧ e.kind ≠ .submission ∧
    e.loc.area = .peer ∧ copiesHeld s 0 e = true ∧ isSup 0 = false ∧ troupeKey s u ∈ s.mgmt.revoked ∧ replySymbol e.kind = none := by
  refine ⟨?_, by decide +kernel, by decide +kernel, by decide +kernel, by decide +kernel, by decide +kernel, by decide +kernel, by decide +kernel,
    by decide +kernel⟩
  have h : answerRevoked (wRevoked (wOps { wOp .store false with loc := wPeer, ops := [] })) 0
      (wIdleT (wHolds { wOp .store false with loc := wPeer, ops := [] })) wPeer = true := by decide +kernel
  rw [ackReady, h, Bool.or_true]
  decide +kernel

/-- O56: a line whose pair a peer holds, with its partial still to come; sets that have room. -/
theorem witness_PartialsAreAsked :
    (let s := { wIdle id with zethes := { (wIdle id).zethes with peers := [{ line := 8, pkg := 3, pair := some (0, 3), key := 0 }] } }
     collapseWaits s 8 = true) ∧
    roomWaits (wIdle id) 0 8 = false ∧ l2Waits (wIdle id) 0 8 = false := by decide +kernel

/-- A buffered store of one byte, sent or not. -/
def wStore (area : Area) (sent : Bool) : SBEntry :=
  { id := 7, seq := 0, kind := .store, loc := ⟨area, 4096, 0, area == .host, if area == .host then 3 else 0, 4096, none⟩, bytes := [(0, 5, 0)], ops := [],
    release := none, committed := 0, sent, granted := false }

/-- O56: invalidations on their way and queued, ranges of memory, stores to send and to perform. -/
theorem witness_InvalidationsAndStores :
    (let n := emptyLine .s 0; let s := modCore (wIdle id) 0 fun k => { k with l1 := [(8, n)], invMsgs := [8] }
     (coreOf s 0).invMsgs[0]? = some 8 ∧ lineAt s 0 8 = some n ∧ n.st = .s ∧ queuedInval s 0 8 = false ∧ (coreOf s 0).invq.length < 256) ∧
    (let e : Inval := { (default : Inval) with line := 8 }
     let s := { modCore (wIdle id) 0 fun k => { k with invq := [e] } with cycle := 40000 }
     (coreOf s 0).invq[0]? = some e ∧ e.at_ + 32768 ≤ s.cycle) ∧
    physicalRange 4096 64 = true ∧ physicalRange (2 ^ 40) 64 = true ∧ rangeWaits (wMapped [] (wIdle id)) 4096 64 = false ∧
    (wMapped [] (wIdle id)).mgmt.boot = 5 ∧
    (let e := wStore .device false; let t (u : Troupe) : Troupe := { u with sb := [e] }
     troupeAt (wIdle t) 0 0 = some (wIdleT t) ∧ (wIdleT t).sb.find? (fun q => !q.sent) = some e ∧ e.again = false ∧ e.kind ≠ .submission) ∧
    (let e := wStore .device true; let t (u : Troupe) : Troupe := { u with sb := [e] }; let s := wIdle t
     troupeAt s 0 0 = some (wIdleT t) ∧ (wIdleT t).sb.find? (fun q => q.id == e.id) = some e ∧ ackReady s 0 0 (wIdleT t) e = true ∧
     answerRevoked s 0 (wIdleT t) e.loc = false ∧ freshSharers s 0 e.loc.line = []) ∧
    (let e := wStore .host true; let t (u : Troupe) : Troupe := { u with sb := [e] }; let s := wIdle t
     troupeAt s 0 0 = some (wIdleT t) ∧
     (wIdleT t).sb.find? (fun q => q.id == e.id && (q.kind == .store || q.kind == .record) && q.loc.area == .host) = some e ∧
     ackReady s 0 0 (wIdleT t) e = true ∧ poisoned s e.loc 64 = false) := by decide +kernel

/-- A page in far memory that may move to a near frame. -/
def wFar : State :=
  let s := wMapped [(0x10000, 0x30001), (0x30000, 0x40001), (0x40000, 0x50001), (0x50000, 0x100000001DF)] (wIdle id)
  modDie { s with mem := cellsPut s.mem 0x10000 (leBytes 8 0x30001) } 0 fun d => { d with migpol := word (2 ^ 63) }

/-- O57: a walk that is missed; a page that may move, and one whose move goes on or waits. -/
theorem witness_PagesMove :
    (let s := wMapped [] (wIdle id)
     missed s 0 0x6000 = true ∧ walk s 0x6000 = some (0x20000, 0xDF, 2) ∧ recordMapped s 0 = true) ∧
    ((dieAt wFar 0).migrating = none ∧ movable wFar 0 = some (0x50000, 0x100000001DF, 65536) ∧
     (dieAt wFar 0).migpol.getLsbD 63 = true ∧ frameFits wFar 0 0x100000001DF 0x60000 65536 0 = true) ∧
    (let s := startMove wFar 0 0 0x50000 0x100000001DF 0x60000
     (dieAt s 0).migrating = some (0, 0x60000) ∧ walk s 0 = some (0x50000, 0x100000005DF, 0) ∧ (0x100000005DF : Nat).testBit 10 = true ∧
     bits 0x100000005DF 9 8 ≤ 1 ∧ (0x100000005DF : Nat).testBit 12 = false ∧ pageQuiet s 0 = true ∧
     (pageLines s (bits 0x100000005DF 51 16 * 2 ^ 16) (pageSize 0)).any (collapseWaits s) = false) ∧
    memoryWf [(5, (1 : Byte))] = true := by decide +kernel

/-- A flit from stop 11 to stop 13 of die 0, which writes, and one that reads. -/
def wFl : Flit := { (default : Flit) with kind := 1, die := 0, stop := 11, ddie := 0, dstop := 13, sstop := 11 }
def wWaiting (f : Flit) : State := { wIdle id with fabric := { (wIdle id).fabric with waiting := [f] } }

/-- A flit as it is injected into `wWaiting`. -/
def wStamped (f : Flit) : Flit :=
  carried { f with age := 0, seq := 100 % 8, pref := Config.pref (wWaiting f).moves }

/-- O57: a flit to inject. Which way it prefers is a free value: either leaves it a port. -/
theorem witness_FlitsAreInjected (f : Flit) (h : f = wFl ∨ f = { wFl with kind := 0 }) :
    let s := wWaiting f; let g := wStamped f
    takeFirst (fun f : Flit => planeOf f.kind == 0 && f.die == 0 && f.stop == 11) s.fabric.waiting = some (f, []) ∧
    max (max s.cycle (lastRouted s 0 0 11)) (throttleOf s 0 11).nextInject.1 = 100 ∧ escalated s 0 0 = false ∧ slotReady s g = true ∧ bridgeOk g = true ∧
    routedUpTo s 0 100 = true ∧ s.fabric.flying = [] ∧ (allotSlot s g).isSome = true ∧
    (choosePort 0 11 g (portsLeft s 0 0 11 100).1).isSome = true ∧ (allDirs.all fun d => (neighbour 0 11 d).isSome) = true := by
  unfold wStamped
  rcases h with rfl | rfl <;> generalize Config.pref _ = b <;> cases b <;> decide +kernel

/-- O57: flits at a router, at its destination and on the way, one deflected; a flit about to land; a window's end. -/
theorem witness_FlitsMove :
    (let s := { wIdle id with fabric := { (wIdle id).fabric with flying := [{ wFl with ready := 101 }] } }
     ((s.fabric.flying.filter fun f => planeOf f.kind == 0 && f.die == 0 && f.stop == 11 && decide (f.ready < s.cycle + 8)).map
       Flit.ready).min? = some 101 ∧ routedUpTo s 0 101 = true) ∧
    (wFl.ddie = 0 ∧ wFl.dstop = 13) ∧ ¬(wFl.ddie = 0 ∧ wFl.dstop = 11) ∧
    choosePort 0 11 wFl (allDirs.filter fun d => (neighbour 0 11 d).isSome) = some (.uUp, false) ∧ neighbour 0 11 .uUp = some (0, 12, 2) ∧
    choosePort 0 11 wFl [.vDown] = some (.vDown, true) ∧
    (wIdle id).fabric.landing = [] ∧ ((wMapped [] (wIdle id)).mgmt.boot = 5 ∧ (wMapped [] (wIdle id)).mgmt.image = none) ∧ (throttleOf { wIdle id with cycle := 300 } 0 11).windowEnd ≤ 300 := by decide +kernel

/-- O58: packets in turn and ahead of it, ports, a partial that was asked for, a revoked key. -/
theorem witness_Links : let b := wMapped [] (wIdle id)
    (let p : Packet := { (default : Packet) with crcOk := true }
     b.mgmt.boot = 5 ∧ p.port < 96 ∧ (portOf b p.port).dead = false ∧ p.crcOk = true ∧ p.flits.length ≤ 4 ∧
     reorderBytes b (portDie p.port) + 128 * p.flits.length ≤ 2 ^ 21 ∧ p.key ∉ b.mgmt.revoked ∧
     p.seq = (streamOf b (inStream p.peer p.plane)).next ∧ (streamOf b (inStream p.peer p.plane)).reorder = []) ∧
    (let p : Packet := { (default : Packet) with crcOk := true, seq := 4 }
     (streamOf b (inStream p.peer p.plane)).next < p.seq) ∧
    (streamOf b (2 ^ 20 + 3)).held = [] ∧
    (let s := setPort b 2 { portOf b 2 with unacked := [(default : Packet)] }
     (portOf s 2).dead = false ∧ 0 < (portOf s 2).unacked.length ∧
     (((portOf s 2).replays ++ [s.cycle]).filter fun t => decide (s.cycle < t + 3000)).length ≤ 16) ∧
    Config.package + 1 ≠ Config.package ∧
    (∀ pkg, let m : PeerHolder := { line := 8, pkg, pair := some (0, 3), key := 0, slot := some 5 }
     let s := { b with zethes := { b.zethes with peers := [m] } }
     s.zethes.partials = [] ∧ (lineLoc 8).area = .device ∧ otherPair s 8 0 3 = false ∧
     s.zethes.peers.find? (fun m => m.line == 8 && m.pkg == pkg && m.pair == some (0, 3) && m.slot.isSome) = some m ∧ m.key ∉ s.mgmt.revoked) ∧
    7 ∈ ({ b with mgmt := { b.mgmt with revoked := [7] } } : State).mgmt.revoked := by
  refine ⟨by decide +kernel, by decide +kernel, by decide +kernel, by decide +kernel, Nat.succ_ne_self _, fun pkg => ⟨?_, ?_, ?_, ?_, ?_⟩,
    by decide +kernel⟩
  · exact show (wIdle id).zethes.partials = [] by decide +kernel
  · decide +kernel
  · exact show otherPair (wMapped [] (wIdle id)) 8 0 3 = false by decide +kernel
  · simp
  · exact show 0 ∉ (wMapped [] (wIdle id)).mgmt.revoked by decide +kernel

/-- A connected queue pair whose send queue, at 0x3000, holds the work descriptor at 0x5000: a write of eight bytes. -/
def wQp : QueuePair :=
  { die := 0, send := 0x3000, recv := 0, remote := 0, remoteQp := 0, mtu := 256, error := false, connected := true, rate := 800, work := [],
    posted := [], destroying := none }
def wQps (q : QueuePair) : State :=
  { wMapped [(0x3000, 0x4000), (0x3008, 1), (0x3018, 1), (0x4000, 0x5000), (0x5000, 1), (0x5010, 0x6000), (0x5018, 8)] (wIdle id) with
    qps := [(0, q)], regionsE := [(9, { die := 0, base := 0x6000, length := 64, read := true, write := true })] }

/-- O58: work to pop and to complete, remote accesses to a region. -/
theorem witness_QueuePairs :
    (let s := wQps wQp; let w : List Word := [1, 0, 0x6000, 8, 0, 0, 0, 0]
     tabGet? s.qps (qpKey 0 0) = some wQp ∧ wQp.error = false ∧ wQp.connected = true ∧ wQp.destroying = none ∧
     (popQueue s wQp.recv).2 = none ∧ (popQueue s wQp.recv).1 = s ∧ (dieAt s 0).paused = 0 ∧ (popQueue s wQp.send).2 = some 0x5000 ∧
     ((unitBytes (popQueue s wQp.send).1 0x5000 64).2.map wordsOf) = some w ∧
     workOk (unitBytes (popQueue s wQp.send).1 0x5000 64).1 0 w = true ∧ workOp w < 4 ∧
     (localBytes (unitBytes (popQueue s wQp.send).1 0x5000 64).1 w).2.isSome = true ∧
     (localBytes (unitBytes (popQueue s wQp.send).1 0x5000 64).1 w).1.stuck = false) ∧
    (let q := { wQp with work := [[1]] }; tabGet? (wQps q).qps (qpKey 0 0) = some q ∧ workOp [1] < 4) ∧
    (let w : List Word := [5, 0, 0x6000, 8, 0, 0, 0x7000, 0]; let q := { wQp with posted := [w] }
     tabGet? (wQps q).qps (qpKey 0 0) = some q ∧ 4 ≤ workOp w ∧ workLength w = 8 ∧
     (let s := { wQps q with qps := tabPut (wQps q).qps 0 { q with posted := [] } }; (localStore s w (freeBytes s 0 8)).2 = true) ∧
     (workWordLoc (wQps q) w).2 = some (wPage 0x7000)) ∧
    (let q := { wQp with posted := [[5]] }; tabGet? (wQps q).qps (qpKey 0 0) = some q ∧ workLength [5] < 1) ∧
    remoteMay (wQps wQp) 0 0 9 0x6000 8 true = true ∧ remoteMay (wQps wQp) 0 0 9 0x6000 8 false = true ∧
    (wQps wQp).mgmt.boot = 5 ∧ (unitBytes (wQps wQp) 0x6000 8).2.isSome = true := by
  refine ⟨by decide +kernel, by decide +kernel, by decide +kernel, by decide +kernel, by decide +kernel, by decide +kernel, by decide +kernel,
    by decide +kernel⟩

/-- O59: a halt that is due, a debugged group, triggers and snapshots, a sample that is due, counts. -/
theorem witness_DebugAndErrorsAct :
    groupAt (wIdle id) (groupKey 1 0) = some probeGroup ∧ gridAt (wIdle id) 1 = some probeGrid ∧ (wIdle id).mgmt.debugsel = 0 ∧
    (let s := { modGroup (wIdle id) (groupKey 1 0) fun g => { g with haltReq := some 0 } with cycle := 70000 }
     troupeAt s 0 0 = some (wIdleT id) ∧ haltsNow s 0 (wIdleT id) = true ∧ (coreOf s 0).trace.armed = false) ∧
    (gridAt (wIdle id) (bits (2 ^ 32 + 2 ^ 24) 63 32) = some probeGrid ∧ (2 ^ 32 + 2 ^ 24).testBit 24 = true ∧
     gridAt (wIdle id) (bits (2 ^ 32) 63 32) = some probeGrid ∧ (2 ^ 32).testBit 24 = false) ∧
    (let g := { probeGroup with halted := true }
     let s := modGroup (wMapped [] (wIdle id)) (groupKey 1 0) fun _ => g; let s := { s with mgmt := { s.mgmt with debuggrid := 1 } }
     groupAt s (groupKey s.mgmt.debuggrid s.mgmt.debugsel) = some g ∧ g.halted = true) ∧
    (let q : TriggerSent := { number := 3, t0 := 40, reached := [] }
     let s := { wIdle id with fabric := { (wIdle id).fabric with triggers := [q] }, mgmt := { (wIdle id).mgmt with trigcfg := [(3, 1)] } }
     tabGet? s.snapshots 5 = none ∧ blockAction (tabGet s.mgmt.trigcfg 3 0) 5 = 1 ∧ q ∈ s.fabric.triggers ∧ 5 ∉ q.reached) ∧
    (let q : Snapshot := { armed := some 40, latched := none, second := 0 }
     tabGet? ({ wIdle id with snapshots := [(5, q)] } : State).snapshots 5 = some q ∧ 40 ≤ (wIdle id).cycle) ∧
    (let s := modCore (wIdle id) 0 fun k => { k with trace := { (default : Trace) with armed := true } }
     (coreOf s 0).trace.armed = true ∧ (coreOf s 0).trace.due ≤ s.cycle ∧ samplePos (coreOf s 0) = some 0 ∧
     troupeAt s 0 0 = some (wIdleT id)) ∧
    ({ wIdle id with missPages := [6, 7] } : State).missPages = [6, 7] ∧ wFl ∈ ({ (wIdle id).fabric with flying := [wFl] } : Fabric).flying ∧
    (let s := { wIdle id with cycle := 2 ^ 40 }
     (dieAt s 0).nextHalving + 2 ^ bits (dieAt s 0).migpol.toNat 31 24 ≤ s.cycle ∧ tabGet (dieAt s 0).telemetry 11 0 ≤ s.cycle) := by
  decide +kernel

/-- A command block at 0x5000 of code c. -/
def wCommand (c : Nat) (ws : List (Nat × Nat)) : State := { wMapped ([(0x5000, c)] ++ ws) (wIdle id) with
  qps := [(0, wQp)], regionsE := [(9, { die := 0, base := 0x6000, length := 64, read := true, write := true })] }
def wCmd (c : Nat) (ws : List (Nat × Nat)) : List Word := (((unitBytes (wCommand c ws) 0x5000 64).2.map wordsOf).getD [])

/-- O60: power, the states of a start, statements, resets and limits; keys; pages; a queue pair being destroyed. -/
theorem witness_PowerAndManagementAct :
    State.reset.mgmt.powered = false ∧
    (∀ n ∈ [0, 1, 2, 3, 4], let s := { State.reset with mgmt := { State.reset.mgmt with
        powered := true, boot := n, identity := some 1, image := some (7, true, true, [3]) } }
      s.mgmt.powered = true ∧ s.mgmt.boot = n ∧ s.mgmt.identity.isSome = true ∧ s.mgmt.image = some (7, true, true, [3])) ∧
    (let s := { wIdle id with mgmt := { (wIdle id).mgmt with identity := some 1, firmware := some 2 } }
     s.mgmt.identity = some 1 ∧ s.mgmt.firmware = some 2 ∧ s.mgmt.powered = true ∧ s.mgmt.boot = 5) ∧
    3 ∉ (wIdle id).mgmt.revoked ∧ tlbiQuiet (wIdle id) (fun _ => true) = true ∧
    bits 0x6000 63 52 = 0 ∧ pageQuiet (wIdle id) (bits 0x6000 51 0) = true ∧
    (let s := { wIdle id with qps := [(0, { (default : QueuePair) with destroying := some 0x5000 })] }
     tabGet? s.qps 0 = some { (default : QueuePair) with destroying := some 0x5000 }) := by decide +kernel

/-- O60: commands that fail: no such command, a set reserved bit, a queue pointer that is not aligned, a pair or region that is not there,
a packet size out of range, a length not of whole pages. -/
theorem witness_CommandsFail :
    bits (cmdWord (wCmd 6 []) 0) 7 0 = 6 ∧ cmdOk (wCmd (1 + 2 ^ 10) []) = false ∧
    (let w := [(0x5010, 8)]; queuePtrOk (word (cmdWord (wCmd 1 w) 2)) = false) ∧
    (let w := [(0x5008, 5)]; let c := wCmd 2 w; cmdOk c = true ∧ tabGet? (wCommand 2 w).qps (qpKey (cmdDie c) (cmdQp c)) = none) ∧
    (let c := wCmd 2 []; cmdOk c = true ∧ (tabGet? (wCommand 2 []).qps (qpKey (cmdDie c) (cmdQp c))).isSome = true ∧
     bits (cmdWord c 6) 47 32 < 256) ∧
    (let w := [(0x5018, 8)]; let c := wCmd 3 w; cmdOk c = true ∧ cmdWord c 3 % 4096 ≠ 0) ∧
    (let c := wCmd 4 []; cmdOk c = true ∧ tabGet? (wCommand 4 []).regionsE (bits (cmdWord c 7) 31 0) = none) ∧
    (∀ n, n < 4096 → (tabGet? ((List.range 4096).map fun n => (qpKey 0 n, wQp)) (qpKey 0 n)).isSome = true) := by
  refine ⟨by decide +kernel, by decide +kernel, by decide +kernel, by decide +kernel, by decide +kernel, by decide +kernel, by decide +kernel,
    fun n h => ?_⟩
  have : ∀ (l : List Nat), n ∈ l → (tabGet? (l.map fun n => (qpKey 0 n, wQp)) (qpKey 0 n)).isSome = true := by
    intro l
    induction l with
    | nil => simp
    | cons a r ih =>
      intro hm
      by_cases e : qpKey 0 a = qpKey 0 n
      · simp [tabGet?, e]
      · have : n ∈ r := (List.mem_cons.1 hm).resolve_left fun q => e (by rw [q])
        simpa [tabGet?, e] using ih this
  exact this _ (List.mem_range.2 h)

theorem witness_Commands :
    (let c := wCmd 1 []; cmdOk c = true ∧ bits (cmdWord c 0) 7 0 = 1 ∧ queuePtrOk (word (cmdWord c 2)) = true ∧
     queuePtrOk (word (cmdWord c 3)) = true ∧
     (List.range 4096).find? (fun n => (tabGet? (wCommand 1 []).qps (qpKey (cmdDie c) n)).isNone) = some 1) ∧
    (let w := [(0x5030, 256 * 2 ^ 32)]; let c := wCmd 2 w; cmdOk c = true ∧ bits (cmdWord c 0) 7 0 = 2 ∧ bits (cmdWord c 6) 31 24 = 0 ∧
     bits (cmdWord c 6) 63 48 = 0 ∧ 256 ≤ bits (cmdWord c 6) 47 32 ∧ bits (cmdWord c 6) 47 32 ≤ 4096 ∧
     tabGet? (wCommand 2 w).qps (qpKey (cmdDie c) (cmdQp c)) = some wQp) ∧
    (let w := [(0x5010, 0x8000), (0x5018, 0x1000), (0x5030, 3)]; let c := wCmd 3 w; cmdOk c = true ∧ bits (cmdWord c 0) 7 0 = 3 ∧
     cmdWord c 2 % 4096 = 0 ∧ bits (cmdWord c 2) 63 52 = 0 ∧ cmdWord c 3 % 4096 = 0 ∧ bits (cmdWord c 6) 63 2 = 0) ∧
    (let w := [(0x5038, 9)]; let c := wCmd 4 w; cmdOk c = true ∧ bits (cmdWord c 0) 7 0 = 4 ∧
     (tabGet? (wCommand 4 w).regionsE (bits (cmdWord c 7) 31 0)).isSome = true) ∧
    (let c := wCmd 5 []; cmdOk c = true ∧ bits (cmdWord c 0) 7 0 = 5 ∧
     tabGet? (wCommand 5 []).qps (qpKey (cmdDie c) (cmdQp c)) = some wQp) := by decide +kernel

end
end

section
/-!
PROOFS. The bytes of a memory in its canonical form: what a write leaves, and equal bytes as equal memories (R1).
-/

namespace Sys2Proof.Machine

/-! ## Cells -/

/-- Below its first cell a canonical memory reads zero. -/
theorem cellGet_of_lt_head {m : List Host.Cell} {a : Nat} (h : ∀ e ∈ m.head?, a < e.1) : cellGet m a = 0 := by
  cases m with
  | nil => rfl
  | cons e r =>
    have : a < e.1 := h e rfl
    simp [cellGet, this, Nat.ne_of_gt this]

/-- The first cell of a canonical memory is the byte read at its address. -/
@[simp] theorem cellGet_cons_self (k : Nat) (v : Byte) (r : List Host.Cell) : cellGet ((k, v) :: r) k = v := by
  simp [cellGet]

/-- Away from the address of its first cell a canonical memory reads as the rest. -/
theorem cellGet_cons_ne {k a : Nat} {v : Byte} {r : List Host.Cell} (hr : ∀ e ∈ r.head?, k < e.1) (ha : k ≠ a) :
    cellGet ((k, v) :: r) a = cellGet r a := by
  by_cases hlt : a < k
  · rw [cellGet_of_lt_head (m := r) fun e he => Nat.lt_trans hlt (hr e he)]
    simp [cellGet, ha, hlt]
  · simp [cellGet, ha, hlt]

/-- R1: a byte written is the byte read, and the bytes at other addresses read as before. -/
theorem cellGet_cellPut {m : List Host.Cell} (hm : memoryWf m = true) (a : Nat) (v : Byte) (b : Nat) :
    cellGet (cellPut m a v) b = if a = b then v else cellGet m b := by
  induction m with
  | nil =>
    by_cases hv : v = 0
    · subst hv
      simp [cellPut, cellGet]
    · rw [cellPut, if_neg hv]
      simp [cellGet]
  | cons e r ih =>
    obtain ⟨k, w⟩ := e
    obtain ⟨-, hr, hk⟩ := (memoryWf_cons k w r).1 hm
    rcases Nat.lt_trichotomy a k with hak | rfl | hka
    · have hhead : ∀ e ∈ ((k, w) :: r).head?, a < e.1 := by simpa using hak
      by_cases hv : v = 0
      · simp only [cellPut, hak, if_true, hv]
        split
        · next hab => rw [← hab, cellGet_of_lt_head hhead]
        · rfl
      · simp only [cellPut, hak, if_true, hv, if_false]
        split
        · next hab => rw [← hab, cellGet_cons_self]
        · next hab => exact cellGet_cons_ne hhead hab
    · by_cases hv : v = 0
      · simp only [cellPut, Nat.lt_irrefl, if_true, if_false, hv]
        split
        · next hab => rw [← hab, cellGet_of_lt_head hk]
        · next hab => exact (cellGet_cons_ne hk hab).symm
      · simp only [cellPut, Nat.lt_irrefl, if_true, if_false, hv]
        split
        · next hab => rw [← hab, cellGet_cons_self]
        · next hab => rw [cellGet_cons_ne hk hab, cellGet_cons_ne hk hab]
    · simp only [cellPut, Nat.lt_asymm hka, Nat.ne_of_gt hka, if_false]
      by_cases hkb : k = b
      · subst hkb
        simp [Nat.ne_of_gt hka]
      · rw [cellGet_cons_ne (cellPut_head r a v k hka hr hk) hkb, cellGet_cons_ne hk hkb, ih hr]

/-- R1: bytes written at an address read back as written, and the bytes around them as before. -/
theorem cellGet_cellsPut {m : List Host.Cell} (hm : memoryWf m = true) (a : Nat) (bs : List Byte) (b : Nat) :
    cellGet (cellsPut m a bs) b = if a ≤ b ∧ b < a + bs.length then bs.getD (b - a) 0 else cellGet m b := by
  induction bs generalizing m a with
  | nil => simp [cellsPut, Nat.not_lt.2]
  | cons v r ih =>
    rw [cellsPut, ih (cellPut_wf m a v hm), cellGet_cellPut hm]
    rcases Nat.lt_trichotomy a b with hab | rfl | hba
    · have hsub : b - a = b - (a + 1) + 1 := by omega
      have hin : (a + 1 ≤ b ∧ b < a + 1 + r.length) ↔ (a ≤ b ∧ b < a + (r.length + 1)) := by omega
      simp only [List.length_cons, hin, hsub, List.getD_cons_succ, Nat.ne_of_lt hab, if_false]
    · simp
    · simp [Nat.ne_of_gt hba, Nat.not_le.2 hba, show ¬ a + 1 ≤ b by omega]

/-- Two canonical memories that read alike at every address hold the same cells. -/
theorem memory_ext {m n : List Host.Cell} (hm : memoryWf m = true) (hn : memoryWf n = true)
    (h : ∀ a, cellGet m a = cellGet n a) : m = n := by
  induction m generalizing n with
  | nil =>
    cases n with
    | nil => rfl
    | cons e r =>
      have hv := ((memoryWf_cons e.1 e.2 r).1 hn).1
      exact absurd (by simpa [cellGet] using (h e.1).symm) hv
  | cons e r ih =>
    obtain ⟨k, v⟩ := e
    obtain ⟨hv, hr, hk⟩ := (memoryWf_cons k v r).1 hm
    cases n with
    | nil => exact absurd (by simpa [cellGet] using h k) hv
    | cons f q =>
      obtain ⟨j, w⟩ := f
      obtain ⟨hw, hq, hj⟩ := (memoryWf_cons j w q).1 hn
      have hkj : k = j := by
        rcases Nat.lt_trichotomy k j with hlt | heq | hgt
        · have hz : cellGet ((j, w) :: q) k = 0 := cellGet_of_lt_head (by simpa using hlt)
          exact absurd (by rw [← hz, ← h k, cellGet_cons_self]) hv
        · exact heq
        · have hz : cellGet ((k, v) :: r) j = 0 := cellGet_of_lt_head (by simpa using hgt)
          exact absurd (by rw [← hz, h j, cellGet_cons_self]) hw
      subst hkj
      have hvw : v = w := by simpa using h k
      have hrest : ∀ a, cellGet r a = cellGet q a := fun a => by
        by_cases ha : k = a
        · subst ha; rw [cellGet_of_lt_head hk, cellGet_of_lt_head hj]
        · rw [← cellGet_cons_ne (v := v) hk ha, h a, cellGet_cons_ne hj ha]
      rw [hvw, ih hr hq hrest]

/-- Settles O49: each clause is a law of the cells. -/
theorem memoryReadsBackWhatWasWritten : Obligations.MemoryReadsBackWhatWasWritten :=
  ⟨fun m a bs b hm => ⟨cellsPut_wf bs m a hm, cellGet_cellsPut hm a bs b⟩, fun _ _ hm hn h => memory_ext hm hn h⟩

/-- Settles O47: every memory is empty, and no group is resident. -/
theorem memoriesAreCanonicalAtReset : Obligations.MemoriesAreCanonicalAtReset :=
  ⟨reset_mem_wf, rfl, rfl, fun _ _ hg => nomatch hg⟩

end Sys2Proof.Machine
end

section
/-!
PROOFS. Every operation of the machine keeps every memory in its canonical form: one law for each operation that answers a state, in the
order of the model's files. What an operation writes besides memories and groups does not matter (`MemoriesWf.frame`).
-/

namespace Sys2Proof.Machine

/-! ## Memories and the shapes in which a state is answered -/

/-- A state with the same memories and groups. -/
theorem MemoriesWf.frame {s t : State} (h : MemoriesWf s)
    (e : (t.mem, t.hostMem, t.peerMem, t.groups) = (s.mem, s.hostMem, s.peerMem, s.groups)) : MemoriesWf t := by
  simp only [Prod.mk.injEq] at e
  obtain ⟨em, eh, ep, eg⟩ := e
  obtain ⟨hmem, hhost, hpeer, hgroups⟩ := h
  exact ⟨em ▸ hmem, eh ▸ hhost, ep ▸ hpeer, fun key g hg => hgroups key g (by rw [← hg, groupAt, groupAt, eg])⟩

/-- The state of a pair, once the pair has been taken apart. -/
theorem MemoriesWf.of_eq {α : Type} {p : State × α} {t : State} {a : α} (e : p = (t, a)) (h : MemoriesWf p.1) : MemoriesWf t := by
  subst e; exact h

/-- An outcome is no state out of canonical form. -/
def OutWf (o : Out) : Prop := ∀ t, o = .next t → MemoriesWf t

theorem OutWf.next {s : State} (h : MemoriesWf s) : OutWf (.next s) := by
  rintro _ ⟨⟩; exact h

theorem OutWf.fault (r : Fault) : OutWf (.fault r) := nofun

/-- One of two states. -/
theorem ite_wf {c : Prop} [Decidable c] {s t : State} (hs : MemoriesWf s) (ht : MemoriesWf t) : MemoriesWf (if c then s else t) := by
  split
  · exact hs
  · exact ht

/-- One of two outcomes. -/
theorem OutWf.ite {c : Prop} [Decidable c] {o p : Out} (ho : OutWf o) (hp : OutWf p) : OutWf (if c then o else p) := by
  split
  · exact ho
  · exact hp

/-- What holds of a value holds of each member of it as an option. -/
theorem forall_mem_some {α : Type} {P : α → Prop} {a : α} (h : P a) : ∀ b ∈ some a, P b := by
  rintro _ ⟨⟩; exact h

/-- An empty option has no member. -/
theorem forall_mem_none {α : Type} {P : α → Prop} : ∀ b ∈ (none : Option α), P b := nofun

/-- A fold over states. -/
theorem foldl_wf {α : Type} {f : State → α → State} {l : List α} {s : State} (hf : ∀ s a, MemoriesWf s → MemoriesWf (f s a))
    (h : MemoriesWf s) : MemoriesWf (l.foldl f s) :=
  List.foldlRecOn l f h fun s hs a _ => hf s a hs

/-- A fold over states with something beside them. -/
theorem foldl_fst_wf {α β : Type} {f : State × β → α → State × β} {l : List α} {p : State × β}
    (hf : ∀ p a, MemoriesWf p.1 → MemoriesWf (f p a).1) (h : MemoriesWf p.1) : MemoriesWf (l.foldl f p).1 :=
  List.foldlRecOn (motive := fun p => MemoriesWf p.1) l f h fun p hp a _ => hf p a hp

/-- A fold over translations of several accesses. -/
theorem foldl_st_wf {α : Type} {f : Reach → α → Reach} {l : List α} {r : Reach}
    (hf : ∀ r a, MemoriesWf r.st → MemoriesWf (f r a).st) (h : MemoriesWf r.st) : MemoriesWf (l.foldl f r).st :=
  List.foldlRecOn (motive := fun r => MemoriesWf r.st) l f h fun r hr a _ => hf r a hr

/-- A fold that may give up. -/
theorem foldl_option_wf {α β : Type} {P : β → Prop} {f : Option β → α → Option β} {l : List α} {b : β}
    (hf : ∀ o a, (∀ b ∈ o, P b) → ∀ b ∈ f o a, P b) (h : P b) : ∀ c ∈ l.foldl f (some b), P c :=
  List.foldlRecOn (motive := fun o => ∀ b ∈ o, P b) l f (forall_mem_some h) fun o ho a _ => hf o a ho

/-- An option followed by another. -/
theorem bind_wf {α β : Type} {P : α → Prop} {Q : β → Prop} {o : Option α} {f : α → Option β} (h : ∀ a ∈ o, P a)
    (hf : ∀ a, P a → ∀ b ∈ f a, Q b) : ∀ b ∈ o.bind f, Q b := by
  intro b hb
  obtain ⟨a, ha, hfa⟩ := Option.mem_bind_iff.1 hb
  exact hf a (h a ha) b hfa

/-- An option with a function applied. -/
theorem map_wf {α β : Type} {P : α → Prop} {Q : β → Prop} {o : Option α} {f : α → β} (h : ∀ a ∈ o, P a)
    (hf : ∀ a, P a → Q (f a)) : ∀ b ∈ o.map f, Q b := by
  intro b hb
  obtain ⟨a, ha, rfl⟩ := Option.mem_map.1 hb
  exact hf a (h a ha)

/-- The state of an option, or another where there is none. -/
theorem getD_wf {o : Option State} {s : State} (ho : ∀ t ∈ o, MemoriesWf t) (h : MemoriesWf s) : MemoriesWf (o.getD s) := by
  cases o with
  | none => exact h
  | some t => exact ho t rfl

/-! ## Lists of cells -/

/-- The canonical form in terms of the whole list: addresses rise and no cell is zero. -/
theorem memoryWf_iff (m : List Host.Cell) : memoryWf m = true ↔ m.Pairwise (fun c d => c.1 < d.1) ∧ ∀ c ∈ m, c.2 ≠ 0 := by
  induction m with
  | nil => simp [memoryWf]
  | cons c m ih =>
    obtain ⟨k, v⟩ := c
    rw [memoryWf_cons, ih, List.pairwise_cons, List.forall_mem_cons]
    constructor
    · rintro ⟨hv, ⟨hm, hz⟩, hk⟩
      refine ⟨⟨fun d hd => ?_, hm⟩, hv, hz⟩
      cases m with
      | nil => cases hd
      | cons e r =>
        have he : k < e.1 := hk e rfl
        obtain rfl | hr := List.mem_cons.1 hd
        · exact he
        · exact he.trans (List.rel_of_pairwise_cons hm hr)
    · rintro ⟨⟨hk, hm⟩, hv, hz⟩
      exact ⟨hv, ⟨hm, hz⟩, fun e he => hk e (List.mem_of_mem_head? he)⟩

/-- Some of the cells of a canonical memory. -/
theorem memoryWf_filter {m : List Host.Cell} (p : Host.Cell → Bool) (h : memoryWf m = true) : memoryWf (m.filter p) = true := by
  obtain ⟨hm, hz⟩ := (memoryWf_iff m).1 h
  exact (memoryWf_iff _).2 ⟨hm.filter p, fun c hc => hz c (List.mem_of_mem_filter hc)⟩

/-! ## Groups -/

/-- A removal takes one key out of a table. -/
theorem tabGet?_tabDel {α : Type} (t : Tab α) (key k : Nat) : tabGet? (tabDel t key) k = if key = k then none else tabGet? t k := by
  induction t with
  | nil => simp [tabDel]
  | cons e t ih =>
    obtain ⟨j, w⟩ := e
    unfold tabDel at ih ⊢
    by_cases hj : j = key
    · subst hj
      rw [List.filter_cons_of_neg (by simp), ih]
      by_cases hk : j = k
      · simp [hk]
      · simp [tabGet?, hk]
    · rw [List.filter_cons_of_pos (by simpa using hj)]
      by_cases hk : j = k
      · subst hk; simp [tabGet?, Ne.symm hj]
      · simp [tabGet?, hk, ih]

/-- The scratchpad of a group in a canonical state. -/
theorem MemoriesWf.scratch {s : State} {key : Nat} {g : Group} (h : MemoriesWf s) (hg : groupAt s key = some g) :
    memoryWf g.scratch = true := by
  obtain ⟨-, -, -, hgroups⟩ := h
  exact hgroups key g hg

/-- A group written back with a canonical scratchpad. -/
theorem setGroup_wf {s : State} {key : Nat} {g : Group} (h : MemoriesWf s) (hg : memoryWf g.scratch = true) :
    MemoriesWf (setGroup s key g) := by
  obtain ⟨hmem, hhost, hpeer, hgroups⟩ := h
  refine ⟨hmem, hhost, hpeer, fun k q hq => ?_⟩
  rw [groupAt_setGroup] at hq
  split at hq
  · cases hq; exact hg
  · exact hgroups k q hq

/-- A change of a group that leaves its scratchpad. -/
theorem modGroup_wf {s : State} {key : Nat} {f : Group → Group} (h : MemoriesWf s)
    (hf : ∀ g, (f g).scratch = g.scratch) : MemoriesWf (modGroup s key f) := by
  unfold modGroup
  split
  · exact h
  next g hg => exact setGroup_wf h (hf g ▸ h.scratch hg)

/-! ## What the tile unit leaves of a group -/

theorem setPair_scratch (g : Group) (b i j v : Nat) : (setPair g b i j v).scratch = g.scratch := rfl

theorem writeCell_scratch (g : Group) (a v : Nat) : (writeCell g a v).scratch = g.scratch := by
  unfold writeCell
  extract_lets
  split
  · exact setPair_scratch ..
  split
  · rfl
  · rfl

theorem fillBand_scratch (g : Group) (b : Nat) (wide : Bool) (f : Nat → Nat → Nat) : (fillBand g b wide f).scratch = g.scratch := by
  cases wide with
  | false => exact rfl
  | true => exact rfl

theorem bandFrom_scratch (g : Group) (b : Nat) (wide : Bool) (bs : List Byte) : (bandFrom g b wide bs).scratch = g.scratch := by
  unfold bandFrom
  exact fillBand_scratch ..

theorem slotLand_scratch {g q : Group} {h off : Nat} {bs : List Byte} (hq : slotLand g h off bs = some q) : q.scratch = g.scratch := by
  simp only [slotLand, Option.ite_none_left_eq_some, Option.some.injEq] at hq
  obtain ⟨-, rfl⟩ := hq
  rfl
end Sys2Proof.Machine
end

section
/-!
PROOFS. The operations every part of the machine shares keep the memories canonical: clauses, lines, translation, operands, and what
the memory instructions have in common.
-/

namespace Sys2Proof.Machine

/-! ## Accessors, the clause in execution, waiting, exceptions (R33 to R35, R394 to R397, R408) -/

theorem setCore_wf {s : State} {c : Nat} {v : CoreSt} (h : MemoriesWf s) : MemoriesWf (setCore s c v) := by
  unfold setCore
  exact h.frame rfl

theorem modCore_wf {s : State} {c : Nat} {f : CoreSt → CoreSt} (h : MemoriesWf s) : MemoriesWf (modCore s c f) := setCore_wf h

theorem setTroupe_wf {s : State} {c p : Nat} {t : Troupe} (h : MemoriesWf s) : MemoriesWf (setTroupe s c p t) := modCore_wf h

theorem modTroupe_wf {s : State} {c p : Nat} {f : Troupe → Troupe} (h : MemoriesWf s) : MemoriesWf (modTroupe s c p f) := by
  unfold modTroupe
  split
  · exact h
  · exact setTroupe_wf h

theorem setGrid_wf {s : State} {ticket : Nat} {g : Grid} (h : MemoriesWf s) : MemoriesWf (setGrid s ticket g) := by
  unfold setGrid
  exact h.frame rfl

theorem modGrid_wf {s : State} {ticket : Nat} {f : Grid → Grid} (h : MemoriesWf s) : MemoriesWf (modGrid s ticket f) := by
  unfold modGrid
  split
  · exact h
  · exact setGrid_wf h

theorem setDie_wf {s : State} {d : Nat} {v : DieSt} (h : MemoriesWf s) : MemoriesWf (setDie s d v) := by
  unfold setDie
  exact h.frame rfl

theorem modDie_wf {s : State} {d : Nat} {f : DieSt → DieSt} (h : MemoriesWf s) : MemoriesWf (modDie s d f) := setDie_wf h

theorem send_wf {s : State} {m : Message} (h : MemoriesWf s) : MemoriesWf (send s m) := by
  unfold send
  exact h.frame rfl

theorem inClause_wf {s : State} {k : Ctx → Out} (hk : ∀ a, OutWf (k a)) : OutWf (inClause s k) := by
  unfold inClause
  split
  · exact .fault _
  · exact hk _

theorem putClause_wf {s : State} {x : Ctx} {cl : Clause} (h : MemoriesWf s) : MemoriesWf (putClause s x cl) := setTroupe_wf h

theorem done_wf {s : State} {x : Ctx} {n : Nat} {cl : Clause} (h : MemoriesWf s) : OutWf (done s x n cl) := .next (putClause_wf h)

theorem waitHere_wf {s : State} (h : MemoriesWf s) : OutWf (waitHere s) := by
  unfold waitHere
  exact .next (h.frame rfl)

theorem clauseOver_wf {s : State} {key : Nat} (h : MemoriesWf s) : MemoriesWf (clauseOver s key) := by
  unfold clauseOver
  split
  · exact h
  extract_lets
  split
  · exact h.frame rfl
  · exact h

theorem notStarted_wf {s : State} {x : Ctx} (h : MemoriesWf s) : MemoriesWf (notStarted s x) := by
  unfold notStarted
  extract_lets s1 s2
  have hs1 : MemoriesWf s1 := modTroupe_wf h
  have hs2 : MemoriesWf s2 := modCore_wf hs1
  exact clauseOver_wf (hs2.frame rfl)

theorem blackBox_wf {s : State} {die core kind group payload : Nat} (h : MemoriesWf s) :
    MemoriesWf (blackBox s die core kind group payload) :=
  modDie_wf h

theorem raiseDelivery_wf {s : State} {core : Nat} {d : Delivery} (h : MemoriesWf s) : MemoriesWf (raiseDelivery s core d) := modCore_wf h

theorem supervisorFault_wf {s : State} {core cause : Nat} {addr : Word} (h : MemoriesWf s) :
    MemoriesWf (supervisorFault s core cause addr) := by
  unfold supervisorFault
  extract_lets s1 s2 s3
  have hs1 : MemoriesWf s1 := modTroupe_wf h
  have hs2 : MemoriesWf s2 := modCore_wf hs1
  have hs3 : MemoriesWf s3 := blackBox_wf hs2
  exact send_wf (hs3.frame rfl)

theorem takeTrap_wf {s : State} {core pos cause : Nat} {addr : Word} {lanes subset : LaneMask} {pcs : Lanes} {syms : List Nat}
    (h : MemoriesWf s) : MemoriesWf (takeTrap s core pos cause addr lanes subset pcs syms) := by
  unfold takeTrap
  split
  · exact supervisorFault_wf h
  split
  · exact h
  · exact setTroupe_wf (raiseDelivery_wf h)

theorem squash_wf {s : State} {x : Ctx} {cause : Nat} {addr : Word} {lanes : LaneMask} {syms : List Nat} (h : MemoriesWf s) :
    MemoriesWf (squash s x cause addr lanes syms) := by
  unfold squash
  extract_lets s1 s2
  have hs1 : MemoriesWf s1 := modTroupe_wf h
  have hs2 : MemoriesWf s2 := modCore_wf hs1
  exact takeTrap_wf (clauseOver_wf (hs2.frame rfl))

theorem raiseTrap_wf {s : State} {x : Ctx} {cause : Nat} {addr : Word} {lanes : LaneMask} (h : MemoriesWf s) :
    OutWf (raiseTrap s x cause addr lanes) := by
  unfold raiseTrap
  split
  · exact done_wf h
  · exact .next (squash_wf h)

theorem settle_wf {s : State} {x : Ctx} {fs : List Failure} {remote : LaneMask} {syms : List Nat} {k : State → Ctx → Out}
    (h : MemoriesWf s) (hk : ∀ a b, MemoriesWf a → OutWf (k a b)) : OutWf (settle s x fs remote syms k) := by
  unfold settle
  extract_lets
  split
  · split
    · exact hk _ _ h
    · exact hk _ _ (putClause_wf h)
  extract_lets
  split
  · exact hk _ _ (putClause_wf h)
  · exact .next (squash_wf h)

theorem trapAll_wf {s : State} {x : Ctx} {cause : Nat} {addr : Word} (h : MemoriesWf s) : OutWf (trapAll s x cause addr) := by
  unfold trapAll
  split
  · exact done_wf h
  · exact raiseTrap_wf h

theorem setSymbol_wf {s : State} {core id : Nat} {y : Symbol} (h : MemoriesWf s) : MemoriesWf (setSymbol s core id y) := modCore_wf h

theorem reissue_wf {s : State} {core : Nat} {ids : List Nat} {lanes : LaneMask} (h : MemoriesWf s) :
    MemoriesWf (reissue s core ids lanes) := by
  unfold reissue
  extract_lets s1
  have hs1 : MemoriesWf s1 := modCore_wf h
  refine foldl_wf (fun _ _ h1 => ?_) hs1
  split
  · exact h1
  · exact setSymbol_wf h1

theorem endService_wf {s : State} {core : Nat} (h : MemoriesWf s) : MemoriesWf (endService s core) := modCore_wf (modTroupe_wf h)

theorem returnFromTrap_wf {s : State} {core : Nat} {targets : Option Lanes} (h : MemoriesWf s) :
    MemoriesWf (returnFromTrap s core targets) := by
  unfold returnFromTrap
  split
  · exact h
  extract_lets s1
  have hs1 : MemoriesWf s1 := by
    unfold s1
    split
    · exact h
    split
    · exact reissue_wf (modTroupe_wf h)
    · exact modTroupe_wf h
    · exact h
  exact endService_wf hs1

/-! ## Slices, lines and accesses at a home (R327 to R346) -/

theorem setLine_wf {s : State} {core line : Nat} {n : Line} (h : MemoriesWf s) : MemoriesWf (setLine s core line n) := modCore_wf h

theorem dropLine_wf {s : State} {core line : Nat} (h : MemoriesWf s) : MemoriesWf (dropLine s core line) := modCore_wf h

theorem clearPoison_wf {s : State} {l : Loc} {len : Nat} (h : MemoriesWf s) : MemoriesWf (clearPoison s l len) := by
  unfold clearPoison
  exact h.frame rfl

theorem l2Drop_wf {s : State} {die line : Nat} (h : MemoriesWf s) : MemoriesWf (l2Drop s die line) := by
  unfold l2Drop
  split
  · exact h
  · exact modDie_wf h

theorem l2DropAll_wf {s : State} {line : Nat} (h : MemoriesWf s) : MemoriesWf (l2DropAll s line) := foldl_wf (fun _ _ h1 => l2Drop_wf h1) h

theorem l2Mark_wf {s : State} {die line : Nat} {st : L2State} (h : MemoriesWf s) : MemoriesWf (l2Mark s die line st) := by
  unfold l2Mark
  split
  · exact h
  · exact modDie_wf h

theorem l2Spare_wf {s : State} {die line : Nat} (h : MemoriesWf s) : MemoriesWf (l2Spare s die line) := by
  unfold l2Spare
  extract_lets
  split
  · exact h
  split
  · exact l2Drop_wf h
  · exact h

theorem writeBack_wf {s : State} {core line : Nat} (h : MemoriesWf s) : MemoriesWf (writeBack s core line) := by
  unfold writeBack
  split
  · exact h
  extract_lets s1 s2
  have hs1 : MemoriesWf s1 := foldl_wf (fun _ _ h1 => rawWrite_wf _ _ _ h1) h
  have hs2 : MemoriesWf s2 := by
    unfold s2
    split
    · exact hs1
    · exact l2Mark_wf hs1
  exact modCore_wf hs2

theorem demote_wf {s : State} {core line : Nat} {st : LineState} (h : MemoriesWf s) : MemoriesWf (demote s core line st) := by
  unfold demote
  split
  · exact h
  · exact modCore_wf (writeBack_wf h)

theorem giveUp_wf {s : State} {core line : Nat} (h : MemoriesWf s) : MemoriesWf (giveUp s core line) := dropLine_wf (writeBack_wf h)

theorem applyInvals_wf {s : State} {core : Nat} {p : Inval → Bool} (h : MemoriesWf s) : MemoriesWf (applyInvals s core p) := modCore_wf h

theorem applyOwn_wf {s : State} {core line : Nat} (h : MemoriesWf s) : MemoriesWf (applyOwn s core line) := applyInvals_wf h

theorem acquireApply_wf {s : State} {core scope : Nat} {objects : List Nat} (h : MemoriesWf s) :
    MemoriesWf (acquireApply s core scope objects) := by
  unfold acquireApply
  split
  · exact h
  · exact applyInvals_wf h

theorem receiveInval_wf {s : State} {core line : Nat} (h : MemoriesWf s) : MemoriesWf (receiveInval s core line) := by
  unfold receiveInval
  split
  · exact h
  split
  · split
    · exact h
    extract_lets s1
    have hs1 : MemoriesWf s1 := by
      unfold s1
      split
      · exact applyInvals_wf h
      · exact h
    exact modCore_wf hs1
  split
  · exact giveUp_wf h
  · exact h

theorem postInvals_wf {s : State} {self line : Nat} (h : MemoriesWf s) : MemoriesWf (postInvals s self line) :=
  foldl_wf (fun _ _ h1 => modCore_wf h1) h

theorem expelSharers_wf {s : State} {self line : Nat} (h : MemoriesWf s) : MemoriesWf (expelSharers s self line) :=
  foldl_wf (fun _ _ h1 => receiveInval_wf h1) h

theorem mergeHome_wf {s : State} {line op ty : Nat} {inc : Line} (h : MemoriesWf s) : MemoriesWf (mergeHome s line op ty inc) :=
  foldl_wf (fun _ _ h1 => foldl_wf (fun _ _ h2 => rawWrite_wf _ _ _ h2) h1) h

theorem evictU_wf {s : State} {core line : Nat} (h : MemoriesWf s) : MemoriesWf (evictU s core line) := by
  unfold evictU
  split
  · exact h
  split
  · extract_lets s1
    have hs1 : MemoriesWf s1 := modCore_wf h
    exact hs1.frame rfl
  · exact h

theorem mergeEviction_wf {s : State} {core line : Nat} (h : MemoriesWf s) : MemoriesWf (mergeEviction s core line) := by
  unfold mergeEviction
  split
  · exact h
  split
  · extract_lets _ _ _ s1 _ s2
    have hs1 : MemoriesWf s1 := by
      unfold s1
      split
      · exact h
      · exact l2Spare_wf (l2Drop_wf h)
    have hs2 : MemoriesWf s2 := hs1.frame rfl
    exact dropLine_wf hs2
  · exact h

theorem settleEvicting_wf {s : State} {line : Nat} (h : MemoriesWf s) : MemoriesWf (settleEvicting s line) :=
  foldl_wf (fun _ _ h1 => mergeEviction_wf h1) h

theorem collapseLine_wf {s : State} {line : Nat} (h : MemoriesWf s) : MemoriesWf (collapseLine s line) := by
  unfold collapseLine
  extract_lets s1
  have hs1 : MemoriesWf s1 := settleEvicting_wf h
  split
  · exact hs1
  extract_lets _ _ s2 s3
  have hs2 : MemoriesWf s2 := by
    unfold s2
    refine foldl_wf (fun _ _ h1 => ?_) hs1
    split
    · exact mergeHome_wf h1
    · exact h1
  have hs3 : MemoriesWf s3 := foldl_wf (fun _ _ h2 => dropLine_wf h2) hs2
  exact hs3.frame rfl

theorem releaseSlice_wf {s : State} {die line : Nat} (h : MemoriesWf s) : MemoriesWf (releaseSlice s die line) := by
  unfold releaseSlice
  split
  · exact h
  split
  · split
    · exact collapseLine_wf h
    extract_lets s1
    have hs1 : MemoriesWf s1 := mergeHome_wf h
    exact hs1.frame rfl
  · exact h

theorem l2Room_wf {s : State} {die line : Nat} (h : MemoriesWf s) : MemoriesWf (l2Room s die line) := by
  unfold l2Room
  extract_lets
  split
  · exact l2Spare_wf h
  split
  · split
    · exact releaseSlice_wf h
    · exact h
  · exact h

theorem ackEviction_wf {s : State} {core line : Nat} (h : MemoriesWf s) : MemoriesWf (ackEviction s core line) := by
  unfold ackEviction
  extract_lets
  refine mergeEviction_wf ?_
  split
  · exact l2Room_wf h
  · exact h

theorem countMiss_wf {s : State} {line : Nat} (h : MemoriesWf s) : MemoriesWf (countMiss s line) := by
  unfold countMiss
  exact h.frame rfl

theorem l2Take_wf {s : State} {die line : Nat} {write first : Bool} (h : MemoriesWf s) : MemoriesWf (l2Take s die line write first) := by
  unfold l2Take
  extract_lets _ s1 _ s2
  have hs1 : MemoriesWf s1 := by
    unfold s1
    refine foldl_wf (fun _ _ h1 => ?_) h
    split
    · exact l2Drop_wf h1
    · exact modDie_wf h1
  have hs2 : MemoriesWf s2 := l2Room_wf (countMiss_wf hs1)
  split
  · exact modDie_wf hs1
  split
  · exact hs2
  · exact modDie_wf hs2

theorem l2Home_wf {s : State} {l : Loc} {write : Bool} (h : MemoriesWf s) : MemoriesWf (l2Home s l write) := by
  unfold l2Home
  split
  · exact h
  split
  · split
    · exact l2DropAll_wf h
    · exact h
  · exact l2Take_wf h

theorem makeRoom_wf {s : State} {core line : Nat} (h : MemoriesWf s) : MemoriesWf (makeRoom s core line) := by
  unfold makeRoom
  extract_lets
  split
  · exact h
  split
  · exact giveUp_wf h
  split
  · exact ackEviction_wf (evictU_wf h)
  · exact h

theorem shareOwners_wf {s : State} {self line : Nat} (h : MemoriesWf s) : MemoriesWf (shareOwners s self line) :=
  foldl_wf (fun _ _ h1 => demote_wf h1) h

theorem expelOwners_wf {s : State} {self line : Nat} (h : MemoriesWf s) : MemoriesWf (expelOwners s self line) :=
  foldl_wf (fun _ _ h1 => giveUp_wf h1) h

theorem fillSector_wf {s : State} {core line sec va : Nat} {st : LineState} (h : MemoriesWf s) :
    MemoriesWf (fillSector s core line sec va st) := by
  unfold fillSector
  extract_lets
  split
  · exact h
  · exact setLine_wf h

theorem dropPeers_wf {s : State} {line : Nat} (h : MemoriesWf s) : MemoriesWf (dropPeers s line) := by
  unfold dropPeers
  split
  · exact h.frame rfl
  · exact h

theorem loadSector_wf {s : State} {core : Nat} {l : Loc} (h : MemoriesWf s) : MemoriesWf (loadSector s core l) := by
  unfold loadSector
  extract_lets _ _ s1 s2 s3
  have hs1 : MemoriesWf s1 := l2Take_wf h
  have hs2 : MemoriesWf s2 := shareOwners_wf hs1
  have hs3 : MemoriesWf s3 := makeRoom_wf hs2
  split
  · split
    · split
      · exact setLine_wf h
      · exact fillSector_wf hs2
    · exact h
  refine fillSector_wf ?_
  split
  · exact hs3
  · exact l2Mark_wf hs3

theorem homeRead_wf {s : State} {l : Loc} {n : Nat} (h : MemoriesWf s) : MemoriesWf (homeRead s l n).1 := by
  unfold homeRead
  split
  · exact l2Home_wf (foldl_wf (fun _ _ h1 => demote_wf h1) (collapseLine_wf h))
  · exact l2Home_wf (foldl_wf (fun _ _ h2 => demote_wf h2) (collapseLine_wf h))
  · exact h

theorem clearForWrite_wf {s : State} {l : Loc} (h : MemoriesWf s) : MemoriesWf (clearForWrite s l) := by
  unfold clearForWrite
  split
  · exact l2Home_wf (dropPeers_wf (expelSharers_wf (foldl_wf (fun _ _ h1 => giveUp_wf h1) (collapseLine_wf h))))
  · exact l2Home_wf (dropPeers_wf (expelSharers_wf (foldl_wf (fun _ _ h2 => giveUp_wf h2) (collapseLine_wf h))))
  · exact h

theorem dropPlain_wf {s : State} {core line : Nat} (h : MemoriesWf s) : MemoriesWf (dropPlain s core line) := by
  unfold dropPlain
  split
  · exact h
  split
  · exact giveUp_wf h
  · exact h

theorem homeWrite_wf {s : State} {l : Loc} {bs : List Byte} (h : MemoriesWf s) : MemoriesWf (homeWrite s l bs) :=
  rawWrite_wf _ _ _ (clearForWrite_wf (clearPoison_wf h))

theorem coreLoad_wf {s : State} {core : Nat} {l : Loc} {n : Nat} (h : MemoriesWf s) : MemoriesWf (coreLoad s core l n).1 := by
  unfold coreLoad
  split
  · extract_lets s1 s2
    have hs1 : MemoriesWf s1 := by
      unfold s1
      split
      · split
        · exact h
        · exact collapseLine_wf h
      · exact collapseLine_wf h
    have hs2 : MemoriesWf s2 := loadSector_wf hs1
    split <;> exact hs2
  · exact homeRead_wf (applyOwn_wf h)

theorem ownForStore_wf {s : State} {core : Nat} {l : Loc} {whole : Bool} (h : MemoriesWf s) : MemoriesWf (ownForStore s core l whole) := by
  unfold ownForStore
  extract_lets _ _ s1 s2 s3 s4 s5 s6 s7
  have hs1 : MemoriesWf s1 := applyOwn_wf h
  have hs2 : MemoriesWf s2 := collapseLine_wf hs1
  have hs3 : MemoriesWf s3 := expelOwners_wf hs2
  have hs4 : MemoriesWf s4 := dropPeers_wf (expelSharers_wf hs3)
  have hs5 : MemoriesWf s5 := by
    unfold s5
    split
    · exact l2Mark_wf hs4
    · exact l2Take_wf hs4
  have hs6 : MemoriesWf s6 := makeRoom_wf hs5
  have hs7 : MemoriesWf s7 := by
    unfold s7
    split
    · exact hs6
    · exact fillSector_wf hs6
  exact setLine_wf hs7

theorem coreStore_wf {s : State} {core : Nat} {sector : Loc} {bytes : Tab Byte} (h : MemoriesWf s) :
    MemoriesWf (coreStore s core sector bytes) := by
  unfold coreStore
  extract_lets _ s1 s2 s3
  have hs1 : MemoriesWf s1 := by
    unfold s1
    split
    · exact clearPoison_wf h
    · exact h
  have hs2 : MemoriesWf s2 := ownForStore_wf hs1
  have hs3 : MemoriesWf s3 := clearForWrite_wf (dropPlain_wf hs1)
  split
  · split
    · exact hs2
    · exact setLine_wf hs2
  · exact foldl_wf (fun _ _ h1 => rawWrite_wf _ _ _ h1) hs3

theorem updateCopy_wf {s : State} {core op ty : Nat} {l : Loc} {v : Nat} (h : MemoriesWf s) : MemoriesWf (updateCopy s core op ty l v) := by
  unfold updateCopy
  split
  · exact h
  · exact setLine_wf h

theorem grantU_wf {s : State} {core op ty : Nat} {l : Loc} (h : MemoriesWf s) : MemoriesWf (grantU s core op ty l) := by
  unfold grantU
  extract_lets _ s1 s2 s3 s4 s5 s6 s7 s8
  have hs1 : MemoriesWf s1 := applyOwn_wf h
  have hs2 : MemoriesWf s2 := by
    unfold s2
    split
    · exact collapseLine_wf hs1
    · exact ackEviction_wf hs1
  have hs3 : MemoriesWf s3 := dropPeers_wf (l2DropAll_wf hs2)
  clear_value s3
  have hs4 : MemoriesWf s4 := hs3.frame rfl
  have hs5 : MemoriesWf s5 := foldl_wf (fun _ _ h1 => giveUp_wf h1) hs4
  have hs6 : MemoriesWf s6 := dropLine_wf hs5
  have hs7 : MemoriesWf s7 := expelSharers_wf hs6
  have hs8 : MemoriesWf s8 := makeRoom_wf hs7
  exact setLine_wf hs8

theorem atomicAt_wf {s : State} {core : Nat} {l : Loc} {w : Nat} {f : Nat → Nat} (h : MemoriesWf s) :
    MemoriesWf (atomicAt s core l w f).1 := by
  unfold atomicAt
  split
  · exact coreStore_wf (coreLoad_wf (applyOwn_wf h))
  · exact homeWrite_wf (homeRead_wf (dropPlain_wf h))

/-! ## Translation, TLBs and parked pages (R379 to R389) -/

theorem setLeaf_wf {s : State} {a e : Nat} (h : MemoriesWf s) : MemoriesWf (setLeaf s a e) := homeWrite_wf h

theorem fillFirst_wf {s : State} {u : Nat} {e : TlbEntry} (h : MemoriesWf s) : MemoriesWf (fillFirst s u e) := by
  unfold fillFirst
  split
  · exact modCore_wf h
  split
  · exact modDie_wf h
  · exact h

theorem walkFill_wf {s : State} {core va : Nat} {write : Bool} (h : MemoriesWf s) : MemoriesWf (walkFill s core va write).1 := by
  unfold walkFill
  split
  · exact h
  extract_lets _ s1
  have hs1 : MemoriesWf s1 := by
    unfold s1
    split
    · exact h
    · exact setLeaf_wf h
  exact modDie_wf (fillFirst_wf hs1)

theorem lookup_wf {s : State} {core va : Nat} (h : MemoriesWf s) : MemoriesWf (lookup s core va).1 := by
  unfold lookup
  split
  · exact h
  extract_lets s1
  have hs1 : MemoriesWf s1 := by
    unfold s1
    split
    · exact modCore_wf h
    · exact h
  split
  · exact fillFirst_wf hs1
  · exact walkFill_wf hs1

theorem translateVa_wf {s : State} {w : Who} {va space size : Nat} {report : Word} {kind : Access} (h : MemoriesWf s) :
    MemoriesWf (translateVa s w va space size report kind).1 := by
  unfold translateVa
  split
  next e1 => exact (lookup_wf h).of_eq e1
  next e2 =>
    have h1 := (lookup_wf h).of_eq e2
    split
    · split
      · split
        · exact h1
        split
        · split
          next e3 => exact (walkFill_wf h1).of_eq e3
          next e4 => exact (walkFill_wf h1).of_eq e4
        · exact h1
      · exact h1
    · exact h1

theorem unitLookup_wf {s : State} {va : Nat} {write : Bool} (h : MemoriesWf s) : MemoriesWf (unitLookup s va write).1 := by
  unfold unitLookup
  split
  · exact h
  extract_lets
  dsimp only
  split
  · exact h
  · exact setLeaf_wf h

theorem unitPlace_wf {s : State} {ptr : Word} {read write : Bool} (h : MemoriesWf s) : MemoriesWf (unitPlace s ptr read write).1 := by
  unfold unitPlace
  extract_lets
  split
  · exact h
  split
  next e1 => exact (unitLookup_wf h).of_eq e1
  next e2 =>
    have h1 := (unitLookup_wf h).of_eq e2
    split
    · exact h1
    dsimp only
    split
    · exact unitLookup_wf h1
    · exact h1

theorem unitLoc_wf {s : State} {ptr : Word} {write : Bool} (h : MemoriesWf s) : MemoriesWf (unitLoc s ptr write).1 := unitPlace_wf h

theorem unitRead_wf {s : State} {fuel : Nat} {ptr : Word} {n : Nat} (h : MemoriesWf s) : MemoriesWf (unitRead s fuel ptr n).1 := by
  induction fuel generalizing s ptr n with
  | zero => exact h
  | succ fuel ih =>
    unfold unitRead
    split
    · exact h
    · exact h
    next e _ =>
      cases e
      split
      next e => exact (unitLoc_wf h).of_eq e
      next e =>
        have hl := (unitLoc_wf h).of_eq e
        split
        · exact hl.frame rfl
        extract_lets
        split
        next e => exact (ih (homeRead_wf hl)).of_eq e
        next e => exact (ih (homeRead_wf hl)).of_eq e

theorem unitBytes_wf {s : State} {ptr : Word} {n : Nat} (h : MemoriesWf s) : MemoriesWf (unitBytes s ptr n).1 := unitRead_wf h

theorem unitHome_wf {s : State} {l : Loc} {n : Nat} (h : MemoriesWf s) : MemoriesWf (unitHome s l n).1 := by
  unfold unitHome
  split
  · exact h.frame rfl
  · exact homeRead_wf h

theorem whole_wf {s t : State} (h : MemoriesWf s) (ht : MemoriesWf t) : MemoriesWf (whole s t) := by
  unfold whole
  split
  · exact h
  · exact ht

theorem unitWrite_wf {s : State} {ptr : Word} {bs : List Byte} (h : MemoriesWf s) : MemoriesWf (unitWrite s ptr bs).1 := by
  unfold unitWrite
  split
  next e1 => exact (unitPlace_wf h).of_eq e1
  next e2 =>
    have h1 := (unitPlace_wf h).of_eq e2
    split
    · exact h1.frame rfl
    · exact homeWrite_wf h1

theorem payOwed_wf {s : State} (h : MemoriesWf s) : MemoriesWf (payOwed s) := by
  unfold payOwed
  refine foldl_wf (fun _ _ h1 => ?_) (h.frame rfl)
  split
  · exact h1.frame rfl
  · exact unitWrite_wf h1

theorem translate_wf {s : State} {w : Who} {wid ptr : Word} {size : Nat} {kind : Access} (h : MemoriesWf s) :
    MemoriesWf (translate s w wid ptr size kind).1 := by
  unfold translate
  extract_lets
  split
  · exact h
  split
  · exact h
  split
  · exact h
  split
  · split
    · exact h
    · split <;> exact h
  split
  · split
    · exact h
    split
    · exact h
    · split <;> exact h
  split
  · split
    · exact h
    · exact translateVa_wf h
  · exact translateVa_wf h

theorem locate_wf {s : State} {w : Who} {ptr : Word} {size : Nat} {kind : Access} (h : MemoriesWf s) :
    MemoriesWf (locate s w ptr size kind).1 := by
  unfold locate
  split
  · exact translateVa_wf h
  · exact translate_wf h

theorem findAgain_wf {s : State} {w : Who} {ptr : Word} {size : Nat} {kind : Access} (h : MemoriesWf s) :
    MemoriesWf (findAgain s w ptr size kind).1 := by
  unfold findAgain
  split
  next e1 => exact (locate_wf h).of_eq e1
  next e2 => exact (locate_wf h).of_eq e2

theorem refind_wf {s : State} {w : Who} {l : Loc} {size : Nat} {kind : Access} (h : MemoriesWf s) :
    MemoriesWf (refind s w l size kind).1 := by
  unfold refind
  split
  · exact findAgain_wf h
  · exact h

theorem dropTlb_wf {s : State} {p : TlbEntry → Bool} (h : MemoriesWf s) : MemoriesWf (dropTlb s p) := by
  unfold dropTlb
  exact h.frame rfl

theorem wakePark_wf {s : State} {core pos : Nat} {k : Park} (h : MemoriesWf s) : MemoriesWf (wakePark s core pos k) := by
  unfold wakePark
  exact reissue_wf (modTroupe_wf h)

theorem rewalkPark_wf {s : State} {covers : Nat → Bool} {core pos : Nat} {k : Park} (h : MemoriesWf s) :
    MemoriesWf (rewalkPark s covers core pos k) := by
  unfold rewalkPark
  split
  · exact h
  extract_lets
  split
  · exact wakePark_wf h
  · exact modTroupe_wf h

theorem rewalk_wf {s : State} {covers : Nat → Bool} (h : MemoriesWf s) : MemoriesWf (rewalk s covers) :=
  foldl_wf (fun _ _ h1 => rewalkPark_wf h1) h

theorem invalidatePage_wf {s : State} {ptr : Word} (h : MemoriesWf s) : MemoriesWf (invalidatePage s ptr) := rewalk_wf (dropTlb_wf h)

theorem invalidateKey_wf {s : State} {idx : Nat} (h : MemoriesWf s) : MemoriesWf (invalidateKey s idx) := rewalk_wf (dropTlb_wf h)

theorem invalidateAll_wf {s : State} (h : MemoriesWf s) : MemoriesWf (invalidateAll s) := rewalk_wf (dropTlb_wf h)

/-! ## Operands (R44 to R46, R141 to R155) -/

theorem useRegs_wf {s : State} {x : Ctx} {rs : List Reg} {k : State → Ctx → Out} (h : MemoriesWf s)
    (hk : ∀ a b, MemoriesWf a → OutWf (k a b)) : OutWf (useRegs s x rs k) := by
  unfold useRegs
  split
  · exact .next (notStarted_wf h)
  extract_lets
  split
  · exact hk _ _ h
  · exact settle_wf h fun _ _ h1 => hk _ _ (putClause_wf h1)

theorem use_wf {s : State} {x : Ctx} {ops : List Operand} {k : State → Ctx → Out} (h : MemoriesWf s)
    (hk : ∀ a b, MemoriesWf a → OutWf (k a b)) : OutWf (use s x ops k) :=
  useRegs_wf h (fun _ _ h1 => hk _ _ h1)

/-! ## Clauses: checks, starts, pressure spilling (R18 to R29, R34, R123 to R140) -/

theorem fetchWords_wf {s : State} {w : Who} {n : Nat} {a : Word} (h : MemoriesWf s) : MemoriesWf (fetchWords s w n a).1 := by
  induction n generalizing s a with
  | zero => exact h
  | succ n ih =>
    unfold fetchWords
    split
    next e => exact (translate_wf h).of_eq e
    next e =>
      have ht := (translate_wf h).of_eq e
      split
      next e => exact (ih ht).of_eq e
      next e => exact (ih ht).of_eq e

theorem poisonKill_wf {s : State} {key : Nat} (h : MemoriesWf s) : MemoriesWf (poisonKill s key) := by
  unfold poisonKill
  split
  · exact h
  extract_lets
  split
  · exact h
  · exact h.frame rfl

theorem startTrap_wf {s : State} {core pos cause : Nat} {addr head : Word} {subset : LaneMask} (h : MemoriesWf s) :
    MemoriesWf (startTrap s core pos cause addr head subset) :=
  takeTrap_wf (modCore_wf h)

theorem recordPark_wf {s : State} {core pos : Nat} {head : Word} {p : Split} {own whole : Bool} (h : MemoriesWf s) :
    MemoriesWf (recordPark s core pos head p own whole) := by
  unfold recordPark
  extract_lets _ _ _ _ _ _ s1 s2 s3
  have hs1 : MemoriesWf s1 := modCore_wf h
  have hs2 : MemoriesWf s2 := modTroupe_wf hs1
  have hs3 : MemoriesWf s3 := by
    unfold s3
    split
    · exact raiseDelivery_wf hs2
    · exact hs2
  split
  · exact hs3
  · exact rewalkPark_wf hs3

theorem tryStart_wf {s : State} {core slot pos : Nat} {subset : LaneMask} (h : MemoriesWf s) :
    ∀ t ∈ tryStart s core slot pos subset, MemoriesWf t := by
  unfold tryStart
  split
  · exact forall_mem_none
  split
  · exact forall_mem_none
  extract_lets head g w fetchFail
  have hfail (q : State) (f : Failure) (hq : MemoriesWf q) : ∀ t ∈ fetchFail q f, MemoriesWf t := by
    unfold fetchFail
    extract_lets
    split
    · exact forall_mem_some (recordPark_wf (modCore_wf hq))
    · exact forall_mem_some (startTrap_wf (modCore_wf hq))
  clear_value fetchFail
  split
  next e => exact hfail _ _ ((fetchWords_wf h).of_eq e)
  next e =>
    have hs := (fetchWords_wf h).of_eq e
    extract_lets
    split
    · exact forall_mem_some (startTrap_wf hs)
    split
    next e => exact hfail _ _ ((fetchWords_wf hs).of_eq e)
    next e =>
      have hs := (fetchWords_wf hs).of_eq e
      extract_lets
      split
      · exact forall_mem_some (poisonKill_wf (modCore_wf hs))
      split
      · exact forall_mem_some (startTrap_wf hs)
      split
      · exact forall_mem_some (startTrap_wf hs)
      split
      · exact forall_mem_some (startTrap_wf hs)
      extract_lets ready cl cl' q
      have hq : MemoriesWf q := setTroupe_wf hs
      split
      · exact forall_mem_none
      · exact forall_mem_some (hq.frame rfl)

theorem startFirst_wf {s : State} {core slot : Nat} {cs : List (Nat × Nat × LaneMask)} (h : MemoriesWf s) :
    MemoriesWf (startFirst s core slot cs) := by
  induction cs generalizing s with
  | nil => exact modCore_wf h
  | cons c cs ih =>
    unfold startFirst
    split
    next e => exact tryStart_wf h _ e
    · exact ih (modCore_wf h)

theorem spillFault_wf {s : State} {core pos reg : Nat} {back : Bool} {addr : Word} (h : MemoriesWf s) :
    MemoriesWf (spillFault s core pos reg back addr) := by
  unfold spillFault
  split
  · exact h
  · exact modTroupe_wf (raiseDelivery_wf h)

theorem storeBytes_wf {s : State} {core : Nat} {l : Loc} {bs : List Byte} (h : MemoriesWf s) : MemoriesWf (storeBytes s core l bs) :=
  foldl_wf (fun _ _ h1 => coreStore_wf h1) h

theorem loadBytes_wf {s : State} {core : Nat} {l : Loc} {n : Nat} (h : MemoriesWf s) : MemoriesWf (loadBytes s core l n).1 :=
  foldl_fst_wf (fun _ _ h1 => coreLoad_wf h1) h

theorem spillSectors_wf {s : State} {core : Nat} {a : Word} {n : Nat} {kind : Access} (h : MemoriesWf s) :
    MemoriesWf (spillSectors s core a n kind).1 := by
  unfold spillSectors
  refine foldl_fst_wf (fun _ _ h1 => ?_) h
  split
  · exact h1
  split
  next e1 => exact (translate_wf h1).of_eq e1
  next e2 => exact (translate_wf h1).of_eq e2

theorem startSpill_wf {s : State} {core pos reg : Nat} (h : MemoriesWf s) : MemoriesWf (startSpill s core pos reg) := by
  unfold startSpill
  split
  · exact h
  extract_lets
  split
  next e1 => exact spillFault_wf ((spillSectors_wf h).of_eq e1)
  next e2 => exact modCore_wf (foldl_wf (fun _ _ h1 => storeBytes_wf h1) ((spillSectors_wf h).of_eq e2))

theorem readSpill_wf {s : State} {core home reg : Nat} (h : MemoriesWf s) : MemoriesWf (readSpill s core home reg).1 := by
  unfold readSpill
  extract_lets a
  split
  next e => exact (spillSectors_wf h).of_eq e
  next q ls e =>
    have hr : MemoriesWf (loadBytes q core (ls.headD default) 16).1 := loadBytes_wf ((spillSectors_wf h).of_eq e)
    extract_lets
    split
    next e => exact (spillSectors_wf hr).of_eq e
    next e =>
      dsimp only
      refine foldl_fst_wf (fun q l hq => ?_) ((spillSectors_wf hr).of_eq e)
      dsimp only
      exact loadBytes_wf hq

theorem spillWhile_wf {core pos : Nat} {victim : Bool} {met : CoreSt → Bool} {s : State} {ns : List Nat} (h : MemoriesWf s) :
    MemoriesWf (spillWhile core pos victim met s ns) := by
  induction ns generalizing s with
  | nil => exact h
  | cons n ns ih => exact ite_wf h (ih (startSpill_wf h))

theorem spillVictims_wf {core : Nat} {kept : Nat × Troupe → List Nat} {met : CoreSt → Bool} {fuel : Nat} {s : State}
    (h : MemoriesWf s) : MemoriesWf (spillVictims core kept met fuel s) := by
  induction fuel generalizing s with
  | zero => exact h
  | succ fuel ih =>
    unfold spillVictims
    extract_lets
    split
    · exact h
    · exact ih (spillWhile_wf h)

theorem dropSets_wf {core : Nat} {met : CoreSt → Bool} {s : State} (h : MemoriesWf s) : MemoriesWf (dropSets core met s) := by
  unfold dropSets
  refine foldl_wf (fun _ _ h1 => ?_) h
  split
  · exact h1
  · exact modCore_wf h1

theorem relieve_wf {s : State} {core pos : Nat} {met : CoreSt → Bool} {kept : Nat × Troupe → List Nat} (h : MemoriesWf s) :
    MemoriesWf (relieve s core pos met kept) := by
  unfold relieve
  extract_lets s1 s2
  have hs1 : MemoriesWf s1 := dropSets_wf h
  have hs2 : MemoriesWf s2 := spillVictims_wf hs1
  split
  · exact hs1
  split
  · exact spillWhile_wf hs2
  · exact hs2

theorem relieveFor_wf {s q : State} {core : Nat} {need : Tab Nat} (h : MemoriesWf s) :
    MemoriesWf (relieveFor s q core need) :=
  relieve_wf h

theorem relieveClause_wf {s : State} {core pos need : Nat} {named : List Nat} (h : MemoriesWf s) :
    MemoriesWf (relieveClause s core pos need named) :=
  relieve_wf h

theorem endSpacing_wf {s : State} {x : Ctx} (h : MemoriesWf s) : MemoriesWf (endSpacing s x) := by
  unfold endSpacing
  split
  · exact modTroupe_wf h
  · exact h

theorem noteStart_wf {s : State} {x : Ctx} {subset : LaneMask} {completes : Bool} (h : MemoriesWf s) :
    MemoriesWf (noteStart s x subset completes) :=
  modTroupe_wf (modGrid_wf (modCore_wf h))

theorem surfaceMixed_wf {s : State} {x : Ctx} {mixed : List (Reg × LaneMask)} (h : MemoriesWf s) :
    ∀ t ∈ surfaceMixed s x mixed, MemoriesWf t := by
  unfold surfaceMixed
  dsimp only
  split
  · exact forall_mem_some (squash_wf h)
  split
  · exact forall_mem_none
  split
  · exact forall_mem_some (supervisorFault_wf h)
  split
  · exact forall_mem_some (notStarted_wf h)
  · exact forall_mem_some (recordPark_wf (notStarted_wf h))

theorem writeBinding_wf {s : State} {x : Ctx} {g : Grid} {i : Nat} (h : MemoriesWf s) : MemoriesWf (writeBinding s x g i) := by
  unfold writeBinding
  extract_lets
  split
  next e1 => exact homeWrite_wf ((translate_wf h).of_eq e1)
  next e2 => exact send_wf ((translate_wf h).of_eq e2)

/-- The bindings of a clause leave the memories to the state they end in, whether the clause goes on or not. -/
theorem bindStep_wf {s t : State} {x : Ctx} (h : MemoriesWf s) (ht : bindStep s x = .inl t ∨ bindStep s x = .inr t) : MemoriesWf t := by
  revert ht
  unfold bindStep
  split
  · split
    · rintro (⟨⟨⟩⟩ | ⟨⟨⟩⟩)
      exact squash_wf h
    · rintro (⟨⟨⟩⟩ | ⟨⟨⟩⟩)
      exact foldl_wf (fun _ _ h => writeBinding_wf h) (setGrid_wf h)
  · split
    · rintro (⟨⟨⟩⟩ | ⟨⟨⟩⟩)
      exact squash_wf h
    · rintro (⟨⟨⟩⟩ | ⟨⟨⟩⟩)
      exact h

theorem startChecked_wf {s : State} {x : Ctx} {parked : LaneMask} {need : Nat} (h : MemoriesWf s) :
    MemoriesWf (startChecked s x parked need) := by
  unfold startChecked
  extract_lets _ q y _ _
  have hq : MemoriesWf q := endSpacing_wf h
  split
  · exact squash_wf hq
  · split
    · by_cases hb : y.cl.binds.isEmpty = true
      · rw [if_pos hb]
        exact modTroupe_wf hq
      · rw [if_neg hb]
        split
        next e => exact bindStep_wf hq (.inl e)
        next e => exact modTroupe_wf (bindStep_wf hq (.inr e))
    · split
      · exact clauseOver_wf ((modTroupe_wf (recordPark_wf hq)).frame rfl)
      · exact modTroupe_wf (recordPark_wf hq)

theorem takeUp_wf {s : State} {x : Ctx} {completes : Bool} (h : MemoriesWf s) : MemoriesWf (takeUp s x completes) :=
  modTroupe_wf (noteStart_wf h)

theorem endTranslate_wf {s : State} {x : Ctx} (h : MemoriesWf s) : MemoriesWf (endTranslate s x) := by
  unfold endTranslate
  extract_lets
  split
  · exact supervisorFault_wf h
  split
  · exact supervisorFault_wf h
  · exact startChecked_wf h

theorem tryConditions_wf {s : State} {x : Ctx} (h : MemoriesWf s) : MemoriesWf (tryConditions s x) := by
  unfold tryConditions
  extract_lets
  split
  next e1 => exact surfaceMixed_wf h _ e1
  split
  · exact notStarted_wf h
  split
  · refine notStarted_wf ?_
    split
    · exact modCore_wf h
    · exact h
  split
  · exact notStarted_wf (relieveClause_wf (modCore_wf h))
  · exact takeUp_wf h

theorem endCheck_wf {s : State} {x : Ctx} (h : MemoriesWf s) : MemoriesWf (endCheck s x) := by
  unfold endCheck
  split
  · exact endTranslate_wf h
  · exact tryConditions_wf h

/-! ## The sending side of the Zethes links (R428 to R432) -/

theorem setPort_wf {s : State} {p : Nat} {v : Port} (h : MemoriesWf s) : MemoriesWf (setPort s p v) := by
  unfold setPort
  exact h.frame rfl

theorem setStream_wf {s : State} {k : Nat} {v : Stream} (h : MemoriesWf s) : MemoriesWf (setStream s k v) := by
  unfold setStream
  exact h.frame rfl

theorem emit_wf {s : State} {p : Packet} (h : MemoriesWf s) : MemoriesWf (emit s p) := by
  unfold emit
  extract_lets
  split
  · exact h
  · exact setPort_wf h

theorem pump_wf {s : State} {k : Nat} (h : MemoriesWf s) : MemoriesWf (pump s k) := by
  unfold pump
  extract_lets _ _ s1
  have hs1 : MemoriesWf s1 := setStream_wf h
  split
  · exact h
  · exact foldl_wf (fun _ _ h1 => emit_wf h1) hs1

theorem sendPacket_wf {s : State} {peer plane key : Nat} {flits : List Flit} (h : MemoriesWf s) :
    MemoriesWf (sendPacket s peer plane key flits) :=
  pump_wf (setStream_wf h)

theorem requestTo_wf {s : State} {key kind : Nat} {l : Loc} {bs : List Byte} (h : MemoriesWf s) :
    MemoriesWf (requestTo s key kind l bs) := by
  unfold requestTo
  split
  · exact h
  · exact sendPacket_wf h

theorem coreRequest_wf {s : State} {core key kind : Nat} {l : Loc} {bs : List Byte} (h : MemoriesWf s) :
    MemoriesWf (coreRequest s core key kind l bs) := by
  unfold coreRequest
  split
  · exact requestTo_wf h
  · exact h

/-! ## What the memory instructions share (R347 to R349, R363) -/

theorem walkKept_wf {x : Ctx} {old new : State} (hold : MemoriesWf old) (hnew : MemoriesWf new) : MemoriesWf (walkKept x old new) := by
  unfold walkKept
  split
  · exact hold
  · exact hnew

theorem reachOne_wf {x : Ctx} {kind : Access} {size align : Nat} {r : Reach} {i l : Nat} {ptr : Word} (h : MemoriesWf r.st) :
    MemoriesWf (reachOne x kind size align r i l ptr).st := by
  unfold reachOne
  split
  · exact h
  next e1 =>
    split
    next e2 => exact walkKept_wf h ((translate_wf h).of_eq e2)
    next e3 => exact walkKept_wf h ((translate_wf h).of_eq e3)

theorem reach_wf {s : State} {x : Ctx} {kind : Access} {size align : Nat} {lanes : List Nat} {addr : Nat → Word} (h : MemoriesWf s) :
    MemoriesWf (reach s x kind size align lanes addr).st :=
  foldl_st_wf (fun _ _ h1 => reachOne_wf h1) h

theorem shared_wf {x : Ctx} {r : Reach} (h : MemoriesWf r.st) : MemoriesWf (shared x r).st := h

theorem reachLow_wf {s : State} {x : Ctx} {o : Operand} {b : Nat} {f : State → Reach} (h : MemoriesWf s)
    (hf : ∀ a, MemoriesWf a → MemoriesWf (f a).st) : MemoriesWf (reachLow s x o b f).st := by
  unfold reachLow
  split
  · exact shared_wf (hf _ h)
  · exact h

theorem reachRange_wf {s : State} {x : Ctx} {kind : Access} {l : Nat} {ptr : Word} {len : Nat} (h : MemoriesWf s) :
    MemoriesWf (reachRange s x kind l ptr len).st := by
  unfold reachRange
  split
  · split <;> exact h
  · exact foldl_st_wf (fun _ _ h1 => reachOne_wf h1) h

theorem checked_wf {x : Ctx} {r : Reach} {n : Nat} {k : State → Ctx → Clause → Clause} (h : MemoriesWf r.st) : OutWf (checked x r n k) :=
  settle_wf h (fun _ _ h1 => done_wf h1)

theorem readOwn_wf {s : State} {core : Nat} {t : Troupe} {seq : Nat} {l : Loc} {n : Nat} (h : MemoriesWf s) :
    MemoriesWf (readOwn s core t seq l n).1 :=
  coreLoad_wf (coreRequest_wf h)

theorem afterDeferreds_wf {s : State} {x : Ctx} {k : Out} (h : MemoriesWf s) (hk : OutWf k) : OutWf (afterDeferreds s x k) := by
  unfold afterDeferreds
  split
  · exact waitHere_wf h
  · exact hk

theorem acquireObjects_wf {s : State} {core : Nat} {scope : Option Nat} {ptrs : List Word} (h : MemoriesWf s) :
    MemoriesWf (acquireObjects s core scope ptrs) := by
  unfold acquireObjects
  split
  · exact h
  · exact acquireApply_wf h

theorem noticePoison_wf {s : State} {t : Troupe} {l : Loc} {n : Nat} (h : MemoriesWf s) : MemoriesWf (noticePoison s t l n) := by
  unfold noticePoison
  split
  · exact poisonKill_wf h
  · exact h

theorem takeSymbol_wf {s : State} {x : Ctx} {y : Symbol} (h : MemoriesWf s) : MemoriesWf (takeSymbol s x y).1 := modCore_wf h

theorem performStores_wf {s : State} {x : Ctx} {n : Nat} {release : Option Nat} {ws : List (Loc × List Byte)} (h : MemoriesWf s) :
    OutWf (performStores s x n release ws) := by
  unfold performStores
  refine afterDeferreds_wf h ?_
  extract_lets
  split
  · exact waitHere_wf h
  · exact done_wf h

theorem performRecords_wf {s : State} {x : Ctx} {n : Nat} {ws : List (Loc × List Byte)} (h : MemoriesWf s) :
    OutWf (performRecords s x n ws) := by
  unfold performRecords
  split
  · exact waitHere_wf h
  · exact done_wf h

theorem performOps_wf {s : State} {x : Ctx} {n unit : Nat} {kind : SBKind} {release : Option Nat} {ops : List LaneOp} {k : Ctx → Ctx}
    (h : MemoriesWf s) : OutWf (performOps s x n unit kind release ops k) := by
  unfold performOps
  refine afterDeferreds_wf h ?_
  extract_lets
  split
  · exact waitHere_wf h
  · exact done_wf h

end Sys2Proof.Machine
end

section
/-!
PROOFS. The shapes of the instructions that reach outside the register file keep the memories canonical: atomics, sync words, queues,
control, system and tile instructions, and what tile entries compute.
-/

namespace Sys2Proof.Machine

/-! ## Returning atomics and updates (R354, R355) -/

theorem returning_wf {f : FM} {s : State} {ops : List Operand} {kind : Nat → SBKind} {val val2 : State → Ctx → Nat → Word}
    (h : MemoriesWf s) : OutWf (returning f s ops kind val val2) := by
  unfold returning
  refine inClause_wf fun _ => ?_
  extract_lets
  split
  · exact done_wf h
  refine use_wf h fun _ _ h1 => ?_
  extract_lets _ _ _ _ _ s1
  have hs1 : MemoriesWf s1.1 := takeSymbol_wf h1
  split
  · exact checked_wf (reach_wf h1)
  split
  · exact waitHere_wf h1
  · exact performOps_wf hs1

theorem amo_wf {float : Bool} {fn : Nat} {f : FM} {s : State} (h : MemoriesWf s) : OutWf (amo float fn f s) := returning_wf h

theorem update_wf {float : Bool} {fn : Nat} {f : FM} {s : State} (h : MemoriesWf s) : OutWf (update float fn f s) := by
  unfold update
  refine inClause_wf fun _ => ?_
  extract_lets
  split
  · exact done_wf h
  refine use_wf h fun _ _ h1 => ?_
  split
  · exact checked_wf (reach_wf h1)
  · exact performOps_wf h1

theorem updateAt_wf {s : State} {core : Nat} {float : Bool} {fn ty : Nat} {o : LaneOp} (h : MemoriesWf s) :
    MemoriesWf (updateAt s core float fn ty o) := by
  unfold updateAt
  split <;> exact atomicAt_wf h

/-! ## Sync words (R237 to R249) -/

theorem readSync_wf {s : State} {l : Loc} (h : MemoriesWf s) : MemoriesWf (readSync s l).1 := homeRead_wf h

theorem staleNotice_wf {s : State} {l : Loc} (h : MemoriesWf s) : MemoriesWf (staleNotice s l) := by
  unfold staleNotice
  split
  · split
    · exact raiseDelivery_wf h
    · exact h
  · exact h
  · exact send_wf h

theorem matchNotice_wf {s : State} {l : Loc} {gen : Nat} (h : MemoriesWf s) : MemoriesWf (matchNotice s l gen) := by
  unfold matchNotice
  split
  · exact h
  · exact modDie_wf h

theorem arrive_wf {s : State} {l : Loc} {g n : Nat} (h : MemoriesWf s) : MemoriesWf (arrive s l g n) := by
  unfold arrive
  extract_lets s1 s2 _ s3 _ _ s4
  have hs1 : MemoriesWf s1.1 := readSync_wf h
  have hs2 : MemoriesWf s2 := hs1
  have hs3 : MemoriesWf s3 := homeWrite_wf hs2
  have hs4 : MemoriesWf s4 := homeWrite_wf hs2
  split
  · split
    · exact staleNotice_wf hs3
    · exact hs3
  split
  · exact homeWrite_wf hs2
  split
  · exact matchNotice_wf hs4
  · exact hs4

theorem reachSync_wf {s : State} {x : Ctx} {kind : Access} {o : Operand} {addr : Nat → Word} (h : MemoriesWf s) :
    MemoriesWf (reachSync s x kind o addr).st := by
  unfold reachSync
  refine foldl_st_wf (fun _ _ h1 => ?_) h
  extract_lets
  split
  · exact h1
  split
  · exact h1
  · exact reachOne_wf h1

theorem eachWord_wf {s : State} {x : Ctx} {op : State → Nat → Loc → State × Word} (h : MemoriesWf s)
    (hop : ∀ a b c, MemoriesWf a → MemoriesWf (op a b c).1) : MemoriesWf (eachWord s x op).1 := by
  unfold eachWord
  refine foldl_fst_wf (fun _ _ h1 => ?_) h
  split
  · exact h1
  · exact hop _ _ _ (dropPlain_wf (coreRequest_wf h1))

theorem execSarm_wf {f : FM} {s : State} (h : MemoriesWf s) : OutWf (execSarm f s) := by
  unfold execSarm
  refine inClause_wf fun _ => ?_
  split
  · exact done_wf h
  refine use_wf h fun _ _ h1 => ?_
  extract_lets _ _ _ _ _ s1
  have hs1 : MemoriesWf s1.1 := by
    unfold s1
    refine eachWord_wf h1 fun _ _ _ h2 => ?_
    split
    · exact send_wf h2
    extract_lets s2 _ s3
    have hs2 : MemoriesWf s2.1 := readSync_wf h2
    have hs3 : MemoriesWf s3 := homeWrite_wf hs2
    exact hs3.frame rfl
  split
  · exact checked_wf (reachSync_wf h1)
  split
  · exact waitHere_wf h1
  · exact done_wf hs1

theorem execSwait_wf {f : FM} {s : State} (h : MemoriesWf s) : OutWf (execSwait f s) := by
  unfold execSwait
  refine inClause_wf fun _ => ?_
  split
  · exact done_wf h
  refine use_wf h fun _ _ h1 => ?_
  split
  · extract_lets
    split
    · exact .next (notStarted_wf (reachSync_wf h1))
    · exact checked_wf (reachSync_wf h1)
  · exact done_wf h1

theorem execSadd_wf {f : FM} {s : State} (h : MemoriesWf s) : OutWf (execSadd f s) := by
  unfold execSadd
  refine inClause_wf fun _ => ?_
  split
  · exact done_wf h
  refine use_wf h fun _ _ h1 => ?_
  split
  · exact checked_wf (reachSync_wf h1)
  · exact performOps_wf h1

theorem execGsp_wf {f : FM} {s : State} (h : MemoriesWf s) : OutWf (execGsp f s) := by
  unfold execGsp
  refine inClause_wf fun _ => ?_
  split
  · exact done_wf h
  refine use_wf h fun _ _ h1 => ?_
  extract_lets
  split
  · exact checked_wf (reachSync_wf h1)
  refine settle_wf h1 fun _ _ h2 => ?_
  split
  · exact waitHere_wf h2
  · exact done_wf (acquireObjects_wf (eachWord_wf h2 (fun _ _ _ h3 => readSync_wf h3)))

/-! ## Queues in device memory (R57, R58, R89) -/

theorem reachQueue_wf {fn : StqFn} {x : Ctx} {r : Reach} {l : Nat} {ptr : Word} (h : MemoriesWf r.st) :
    MemoriesWf (reachQueue fn x r l ptr).st := by
  unfold reachQueue
  extract_lets
  split
  · exact h
  split
  · exact reachOne_wf h
  extract_lets
  split
  · exact reachOne_wf h
  split
  · exact reachOne_wf (reachOne_wf h)
  · exact reachOne_wf h

theorem stqLane_wf {fn : StqFn} {x : Ctx} {s : State} {l : Nat} {loc : Loc} {v : Word} (h : MemoriesWf s) :
    ∀ r ∈ stqLane fn x s l loc v, MemoriesWf r.1 := by
  unfold stqLane
  dsimp only
  split
  · exact forall_mem_some (homeRead_wf (dropPlain_wf (coreRequest_wf h)))
  next e1 =>
    split
    · exact forall_mem_none
    next e2 =>
      have h1 := (translate_wf (homeRead_wf (dropPlain_wf (coreRequest_wf h)))).of_eq e2
      split
      · exact forall_mem_none
      split
      · exact forall_mem_some (homeWrite_wf (homeWrite_wf (dropPlain_wf (coreRequest_wf h1))))
      refine forall_mem_some ?_
      dsimp only
      split
      · exact homeWrite_wf (homeRead_wf (dropPlain_wf (coreRequest_wf h1)))
      · exact homeRead_wf (dropPlain_wf (coreRequest_wf h1))

theorem stqAll_wf {fn : StqFn} {x : Ctx} {v : Nat → Word} {ls : List Nat} {s : State} {st : Tab Nat} {out : Tab Word}
    (h : MemoriesWf s) : ∀ r ∈ stqAll fn x v ls s st out, MemoriesWf r.1 := by
  induction ls generalizing s st out with
  | nil => exact forall_mem_some h
  | cons l ls ih =>
    unfold stqAll
    split
    · exact ih h
    split
    · exact forall_mem_none
    next e => exact ih (stqLane_wf h _ e)

theorem stq_wf {fn : StqFn} {f : FM} {s : State} (h : MemoriesWf s) : OutWf (stq fn f s) := by
  unfold stq
  refine inClause_wf fun _ => ?_
  split
  · exact done_wf h
  next e1 =>
    refine use_wf h fun _ _ h1 => ?_
    extract_lets
    split
    · exact checked_wf (foldl_st_wf (fun _ _ h2 => reachQueue_wf h2) h1)
    refine afterDeferreds_wf h1 (settle_wf h1 (fun _ _ h3 => ?_))
    split
    · exact waitHere_wf h3
    split
    · exact waitHere_wf h3
    next e2 => exact done_wf (acquireObjects_wf (stqAll_wf h3 _ e2))

/-! ## Control instructions and meetings (R86 to R89, R105 to R115) -/

theorem branchTo_wf {s : State} {x : Ctx} {target : Nat → Word} (h : MemoriesWf s) : OutWf (branchTo s x target) := by
  unfold branchTo
  split
  · exact raiseTrap_wf h
  · exact settle_wf h fun _ _ h1 => done_wf h1

theorem setMeet_wf {s : State} {x : Ctx} {d : Operand} {new : Nat → Word} (h : MemoriesWf s) : OutWf (setMeet s x d new) := done_wf h

theorem execMeet_wf {f : FX} {s : State} (h : MemoriesWf s) : OutWf (execMeet f s) := by
  unfold execMeet
  refine inClause_wf fun _ => use_wf h (fun _ _ h1 => ?_)
  extract_lets
  split
  · exact trapAll_wf h1
  · exact setMeet_wf h1

theorem execBar_wf {f : FX} {s : State} (h : MemoriesWf s) : OutWf (execBar f s) := by
  unfold execBar
  refine inClause_wf fun _ => use_wf h (fun _ _ h1 => ?_)
  split
  · exact done_wf h1
  split
  · exact trapAll_wf h1
  extract_lets
  split
  · exact raiseTrap_wf h1
  · exact done_wf h1

theorem reachYield_wf {s : State} {x : Ctx} {b : Nat} {ptr : Word} (h : MemoriesWf s) : MemoriesWf (reachYield s x b ptr).st := by
  unfold reachYield
  split
  · exact reachOne_wf h
  · exact h

theorem execYieldQueue_wf {f : FA} {s : State} (h : MemoriesWf s) : OutWf (execYieldQueue f s) := by
  unfold execYieldQueue
  refine inClause_wf fun _ => use_wf h (fun _ _ h1 => ?_)
  split
  · exact done_wf h1
  extract_lets
  split
  · exact checked_wf (reachLow_wf h1 (fun _ h2 => reachYield_wf h2))
  split
  · exact done_wf h1
  split
  · exact waitHere_wf h1
  · exact done_wf h1

theorem dealGangs_wf {s : State} {ticket a b : Nat} (h : MemoriesWf s) : MemoriesWf (dealGangs s ticket a b) :=
  foldl_wf (fun _ _ h1 => modDie_wf h1) h

theorem growGrid_wf {s : State} {ticket n : Nat} (h : MemoriesWf s) : MemoriesWf (growGrid s ticket n).1 := by
  unfold growGrid
  split
  · exact h
  split
  · exact unitWrite_wf (dealGangs_wf (setGrid_wf h))
  · exact unitWrite_wf h

theorem execGrow_wf {f : FA} {s : State} (h : MemoriesWf s) : OutWf (execGrow f s) := by
  unfold execGrow
  refine inClause_wf fun _ => use_wf h (fun _ _ h1 => ?_)
  split
  · exact done_wf h1
  split
  · exact done_wf h1
  refine afterDeferreds_wf h1 ?_
  split
  · exact waitHere_wf h1
  · exact done_wf (growGrid_wf h1)

/-! ## Control registers, tlbi, tret, ctx and the trace unit (R396, R406 to R409, R446 to R448) -/

theorem unitStore_wf {s : State} {ptr : Word} {bs : List Byte} (h : MemoriesWf s) : MemoriesWf (unitStore s ptr bs).1 := by
  unfold unitStore
  refine foldl_fst_wf (fun _ _ h1 => ?_) h
  split
  · exact unitWrite_wf h1
  · exact h1

theorem recordStore_wf {s : State} {key unit : Nat} {ptr : Word} {bs : List Byte} (h : MemoriesWf s) :
    MemoriesWf (recordStore s key unit ptr bs) := by
  unfold recordStore
  split
  · exact unitStore_wf h
  · exact send_wf (h.frame rfl)

theorem traceStop_wf {s : State} {core : Nat} (h : MemoriesWf s) : MemoriesWf (traceStop s core) := send_wf (modCore_wf h)

theorem traceDrop_wf {s : State} {core : Nat} (h : MemoriesWf s) : MemoriesWf (traceDrop s core) := modCore_wf h

theorem traceCount_wf {s : State} {core : Nat} (h : MemoriesWf s) : MemoriesWf (traceCount s core) := modCore_wf h

theorem traceRecord_wf {s : State} {core kind ordinal group : Nat} {payload : Word} (h : MemoriesWf s) :
    MemoriesWf (traceRecord s core kind ordinal group payload) := by
  unfold traceRecord
  extract_lets _ _ s1
  have hs1 : MemoriesWf s1.1 := by
    unfold s1
    split
    · exact unitStore_wf h
    · exact h
  split
  · exact h
  split
  · exact traceDrop_wf h
  split
  · refine traceDrop_wf (traceStop_wf ?_)
    split
    · exact traceCount_wf hs1
    · exact hs1
  split
  next e1 => exact traceCount_wf ((unitStore_wf h).of_eq e1)
  next e2 => exact traceDrop_wf (traceStop_wf ((unitStore_wf h).of_eq e2))

theorem execTrcMark_wf {f : FX} {s : State} (h : MemoriesWf s) : OutWf (execTrcMark f s) := by
  unfold execTrcMark
  refine inClause_wf fun _ => use_wf h (fun _ _ h1 => ?_)
  split
  · exact done_wf h1
  split
  · exact done_wf h1
  · exact done_wf (traceRecord_wf h1)

theorem execTrcArm_wf {f : FX} {s : State} (h : MemoriesWf s) : OutWf (execTrcArm f s) := by
  unfold execTrcArm
  refine inClause_wf fun _ => use_wf h (fun _ _ h1 => ?_)
  split
  · exact done_wf h1
  extract_lets
  split
  · split
    · exact checked_wf (reachLow_wf h1 (fun _ h2 => reach_wf h2))
    · exact done_wf h1
  split
  · exact done_wf h1
  split
  · exact done_wf h1
  split
  · exact waitHere_wf h1
  extract_lets s1 s2
  have hs1 : MemoriesWf s1.1 := readOwn_wf h1
  have hs2 : MemoriesWf s2.1 := noticePoison_wf hs1
  split
  · exact done_wf hs2
  split
  · exact done_wf hs2
  · exact done_wf (modCore_wf hs2)

theorem execTrcDisarm_wf {f : FX} {s : State} (h : MemoriesWf s) : OutWf (execTrcDisarm f s) := by
  unfold execTrcDisarm
  refine inClause_wf fun _ => ?_
  split
  · exact done_wf h
  · exact done_wf (modCore_wf h)

theorem execCsrr_wf {f : FB} {s : State} (h : MemoriesWf s) : OutWf (execCsrr f s) := by
  unfold execCsrr
  refine inClause_wf fun _ => ?_
  split <;> exact done_wf h

theorem recordCsr_wf {f : FB} {s : State} (h : MemoriesWf s) : OutWf (recordCsr f s) := by
  unfold recordCsr
  refine inClause_wf fun _ => use_wf h (fun _ _ h1 => ?_)
  split <;> exact done_wf h1

theorem requestKill_wf {s : State} {key cause value : Nat} (h : MemoriesWf s) : MemoriesWf (requestKill s key cause value) := by
  unfold requestKill
  exact h.frame rfl

theorem storeCsr_wf {s : State} {core pos n : Nat} {v : Word} (h : MemoriesWf s) : MemoriesWf (storeCsr s core pos n v) := by
  unfold storeCsr
  extract_lets
  refine ite_wf (modTroupe_wf h) ?_
  refine ite_wf ?_ ?_
  · split
    · exact h
    split
    · exact h
    · exact modGroup_wf h fun _ => rfl
  · refine ite_wf (modCore_wf h) (ite_wf (modCore_wf h) ?_)
    refine ite_wf ?_ ?_
    · split
      · exact h
      · exact send_wf h
    · split
      · split
        · exact h
        split
        · exact h
        · exact requestKill_wf h
      split
      · exact modCore_wf h
      split
      · exact modCore_wf h
      split
      · exact modCore_wf h
      · exact h

theorem addPoison_wf {s : State} {ps : List Nat} (h : MemoriesWf s) : MemoriesWf (addPoison s ps) := by
  unfold addPoison
  exact h.frame rfl

theorem endPoison_wf {s : State} {first : Nat} (h : MemoriesWf s) : MemoriesWf (endPoison s first) := by
  unfold endPoison
  exact h.frame rfl

theorem execTlbiPage_wf {f : FM} {s : State} (h : MemoriesWf s) : OutWf (execTlbiPage f s) := by
  unfold execTlbiPage
  refine inClause_wf fun _ => use_wf h (fun _ _ h1 => ?_)
  split
  · exact done_wf h1
  extract_lets
  split
  · exact settle_wf h1 fun _ _ h2 => done_wf h2
  split
  · exact done_wf h1
  split
  · exact done_wf (invalidatePage_wf h1)
  · exact waitHere_wf h1

theorem execTlbiKey_wf {f : FM} {s : State} (h : MemoriesWf s) : OutWf (execTlbiKey f s) := by
  unfold execTlbiKey
  refine inClause_wf fun _ => use_wf h (fun _ _ h1 => ?_)
  split
  · exact done_wf h1
  extract_lets
  split
  · exact done_wf h1
  split
  · exact done_wf (invalidateKey_wf h1)
  · exact waitHere_wf h1

theorem execTlbiAll_wf {_f : FM} {s : State} (h : MemoriesWf s) : OutWf (execTlbiAll _f s) := by
  unfold execTlbiAll
  refine inClause_wf fun _ => ?_
  split
  · exact done_wf h
  split
  · exact done_wf (invalidateAll_wf h)
  · exact waitHere_wf h

theorem execTret_wf {f : FA} {s : State} (h : MemoriesWf s) : OutWf (execTret f s) := by
  unfold execTret
  refine inClause_wf fun _ => use_wf h (fun _ _ h1 => ?_)
  split
  · exact done_wf h1
  extract_lets
  split
  · exact raiseTrap_wf h1
  · exact done_wf h1

theorem startCtx_wf {s : State} {x : Ctx} {p : Word} {c : Control} (h : MemoriesWf s) : OutWf (startCtx s x p c) := by
  unfold startCtx
  split
  · exact raiseTrap_wf h
  split
  · split
    · exact settle_wf h fun _ _ h1 => done_wf h1
    · exact done_wf h
  · exact done_wf h

theorem execCtxSave_wf {f : FX} {s : State} (h : MemoriesWf s) : OutWf (execCtxSave f s) := by
  unfold execCtxSave
  refine inClause_wf fun _ => use_wf h (fun _ _ h1 => ?_)
  extract_lets
  split
  · exact done_wf h1
  · exact startCtx_wf h1

theorem execCtxRestore_wf {f : FX} {s : State} (h : MemoriesWf s) : OutWf (execCtxRestore f s) := by
  unfold execCtxRestore
  refine inClause_wf fun _ => use_wf h (fun _ _ h1 => ?_)
  extract_lets
  split
  · exact done_wf h1
  · exact startCtx_wf h1

/-! ## Operand slots, the accumulator and the tile queues (R251 to R291) -/

theorem reachTile_wf {s : State} {x : Ctx} {b : Nat} {ptr : Word} {m : TileMem} (h : MemoriesWf s) :
    MemoriesWf (reachTile s x b ptr m).st := by
  unfold reachTile
  split
  · exact h
  split
  · exact h
  · exact reachRange_wf h

theorem reachNotify_wf {x : Ctx} {r : Reach} {b : Nat} {c : Option Word} (h : MemoriesWf r.st) : MemoriesWf (reachNotify x r b c).st := by
  unfold reachNotify
  split
  · exact h
  split
  · exact h
  split
  · exact h
  · exact reachOne_wf h

theorem tileChecked_wf {s : State} {x : Ctx} {f : FX} {b : Nat} {causes : List Nat} {mem : Option TileMem} {k : Clause → Clause}
    (h : MemoriesWf s) : OutWf (tileChecked s x f b causes mem k) := by
  unfold tileChecked
  extract_lets r1 r2 r3
  have hr1 : MemoriesWf r1.st := by
    unfold r1
    split
    · split
      · exact reachTile_wf h
      · exact h
    · exact h
  have hr2 : MemoriesWf r2.st := by
    unfold r2
    split
    · exact reachNotify_wf hr1
    · exact hr1
  have hr3 : MemoriesWf r3.st := by
    unfold r3
    split
    · exact hr2
    · exact hr2
  exact checked_wf (shared_wf hr3)

theorem countReaders_wf {s : State} {up : Bool} {rs : List Res} (h : MemoriesWf s) : MemoriesWf (countReaders s up rs) :=
  foldl_wf (fun _ _ h1 => modGroup_wf h1 (fun _ => rfl)) h

theorem enqueue_wf {s : State} {core : Nat} {hi : Bool} {e : TileEntry} (h : MemoriesWf s) : MemoriesWf (enqueue s core hi e) :=
  countReaders_wf (modCore_wf h)

theorem performEntry_wf {s : State} {x : Ctx} {f : FX} {e : TileEntry} (h : MemoriesWf s) : OutWf (performEntry s x f e) := done_wf h

theorem tileInstr_wf {s : State} {ops : List Operand} {k : State → Ctx → Nat → Group → Out} (h : MemoriesWf s)
    (hk : ∀ a b c d, MemoriesWf a → OutWf (k a b c d)) : OutWf (tileInstr s ops k) := by
  unfold tileInstr
  refine inClause_wf fun _ => use_wf h (fun _ _ h1 => ?_)
  split
  · exact done_wf h1
  split
  · exact trapAll_wf h1
  · exact hk _ _ _ _ h1

theorem claimSlot_wf {s : State} {x : Ctx} {d : Operand} {h : Nat} {tag : Word} (hs : MemoriesWf s) : OutWf (claimSlot s x d h tag) := by
  unfold claimSlot
  split
  · exact done_wf hs
  · exact done_wf (endPoison_wf (modGroup_wf hs (fun _ => rfl)))

theorem execSlotClaim_wf {f : FX} {s : State} (h : MemoriesWf s) : OutWf (execSlotClaim f s) := by
  unfold execSlotClaim
  refine tileInstr_wf h fun _ _ _ _ h1 => ?_
  extract_lets
  split
  · exact trapAll_wf h1
  split
  · exact done_wf h1
  · exact claimSlot_wf h1

theorem execSlotClaimRetag_wf {f : FX} {s : State} (h : MemoriesWf s) : OutWf (execSlotClaimRetag f s) := by
  unfold execSlotClaimRetag
  refine tileInstr_wf h fun _ _ _ _ h1 => ?_
  extract_lets
  split
  · exact trapAll_wf h1
  split
  · exact .next (notStarted_wf h1)
  · exact claimSlot_wf h1

theorem execSlotRelease_wf {f : FX} {s : State} (h : MemoriesWf s) : OutWf (execSlotRelease f s) := by
  unfold execSlotRelease
  refine tileInstr_wf h fun _ _ _ _ h1 => ?_
  extract_lets
  split
  · exact trapAll_wf h1
  split
  · split
    · exact done_wf h1
    · exact .next (notStarted_wf h1)
  · exact done_wf (modGroup_wf h1 (fun _ => rfl))

theorem execSlotQuery_wf {f : FX} {s : State} (h : MemoriesWf s) : OutWf (execSlotQuery f s) := by
  unfold execSlotQuery
  refine tileInstr_wf h fun _ _ _ _ h1 => ?_
  extract_lets
  split
  · exact trapAll_wf h1
  · exact done_wf h1

theorem appendSegment_wf {s : State} {core key : Nat} {opn : Bool} {d : Word} {notify : Option Loc} {bGroup : Nat}
    {job : Option (Nat × Nat × Nat)} (h : MemoriesWf s) : MemoriesWf (appendSegment s core key opn d notify bGroup job) :=
  countReaders_wf (modCore_wf h)

theorem enqueueAll_wf {s : State} {x : Ctx} (h : MemoriesWf s) : MemoriesWf (enqueueAll s x) := by
  unfold enqueueAll
  refine foldl_wf (fun _ _ h1 => ?_) h
  split
  · exact enqueue_wf h1
  · exact appendSegment_wf h1

theorem tmm_wf {bfp : Bool} {f : FX} {s : State} (h : MemoriesWf s) : OutWf (tmm bfp f s) := by
  unfold tmm
  refine tileInstr_wf h fun _ _ _ _ h1 => ?_
  extract_lets
  split
  · split
    · exact .next (notStarted_wf h1)
    · exact tileChecked_wf h1
  split
  · exact done_wf h1
  · exact performEntry_wf h1

theorem readRange_wf {s : State} {x : Ctx} (h : MemoriesWf s) : MemoriesWf (readRange s x).1 :=
  foldl_fst_wf (fun _ _ h1 => noticePoison_wf (readOwn_wf h1)) h

theorem execTsa_wf {f : FX} {s : State} (h : MemoriesWf s) : OutWf (execTsa f s) := by
  unfold execTsa
  refine tileInstr_wf h fun _ _ _ _ h1 => ?_
  extract_lets
  split
  · exact tileChecked_wf h1
  refine settle_wf h1 fun _ _ h2 => ?_
  split
  · exact waitHere_wf h2
  · exact performEntry_wf (readRange_wf h2)

theorem accSet_wf {op : TileOp} {mem : Bool} {f : FX} {s : State} (h : MemoriesWf s) : OutWf (accSet op mem f s) := by
  unfold accSet
  refine tileInstr_wf h fun _ _ _ _ h1 => ?_
  extract_lets
  split
  · exact tileChecked_wf h1
  · exact performEntry_wf h1

theorem execAccSt_wf {f : FX} {s : State} (h : MemoriesWf s) : OutWf (execAccSt f s) := by
  unfold execAccSt
  refine tileInstr_wf h fun _ _ _ _ h1 => ?_
  extract_lets
  split
  · exact tileChecked_wf h1
  · exact performEntry_wf h1

theorem execAccCvst_wf {f : FX} {s : State} (h : MemoriesWf s) : OutWf (execAccCvst f s) := by
  unfold execAccCvst
  refine tileInstr_wf h fun _ _ _ _ h1 => ?_
  extract_lets
  split
  · exact trapAll_wf h1
  split
  · exact tileChecked_wf h1
  · exact performEntry_wf h1

theorem accCell_wf {f : FX} {s : State} {ops : List Operand} {k : State → Ctx → Group → Out} (h : MemoriesWf s)
    (hk : ∀ a b c, MemoriesWf a → OutWf (k a b c)) : OutWf (accCell f s ops k) := by
  unfold accCell
  refine tileInstr_wf h fun _ _ _ _ h1 => ?_
  extract_lets
  refine settle_wf h1 fun _ _ h2 => ?_
  split
  · exact .next (notStarted_wf h2)
  · exact hk _ _ _ h2

theorem execAccWr_wf {f : FX} {s : State} (h : MemoriesWf s) : OutWf (execAccWr f s) := by
  unfold execAccWr
  refine accCell_wf h fun s x g hs => ?_
  split
  · exact done_wf hs
  · refine done_wf (modGroup_wf hs fun g => ?_)
    exact List.foldlRecOn (motive := fun q : Group => q.scratch = g.scratch) _ _ rfl fun q hq l _ => by
      rw [writeCell_scratch, hq]

theorem opm_wf {load : Bool} {f : FX} {s : State} (h : MemoriesWf s) : OutWf (opm load f s) := by
  unfold opm
  refine tileInstr_wf h fun _ _ _ _ h1 => ?_
  extract_lets
  split
  · exact tileChecked_wf h1
  · exact performEntry_wf h1

/-! ## Records written outside the registers (R320, R449) -/

theorem setJob_wf {s : State} {die : Nat} {j : Job} (h : MemoriesWf s) : MemoriesWf (setJob s die j) := modDie_wf h

theorem dropJob_wf {s : State} {die n : Nat} (h : MemoriesWf s) : MemoriesWf (dropJob s die n) := modDie_wf h

theorem writeStamp_wf {s : State} {die : Nat} {j : Job} {retired : Nat} (h : MemoriesWf s) : MemoriesWf (writeStamp s die j retired) := by
  unfold writeStamp
  split
  · exact h
  · exact recordStore_wf h

theorem writeTileRecord_wf {s : State} {stamp ticket core : Nat} {hi : Bool} {e : TileEntry} {steps state : Nat} (h : MemoriesWf s) :
    MemoriesWf (writeTileRecord s stamp ticket core hi e steps state) := by
  unfold writeTileRecord
  split
  · exact h
  · exact recordStore_wf h

theorem calm_wf {s : State} {key : Nat} (h : MemoriesWf s) : MemoriesWf (calm s key) := modGroup_wf h fun _ => rfl

/-! ## What tile entries compute, their start and retirement (R264 to R291) -/

theorem applyFloat_wf {s : State} {e : TileEntry} {q : Segment} {k0 k1 : Nat} (h : MemoriesWf s) : MemoriesWf (applyFloat s e q k0 k1) := by
  unfold applyFloat
  extract_lets
  split
  next hg _ =>
    refine setGroup_wf h ?_
    rw [fillBand_scratch]
    exact h.scratch hg
  · exact h

theorem applyBfp_wf {s : State} {e : TileEntry} {q : Segment} (h : MemoriesWf s) : MemoriesWf (applyBfp s e q) := by
  unfold applyBfp
  extract_lets
  split
  next hg _ =>
    refine endPoison_wf (setGroup_wf h ?_)
    exact (fillBand_scratch ..).symm ▸ h.scratch hg
  · exact h

theorem applyTsa_wf {s : State} {e : TileEntry} (h : MemoriesWf s) : MemoriesWf (applyTsa s e) := modGroup_wf h fun _ => rfl

theorem entryRead_wf {s : State} {e : TileEntry} {n : Nat} {to_ : Nat → List Nat} (h : MemoriesWf s) : MemoriesWf (entryRead s e n to_).1 :=
  addPoison_wf (foldl_fst_wf (fun _ _ h1 => homeRead_wf h1) h)

theorem entryWrite_wf {s : State} {e : TileEntry} {bs : List Byte} (h : MemoriesWf s) : MemoriesWf (entryWrite s e bs) :=
  foldl_fst_wf (fun _ _ h1 => homeWrite_wf h1) h

theorem mergeFlags_wf {s : State} {core : Nat} {e : TileEntry} {fl : Nat} (h : MemoriesWf s) : MemoriesWf (mergeFlags s core e fl) :=
  modTroupe_wf h

theorem slotNotice_wf {s : State} {key h off : Nat} (hs : MemoriesWf s) : MemoriesWf (slotNotice s key h off) := by
  unfold slotNotice
  split
  · exact hs
  · exact raiseDelivery_wf hs

theorem landBlock_wf {s : State} {key h off : Nat} {bs : List Byte} (hs : MemoriesWf s) : MemoriesWf (landBlock s key h off bs).1 := by
  unfold landBlock
  split
  next e =>
    obtain ⟨g, hg, hq⟩ := Option.bind_eq_some_iff.1 e
    exact (setGroup_wf hs (slotLand_scratch hq ▸ hs.scratch hg)).frame rfl
  · exact slotNotice_wf hs

theorem endBands_wf {s : State} {key b : Nat} {wide : Bool} (h : MemoriesWf s) : MemoriesWf (endBands s key b wide) :=
  foldl_wf (fun _ _ h1 => endPoison_wf h1) h

theorem entryEffect_wf {s : State} {core : Nat} {e : TileEntry} (h : MemoriesWf s) : MemoriesWf (entryEffect s core e) := by
  unfold entryEffect
  extract_lets b wide r k
  have hr : MemoriesWf r.1 := by
    unfold r
    refine entryRead_wf ?_
    exact endBands_wf h
  clear_value b wide r k
  split
  · exact applyBfp_wf h
  · exact applyFloat_wf h
  · exact applyTsa_wf h
  · refine modGroup_wf (endBands_wf h) fun g => ?_
    dsimp only
    rw [fillBand_scratch]
  · refine modGroup_wf hr fun g => ?_
    dsimp only
    rw [bandFrom_scratch]
  · split
    · exact entryWrite_wf h
    · exact h
  · split
    · exact mergeFlags_wf (entryWrite_wf h)
    · exact h
  · split
    · refine foldl_wf (fun q i hq => ?_) (entryRead_wf h)
      extract_lets q
      split
      · exact addPoison_wf (landBlock_wf hq)
      · exact landBlock_wf hq
    · exact h
  · split
    · exact entryWrite_wf h
    · exact h

theorem modEntry_wf {s : State} {core id : Nat} {f : TileEntry → TileEntry} (h : MemoriesWf s) : MemoriesWf (modEntry s core id f) :=
  modCore_wf h

theorem findPlaces_wf {s : State} {core : Nat} {e : TileEntry} (h : MemoriesWf s) : MemoriesWf (findPlaces s core e) := by
  unfold findPlaces
  extract_lets _ s1
  have hs1 : MemoriesWf s1.1 := foldl_fst_wf (fun _ _ h1 => refind_wf h1) h
  split
  · exact modEntry_wf hs1
  · exact modEntry_wf (refind_wf hs1)

theorem execTileEntryStart_wf {core : Nat} {s : State} (h : MemoriesWf s) : OutWf (execTileEntryStart core s) := by
  unfold execTileEntryStart
  extract_lets s1 s2
  have hs1 : MemoriesWf s1 := foldl_wf (fun _ _ h1 => findPlaces_wf h1) h
  have hs2 : MemoriesWf s2 := by
    unfold s2
    refine foldl_wf (fun _ _ h2 => ?_) hs1
    split
    · exact modEntry_wf h2
    · exact h2
  split
  · exact .next hs2
  · exact .next (modCore_wf (modEntry_wf hs2))

theorem entryRecords_wf {s : State} {core : Nat} {hi : Bool} {e : TileEntry} {state : Nat} (h : MemoriesWf s) :
    MemoriesWf (entryRecords s core hi e state) := by
  unfold entryRecords
  extract_lets _ s1
  have hs1 : MemoriesWf s1 := by
    unfold s1
    split
    · exact h
    · exact writeTileRecord_wf h
  refine foldl_wf (fun _ _ h1 => ?_) hs1
  split
  · exact h1
  · exact writeTileRecord_wf h1

theorem retireEntry_wf {s : State} {core : Nat} {e : TileEntry} (h : MemoriesWf s) : MemoriesWf (retireEntry s core e) := by
  unfold retireEntry
  extract_lets _ s1 s2 s3
  have hs1 : MemoriesWf s1 := by
    unfold s1
    split
    · exact h
    · exact h.frame rfl
  have hs2 : MemoriesWf s2 := modCore_wf hs1
  have hs3 : MemoriesWf s3 := traceRecord_wf hs2
  exact calm_wf (entryRecords_wf hs3)

theorem finishEntry_wf {s : State} {core : Nat} {e : TileEntry} (h : MemoriesWf s) : MemoriesWf (finishEntry s core e) := by
  unfold finishEntry
  split
  · exact poisonKill_wf h
  extract_lets s1
  have hs1 : MemoriesWf s1 := countReaders_wf (entryEffect_wf h)
  split
  · split
    · exact retireEntry_wf hs1
    · exact modEntry_wf hs1
  · exact retireEntry_wf hs1

theorem mismatch_wf {s : State} {core : Nat} {e : TileEntry} (h : MemoriesWf s) : MemoriesWf (mismatch s core e) := by
  unfold mismatch
  split
  · exact modDie_wf (modEntry_wf h)
  · exact requestKill_wf h

theorem execTileEntryRetire_wf {core id : Nat} {fault : Bool} {s : State} (h : MemoriesWf s) :
    OutWf (execTileEntryRetire core id fault s) := by
  unfold execTileEntryRetire
  split
  · exact .next h
  split
  · exact .next (mismatch_wf h)
  · exact .next (finishEntry_wf h)

end Sys2Proof.Machine
end

section
/-!
PROOFS. The end of a clause and its events keep the memories canonical: commit, store-buffer entries, symbols, saved context, the
Quadrille unit and issue.
-/

namespace Sys2Proof.Machine

/-! ## Commit and the clause boundary (R24, R28, R31, R100 to R122, R441) -/

theorem sweepSymbols_wf {s : State} {core pos : Nat} (h : MemoriesWf s) : MemoriesWf (sweepSymbols s core pos) := by
  unfold sweepSymbols
  split
  · exact h
  · exact modCore_wf h

theorem dropSpills_wf {s : State} {core pos : Nat} {regs : List Nat} (h : MemoriesWf s) : MemoriesWf (dropSpills s core pos regs) :=
  modCore_wf h

theorem commitClause_wf {s : State} {x : Ctx} (h : MemoriesWf s) : MemoriesWf (commitClause s x) := by
  unfold commitClause
  extract_lets _ _ _ _ _ _ _ s1 s2 s3 s4 s5 s6 s7
  have hs1 : MemoriesWf s1 := enqueueAll_wf (setTroupe_wf h)
  have hs2 : MemoriesWf s2 := dropSpills_wf hs1
  have hs3 : MemoriesWf s3 := foldl_wf (fun _ _ h1 => storeCsr_wf h1) hs2
  have hs4 : MemoriesWf s4 := modTroupe_wf hs3
  have hs5 : MemoriesWf s5 := modTroupe_wf hs4
  have hs6 : MemoriesWf s6 := sweepSymbols_wf hs5
  have hs7 : MemoriesWf s7 := modGrid_wf hs6
  exact calm_wf (clauseOver_wf (hs7.frame rfl))

theorem settleTroupe_wf {s : State} {core pos : Nat} (h : MemoriesWf s) : MemoriesWf (settleTroupe s core pos) := by
  unfold settleTroupe
  split
  · exact h
  split
  · exact h
  extract_lets _ _ _ s1
  have hs1 : MemoriesWf s1 := setTroupe_wf h
  split
  · exact takeTrap_wf hs1
  · exact hs1

theorem completeBarriers_wf {s : State} {key : Nat} (h : MemoriesWf s) : MemoriesWf (completeBarriers s key) := by
  unfold completeBarriers
  split
  · exact h
  extract_lets
  refine foldl_wf (fun _ _ h1 => ?_) h
  extract_lets s1
  have hs1 : MemoriesWf s1 := modTroupe_wf h1
  split
  · split
    · exact applyInvals_wf hs1
    · exact hs1
  · exact hs1

theorem raiseTrigger_wf {s : State} {n : Nat} (h : MemoriesWf s) : MemoriesWf (raiseTrigger s n) := by
  unfold raiseTrigger
  exact h.frame rfl

theorem requestHalt_wf {s : State} {key : Nat} (h : MemoriesWf s) : MemoriesWf (requestHalt s key) := modGroup_wf h fun _ => rfl

theorem haltTroupe_wf {s : State} {core pos : Nat} (h : MemoriesWf s) : MemoriesWf (haltTroupe s core pos) := by
  unfold haltTroupe
  split
  · exact h
  · exact modGroup_wf (traceRecord_wf (setTroupe_wf h)) fun _ => rfl

theorem checkHalt_wf {s : State} {core pos : Nat} (h : MemoriesWf s) : MemoriesWf (checkHalt s core pos) := by
  unfold checkHalt
  split
  · exact h
  split
  · exact haltTroupe_wf h
  · exact h

theorem checkBreakpoints_wf {s : State} {core pos : Nat} (h : MemoriesWf s) : MemoriesWf (checkBreakpoints s core pos) := by
  unfold checkBreakpoints
  split
  · exact h
  split
  · exact h
  split
  · exact h
  extract_lets s1 _ _ s2
  have hs1 : MemoriesWf s1 := modTroupe_wf h
  have hs2 : MemoriesWf s2 := by
    unfold s2
    split
    · exact hs1
    · exact requestHalt_wf hs1
  refine foldl_wf (fun _ _ h1 => ?_) hs2
  split
  · exact raiseTrigger_wf h1
  · exact h1

theorem yieldLanes_wf {s : State} {core pos : Nat} {lanes : LaneMask} (h : MemoriesWf s) : MemoriesWf (yieldLanes s core pos lanes) := by
  unfold yieldLanes
  split
  · exact h
  · exact setTroupe_wf h

theorem settleRegroup_wf {s : State} {key : Nat} (h : MemoriesWf s) : MemoriesWf (settleRegroup s key) := by
  unfold settleRegroup
  dsimp only
  split
  · exact h
  split
  · exact h
  split
  · exact modCore_wf h
  · exact foldl_wf (fun _ _ h1 => takeTrap_wf (modTroupe_wf h1)) h

theorem setStates_wf {s : State} {x : Ctx} {f : Nat → Thread → Thread} (h : MemoriesWf s) : MemoriesWf (setStates s x f) := modTroupe_wf h

theorem waitWord_wf {s : State} {x : Ctx} {l : Nat} {w : Loc} {gen : Nat} {acq : Option Nat} (h : MemoriesWf s) :
    MemoriesWf (waitWord s x l w gen acq) := by
  unfold waitWord
  extract_lets s1
  have hs1 : MemoriesWf s1.1 := readSync_wf (dropPlain_wf h)
  split
  · exact acquireObjects_wf hs1
  · exact modTroupe_wf hs1

theorem breakHere_wf {s : State} {x : Ctx} {tag : Nat} {operand : Word} (h : MemoriesWf s) : MemoriesWf (breakHere s x tag operand) := by
  unfold breakHere
  split
  · exact h
  split
  · exact h
  · exact foldl_wf (fun _ _ h1 => raiseTrigger_wf h1) (send_wf (requestHalt_wf h))

theorem leaveRegs_wf {s : State} {core pos : Nat} {lanes : LaneMask} {keep : Bool} (h : MemoriesWf s) :
    MemoriesWf (leaveRegs s core pos lanes keep) := by
  unfold leaveRegs
  split
  · exact h
  split
  · exact h
  · exact sweepSymbols_wf (setTroupe_wf h)

theorem retryMove_wf {s : State} {core : Nat} {d : Option Delivery} (h : MemoriesWf s) : MemoriesWf (retryMove s core d) := by
  unfold retryMove
  split
  · split
    · exact startSpill_wf h
    · exact h
  · exact h.frame rfl
  · exact h

theorem controlEffect_wf {s : State} {x : Ctx} (h : MemoriesWf s) : MemoriesWf (controlEffect s x) := by
  unfold controlEffect
  split
  · exact h
  · exact setStates_wf h
  · extract_lets s1
    have hs1 : MemoriesWf s1 := by
      unfold s1
      split
      · split
        · exact applyInvals_wf h
        · exact h
      · exact h
    exact completeBarriers_wf (setStates_wf hs1)
  · exact setStates_wf h
  · refine foldl_wf (fun _ _ h1 => ?_) h
    split
    · exact waitWord_wf h1
    · exact h1
  · exact settleRegroup_wf (completeBarriers_wf (leaveRegs_wf (setStates_wf h)))
  · exact yieldLanes_wf h
  · exact setStates_wf h
  · split
    · exact h
    · exact takeTrap_wf h
  · split
    · exact h
    · exact breakHere_wf h
  · split
    · exact h
    · exact retryMove_wf (returnFromTrap_wf h)
  · exact settleRegroup_wf (setStates_wf h)
  · exact h
  · exact h

theorem boundary_wf {s : State} {x : Ctx} (h : MemoriesWf s) : MemoriesWf (boundary s x) :=
  checkHalt_wf (checkBreakpoints_wf (settleTroupe_wf h))

/-! ## Store-buffer entries at their point of performance (R248, R351 to R356) -/

theorem clEffect_wf {s : State} {core fn : Nat} {l : Loc} (h : MemoriesWf s) : MemoriesWf (clEffect s core fn l) := by
  unfold clEffect
  extract_lets _ s1 s2
  have hs1 : MemoriesWf s1 := applyOwn_wf h
  have hs2 : MemoriesWf s2 := collapseLine_wf hs1
  split
  · exact h
  split
  · split
    · exact hs2
    split
    · split
      · exact demote_wf hs1
      · exact hs1
    · exact hs1
  split
  · split
    · split
      · exact ackEviction_wf (evictU_wf hs1)
      split
      · exact ackEviction_wf hs1
      · exact giveUp_wf hs1
    · exact hs1
  split
  · exact hs2
  · exact foldl_wf (fun _ _ h1 => demote_wf h1) hs2

theorem grantFor_wf {s : State} {core group op ty : Nat} {l : Loc} (h : MemoriesWf s) : MemoriesWf (grantFor s core group op ty l) := by
  unfold grantFor
  exact modCore_wf (grantU_wf h)

theorem updateLane_wf {core : Nat} {e : SBEntry} {float : Bool} {fn ty : Nat} {s : State} {o : LaneOp} (h : MemoriesWf s) :
    MemoriesWf (updateLane core e float fn ty s o) := by
  unfold updateLane
  split
  · split
    · exact updateCopy_wf h
    · exact updateAt_wf h
  · exact updateAt_wf h

theorem atomicLane_wf {core ty : Nat} {f : LaneOp → Nat → Nat} {a : State × Tab Word} {o : LaneOp} (h : MemoriesWf a.1) :
    MemoriesWf (atomicLane core ty f a o).1 :=
  atomicAt_wf h

theorem noteShadow_wf {s : State} {core pos : Nat} {e : SBEntry} (h : MemoriesWf s) : MemoriesWf (noteShadow s core pos e) := modCore_wf h

theorem noteRace_wf {s : State} {e : SBEntry} (h : MemoriesWf s) : MemoriesWf (noteRace s e) := by
  unfold noteRace
  split
  · exact h
  extract_lets
  split
  · exact h
  · exact h.frame rfl

theorem performEntryOp_wf {s : State} {core : Nat} {e : SBEntry} (h : MemoriesWf s) : MemoriesWf (performEntryOp s core e).1 := by
  unfold performEntryOp
  split
  · exact coreStore_wf h
  · exact coreStore_wf h
  · exact foldl_wf (fun _ _ h1 => updateLane_wf h1) h
  · exact foldl_fst_wf (fun _ _ h2 => atomicLane_wf h2) h
  · exact foldl_fst_wf (fun _ _ h3 => atomicLane_wf h3) h
  · exact clEffect_wf h
  · exact foldl_wf (fun _ _ h4 => arrive_wf (dropPlain_wf h4)) h
  · exact h

theorem performBuffered_wf {s : State} {core : Nat} {e : SBEntry} (h : MemoriesWf s) : MemoriesWf (performBuffered s core e).1 :=
  performEntryOp_wf (noteRace_wf h)

/-! ## Symbols resolved (R145 to R156, R361) -/

theorem spreadFault_wf {s : State} {core fuel sym l cause : Nat} {a : Word} (h : MemoriesWf s) :
    MemoriesWf (spreadFault s core fuel sym l cause a) := by
  induction fuel generalizing s sym with
  | zero => exact h
  | succ fuel ih => exact foldl_wf (fun _ _ h => ih (setSymbol_wf h)) h

theorem raiseFault_wf {s : State} {core sym l cause : Nat} {a : Word} (h : MemoriesWf s) :
    MemoriesWf (raiseFault s core sym l cause a) := by
  unfold raiseFault
  split
  · exact h
  · exact spreadFault_wf (setSymbol_wf h)

theorem issueLane_wf {s : State} {core sym l : Nat} (h : MemoriesWf s) : MemoriesWf (issueLane s core sym l) := by
  unfold issueLane
  split
  · exact h
  split
  · extract_lets
    split
    · exact raiseFault_wf h
    split
    next e1 => exact setSymbol_wf ((translate_wf h).of_eq e1)
    next e2 => exact raiseFault_wf ((translate_wf h).of_eq e2)
  · exact h

theorem issueDeferred_wf {s : State} {core sym l : Nat} {v : Word} (h : MemoriesWf s) : MemoriesWf (issueDeferred s core sym l v) := by
  unfold issueDeferred
  extract_lets
  refine foldl_wf (fun _ _ h1 => ?_) h
  extract_lets _ _ s1
  have hs1 : MemoriesWf s1 := setSymbol_wf h1
  split
  · exact issueLane_wf hs1
  · exact hs1

theorem deliver_wf {s : State} {core sym : Nat} {vals : Tab Word} (h : MemoriesWf s) : MemoriesWf (deliver s core sym vals) := by
  unfold deliver
  split
  · exact h
  · exact foldl_wf (fun _ _ h1 => issueDeferred_wf h1) (modTroupe_wf (setSymbol_wf h))

theorem finishSymbol_wf {s : State} {core sym : Nat} (h : MemoriesWf s) : MemoriesWf (finishSymbol s core sym) := by
  unfold finishSymbol
  split
  · exact h
  extract_lets s1
  have hs1 : MemoriesWf s1 := by
    unfold s1
    split
    · exact modTroupe_wf (acquireObjects_wf h)
    · exact h
  exact sweepSymbols_wf hs1

theorem issueKnown_wf {s : State} {core pos : Nat} (h : MemoriesWf s) : MemoriesWf (issueKnown s core pos) := by
  unfold issueKnown
  extract_lets
  refine foldl_wf (fun _ _ h1 => foldl_wf (fun _ _ h2 => ?_) h1) h
  split
  · split
    · exact issueLane_wf h2
    · exact h2
  · exact h2

theorem deliverImages_wf {s : State} {core pos : Nat} (h : MemoriesWf s) : MemoriesWf (deliverImages s core pos) :=
  foldl_wf (fun _ _ h1 => finishSymbol_wf (deliver_wf h1)) h

/-! ## Saved context (R399 to R409) -/

theorem relocate_wf {s : State} {w : Who} {l : Loc} {size : Nat} {kind : Access} (h : MemoriesWf s) :
    MemoriesWf (relocate s w l size kind).1 := by
  unfold relocate
  split
  · exact h
  · exact locate_wf h

theorem writeChunks_wf {s : State} {base : Word} {cs : List (Nat × List Byte)} (h : MemoriesWf s) :
    MemoriesWf (writeChunks s base cs).1 := by
  unfold writeChunks
  refine foldl_fst_wf (fun _ _ h1 => ?_) h
  split
  · exact unitStore_wf h1
  · exact h1

theorem saveTroupe_wf {s : State} {core pos : Nat} {t : Troupe} {base : Word} {dump : Bool} (h : MemoriesWf s) :
    MemoriesWf (saveTroupe s core pos t base dump).1 := by
  unfold saveTroupe
  split
  · exact h
  · exact writeChunks_wf h

theorem saveGroup_wf {s : State} {key : Nat} {base : Word} {dump : Bool} (h : MemoriesWf s) : MemoriesWf (saveGroup s key base dump).1 := by
  unfold saveGroup
  split
  · extract_lets s1
    have hs1 : MemoriesWf s1.1 := by
      unfold s1
      refine foldl_fst_wf (fun _ _ h1 => ?_) h
      split
      · split
        · exact saveTroupe_wf h1
        · exact h1
      · exact h1
    split
    · exact writeChunks_wf hs1
    · exact hs1
  · exact h

theorem stopEntry_wf {s : State} {core : Nat} {e : TileEntry} (h : MemoriesWf s) : MemoriesWf (stopEntry s core e) := by
  unfold stopEntry
  split
  · split
    · exact poisonKill_wf h
    · exact modEntry_wf (applyFloat_wf h)
  · exact modEntry_wf h
  · exact finishEntry_wf h

theorem stopTiles_wf {s : State} {key : Nat} (h : MemoriesWf s) : MemoriesWf (stopTiles s key) := by
  unfold stopTiles
  split
  · exact h
  · exact foldl_wf (fun _ _ h1 => stopEntry_wf h1) h

theorem threadFrom_wf {s : State} {w : Who} {bs : List Byte} (h : MemoriesWf s) : ∀ r ∈ threadFrom s w bs, MemoriesWf r.1 := by
  unfold threadFrom
  dsimp only
  split
  · exact forall_mem_none
  split
  · exact forall_mem_some h
  split
  · exact forall_mem_some h
  split
  · exact forall_mem_some h
  split
  · exact forall_mem_some h
  split
  · exact forall_mem_some (findAgain_wf h)
  split
  · exact forall_mem_some h
  · exact forall_mem_none

theorem threadsFrom_wf {s : State} {w : Who} {bs : List Byte} (h : MemoriesWf s) : ∀ r ∈ threadsFrom s w bs, MemoriesWf r.1 := by
  unfold threadsFrom
  refine foldl_option_wf (P := fun r : State × _ => MemoriesWf r.1) (fun o _ ho => ?_) h
  split
  · exact forall_mem_none
  split
  · exact forall_mem_none
  next e => exact forall_mem_some (threadFrom_wf (ho _ rfl) _ e)

theorem entryFrom_wf {s : State} {w : Who} {id : Nat} {bs ops : List Byte} (h : MemoriesWf s) :
    ∀ r ∈ entryFrom s w id bs ops, MemoriesWf r.1 := by
  unfold entryFrom
  split
  · exact forall_mem_none
  · exact forall_mem_some (foldl_fst_wf (fun _ _ h1 => findAgain_wf h1) (findAgain_wf h))

theorem readPieces_wf {s : State} {base : Word} {size : Nat} {ats : List Nat} (h : MemoriesWf s) :
    MemoriesWf (readPieces s base size ats).1 := by
  unfold readPieces
  refine foldl_fst_wf (fun _ _ h1 => ?_) h
  split
  · exact h1
  split
  next e1 => exact (unitBytes_wf h1).of_eq e1
  next e2 => exact (unitBytes_wf h1).of_eq e2

theorem readAreas_wf {s : State} {base : Word} {as : List (Nat × Nat)} (h : MemoriesWf s) : MemoriesWf (readAreas s base as).1 := by
  unfold readAreas
  refine foldl_fst_wf (fun _ _ h1 => ?_) h
  split
  · exact h1
  split
  next e1 => exact (unitBytes_wf h1).of_eq e1
  next e2 => exact (unitBytes_wf h1).of_eq e2

theorem readParts_wf {s : State} {base : Word} {counts : Nat} {regs : List Byte} (h : MemoriesWf s) :
    MemoriesWf (readParts s base counts regs).1 := by
  unfold readParts
  extract_lets _ _ s1 s2 s3 s4 _ _ s5
  have hs1 : MemoriesWf s1.1 := readPieces_wf h
  have hs2 : MemoriesWf s2.1 := readPieces_wf hs1
  have hs3 : MemoriesWf s3.1 := readPieces_wf hs2
  have hs4 : MemoriesWf s4.1 := readPieces_wf hs3
  have hs5 : MemoriesWf s5.1 := by
    unfold s5
    split
    · exact readAreas_wf hs4
    · exact hs4
  exact hs5

theorem entriesFrom_wf {s : State} {w : Who} {base : Nat} {es : List (List Byte × List Byte)} (h : MemoriesWf s) :
    ∀ r ∈ entriesFrom s w base es, MemoriesWf r.1 := by
  unfold entriesFrom
  refine foldl_option_wf (P := fun r : State × _ => MemoriesWf r.1) (fun _ _ ho => bind_wf ho fun _ hq => ?_) h
  exact map_wf (entryFrom_wf hq) fun _ hr => hr

theorem leaveSent_wf {s : State} {core slot : Nat} {t : Troupe} (h : MemoriesWf s) : MemoriesWf (leaveSent s core slot t) := by
  unfold leaveSent
  extract_lets
  split
  · exact h
  · exact h.frame rfl

theorem restoreTroupe_wf {s : State} {core pos : Nat} {t0 : Troupe} {base : Word} (h : MemoriesWf s) :
    ∀ t ∈ restoreTroupe s core pos t0 base, MemoriesWf t := by
  unfold restoreTroupe
  dsimp only
  split
  · exact forall_mem_none
  next s _ e =>
    have hs : MemoriesWf s := (unitBytes_wf (leaveSent_wf h)).of_eq e
    split
    · exact forall_mem_none
    split
    · exact forall_mem_none
    next s _ e =>
      have hs : MemoriesWf s := (unitBytes_wf hs).of_eq e
      split
      · exact forall_mem_none
      next s _ e =>
        have hs : MemoriesWf s := (readParts_wf hs).of_eq e
        split
        · exact forall_mem_none
        next s _ e =>
          have hs : MemoriesWf s := threadsFrom_wf hs _ e
          split
          next e =>
            have hs := entriesFrom_wf hs _ e
            exact forall_mem_some (issueKnown_wf (deliverImages_wf (setTroupe_wf (applyInvals_wf (modCore_wf hs)))))
          · exact forall_mem_none

theorem slotsFrom_wf {s : State} {g : Group} {base : Word} {bs : List Byte} (h : MemoriesWf s) :
    ∀ r ∈ slotsFrom s g base bs, MemoriesWf r.1 := by
  unfold slotsFrom
  refine foldl_option_wf (P := fun r : State × _ => MemoriesWf r.1) (fun _ _ ho => bind_wf ho fun _ hq => ?_) h
  split
  · exact forall_mem_none
  next e => exact forall_mem_some ((unitBytes_wf hq).of_eq e)

theorem bandsFrom_wf {s : State} {g : Group} {base : Word} (h : MemoriesWf s) : ∀ r ∈ bandsFrom s g base, MemoriesWf r.1 := by
  unfold bandsFrom
  refine foldl_option_wf (P := fun r : State × _ => MemoriesWf r.1) (fun _ _ ho => bind_wf ho fun _ hq => ?_) h
  split
  · exact forall_mem_none
  next e => exact forall_mem_some ((unitBytes_wf hq).of_eq e)

theorem writtenFrom_wf {s : State} {g : Group} {base : Word} {bs : List Byte} (h : MemoriesWf s) :
    MemoriesWf (writtenFrom s g base bs).1 := by
  unfold writtenFrom
  refine foldl_fst_wf (fun _ _ h1 => ?_) h
  extract_lets
  split
  · split
    next e1 => exact (unitBytes_wf h1).of_eq e1
    next e2 => exact (unitBytes_wf h1).of_eq e2
  · split <;> exact h1

theorem rangeAgain_wf {s : State} {w : Who} {ptr : Word} {len : Nat} {kind : Access} (h : MemoriesWf s) :
    MemoriesWf (rangeAgain s w ptr len kind).1 :=
  foldl_fst_wf (fun _ _ h1 => findAgain_wf h1) h

theorem tileFrom_wf {s : State} {w : Who} {g : Group} {i seqWord : Nat} {bs : List Byte} {more : List (List Byte)} (h : MemoriesWf s) :
    ∀ r ∈ tileFrom s w g i seqWord bs more, MemoriesWf r.1 := by
  unfold tileFrom
  dsimp only
  split
  · exact forall_mem_none
  · exact forall_mem_some (findAgain_wf (rangeAgain_wf h))

theorem tilesFrom_wf {s : State} {w : Who} {g : Group} {bs : List Byte} {rs : List (List Byte)} (h : MemoriesWf s) :
    ∀ r ∈ tilesFrom s w g bs rs, MemoriesWf r.1 := by
  unfold tilesFrom
  refine foldl_option_wf (P := fun r : State × _ => MemoriesWf r.1) (fun _ _ ho => bind_wf ho fun _ hq => ?_) h
  exact map_wf (tileFrom_wf hq) fun _ hr => hr

theorem requeueEntries_wf {s : State} {g : Group} {es : List (Bool × TileEntry)} (h : MemoriesWf s) : MemoriesWf (requeueEntries s g es) :=
  foldl_wf (fun _ _ h1 => modCore_wf h1) h

theorem restoreTurn_wf {s : State} {g : Group} {bs : List Byte} (h : MemoriesWf s) : MemoriesWf (restoreTurn s g bs) := modGrid_wf h

theorem restoreTroupes_wf {s : State} {g : Group} {base : Word} {halted : Bool} (h : MemoriesWf s) :
    ∀ t ∈ restoreTroupes s g base halted, MemoriesWf t := by
  unfold restoreTroupes
  refine foldl_option_wf (P := MemoriesWf) (fun _ _ h1 => bind_wf h1 (fun _ h2 => ?_)) h
  split
  · exact forall_mem_none
  · exact map_wf (restoreTroupe_wf h2) (fun _ h3 => modTroupe_wf h3)

theorem restoreGroup_wf {s : State} {key : Nat} {base : Word} (h : MemoriesWf s) : ∀ t ∈ restoreGroup s key base, MemoriesWf t := by
  unfold restoreGroup
  split
  · exact forall_mem_none
  split
  · exact forall_mem_none
  next s _ e =>
    have hs : MemoriesWf s := (unitBytes_wf h).of_eq e
    split
    · exact forall_mem_none
    split
    · exact forall_mem_none
    next s sp e =>
      have hs : MemoriesWf s := (unitBytes_wf hs).of_eq e
      have hsp : memoryWf (cellsPut [] 0 sp) = true := cellsPut_wf sp [] 0 rfl
      split
      · exact forall_mem_none
      next s _ e =>
        have hs : MemoriesWf s := slotsFrom_wf hs _ e
        split
        next s _ _ _ e _ =>
          have hs : MemoriesWf s := bandsFrom_wf hs _ e
          dsimp only
          split
          · exact forall_mem_none
          next s _ e =>
            have hs : MemoriesWf s := tilesFrom_wf (restoreTurn_wf (setGroup_wf (writtenFrom_wf hs) hsp)) _ e
            exact map_wf (restoreTroupes_wf (requeueEntries_wf hs)) fun _ h => settleRegroup_wf h
        · exact forall_mem_none

theorem ctxEffect_wf {s : State} {core : Nat} {c : Control} (h : MemoriesWf s) : ∀ t ∈ ctxEffect s core c, MemoriesWf t := by
  unfold ctxEffect
  split
  · split
    · exact forall_mem_some h
    split
    next e1 => exact forall_mem_some ((saveTroupe_wf h).of_eq e1)
    · exact forall_mem_none
  · split
    · exact forall_mem_some h
    · exact restoreTroupe_wf h
  · exact forall_mem_some h

/-! ## The Quadrille unit (R223 to R230) -/

theorem reachTable_wf {s : State} {x : Ctx} {g : Group} (h : MemoriesWf s) : MemoriesWf (reachTable s x g).st := shared_wf (reachRange_wf h)

theorem regroup_wf {fn : Nat} {f : FX} {s : State} (h : MemoriesWf s) : OutWf (regroup fn f s) := by
  unfold regroup
  refine inClause_wf fun _ => use_wf h (fun _ _ h1 => ?_)
  split
  · exact done_wf h1
  split
  · exact trapAll_wf h1
  extract_lets
  split
  · exact trapAll_wf h1
  refine useRegs_wf h1 fun _ _ h2 => ?_
  extract_lets
  split
  · exact checked_wf (reachTable_wf h2)
  · exact done_wf h2

theorem updateEntry_wf {core : Nat} {a : State × Nat} {l : Loc} (h : MemoriesWf a.1) : MemoriesWf (updateEntry core a l).1 :=
  homeWrite_wf (homeWrite_wf (homeRead_wf (dropPlain_wf h)))

theorem execRegroupCapupd_wf {f : FX} {s : State} (h : MemoriesWf s) : OutWf (execRegroupCapupd f s) := by
  unfold execRegroupCapupd
  refine inClause_wf fun _ => ?_
  split
  · exact done_wf h
  split
  · exact trapAll_wf h
  split
  · exact trapAll_wf h
  split
  · exact checked_wf (reachTable_wf h)
  refine afterDeferreds_wf h ?_
  split
  · exact waitHere_wf h
  · exact done_wf (foldl_fst_wf (fun _ _ h1 => updateEntry_wf h1) h)

theorem tableLocs_wf {s : State} {g : Group} {gr : Grid} (h : MemoriesWf s) : MemoriesWf (tableLocs s g gr).1 := by
  unfold tableLocs
  refine foldl_fst_wf (fun _ _ h1 => ?_) h
  split
  · exact h1
  split
  next e1 => exact (translate_wf h1).of_eq e1
  next e2 => exact (translate_wf h1).of_eq e2

theorem performMove_wf {s : State} {key : Nat} {g : Group} {range : Nat} {restore : Bool} {mv : List Move} (h : MemoriesWf s) :
    MemoriesWf (performMove s key g range restore mv) := by
  unfold performMove
  extract_lets s1 _ s2 s3 s4
  have hs1 : MemoriesWf s1 := h
  have hs2 : MemoriesWf s2 := foldl_wf (fun _ _ h1 => modTroupe_wf h1) hs1
  have hs3 : MemoriesWf s3 := foldl_wf (fun _ _ h2 => sweepSymbols_wf (dropSpills_wf h2)) hs2
  have hs4 : MemoriesWf s4 := modCore_wf hs3
  exact modGroup_wf hs4 fun _ => rfl

theorem addLoads_wf {s : State} {core : Nat} {locs : List Loc} {ts : List (Nat × Nat)} (h : MemoriesWf s) :
    MemoriesWf (addLoads s core locs ts) := by
  unfold addLoads
  extract_lets
  refine foldl_wf (fun _ _ h1 => ?_) h
  extract_lets _ _ s1
  have hs1 : MemoriesWf s1.1 := homeRead_wf (dropPlain_wf h1)
  split
  · exact h1
  · exact homeWrite_wf hs1

theorem regroupMove_wf {s : State} {key : Nat} {g : Group} {q : List (Member × Nat × Nat × Nat × Nat)} {range : Nat} (h : MemoriesWf s) :
    ∀ t ∈ regroupMove s key g q range, MemoriesWf t := by
  unfold regroupMove
  dsimp only
  split
  · exact forall_mem_some (performMove_wf h)
  next e1 =>
    split
    · exact forall_mem_none
    split
    · exact forall_mem_none
    next e2 => exact forall_mem_some (performMove_wf (addLoads_wf (applyInvals_wf ((tableLocs_wf h).of_eq e2))))

theorem restoreMove_wf {s : State} {key : Nat} {g : Group} {q : List (Member × Nat × Nat × Nat × Nat)} {range : Nat} (h : MemoriesWf s) :
    MemoriesWf (restoreMove s key g q range) :=
  performMove_wf h

theorem relieveMove_wf {s : State} {key : Nat} {g : Group} {range dest : Nat} (h : MemoriesWf s) :
    MemoriesWf (relieveMove s key g range dest) :=
  foldl_wf (fun _ _ h1 => relieve_wf h1) h

theorem execQuadrilleMove_wf {ticket group : Nat} {s : State} (h : MemoriesWf s) : OutWf (execQuadrilleMove ticket group s) := by
  unfold execQuadrilleMove
  extract_lets
  split
  · extract_lets
    split
    · exact .next (settleRegroup_wf h)
    split
    · exact .next h
    split
    · exact .next (relieveMove_wf h)
    split
    · exact .next (restoreMove_wf h)
    split
    next e1 => exact .next (regroupMove_wf h _ e1)
    · exact .next h
  · exact .next h

/-! ## Events of issue: starts, retirement, wakes, traps, spills and parks (R29, R30, R87, R92 to R127, R390 to R395) -/

theorem pollLane_wf {s : State} {core pos lane : Nat} (h : MemoriesWf s) : MemoriesWf (pollLane s core pos lane) := by
  unfold pollLane
  split
  · extract_lets s1 s2 _ s3 s4
    have hs1 : MemoriesWf s1.1 := by
      unfold s1
      split
      · exact refind_wf h
      · exact h
    have hs2 : MemoriesWf s2 := by
      unfold s2
      split
      · exact hs1
      · exact modTroupe_wf hs1
    have hs3 : MemoriesWf s3.1 := readSync_wf (dropPlain_wf hs2)
    have hs4 : MemoriesWf s4 := modTroupe_wf hs3
    split
    · exact hs2
    split
    · exact hs3
    · exact acquireObjects_wf hs4
  · exact h

theorem pollTroupe_wf {s : State} {core pos : Nat} (h : MemoriesWf s) : MemoriesWf (pollTroupe s core pos) := by
  unfold pollTroupe
  split
  · split
    · exact h
    · exact foldl_wf (fun _ _ h1 => pollLane_wf h1) h
  · exact h

theorem settleSlot_wf {s : State} {core slot : Nat} (h : MemoriesWf s) : MemoriesWf (settleSlot s core slot) := by
  unfold settleSlot
  refine foldl_wf (fun _ _ h1 => ?_) h
  extract_lets s1
  have hs1 : MemoriesWf s1 := by
    unfold s1
    split
    · exact h1
    · exact pollTroupe_wf h1
  exact checkHalt_wf (checkBreakpoints_wf (settleTroupe_wf hs1))

theorem execClauseStart_wf {core slot : Nat} {s : State} (h : MemoriesWf s) : OutWf (execClauseStart core slot s) := by
  unfold execClauseStart
  split
  · exact .next h
  · exact .next (startFirst_wf (settleSlot_wf h))

/-- A retired clause: its control instruction acts on the state after the commit. -/
theorem retireClause_wf {s : State} {x : Ctx} (h : MemoriesWf s) : MemoriesWf (retireClause s x) := by
  unfold retireClause
  extract_lets c finish context
  have hfinish (q : State) (hq : MemoriesWf q) : MemoriesWf (finish q) := boundary_wf (controlEffect_wf hq)
  have hc : MemoriesWf c := commitClause_wf h
  clear_value c finish
  have hcontext (p : Word) (ok : Bool) : MemoriesWf (context p ok) := by
    unfold context
    split
    · exact hfinish c hc
    · split
      next e =>
        cases ok with
        | false => cases e
        | true => exact hfinish _ (ctxEffect_wf hc _ e)
      · exact squash_wf h
  clear_value context
  split
  · exact hcontext _ _
  · extract_lets q need
    split
    · exact hcontext _ _
    · exact relieveFor_wf (h.frame rfl)
  · split
    · exact hfinish c hc
    · exact squash_wf h
  · exact hfinish c hc

theorem execClauseRetire_wf {core pos : Nat} {s : State} (h : MemoriesWf s) : OutWf (execClauseRetire core pos s) := by
  unfold execClauseRetire
  split
  · exact .next (h.frame rfl)
  split
  · exact .next (h.frame rfl)
  extract_lets
  split
  · exact .next (h.frame rfl)
  split
  · exact .next (h.frame rfl)
  · exact .next (retireClause_wf h)

theorem wake_wf {s : State} {core pos : Nat} {lanes : LaneMask} (h : MemoriesWf s) : MemoriesWf (wake s core pos lanes) := modTroupe_wf h

theorem execNapExpiry_wf {core pos lane : Nat} {s : State} (h : MemoriesWf s) : OutWf (execNapExpiry core pos lane s) := by
  unfold execNapExpiry
  split
  · split
    · split
      · exact .next (wake_wf h)
      · exact .next h
    · exact .next h
  · exact .next h

theorem execYieldEnd_wf {core pos lane : Nat} {s : State} (h : MemoriesWf s) : OutWf (execYieldEnd core pos lane s) := by
  unfold execYieldEnd
  split
  · split
    · exact .next (wake_wf h)
    · exact .next h
  · exact .next h

theorem execParkRetryTimeout_wf {core pos park : Nat} {s : State} (h : MemoriesWf s) : OutWf (execParkRetryTimeout core pos park s) := by
  unfold execParkRetryTimeout
  split
  · exact .next h
  split
  · split
    · split
      · exact .next (wakePark_wf h)
      · exact .next h
    · exact .next h
  · exact .next h

theorem startSupervisor_wf {s : State} {core : Nat} (h : MemoriesWf s) : MemoriesWf (startSupervisor s core) := modTroupe_wf h

theorem beginService_wf {s : State} {core : Nat} {d : Delivery} {rest : List Delivery} (h : MemoriesWf s) :
    MemoriesWf (beginService s core d rest) :=
  startSupervisor_wf (traceRecord_wf (modCore_wf h))

theorem execTrapDelivery_wf {core : Nat} {s : State} (h : MemoriesWf s) : OutWf (execTrapDelivery core s) := by
  unfold execTrapDelivery
  extract_lets
  split
  · split
    · exact .next h
    · exact .next (beginService_wf h)
  · exact .next h

theorem execTraprst_wf {core : Nat} {s : State} (h : MemoriesWf s) : OutWf (execTraprst core s) := by
  unfold execTraprst
  split
  · extract_lets s1
    have hs1 : MemoriesWf s1 := modCore_wf h
    refine .next ?_
    split
    · exact startSupervisor_wf hs1
    · exact hs1
  · exact .next h

theorem execSpillAck_wf {core n : Nat} {s : State} (h : MemoriesWf s) : OutWf (execSpillAck core n s) := by
  unfold execSpillAck
  split
  · exact .next h
  split
  · exact .next h
  · exact .next (modTroupe_wf (modCore_wf h))

theorem refillReg_wf {s : State} {core pos reg : Nat} (h : MemoriesWf s) : MemoriesWf (refillReg s core pos reg) := by
  unfold refillReg
  split
  next e1 => exact spillFault_wf ((readSpill_wf h).of_eq e1)
  next e2 => exact modTroupe_wf ((readSpill_wf h).of_eq e2)

theorem execRefill_wf {core pos reg : Nat} {s : State} (h : MemoriesWf s) : OutWf (execRefill core pos reg s) := by
  unfold execRefill
  split
  · exact .next h
  split
  · exact .next h
  split
  · exact .next h
  split
  · exact .next (relieveClause_wf (modCore_wf h))
  · exact .next (refillReg_wf h)

end Sys2Proof.Machine
end

section
/-!
PROOFS. Copy jobs and launches keep the memories canonical: cards, residency, jobs at work, the arbiter and the dispatchers.
-/

namespace Sys2Proof.Machine

/-! ## Job cards and tensor records (R296 to R305, R322 to R324) -/

theorem reachCard_wf {s : State} {x : Ctx} {o : Operand} {addr : Nat → Word} (h : MemoriesWf s) : MemoriesWf (reachCard s x o addr).st := by
  unfold reachCard
  refine foldl_st_wf (fun _ _ h1 => ?_) h
  extract_lets
  split
  · exact h1
  split
  · exact h1
  · exact reachOne_wf h1

theorem submit_wf {remote : Bool} {f : FM} {s : State} (h : MemoriesWf s) : OutWf (submit remote f s) := by
  unfold submit
  refine inClause_wf fun _ => ?_
  split
  · exact done_wf h
  refine use_wf h fun _ _ h1 => ?_
  extract_lets
  split
  · exact checked_wf (reachCard_wf h1)
  refine afterDeferreds_wf h1 ?_
  split
  · exact waitHere_wf h1
  · exact done_wf h1

theorem execCpqStatus_wf {f : FM} {s : State} (h : MemoriesWf s) : OutWf (execCpqStatus f s) := by
  unfold execCpqStatus
  refine inClause_wf fun _ => use_wf h (fun _ _ h1 => ?_)
  extract_lets
  refine settle_wf h1 fun _ _ h2 => ?_
  split <;> exact done_wf h2

theorem execTrec_wf {f : FX} {s : State} (h : MemoriesWf s) : OutWf (execTrec f s) := by
  unfold execTrec
  refine inClause_wf fun x => ?_
  split
  · exact done_wf h
  refine use_wf h fun s x hs => ?_
  extract_lets ok r
  have hok (r : Reach) (l : Nat) (p : Word) (kind : Access) (i : Nat) (hr : MemoriesWf r.st) : MemoriesWf (ok r l p kind i).st := by
    unfold ok
    split
    · exact hr
    split
    · exact hr
    · exact reachOne_wf hr
  clear_value ok
  split
  · refine checked_wf (foldl_st_wf (fun r l hr => ?_) hs)
    extract_lets q
    have hq : MemoriesWf q.st := by
      unfold q
      split
      · exact hok _ _ _ _ _ hr
      · exact hr
    split
    · exact hok _ _ _ _ _ hq
    · exact hq
  · refine afterDeferreds_wf hs (settle_wf hs fun s x hs => ?_)
    split
    · exact waitHere_wf hs
    refine performRecords_wf (foldl_fst_wf (fun a e ha => ?_) hs)
    split
    · exact ha
    · exact noticePoison_wf (readOwn_wf ha)

theorem cardBytes_wf {s : State} {w : Who} {ptr : Word} {n : Nat} (h : MemoriesWf s) : MemoriesWf (cardBytes s w ptr n).1 := by
  unfold cardBytes
  refine foldl_fst_wf (fun _ _ h1 => ?_) h
  split
  · exact h1
  split
  next e1 => exact (translate_wf h1).of_eq e1
  next e2 => exact homeRead_wf ((translate_wf h1).of_eq e2)

theorem cardBlock_wf {s : State} {w : Who} {ptr align n : Nat} (h : MemoriesWf s) : MemoriesWf (cardBlock s w ptr align n).1 := by
  unfold cardBlock
  split
  · exact h
  · exact cardBytes_wf h

theorem wordFails_wf {s : State} {w : Who} {ptr : Nat} {kind : Access} (h : MemoriesWf s) : MemoriesWf (wordFails s w ptr kind).1 := by
  unfold wordFails
  split
  · exact h
  next e1 =>
    split
    · exact h
    split
    next e2 => exact (translate_wf h).of_eq e2
    next e3 => exact (translate_wf h).of_eq e3

theorem stampFails_wf {s : State} {w : Who} {ptr len : Nat} (h : MemoriesWf s) : MemoriesWf (stampFails s w ptr len).1 := by
  unfold stampFails
  split
  · exact h
  next e1 =>
    split
    · exact h
    refine foldl_fst_wf (fun _ _ h1 => ?_) h
    split
    · exact h1
    split
    next e2 => exact (translate_wf h1).of_eq e2
    next e3 => exact (translate_wf h1).of_eq e3

theorem validate_wf {s : State} {die : Nat} {q : Submission} {c : List Word} (h : MemoriesWf s) : MemoriesWf (validate s die q c).1 := by
  unfold validate
  extract_lets _ _ _ _ s1 s2 s3 s4 s5 s6 s7
  have hs1 : MemoriesWf s1.1 := wordFails_wf h
  have hs2 : MemoriesWf s2.1 := wordFails_wf hs1
  have hs3 : MemoriesWf s3.1 := by
    unfold s3
    split
    · exact hs2
    · exact cardBlock_wf hs2
  have hs4 : MemoriesWf s4.1 := cardBlock_wf hs3
  have hs5 : MemoriesWf s5.1 := by
    unfold s5
    split
    · exact cardBlock_wf hs4
    · exact hs4
  have hs6 : MemoriesWf s6.1 := by
    unfold s6
    split
    · exact hs5
    · exact cardBlock_wf hs5
  have hs7 : MemoriesWf s7.1 := stampFails_wf hs6
  split
  · exact h
  split
  · exact h
  split
  · exact h
  split
  · exact hs2
  split
  next e1 =>
    have h1 := hs7.of_eq e1
    extract_lets
    split
    · exact h1
    split
    · exact h1
    split
    · exact h1
    · split <;> exact h1
  · exact hs7

theorem acceptJob_wf {s : State} {die : Nat} {j : Job} (h : MemoriesWf s) : MemoriesWf (acceptJob s die j) := writeStamp_wf (modDie_wf h)

theorem replyStatus_wf {s : State} {q : Submission} {status : Word} (h : MemoriesWf s) : MemoriesWf (replyStatus s q status) := by
  unfold replyStatus
  split
  · exact h
  split
  · exact h
  extract_lets
  split
  · exact setTroupe_wf h
  · split <;> exact setTroupe_wf h

theorem execCardAcceptance_wf {die : Nat} {s : State} (h : MemoriesWf s) : OutWf (execCardAcceptance die s) := by
  unfold execCardAcceptance
  split
  · exact .next h
  extract_lets s1 s2 s3
  have hs1 : MemoriesWf s1 := modDie_wf h
  have hs2 : MemoriesWf s2.1 := homeRead_wf hs1
  have hs3 : MemoriesWf s3.1 := homeRead_wf hs2
  split
  · exact .next (replyStatus_wf hs1)
  split
  next e1 => exact .next (replyStatus_wf ((validate_wf hs3).of_eq e1))
  next e2 => exact .next (replyStatus_wf (acceptJob_wf ((validate_wf hs3).of_eq e2)))

/-! ## Residency: resources, gangs, kills and the end of a grid (R66 to R85, R455 to R457) -/

theorem retainRange_wf {s : State} {gr : Grid} {g : Group} (h : MemoriesWf s) : MemoriesWf (retainRange s gr g) := by
  unfold retainRange
  split
  · exact modCore_wf h
  · exact h

theorem removeGroup_wf {s : State} {key : Nat} (h : MemoriesWf s) : MemoriesWf (removeGroup s key) := by
  unfold removeGroup
  split
  · exact h
  · extract_lets at_ _ q k own focus
    obtain ⟨hmem, hhost, hpeer, hgroups⟩ : MemoriesWf k := modCore_wf (countReaders_wf h)
    refine ⟨hmem, hhost, hpeer, fun j g hg => ?_⟩
    have hk : (if key = j then none else groupAt k j) = some g := (tabGet?_tabDel k.groups key j).symm.trans hg
    split at hk
    · cases hk
    · exact hgroups j g hk

theorem forgetWords_wf {s : State} {key : Nat} (h : MemoriesWf s) : MemoriesWf (forgetWords s key) := by
  unfold forgetWords
  exact h.frame rfl

theorem discardGroup_wf {s : State} {key : Nat} (h : MemoriesWf s) : MemoriesWf (discardGroup s key) := by
  unfold discardGroup
  exact forgetWords_wf (removeGroup_wf (h.frame rfl))

theorem writeStatus_wf {s : State} {g : Grid} {ticket state reason : Nat} {retired : Option Nat} (h : MemoriesWf s) :
    MemoriesWf (writeStatus s g ticket state reason retired) := by
  unfold writeStatus
  extract_lets s1
  have hs1 : MemoriesWf s1 := unitStore_wf h
  split
  · exact hs1
  · exact unitStore_wf hs1

theorem closeQueue_wf {s : State} {ptr : Nat} (h : MemoriesWf s) : MemoriesWf (closeQueue s ptr) := by
  unfold closeQueue
  split
  · exact h
  split
  next e1 => exact (unitLoc_wf h).of_eq e1
  next e2 => exact homeWrite_wf (homeRead_wf ((unitLoc_wf h).of_eq e2))

theorem endGrid_wf {s : State} {ticket state : Nat} (h : MemoriesWf s) : MemoriesWf (endGrid s ticket state) := by
  unfold endGrid
  split
  · exact h
  extract_lets s1 s2 s3 s4
  have hs1 : MemoriesWf s1 := writeStatus_wf h
  have hs2 : MemoriesWf s2 := setGrid_wf hs1
  have hs3 : MemoriesWf s3 := send_wf hs2
  clear_value s3
  have hs4 : MemoriesWf s4 := hs3.frame rfl
  split
  · exact closeQueue_wf hs4
  · exact hs4

theorem noteRetired_wf {s : State} {ticket index : Nat} (h : MemoriesWf s) : MemoriesWf (noteRetired s ticket index) := by
  unfold noteRetired
  extract_lets s1
  have hs1 : MemoriesWf s1 := modGrid_wf h
  split
  · exact hs1
  split
  · exact endGrid_wf hs1
  · exact hs1

theorem admitGroup_wf {s : State} {ticket : Nat} {g : Grid} {index core : Nat} {start : Word} {gang : Tab Nat} {saved : Bool}
    (h : MemoriesWf s) : MemoriesWf (admitGroup s ticket g index core start gang saved) := by
  unfold admitGroup
  refine setGroup_wf ?_ rfl
  split
  · exact modCore_wf (foldl_wf (fun _ _ h1 => setTroupe_wf h1) h)
  · exact foldl_wf (fun _ _ h2 => setTroupe_wf h2) h

theorem admitGang_wf {s : State} {ticket : Nat} {g : Grid} {p : PendingGang} {cores : List Nat} (h : MemoriesWf s) :
    MemoriesWf (admitGang s ticket g p cores) := by
  unfold admitGang
  extract_lets s1
  have hs1 : MemoriesWf s1 := foldl_wf (fun _ _ h1 => admitGroup_wf h1) h
  split
  · exact modGrid_wf hs1
  · exact hs1

theorem requeue_wf {s : State} {die : Nat} {p : PendingGang} (h : MemoriesWf s) : MemoriesWf (requeue s die p) := modDie_wf h

theorem dropPending_wf {s : State} {die ticket gang : Nat} (h : MemoriesWf s) : MemoriesWf (dropPending s die ticket gang) := modDie_wf h

theorem renewEntry_wf {s : State} {w : Who} {e : SBEntry} (h : MemoriesWf s) : MemoriesWf (renewEntry s w e).1 := by
  unfold renewEntry
  extract_lets
  split
  next e1 => exact (relocate_wf h).of_eq e1
  next e2 =>
    extract_lets s1
    have hs1 : MemoriesWf s1.1 := by
      unfold s1
      refine foldl_fst_wf (fun _ _ h1 => ?_) ((relocate_wf h).of_eq e2)
      split
      next e3 => exact (relocate_wf h1).of_eq e3
      next e4 => exact (relocate_wf h1).of_eq e4
    split <;> exact hs1

theorem sendCard_wf {s : State} {core pos : Nat} {t : Troupe} {e : SBEntry} (h : MemoriesWf s) : MemoriesWf (sendCard s core pos t e) := by
  unfold sendCard
  split
  · exact h
  · exact modDie_wf h

theorem keepRemote_wf {s : State} {slot : Nat} {e : SBEntry} (h : MemoriesWf s) : MemoriesWf (keepRemote s slot e) := by
  unfold keepRemote
  exact h.frame rfl

theorem drainNow_wf {s : State} {core key tidx : Nat} {e : SBEntry} (h : MemoriesWf s) : MemoriesWf (drainNow s core key tidx e) := by
  unfold drainNow
  split
  · exact send_wf h
  split
  · exact keepRemote_wf h
  extract_lets s1 s2
  have hs1 : MemoriesWf s1 := coreRequest_wf h
  have hs2 : MemoriesWf s2 := by
    unfold s2
    refine foldl_wf (fun _ _ h1 => ?_) hs1
    split
    · split
      · exact h1
      · exact grantFor_wf h1
    · exact h1
  exact performBuffered_wf hs2

theorem drainAgain_wf {s : State} {core key tidx : Nat} {e : SBEntry} (h : MemoriesWf s) : MemoriesWf (drainAgain s core key tidx e) := by
  unfold drainAgain
  split
  next e1 => exact drainNow_wf ((renewEntry_wf h).of_eq e1)
  next e2 =>
    have h1 := (renewEntry_wf h).of_eq e2
    split
    · exact keepRemote_wf h1
    · exact send_wf h1

theorem drainEntry_wf {s : State} {core pos : Nat} {t : Troupe} {e : SBEntry} (h : MemoriesWf s) :
    MemoriesWf (drainEntry s core pos t e) := by
  unfold drainEntry
  split
  · split
    · exact h
    · exact sendCard_wf h
  split
  · exact drainAgain_wf h
  · exact drainNow_wf h

theorem drainGroup_wf {s : State} {key : Nat} (h : MemoriesWf s) : MemoriesWf (drainGroup s key) := by
  unfold drainGroup
  split
  · exact h
  · exact foldl_wf (fun _ _ h1 => foldl_wf (fun _ _ h2 => drainEntry_wf h2) h1) h

theorem writeCollStatus_wf {s : State} {die : Nat} {j : Job} {lost : Bool} (h : MemoriesWf s) :
    MemoriesWf (writeCollStatus s die j lost) := by
  unfold writeCollStatus
  split
  · exact h
  · exact recordStore_wf h

theorem endJob_wf {s : State} {die : Nat} {j : Job} {reason reason2 : Nat} (h : MemoriesWf s) :
    MemoriesWf (endJob s die j reason reason2) :=
  calm_wf (dropJob_wf (send_wf (writeStamp_wf (writeCollStatus_wf h))))

theorem dropRetained_wf {s : State} {ticket : Nat} {g : Grid} {gang : Nat} (h : MemoriesWf s) :
    MemoriesWf (dropRetained s ticket g gang) := by
  unfold dropRetained
  exact h.frame rfl

theorem failEntries_wf {s : State} {key : Nat} (h : MemoriesWf s) : MemoriesWf (failEntries s key) := by
  unfold failEntries
  split
  · exact h
  · exact foldl_wf (fun _ _ h1 => entryRecords_wf h1) h

theorem failSaved_wf {s : State} {key : Nat} (h : MemoriesWf s) : MemoriesWf (failSaved s key) := by
  unfold failSaved
  extract_lets s1
  have hs1 : MemoriesWf s1 := foldl_wf (fun _ _ h1 => entryRecords_wf h1) h
  exact hs1.frame rfl

theorem killMember_wf {s : State} {key : Nat} (h : MemoriesWf s) : MemoriesWf (killMember s key) := by
  unfold killMember
  split
  · exact h
  · exact discardGroup_wf (failEntries_wf (foldl_wf (fun _ _ h1 => drainNow_wf h1) h))

theorem retireGang_wf {s : State} {ticket : Nat} {g : Grid} {gang : Nat} (h : MemoriesWf s) : MemoriesWf (retireGang s ticket g gang) :=
  foldl_wf (fun _ _ h1 => noteRetired_wf h1) (modGrid_wf h)

theorem noteKill_wf {s : State} {die core ticket gang reason : Nat} (h : MemoriesWf s) :
    MemoriesWf (noteKill s die core ticket gang reason) := by
  unfold noteKill
  extract_lets s1 s2
  have hs1 : MemoriesWf s1 := blackBox_wf h
  have hs2 : MemoriesWf s2 := by
    unfold s2
    split
    · exact blackBox_wf hs1
    · exact hs1
  exact send_wf hs2

theorem beginKill_wf {s : State} {ticket : Nat} {g : Grid} {gang reason : Nat} (h : MemoriesWf s) :
    MemoriesWf (beginKill s ticket g gang reason) :=
  modGrid_wf (foldl_wf (fun _ _ h1 => modGroup_wf h1 (fun _ => rfl)) (noteKill_wf h))

theorem recordOthers_wf {s : State} {die core ticket gang : Nat} (h : MemoriesWf s) : MemoriesWf (recordOthers s die core ticket gang) := by
  unfold recordOthers
  exact foldl_wf (fun _ _ h1 => blackBox_wf h1) (h.frame rfl)

theorem carryKill_wf {s : State} {ticket : Nat} {g : Grid} {gang : Nat} (h : MemoriesWf s) : MemoriesWf (carryKill s ticket g gang) := by
  unfold carryKill
  extract_lets _ _ s1 s2 s3 s4 s5 _ _ s6 s7
  have hs1 : MemoriesWf s1 := recordOthers_wf h
  have hs2 : MemoriesWf s2 := foldl_wf (fun _ _ h1 => endJob_wf h1) hs1
  have hs3 : MemoriesWf s3 := foldl_wf (fun _ _ h2 => failSaved_wf h2) hs2
  have hs4 : MemoriesWf s4 := dropRetained_wf (foldl_wf (fun _ _ h3 => killMember_wf h3) hs3)
  have hs5 : MemoriesWf s5 := hs4.frame rfl
  have hs6 : MemoriesWf s6 := modGrid_wf hs5
  have hs7 : MemoriesWf s7 := raiseTrigger_wf hs6
  split
  · exact requeue_wf (blackBox_wf hs7)
  · exact retireGang_wf hs7

theorem execGangKill_wf {ticket gang reason : Nat} {s : State} (h : MemoriesWf s) : OutWf (execGangKill ticket gang reason s) := by
  unfold execGangKill
  split
  · exact .next h
  split
  · exact .next h
  extract_lets _ _ s1 s2
  have hs1 : MemoriesWf s1 := by
    unfold s1
    split
    · exact h
    · exact blackBox_wf h
  have hs2 : MemoriesWf s2 := beginKill_wf h
  split
  · refine .next ?_
    split
    · exact hs1
    · exact carryKill_wf hs1
  split
  · exact .next h
  refine .next ?_
  split
  · exact hs2
  · exact carryKill_wf hs2

/-! ## Copy jobs at work (R300 to R318, R433) -/

theorem jobAccess_wf {s : State} {die : Nat} {j : Job} {write : Bool} {ptr : Word} {len : Nat} (h : MemoriesWf s) :
    MemoriesWf (jobAccess s die j write ptr len).1 := by
  unfold jobAccess
  split
  · exact h
  next e1 =>
    split
    next e2 => exact (translate_wf h).of_eq e2
    next e3 => split <;> exact (translate_wf h).of_eq e3

theorem arrivalLoc_wf {s : State} {die : Nat} {j : Job} (h : MemoriesWf s) : MemoriesWf (arrivalLoc s die j).1 := by
  unfold arrivalLoc
  split
  · exact h
  next e1 =>
    split
    next e2 => exact (translate_wf h).of_eq e2
    next e3 => split <;> exact (translate_wf h).of_eq e3

theorem reachRuns_wf {s : State} {die : Nat} {j : Job} {rs : List (Word × Nat)} (h : MemoriesWf s) :
    MemoriesWf (reachRuns s die j rs).1 := by
  induction rs generalizing s with
  | nil => exact h
  | cons r rs ih =>
    unfold reachRuns
    split
    next e =>
      have ha := ih ((jobAccess_wf h).of_eq e)
      split
      next e => exact ha.of_eq e
      · exact ha
    next e => exact (jobAccess_wf h).of_eq e

theorem readRuns_wf {s : State} {ls : List (Word × Nat × Loc)} (h : MemoriesWf s) : MemoriesWf (readRuns s ls).1 :=
  foldl_fst_wf (fun _ _ h1 => homeRead_wf h1) h

theorem planFlit_wf {s : State} {die : Nat} {j : Job} {f : JobFlit} (h : MemoriesWf s) : MemoriesWf (planFlit s die j f).1 := by
  unfold planFlit
  split
  next e => exact (reachRuns_wf h).of_eq e
  next e =>
    have hs := (reachRuns_wf h).of_eq e
    extract_lets _ d
    have hd : MemoriesWf d.1 := by
      unfold d
      split
      · exact hs
      · exact jobAccess_wf hs
    clear_value d
    split
    · exact hd
    · exact hd
    next s _ _ _ =>
      have hs : MemoriesWf s := hd
      extract_lets
      split
      next e => exact (arrivalLoc_wf hs).of_eq e
      next e => exact (arrivalLoc_wf hs).of_eq e
      next e => exact (arrivalLoc_wf hs).of_eq e

theorem walkAhead_wf {s : State} {die : Nat} {j : Job} (h : MemoriesWf s) : MemoriesWf (walkAhead s die j) := by
  unfold walkAhead
  extract_lets _ _ s1
  have hs1 : MemoriesWf s1 := foldl_wf (fun _ _ h1 => lookup_wf h1) h
  split
  · exact hs1
  · exact foldl_wf (fun _ _ h2 => lookup_wf h2) hs1

theorem performFlit_wf {s : State} {die : Nat} {j : Job} {n : Nat} {f : JobFlit} {p : FlitPlan} (h : MemoriesWf s) :
    MemoriesWf (performFlit s die j n f p) := by
  unfold performFlit
  extract_lets s1 s2 s3 s4 _ s5 s6 s7
  have hs1 : MemoriesWf s1 := foldl_wf (fun _ _ h1 => requestTo_wf h1) h
  have hs2 : MemoriesWf s2 := foldl_wf (fun _ _ h2 => requestTo_wf h2) hs1
  have hs3 : MemoriesWf s3.1 := readRuns_wf hs2
  have hs4 : MemoriesWf s4.1 := hs3
  have hs5 : MemoriesWf s5.1 := by
    unfold s5
    split
    · extract_lets s8
      have hs8 : MemoriesWf s8.1 := landBlock_wf hs4
      dsimp only
      split
      · exact addPoison_wf hs8
      · exact hs8
    · split
      · exact send_wf hs4
      extract_lets s9
      have hs9 : MemoriesWf s9 := homeWrite_wf hs4
      dsimp only
      split
      · exact addPoison_wf hs9
      · exact hs9
    · exact hs4
  have hs6 : MemoriesWf s6 := hs5
  have hs7 : MemoriesWf s7 := by
    unfold s7
    split
    · split
      · exact hs6.frame rfl
      · exact hs6
    · exact hs6
  exact walkAhead_wf (setJob_wf hs7)

theorem readIndex_wf {s : State} {die : Nat} {j : Job} (h : MemoriesWf s) : MemoriesWf (readIndex s die j).1 := by
  unfold readIndex
  extract_lets
  split
  next e1 => exact (reachRuns_wf h).of_eq e1
  next e2 => exact readRuns_wf ((reachRuns_wf h).of_eq e2)

theorem prepare_wf {s : State} {die : Nat} {j : Job} (h : MemoriesWf s) : MemoriesWf (prepare s die j).1 := by
  unfold prepare
  split
  · split
    next e1 => exact (readIndex_wf h).of_eq e1
    next e2 =>
      extract_lets
      split <;> exact (readIndex_wf h).of_eq e2
  · exact h

theorem build_wf {s : State} {die : Nat} {j : Job} (h : MemoriesWf s) : MemoriesWf (build s die j) := by
  unfold build
  split
  next e1 => exact walkAhead_wf (setJob_wf ((prepare_wf h).of_eq e1))
  next e2 => exact setJob_wf ((prepare_wf h).of_eq e2)

theorem engineAccess_wf {s : State} {die n i : Nat} (h : MemoriesWf s) : MemoriesWf (engineAccess s die n i) := by
  unfold engineAccess
  split
  · exact h
  split
  · exact h
  split
  · exact build_wf h
  split
  · exact h
  split
  · exact h
  extract_lets
  split
  next e1 =>
    have h1 := (planFlit_wf (setJob_wf h)).of_eq e1
    split
    · exact h1
    · exact performFlit_wf h1
  next e2 => exact (planFlit_wf (setJob_wf h)).of_eq e2

theorem execSlotWrite_wf {die n i : Nat} {s : State} (h : MemoriesWf s) : OutWf (execSlotWrite die n i s) := by
  unfold execSlotWrite
  split
  · split
    · exact .next (engineAccess_wf h)
    · exact .next h
  · exact .next h

theorem execJobStart_wf {die : Nat} {s : State} (h : MemoriesWf s) : OutWf (execJobStart die s) := by
  unfold execJobStart
  extract_lets
  split
  · exact .next (build_wf (writeStamp_wf (setJob_wf h)))
  · exact .next h

theorem ownValues_wf {s : State} {die : Nat} {j : Job} {c : Nat} (h : MemoriesWf s) : MemoriesWf (ownValues s die j c).1 := by
  unfold ownValues
  extract_lets
  split
  next e1 => exact (reachRuns_wf h).of_eq e1
  next e2 => exact readRuns_wf ((reachRuns_wf h).of_eq e2)

theorem sendOn_wf {s : State} {j : Job} {c : Nat} {bs : List Byte} (h : MemoriesWf s) : MemoriesWf (sendOn s j c bs) := by
  unfold sendOn
  exact sendPacket_wf (h.frame rfl)

theorem passOn_wf {s : State} {j : Job} {c : Nat} {bs : List Byte} (h : MemoriesWf s) : MemoriesWf (passOn s j c bs).1 := sendOn_wf h

theorem finishChunk_wf {s : State} {die : Nat} {j : Job} {c : Nat} {bs : List Byte} (h : MemoriesWf s) :
    MemoriesWf (finishChunk s die j c bs) := by
  unfold finishChunk
  extract_lets s1
  have hs1 : MemoriesWf s1.1 := by
    unfold s1
    split
    · exact passOn_wf h
    · exact h
  exact setJob_wf hs1

theorem reduceChunk_wf {s : State} {die : Nat} {j : Job} {c : Nat} {data : List Word} (h : MemoriesWf s) :
    MemoriesWf (reduceChunk s die j c data) := by
  unfold reduceChunk
  extract_lets
  split
  next e1 => exact (ownValues_wf h).of_eq e1
  next e2 =>
    have h1 := (ownValues_wf h).of_eq e2
    extract_lets
    split
    · split
      · exact finishChunk_wf h1
      · exact h1
    split
    · exact sendOn_wf (setJob_wf h1)
    split
    · exact h1
    split
    · exact finishChunk_wf h1
    · exact sendOn_wf (setJob_wf h1)

theorem gatherChunk_wf {s : State} {die : Nat} {j : Job} {c : Nat} {data : List Word} (h : MemoriesWf s) :
    MemoriesWf (gatherChunk s die j c data) := by
  unfold gatherChunk
  extract_lets
  split
  · exact h
  next e1 =>
    split
    · split
      next e2 => exact (ownValues_wf h).of_eq e2
      next e3 => exact setJob_wf (passOn_wf ((ownValues_wf h).of_eq e3))
    split
    · exact h
    · exact finishChunk_wf h

theorem execZethesAdder_wf {die n c : Nat} {data : List Word} {s : State} (h : MemoriesWf s) : OutWf (execZethesAdder die n c data s) := by
  unfold execZethesAdder
  split
  · exact .next h
  split
  · exact .next h
  extract_lets
  split
  · exact .next (reduceChunk_wf (setJob_wf h))
  split
  · exact .next (gatherChunk_wf (setJob_wf h))
  · exact .next h

theorem execCollectiveLost_wf {die n : Nat} {s : State} (h : MemoriesWf s) : OutWf (execCollectiveLost die n s) := by
  unfold execCollectiveLost
  split
  · exact .next h
  split
  · exact .next (endJob_wf h)
  · exact .next h

theorem endRevoked_wf {s : State} {die : Nat} {j : Job} (h : MemoriesWf s) : MemoriesWf (endRevoked s die j) := by
  unfold endRevoked
  split <;> exact endJob_wf h

theorem followNotify_wf {s : State} {j : Job} {g : Group} {key : Nat} (h : MemoriesWf s) : MemoriesWf (followNotify s j g key).1 := by
  unfold followNotify
  extract_lets
  split
  · exact h
  next e1 =>
    split
    · exact h
    split
    · exact h
    split
    next e2 => exact (translate_wf h).of_eq e2
    next e3 => exact (translate_wf h).of_eq e3

theorem scaleRead_wf {s : State} {die : Nat} {j : Job} (h : MemoriesWf s) : MemoriesWf (scaleRead s die j).1 := by
  unfold scaleRead
  extract_lets
  refine foldl_fst_wf (fun _ _ h1 => ?_) h
  split
  · exact h1
  split
  next e1 => exact homeRead_wf ((jobAccess_wf h1).of_eq e1)
  next e2 => exact (jobAccess_wf h1).of_eq e2

theorem writeWay_wf {s : State} {die : Nat} {j : Job} {ptr n : Nat} (h : MemoriesWf s) : MemoriesWf (writeWay s die j ptr n).1 := by
  unfold writeWay
  split
  next e1 => exact (translate_wf h).of_eq e1
  next e2 => exact (translate_wf h).of_eq e2

theorem stampWay_wf {s : State} {die : Nat} {j : Job} (h : MemoriesWf s) : MemoriesWf (stampWay s die j).1 := by
  unfold stampWay
  dsimp only
  split
  next e1 =>
    have h1 := MemoriesWf.of_eq e1
    split
    · refine h1 ?_
      split
      · exact h
      · exact writeWay_wf h
    refine writeWay_wf (h1 ?_)
    split
    · exact h
    · exact writeWay_wf h
  split
  · exact h
  · exact writeWay_wf h

theorem execJobPageStall_wf {die n i : Nat} {s : State} (h : MemoriesWf s) : OutWf (execJobPageStall die n i s) := by
  unfold execJobPageStall
  split
  · exact .next h
  split
  · exact .next h
  split
  · exact .next (send_wf (setJob_wf h))
  · exact .next h

theorem execJobResume_wf {die n : Nat} {s : State} (h : MemoriesWf s) : OutWf (execJobResume die n s) := by
  unfold execJobResume
  extract_lets s1
  have hs1 : MemoriesWf s1 := payOwed_wf h
  split
  · exact .next hs1
  split
  · extract_lets
    refine .next ?_
    split
    · exact setJob_wf hs1
    · exact build_wf hs1
  split
  · exact .next (build_wf hs1)
  · exact .next hs1

theorem execJobErrorEnd_wf {die n i : Nat} {s : State} (h : MemoriesWf s) : OutWf (execJobErrorEnd die n i s) := by
  unfold execJobErrorEnd
  split
  · exact .next h
  split
  · exact .next (endRevoked_wf h)
  split
  · exact .next h
  split
  · exact .next (endJob_wf h)
  · exact .next h

theorem failFollow_wf {s : State} {die : Nat} {j : Job} {g : Group} {key cause : Nat} (h : MemoriesWf s) :
    MemoriesWf (failFollow s die j g key cause) :=
  endJob_wf (writeTileRecord_wf h)

theorem execFollowOnIssue_wf {die n : Nat} {s : State} (h : MemoriesWf s) : OutWf (execFollowOnIssue die n s) := by
  unfold execFollowOnIssue
  split
  · exact .next h
  split
  · exact .next h
  split
  · exact .next (endJob_wf h)
  split
  · split
    next e1 => exact .next (setJob_wf ((scaleRead_wf h).of_eq e1))
    next e2 =>
      have h1 := (scaleRead_wf h).of_eq e2
      refine .next ?_
      split
      · exact endJob_wf h1
      split
      · exact failFollow_wf h1
      · exact endJob_wf h1
    next e3 => exact .next ((scaleRead_wf h).of_eq e3)
  · exact .next (setJob_wf h)

theorem execFollowOnEnqueue_wf {die n : Nat} {s : State} (h : MemoriesWf s) : OutWf (execFollowOnEnqueue die n s) := by
  unfold execFollowOnEnqueue
  split
  · exact .next h
  split
  · exact .next h
  extract_lets
  split
  · exact .next (endJob_wf h)
  dsimp only
  split
  · exact .next (failFollow_wf h)
  next e1 => exact .next ((followNotify_wf h).of_eq e1)
  next e2 =>
    have h1 := (followNotify_wf h).of_eq e2
    split
    · split
      · exact .next h1
      · exact .next (appendSegment_wf (setJob_wf h1))
    split
    · exact .next h1
    · exact .next (enqueue_wf (setJob_wf h1))

theorem execJobRetire_wf {die n : Nat} {s : State} (h : MemoriesWf s) : OutWf (execJobRetire die n s) := by
  unfold execJobRetire
  split
  · exact .next h
  split
  · exact .next h
  split
  · exact .next (endJob_wf h)
  split
  · exact .next h
  split
  next e1 => exact .next (endJob_wf ((stampWay_wf h).of_eq e1))
  next e2 => exact .next ((stampWay_wf h).of_eq e2)
  next e3 => exact .next (calm_wf (dropJob_wf (writeStamp_wf (writeCollStatus_wf ((stampWay_wf h).of_eq e3)))))

theorem releaseHeld_wf {s : State} {die : Nat} {l : Loc} {gen : Nat} (h : MemoriesWf s) : MemoriesWf (releaseHeld s die l gen) :=
  modDie_wf h

theorem execJobRelease_wf {die : Nat} {s : State} (h : MemoriesWf s) : OutWf (execJobRelease die s) := by
  unfold execJobRelease
  split
  · exact .next h
  · exact .next (releaseHeld_wf (modDie_wf h))

theorem execWaitWordPoll_wf {die n : Nat} {s : State} (h : MemoriesWf s) : OutWf (execWaitWordPoll die n s) := by
  unfold execWaitWordPoll
  split
  · exact .next h
  split
  · exact .next h
  · exact .next (releaseHeld_wf (readSync_wf h))

theorem execWaitWordRetired_wf {die n : Nat} {s : State} (h : MemoriesWf s) : OutWf (execWaitWordRetired die n s) := by
  unfold execWaitWordRetired
  split
  · exact .next h
  split
  · exact .next h
  split
  · exact .next (endJob_wf h)
  split
  · exact .next h
  split
  · exact .next (foldl_wf (fun _ _ h1 => endJob_wf h1) h)
  · exact .next h

/-! ## The arbiter and the dispatchers (R59 to R84, R403, R404) -/

theorem readTable_wf {s : State} {ptr : Nat} {take : Nat → Nat} (h : MemoriesWf s) : MemoriesWf (readTable s ptr take).1 := by
  unfold readTable
  split
  · exact h
  next e1 =>
    split
    next e2 => exact (unitBytes_wf h).of_eq e2
    next e3 =>
      have h1 := (unitBytes_wf h).of_eq e3
      extract_lets
      split
      next e4 => exact (unitBytes_wf h1).of_eq e4
      next e5 => exact (unitBytes_wf h1).of_eq e5

theorem readBindings_wf {s : State} {ptr : Nat} (h : MemoriesWf s) : MemoriesWf (readBindings s ptr).1 := by
  unfold readBindings
  split
  · exact h
  split
  next e1 => exact (unitBytes_wf h).of_eq e1
  next e2 => exact (unitBytes_wf h).of_eq e2

theorem checkRecord_wf {s : State} {ws : List Word} {ptr : Word} (h : MemoriesWf s) : MemoriesWf (checkRecord s ws ptr).1 := by
  unfold checkRecord
  extract_lets _ s1 _ s2 s3
  have hs1 : MemoriesWf s1.1 := readTable_wf h
  have hs2 : MemoriesWf s2.1 := readTable_wf hs1
  have hs3 : MemoriesWf s3.1 := readBindings_wf hs2
  split
  · exact h
  split
  · exact hs1
  · split <;> exact hs3

theorem acceptGrid_wf {s : State} {g : Grid} (h : MemoriesWf s) : MemoriesWf (acceptGrid s g) := by
  unfold acceptGrid
  extract_lets _ s1 s2 s3 s4 s5
  have hs1 : MemoriesWf s1 := setGrid_wf h
  have hs2 : MemoriesWf s2 := hs1.frame rfl
  have hs3 : MemoriesWf s3 := send_wf (writeStatus_wf hs2)
  have hs4 : MemoriesWf s4 := unitStore_wf hs3
  have hs5 : MemoriesWf s5 := dealGangs_wf hs4
  split
  · exact endGrid_wf hs5
  · exact hs5

theorem refuseRecord_wf {s : State} {ptr : Word} {reason : Nat} (h : MemoriesWf s) : MemoriesWf (refuseRecord s ptr reason) :=
  send_wf (unitStore_wf (unitStore_wf h))

theorem acceptRecord_wf {s : State} {ptr : Word} {bs : List Byte} (h : MemoriesWf s) : MemoriesWf (acceptRecord s ptr bs) := by
  unfold acceptRecord
  split
  next e1 => exact refuseRecord_wf ((checkRecord_wf h).of_eq e1)
  next e2 => exact acceptGrid_wf ((checkRecord_wf h).of_eq e2)

theorem stageGrids_wf {s : State} {ptrs : List Word} (h : MemoriesWf s) : MemoriesWf (stageGrids s ptrs).1 := by
  unfold stageGrids
  refine foldl_fst_wf (fun _ _ h1 => ?_) h
  split
  · exact h1
  split
  next e1 => exact (unitBytes_wf h1).of_eq e1
  next e2 =>
    have h2 := (unitBytes_wf h1).of_eq e2
    split
    next e3 => exact (checkRecord_wf h2).of_eq e3
    next e4 => exact (checkRecord_wf h2).of_eq e4

theorem acceptPipeline_wf {s : State} {bs : List Byte} (h : MemoriesWf s) : MemoriesWf (acceptPipeline s bs) := by
  unfold acceptPipeline
  extract_lets _ _ _ _ s1 _ _ s2 _ s3
  have hs1 : MemoriesWf s1.1 := stageGrids_wf h
  have hs2 : MemoriesWf s2.1 := foldl_fst_wf (fun _ _ h1 => acceptGrid_wf h1) hs1
  have hs3 : MemoriesWf s3 := hs2
  split
  · exact hs3.frame rfl
  refine foldl_wf (fun _ _ h2 => ?_) hs1
  split
  · exact refuseRecord_wf h2
  · exact h2

theorem takeEntry_wf {s : State} {q : Nat} {e : Word} (h : MemoriesWf s) : MemoriesWf (takeEntry s q e) := by
  unfold takeEntry
  extract_lets
  split
  · split
    · exact send_wf h
    split
    next e1 => exact send_wf ((unitBytes_wf h).of_eq e1)
    next e2 => exact acceptPipeline_wf ((unitBytes_wf h).of_eq e2)
  split
  · exact send_wf h
  split
  next e3 => exact send_wf ((unitBytes_wf h).of_eq e3)
  next e4 => exact acceptRecord_wf ((unitBytes_wf h).of_eq e4)

theorem blockQueue_wf {s : State} {q : Nat} (h : MemoriesWf s) : MemoriesWf (blockQueue s q) := by
  unfold blockQueue
  exact send_wf (h.frame rfl)

theorem serveQueue_wf {s : State} {q : Nat} (h : MemoriesWf s) : MemoriesWf (serveQueue s q) := by
  unfold serveQueue
  extract_lets
  split
  · exact h
  next e1 =>
    split
    · exact blockQueue_wf h
    extract_lets s1
    have hs1 : MemoriesWf s1.1 := unitHome_wf h
    split
    · exact blockQueue_wf hs1
    split
    · exact hs1
    split
    next e2 => exact blockQueue_wf ((unitBytes_wf hs1).of_eq e2)
    next e3 => exact takeEntry_wf (homeWrite_wf ((unitBytes_wf hs1).of_eq e3))

theorem execLaunchDoorbell_wf {q : Nat} {s : State} (h : MemoriesWf s) : OutWf (execLaunchDoorbell q s) := by
  unfold execLaunchDoorbell
  split
  · exact .next h
  · exact .next (h.frame rfl)

theorem execLaunchQueueServe_wf {s : State} (h : MemoriesWf s) : OutWf (execLaunchQueueServe s) := by
  unfold execLaunchQueueServe
  split
  · exact .next h
  split
  · exact .next h
  · exact .next (whole_wf h (serveQueue_wf (h.frame rfl)))

theorem countStage_wf {s : State} {g : Grid} (h : MemoriesWf s) : MemoriesWf (countStage s g) := by
  unfold countStage
  split
  · exact h
  split
  · exact h
  · exact h.frame rfl

theorem startRotation_wf {s : State} {ticket : Nat} (h : MemoriesWf s) : MemoriesWf (startRotation s ticket) := modGrid_wf h

theorem admitMore_wf {ticket fuel : Nat} {s : State} (h : MemoriesWf s) : MemoriesWf (admitMore ticket fuel s) := by
  induction fuel generalizing s with
  | zero => exact h
  | succ fuel ih =>
    unfold admitMore
    split
    · split
      · exact h
      split
      · exact ih (admitGang_wf (dropPending_wf h))
      · exact h
    · exact h

theorem execGangAdmit_wf {die : Nat} {s : State} (h : MemoriesWf s) : OutWf (execGangAdmit die s) := by
  unfold execGangAdmit
  split
  · exact .next h
  split
  · exact .next h
  extract_lets s1
  have hs1 : MemoriesWf s1 := admitMore_wf (countStage_wf (admitGang_wf (dropPending_wf h)))
  refine .next ?_
  split
  · exact startRotation_wf hs1
  · exact hs1

theorem execWorkSteal_wf {die : Nat} {s : State} (h : MemoriesWf s) : OutWf (execWorkSteal die s) := by
  unfold execWorkSteal
  split
  · exact .next h
  extract_lets
  split
  · exact .next h
  split
  · exact .next h
  split
  · exact .next h
  · exact .next (countStage_wf (admitGang_wf (dropPending_wf h)))

theorem flushOne_wf {s : State} {ticket : Nat} {g : Grid} {gang : Nat} (h : MemoriesWf s) : MemoriesWf (flushOne s ticket g gang) :=
  requeue_wf (dropRetained_wf (foldl_wf (fun _ _ h1 => discardGroup_wf (failEntries_wf (drainGroup_wf h1))) h))

theorem flushGang_wf {s : State} {ticket : Nat} {g : Grid} {gang : Nat} (h : MemoriesWf s) : MemoriesWf (flushGang s ticket g gang) :=
  foldl_wf (fun _ _ h1 => flushOne_wf h1) h

theorem endGroupNaps_wf {s : State} {key : Nat} (h : MemoriesWf s) : MemoriesWf (endGroupNaps s key) := by
  unfold endGroupNaps
  split
  · exact h
  · exact foldl_wf (fun _ _ h1 => modTroupe_wf h1) h

theorem startSave_wf {s : State} {t : Nat} {g : Grid} {gang : Nat} (h : MemoriesWf s) : MemoriesWf (startSave s t g gang) :=
  foldl_wf (fun _ _ h1 => endGroupNaps_wf (modGroup_wf h1 (fun _ => rfl))) h

theorem execPreempt_wf {die : Nat} {s : State} (h : MemoriesWf s) : OutWf (execPreempt die s) := by
  unfold execPreempt
  split
  · exact .next h
  · exact .next (flushGang_wf h)
  · exact .next (startSave_wf h)

theorem execRegionFlush_wf {ticket gang : Nat} {s : State} (h : MemoriesWf s) : OutWf (execRegionFlush ticket gang s) := by
  unfold execRegionFlush
  split
  · exact .next h
  split
  · exact .next (flushGang_wf h)
  · exact .next h

theorem toRemote_wf {s : State} {key : Nat} {g : Group} (h : MemoriesWf s) : MemoriesWf (toRemote s key g) :=
  foldl_wf (fun _ _ h1 => leaveSent_wf h1) h

theorem keepTiles_wf {s : State} {key : Nat} (h : MemoriesWf s) : MemoriesWf (keepTiles s key) := by
  unfold keepTiles
  split
  · exact h
  extract_lets
  split
  · exact h
  · exact h.frame rfl

theorem goOn_wf {s : State} {keys : List Nat} (h : MemoriesWf s) : MemoriesWf (goOn s keys) :=
  foldl_wf (fun _ _ h1 => endGroupNaps_wf (modGroup_wf h1 (fun _ => rfl))) h

theorem execFullSave_wf {ticket gang : Nat} {s : State} (h : MemoriesWf s) : OutWf (execFullSave ticket gang s) := by
  unfold execFullSave
  split
  · exact .next h
  extract_lets _ _ _ s1 s2
  have hs1 : MemoriesWf s1.1 := by
    unfold s1
    refine foldl_fst_wf (fun _ _ h1 => ?_) h
    split
    · exact saveGroup_wf h1
    · exact h1
  have hs2 : MemoriesWf s2 := by
    unfold s2
    refine foldl_wf (fun _ _ h2 => ?_) hs1
    split
    · exact removeGroup_wf (toRemote_wf (keepTiles_wf h2))
    · exact h2
  refine .ite (.next h) (.ite (.next (goOn_wf h)) ?_)
  split
  · exact .next (flushGang_wf h)
  split
  · exact .next h
  split
  · exact .next (foldl_wf (fun _ _ h3 => stopTiles_wf h3) h)
  split
  · exact .next (foldl_wf (fun _ _ h4 => requeue_wf h4) hs2)
  · exact .next (send_wf (goOn_wf hs1))

theorem relieveRestore_wf {s q : State} {cores : List Nat} {need : Nat → Tab Nat} (h : MemoriesWf s) :
    ∀ t ∈ relieveRestore s q cores need, MemoriesWf t := by
  unfold relieveRestore
  dsimp only
  split
  · exact forall_mem_none
  · exact forall_mem_some (foldl_wf (fun _ _ h1 => relieveFor_wf h1) h)

theorem forgetTiles_wf {s : State} {ticket : Nat} {g : Grid} {gang : Nat} (h : MemoriesWf s) :
    MemoriesWf (forgetTiles s ticket g gang) := by
  unfold forgetTiles
  exact h.frame rfl

/-- Members brought back, as far as the gang they fail in. -/
theorem bringBack_wf {s : State} {die ticket : Nat} {g : Grid} {cs : List Nat} {ps : List PendingGang} (h : MemoriesWf s) :
    ∀ t, bringBack s die ticket g cs ps = .inl t → MemoriesWf t := by
  unfold bringBack
  refine List.foldlRecOn (motive := fun a : State ⊕ Nat => ∀ t, a = .inl t → MemoriesWf t) ps _ (fun _ e => Sum.inl.inj e ▸ h)
    fun a ha p _ t ht => ?_
  dsimp only at ht
  split at ht
  · cases ht
  · split at ht
    next q _ _ e =>
      cases ht
      exact forgetTiles_wf (foldl_option_wf (P := MemoriesWf) (fun o m ho => bind_wf ho fun _ hr => restoreGroup_wf hr)
        (admitGang_wf (dropPending_wf (ha q rfl))) _ e)
    · cases ht

theorem execGangRestore_wf {die : Nat} {s : State} (h : MemoriesWf s) : OutWf (execGangRestore die s) := by
  unfold execGangRestore
  split
  · exact .next h
  · extract_lets ps
    split
    · exact .next h
    · split
      next e =>
        have hq := bringBack_wf h _ e
        refine .next ?_
        split
        · exact getD_wf (relieveRestore_wf h) (countStage_wf hq)
        · exact h
      · exact execGangKill_wf h

theorem wakeTurn_wf {s : State} {core pos : Nat} (h : MemoriesWf s) : MemoriesWf (wakeTurn s core pos) := pollTroupe_wf (modTroupe_wf h)

theorem passTurn_wf {s : State} {ticket core pos group tidx : Nat} (h : MemoriesWf s) :
    MemoriesWf (passTurn s ticket core pos group tidx) := by
  unfold passTurn
  extract_lets s1 s2
  have hs1 : MemoriesWf s1 := modTroupe_wf h
  have hs2 : MemoriesWf s2 := by
    unfold s2
    split
    · exact admitMore_wf hs1
    · exact hs1
  split
  · exact hs2
  · exact wakeTurn_wf (modGrid_wf hs2)

theorem execMinuetTurn_wf {ticket : Nat} {s : State} (h : MemoriesWf s) : OutWf (execMinuetTurn ticket s) := by
  unfold execMinuetTurn
  split
  · exact .next h
  split
  · exact .next h
  extract_lets _ s1
  have hs1 : MemoriesWf s1 := wakeTurn_wf h
  split
  · exact .next (wakeTurn_wf (modGrid_wf h))
  split
  · exact .next h
  split
  · exact .next h
  split
  · exact .next (passTurn_wf h)
  split
  · exact .next h
  refine .next ?_
  split
  · exact hs1
  · exact passTurn_wf hs1

theorem execStagePeriod_wf {pipe : Nat} {s : State} (h : MemoriesWf s) : OutWf (execStagePeriod pipe s) := by
  unfold execStagePeriod
  split
  · exact .next h
  split
  · exact .next h
  extract_lets _ _ s1
  have hs1 : MemoriesWf s1 := h.frame rfl
  split
  · exact .next (flushGang_wf hs1)
  · exact .next (startSave_wf hs1)
  · exact .next hs1

theorem execGroupRetire_wf {ticket group : Nat} {s : State} (h : MemoriesWf s) : OutWf (execGroupRetire ticket group s) := by
  unfold execGroupRetire
  extract_lets
  split
  · split
    · exact .next (noteRetired_wf (forgetWords_wf (removeGroup_wf (retainRange_wf h))))
    · exact .next h
  · exact .next h

end Sys2Proof.Machine
end

section
/-!
PROOFS. The events of the package keep the memories canonical: arrivals, lines, page walks, triggers, the Reel and the links.
-/

namespace Sys2Proof.Machine

/-! ## Data reaching registers and sync words (R153, R241, R350) -/

theorem deliverBytes_wf {s : State} {core sym : Nat} {y : Symbol} {lanes : List Nat} {bs : List Byte} (h : MemoriesWf s) :
    MemoriesWf (deliverBytes s core sym y lanes bs) := by
  unfold deliverBytes
  extract_lets
  split
  · exact finishSymbol_wf (deliver_wf h)
  · exact finishSymbol_wf (deliver_wf (deliver_wf h))
  · exact finishSymbol_wf (deliver_wf (deliver_wf h))
  · exact h

theorem faultBoth_wf {s : State} {core sym : Nat} {y : Symbol} {l cause : Nat} {a : Word} (h : MemoriesWf s) :
    MemoriesWf (faultBoth s core sym y l cause a) := by
  unfold faultBoth
  extract_lets s1 s2
  have hs1 : MemoriesWf s1 := raiseFault_wf h
  have hs2 : MemoriesWf s2 := by
    unfold s2
    split
    · exact raiseFault_wf hs1
    · exact raiseFault_wf hs1
    · exact hs1
  exact finishSymbol_wf hs2

theorem performLoad_wf {s : State} {core sym : Nat} {y : Symbol} {t : Troupe} {loc : Loc} (h : MemoriesWf s) :
    MemoriesWf (performLoad s core sym y t loc) := by
  unfold performLoad
  extract_lets _ _ s1
  have hs1 : MemoriesWf s1.1 := readOwn_wf h
  split
  · exact foldl_wf (fun _ _ h1 => faultBoth_wf h1) h
  · exact deliverBytes_wf (noticePoison_wf hs1)

theorem readPiecesOf_wf {s : State} {core : Nat} {t : Troupe} {seq n : Nat} {ps : List (Loc × Nat)} (h : MemoriesWf s) :
    MemoriesWf (readPiecesOf s core t seq n ps).1 := by
  induction ps generalizing s n with
  | nil => exact h
  | cons p ps ih =>
    cases n with
    | zero => exact h
    | succ n => exact ih (noticePoison_wf (readOwn_wf h))

theorem performFill_wf {s : State} {core sym : Nat} {y : Symbol} {t : Troupe} (h : MemoriesWf s) :
    MemoriesWf (performFill s core sym y t) := by
  unfold performFill
  extract_lets _ s1 _ s2
  have hs1 : MemoriesWf s1.1 := readPiecesOf_wf h
  have hs2 : MemoriesWf s2.1 := readPiecesOf_wf hs1
  split
  · exact finishSymbol_wf (foldl_wf (fun _ _ h1 => raiseFault_wf h1) h)
  split
  · exact finishSymbol_wf (deliver_wf hs2)
  · exact finishSymbol_wf (foldl_wf (fun _ _ h2 => raiseFault_wf h2) hs1)

theorem issueImage_wf {s : State} {core sym : Nat} {y : Symbol} {t : Troupe} (h : MemoriesWf s) :
    MemoriesWf (issueImage s core sym y t) := by
  unfold issueImage
  refine foldl_wf (fun _ _ h1 => ?_) h
  split
  · exact h1
  split
  next e1 => exact setSymbol_wf ((translate_wf h1).of_eq e1)
  next e2 => exact foldl_wf (fun _ _ h2 => raiseFault_wf h2) ((translate_wf h1).of_eq e2)

theorem arriveLane_wf {s : State} {core sym lane : Nat} {y : Symbol} {t : Troupe} (h : MemoriesWf s) :
    MemoriesWf (arriveLane s core sym lane y t) := by
  unfold arriveLane
  split
  · exact finishSymbol_wf (deliver_wf h)
  · exact h
  · split
    · exact issueImage_wf h
    split
    · exact performFill_wf h
    · exact h
  · exact finishSymbol_wf (deliver_wf h)
  split
  · split
    · exact issueLane_wf h
    · exact h
  split
  · exact h
  · exact performLoad_wf h

theorem execSymbolArrival_wf {core sym lane : Nat} {s : State} (h : MemoriesWf s) : OutWf (execSymbolArrival core sym lane s) := by
  unfold execSymbolArrival
  split
  · exact .next h
  split
  · exact .next h
  split
  · exact .next (arriveLane_wf h)
  · exact .next h

theorem execSyncArrival_wf {n : Nat} {s : State} (h : MemoriesWf s) : OutWf (execSyncArrival n s) := by
  unfold execSyncArrival
  split
  · exact .next h
  extract_lets
  split
  · exact .next (send_wf (h.frame rfl))
  split
  · exact .next h
  · exact .next (arrive_wf (requestTo_wf (h.frame rfl)))

/-! ## Events of lines and store buffers (R331 to R341, R361 to R366, R437, R483) -/

theorem execUGrant_wf {core pos : Nat} {s : State} (h : MemoriesWf s) : OutWf (execUGrant core pos s) := by
  unfold execUGrant
  split
  · exact .next h
  split
  · exact .next h
  split
  · exact .next h
  · exact .next (grantFor_wf h)

theorem requestPartial_wf {s : State} {m : PeerHolder} (h : MemoriesWf s) : MemoriesWf (requestPartial s m) := by
  unfold requestPartial
  split
  · exact h
  · exact sendPacket_wf (h.frame rfl)

theorem execCollapse_wf {line : Nat} {s : State} (h : MemoriesWf s) : OutWf (execCollapse line s) := by
  unfold execCollapse
  refine .next ?_
  split
  · exact foldl_wf (fun _ _ h1 => requestPartial_wf h1) h
  · exact collapseLine_wf h

theorem takePartial_wf {s : State} {line pkg op ty : Nat} {data : Tab Byte} {touched : BitVec 8} (h : MemoriesWf s) :
    MemoriesWf (takePartial s line pkg op ty data touched) := by
  unfold takePartial
  split
  · exact h
  split
  · exact h
  · exact payOwed_wf (h.frame rfl)

theorem execUEviction_wf {core line : Nat} {s : State} (h : MemoriesWf s) : OutWf (execUEviction core line s) := by
  unfold execUEviction
  split
  · exact .next (evictU_wf h)
  · exact .next h

theorem execEvictionMerge_wf {core line : Nat} {s : State} (h : MemoriesWf s) : OutWf (execEvictionMerge core line s) := by
  unfold execEvictionMerge
  split
  · exact .next (ackEviction_wf h)
  · exact .next h

theorem execSliceUEviction_wf {die line : Nat} {s : State} (h : MemoriesWf s) : OutWf (execSliceUEviction die line s) := by
  unfold execSliceUEviction
  extract_lets
  split
  · exact .next (releaseSlice_wf h)
  · exact .next h

theorem execInvalidationReceive_wf {core n : Nat} {s : State} (h : MemoriesWf s) : OutWf (execInvalidationReceive core n s) := by
  unfold execInvalidationReceive
  split
  · exact .next h
  · exact .next (receiveInval_wf (modCore_wf h))

theorem execInvalidationAgeExpiry_wf {core n : Nat} {s : State} (h : MemoriesWf s) : OutWf (execInvalidationAgeExpiry core n s) := by
  unfold execInvalidationAgeExpiry
  split
  · exact .next h
  split
  · exact .next (applyOwn_wf h)
  · exact .next h

theorem physicalRead_wf {s : State} {pa len : Nat} (h : MemoriesWf s) : MemoriesWf (physicalRead s pa len).1 :=
  foldl_fst_wf (fun _ _ h1 => homeRead_wf h1) h

theorem physicalWrite_wf {s : State} {pa : Nat} {bs : List Byte} (h : MemoriesWf s) : MemoriesWf (physicalWrite s pa bs) :=
  foldl_wf (fun _ _ h1 => homeWrite_wf h1) h

theorem execHomeUnitAccess_wf {a : UnitAccess} {s : State} (h : MemoriesWf s) : OutWf (execHomeUnitAccess a s) := by
  cases a with
  | engine die job n => exact .ite (.next h) (.next (engineAccess_wf h))
  | ozwynRead pa len => exact .ite (.next (send_wf (physicalRead_wf h))) (.next h)
  | ozwynWrite pa bs => exact .ite (.next (physicalWrite_wf h)) (.next h)
  | hostWrite a bs =>
    obtain ⟨hmem, hhost, hpeer, hgroups⟩ := h
    exact .next ⟨hmem, cellsPut_wf bs s.hostMem a hhost, hpeer, hgroups⟩

theorem putEntry_wf {s : State} {core pos : Nat} {e : SBEntry} (h : MemoriesWf s) : MemoriesWf (putEntry s core pos e) := modTroupe_wf h

theorem dropEntry_wf {s : State} {core pos id : Nat} (h : MemoriesWf s) : MemoriesWf (dropEntry s core pos id) := modTroupe_wf h

theorem sendEntry_wf {s : State} {core pos : Nat} {t : Troupe} {e : SBEntry} (h : MemoriesWf s) :
    MemoriesWf (sendEntry s core pos t e) := by
  unfold sendEntry
  split
  · split
    · exact sendCard_wf (putEntry_wf h)
    · exact h
  extract_lets s1
  have hs1 : MemoriesWf s1 := putEntry_wf h
  split
  · exact postInvals_wf hs1
  · exact hs1

theorem execStoreBufferSend_wf {core pos : Nat} {s : State} (h : MemoriesWf s) : OutWf (execStoreBufferSend core pos s) := by
  unfold execStoreBufferSend
  split
  · exact .next h
  split
  · exact .next h
  split
  · exact .next (sendEntry_wf h)
  split
  next e1 => exact .next (sendEntry_wf (putEntry_wf ((renewEntry_wf h).of_eq e1)))
  next e2 =>
    have h1 := (renewEntry_wf h).of_eq e2
    split
    · exact .next h1
    · exact .next (send_wf (dropEntry_wf h1))

theorem giveReplies_wf {s : State} {core : Nat} {e : SBEntry} {out : Tab Word} (h : MemoriesWf s) :
    MemoriesWf (giveReplies s core e out) := by
  unfold giveReplies
  split
  · exact h
  split
  · exact h
  · exact setSymbol_wf h

theorem revokeEntry_wf {s : State} {core pos : Nat} {e : SBEntry} (h : MemoriesWf s) : MemoriesWf (revokeEntry s core pos e) := by
  unfold revokeEntry
  extract_lets s1
  have hs1 : MemoriesWf s1 := dropEntry_wf h
  split
  · exact send_wf hs1
  · exact foldl_wf (fun _ _ h1 => finishSymbol_wf (raiseFault_wf h1)) hs1

theorem performSent_wf {s : State} {core pos : Nat} {t : Troupe} {e : SBEntry} (h : MemoriesWf s) :
    MemoriesWf (performSent s core pos t e) := by
  unfold performSent
  extract_lets _ s1 s2 s3
  have hs1 : MemoriesWf s1 := by
    unfold s1
    split
    · exact noticePoison_wf h
    · exact h
  have hs2 : MemoriesWf s2 := coreRequest_wf hs1
  have hs3 : MemoriesWf s3.1 := performBuffered_wf (noteShadow_wf hs2)
  exact giveReplies_wf (dropEntry_wf hs3)

theorem ackEntry_wf {s : State} {core pos : Nat} {t : Troupe} {e : SBEntry} (h : MemoriesWf s) : MemoriesWf (ackEntry s core pos t e) := by
  unfold ackEntry
  split
  · exact h
  split
  · exact revokeEntry_wf h
  split
  · split
    · exact performSent_wf h
    · exact postInvals_wf h
  · exact performSent_wf h

theorem ackRemote_wf {s : State} {key id : Nat} (h : MemoriesWf s) : MemoriesWf (ackRemote s key id) := by
  unfold ackRemote
  split
  · exact h
  extract_lets _ s1
  have hs1 : MemoriesWf s1 := requestTo_wf (h.frame rfl)
  split
  · exact drainAgain_wf (h.frame rfl)
  split
  · exact send_wf (h.frame rfl)
  split
  · exact h
  · exact performBuffered_wf hs1

theorem execStoreAck_wf {core pos id : Nat} {s : State} (h : MemoriesWf s) : OutWf (execStoreAck core pos id s) := by
  unfold execStoreAck
  split
  · exact .next (ackRemote_wf h)
  split
  · exact .next h
  split
  · exact .next h
  split
  · exact .next h
  · exact .next (ackEntry_wf h)

theorem hostPoison_wf {s : State} {core : Nat} {l : Loc} (h : MemoriesWf s) : MemoriesWf (hostPoison s core l) := send_wf h

theorem hostStore_wf {s : State} {core pos : Nat} {t : Troupe} {e : SBEntry} (h : MemoriesWf s) :
    MemoriesWf (hostStore s core pos t e) := by
  unfold hostStore
  split
  · exact h
  extract_lets s1
  have hs1 : MemoriesWf s1 := noteShadow_wf (dropEntry_wf h)
  split
  · exact hostPoison_wf hs1
  · exact performBuffered_wf hs1

theorem hostReply_wf {s : State} {core sym : Nat} {y : Symbol} {lanes : List Nat} {bs : List Byte} (h : MemoriesWf s) :
    MemoriesWf (hostReply s core sym y lanes bs) := by
  unfold hostReply
  dsimp only
  split
  · split
    · exact h
    · exact setSymbol_wf h
  · split
    · split
      · exact h
      · exact setSymbol_wf h
    refine setSymbol_wf ?_
    split
    · exact h
    · exact setSymbol_wf h
  · exact h

theorem hostLoad_wf {s : State} {core sym : Nat} {y : Symbol} {t : Troupe} (h : MemoriesWf s) : MemoriesWf (hostLoad s core sym y t) := by
  unfold hostLoad
  extract_lets
  refine foldl_wf (fun _ _ h1 => ?_) h
  split
  · split
    · extract_lets s1 s2
      have hs1 : MemoriesWf s1 := by
        unfold s1
        split
        · exact hostPoison_wf h1
        · exact h1
      have hs2 : MemoriesWf s2.1 := readOwn_wf hs1
      exact hostReply_wf (noticePoison_wf hs2)
    · exact h1
  · exact h1

theorem execHostAccess_wf {core pos id : Nat} {s : State} (h : MemoriesWf s) : OutWf (execHostAccess core pos id s) := by
  unfold execHostAccess
  split
  · exact .next h
  split
  · exact .next (hostStore_wf h)
  split
  · exact .next (hostLoad_wf h)
  · exact .next h

/-! ## Page walks and migration (R385, R387, R391) -/

theorem execPageWalk_wf {core va : Nat} {write : Bool} {s : State} (h : MemoriesWf s) : OutWf (execPageWalk core va write s) := by
  unfold execPageWalk
  split
  · exact .next (walkFill_wf h)
  · exact .next h

theorem moveNames_wf {s : State} {f : Loc → Loc} (h : MemoriesWf s) : MemoriesWf (moveNames s f) := by
  unfold moveNames
  exact h.frame rfl

theorem copyFrame_wf {s : State} {old new size : Nat} (h : MemoriesWf s) : MemoriesWf (copyFrame s old new size) := by
  unfold copyFrame
  extract_lets inside rest mem bad
  obtain ⟨hmem, hhost, hpeer, hgroups⟩ := h
  refine ⟨?_, hhost, hpeer, hgroups⟩
  exact List.foldlRecOn (motive := fun m => memoryWf m = true) _ _ (memoryWf_filter _ hmem) fun m hm c _ => cellPut_wf _ _ _ hm

theorem recallLine_wf {s : State} {line : Nat} (h : MemoriesWf s) : MemoriesWf (recallLine s line) :=
  foldl_wf (fun _ _ h1 => giveUp_wf h1) (dropPeers_wf (collapseLine_wf h))

theorem startMove_wf {s : State} {die va a e frame : Nat} (h : MemoriesWf s) : MemoriesWf (startMove s die va a e frame) :=
  invalidatePage_wf (modDie_wf (setLeaf_wf h))

theorem finishMove_wf {s : State} {die va a e size frame : Nat} (h : MemoriesWf s) : MemoriesWf (finishMove s die va a e size frame) := by
  unfold finishMove
  extract_lets _ s1 s2 _ _ _ s3 _ s4
  have hs1 : MemoriesWf s1 := foldl_wf (fun _ _ h1 => recallLine_wf h1) h
  have hs2 : MemoriesWf s2 := copyFrame_wf hs1
  have hs3 : MemoriesWf s3 := moveNames_wf (setLeaf_wf hs2)
  clear_value s3
  have hs4 : MemoriesWf s4 := hs3.frame rfl
  exact invalidatePage_wf (modDie_wf hs4)

theorem goOnMove_wf {s : State} {die va frame : Nat} (h : MemoriesWf s) : MemoriesWf (goOnMove s die va frame) := by
  unfold goOnMove
  split
  · split
    · exact modDie_wf h
    split
    · exact h
    · exact finishMove_wf h
  · exact modDie_wf h

theorem execMigrationMove_wf {die va frame : Nat} {s : State} (h : MemoriesWf s) : OutWf (execMigrationMove die va frame s) := by
  unfold execMigrationMove
  split
  · exact .next (goOnMove_wf h)
  split
  · exact .next h
  split
  · exact .next (startMove_wf h)
  · exact .next h

/-! ## Triggers and the halts they ask for (R441, R444, R445) -/

theorem checkGroup_wf {s : State} {key : Nat} (h : MemoriesWf s) : MemoriesWf (checkGroup s key) := by
  unfold checkGroup
  split
  · exact h
  · exact foldl_wf (fun _ _ h1 => checkHalt_wf h1) h

theorem haltGroup_wf {s : State} {key : Nat} (h : MemoriesWf s) : MemoriesWf (haltGroup s key) := checkGroup_wf (requestHalt_wf h)

theorem armLatch_wf {s : State} {block due : Nat} (h : MemoriesWf s) : MemoriesWf (armLatch s block due) := by
  unfold armLatch
  exact h.frame rfl

theorem haltCore_wf {s : State} {core : Nat} (h : MemoriesWf s) : MemoriesWf (haltCore s core) := foldl_wf (fun _ _ h1 => haltGroup_wf h1) h

theorem takeTrigger_wf {s : State} {block n due : Nat} (h : MemoriesWf s) : MemoriesWf (takeTrigger s block n due) := by
  unfold takeTrigger
  extract_lets
  split
  · exact armLatch_wf h
  split
  · exact haltCore_wf h
  · exact h

theorem peerTrigger_wf {s : State} {n t0 : Nat} (h : MemoriesWf s) : MemoriesWf (peerTrigger s n t0) := by
  unfold peerTrigger
  split
  · exact foldl_wf (fun _ _ h1 => takeTrigger_wf h1) h
  · exact h

theorem noteReached_wf {s : State} {n t0 block : Nat} (h : MemoriesWf s) : MemoriesWf (noteReached s n t0 block) := by
  unfold noteReached
  exact h.frame rfl

theorem forwardTrigger_wf {s : State} {n t0 block : Nat} (h : MemoriesWf s) : MemoriesWf (forwardTrigger s n t0 block) := by
  unfold forwardTrigger
  split
  · exact h
  · exact foldl_wf (fun _ _ h1 => sendPacket_wf h1) h

/-! ## The steps of coming up (R473) -/

theorem deadPort_wf {s : State} {n : Nat} (h : MemoriesWf s) : MemoriesWf (deadPort s n) := blackBox_wf (setPort_wf h)

theorem readyDevice_wf {s : State} (h : MemoriesWf s) : MemoriesWf (readyDevice s) := by
  obtain ⟨-, hhost, hpeer, hgroups⟩ := h
  exact ⟨rfl, hhost, hpeer, hgroups⟩

theorem bootStep_wf {s : State} (h : MemoriesWf s) : MemoriesWf (bootStep s) := by
  unfold bootStep
  extract_lets
  split
  · exact h
  split
  · exact h.frame rfl
  split
  · exact h
  split
  · split <;> exact h.frame rfl
  split
  · exact h.frame rfl
  split
  · exact foldl_wf (fun _ _ h1 => deadPort_wf h1) (readyDevice_wf (h.frame rfl))
  · exact h

/-! ## The Reel (R410 to R425, R443, R451) -/

theorem setThrottle_wf {s : State} {die stop : Nat} {h : Throttle} (hs : MemoriesWf s) : MemoriesWf (setThrottle s die stop h) := by
  unfold setThrottle
  exact hs.frame rfl

theorem allotSlot_wf {s : State} {f : Flit} (h : MemoriesWf s) : ∀ r ∈ allotSlot s f, MemoriesWf r.1 := by
  unfold allotSlot
  split
  · exact forall_mem_some (P := fun r : State × Flit => MemoriesWf r.1) h
  · exact map_wf (P := fun _ => True) (fun _ _ => trivial) fun i _ => h.frame rfl

theorem setPorts_wf {s : State} {plane die stop at_ : Nat} {left : List Dir × Bool} (h : MemoriesWf s) :
    MemoriesWf (setPorts s plane die stop at_ left) := by
  unfold setPorts
  exact h.frame rfl

theorem execFlitInject_wf {plane die stop : Nat} {s : State} (h : MemoriesWf s) : OutWf (execFlitInject plane die stop s) := by
  unfold execFlitInject
  extract_lets +onlyGivenNames mine
  split
  · exact .next h
  · extract_lets +onlyGivenNames level now left f
    split
    · exact .next h
    split
    next s _ _ _ e _ =>
      have hs : MemoriesWf s := allotSlot_wf h _ e
      split
      · exact .next hs
      · extract_lets +onlyGivenNames next level q
        have hq : MemoriesWf q := setPorts_wf (setThrottle_wf hs)
        exact .next (hq.frame rfl)
    · exact .next h

theorem queueFlit_wf {s : State} {f : Flit} (h : MemoriesWf s) : MemoriesWf (queueFlit s f) := by
  unfold queueFlit
  exact h.frame rfl

theorem answer_wf {s : State} {f : Flit} {kind parts i : Nat} {bs : List Byte} (h : MemoriesWf s) :
    MemoriesWf (answer s f kind parts i bs) :=
  queueFlit_wf h

theorem answerParts_wf {s : State} {f : Flit} {kind parts : Nat} {bs : List Byte} (h : MemoriesWf s) :
    MemoriesWf (answerParts s f kind parts bs) :=
  foldl_wf (fun _ _ h1 => answer_wf h1) h

theorem setSlot_wf {s : State} {k : Nat} {m : ReelSlot} (h : MemoriesWf s) : MemoriesWf (setSlot s k m) := by
  unfold setSlot
  exact h.frame rfl

theorem freeReelSlot_wf {s : State} {k : Nat} (h : MemoriesWf s) : MemoriesWf (freeReelSlot s k) := by
  unfold freeReelSlot
  exact h.frame rfl

theorem landPart_wf {s : State} {f : Flit} (h : MemoriesWf s) : MemoriesWf (landPart s f) := by
  unfold landPart
  extract_lets
  split
  · exact h
  extract_lets
  split
  · exact setSlot_wf h
  split
  · exact freeReelSlot_wf h
  · exact sendPacket_wf (freeReelSlot_wf h)

theorem landMerge_wf {s : State} {f : Flit} {pkg : Nat} (h : MemoriesWf s) : MemoriesWf (landMerge s f pkg) := by
  unfold landMerge
  extract_lets
  split
  · split
    · exact setSlot_wf h
    extract_lets s1
    have hs1 : MemoriesWf s1 := takePartial_wf (freeReelSlot_wf h)
    split
    · exact hs1
    · exact addPoison_wf hs1
  · exact h

theorem notePeer_wf {s : State} {line pkg key : Nat} {pair : Option (Nat × Nat)} (h : MemoriesWf s) :
    MemoriesWf (notePeer s line pkg key pair) := by
  unfold notePeer
  exact h.frame rfl

theorem clearPlain_wf {s : State} {line : Nat} (h : MemoriesWf s) : MemoriesWf (clearPlain s line) :=
  dropPeers_wf (expelSharers_wf (foldl_wf (fun _ _ h1 => giveUp_wf h1) h))

theorem ejectRead_wf {s : State} {f : Flit} (h : MemoriesWf s) : MemoriesWf (ejectRead s f) := by
  unfold ejectRead
  extract_lets _ _ s1 s2
  have hs1 : MemoriesWf s1.1 := physicalRead_wf h
  have hs2 : MemoriesWf s2 := by
    unfold s2
    split
    · split
      · exact notePeer_wf hs1
      · exact hs1
    · exact hs1
  split
  · exact h
  · exact foldl_wf (fun _ _ h1 => answer_wf h1) hs2

theorem ejectAtomic_wf {s : State} {f : Flit} (h : MemoriesWf s) : MemoriesWf (ejectAtomic s f) := by
  unfold ejectAtomic
  extract_lets _ _ _ s1 s2
  have hs1 : MemoriesWf s1.1 := homeRead_wf h
  have hs2 : MemoriesWf s2 := homeWrite_wf hs1
  split
  · exact h
  split
  · exact answer_wf hs2
  · exact hs2

theorem ejectCoherence_wf {s : State} {f : Flit} (h : MemoriesWf s) : MemoriesWf (ejectCoherence s f) := by
  unfold ejectCoherence
  extract_lets _ _ _ s1 s2 s3
  have hs1 : MemoriesWf s1 := by
    unfold s1
    refine clearPlain_wf ?_
    split
    · exact collapseLine_wf h
    · exact h
  have hs2 : MemoriesWf s2 := by
    unfold s2
    split
    · exact notePeer_wf hs1
    · exact hs1
  have hs3 : MemoriesWf s3 := collapseLine_wf h
  split
  · refine foldl_wf (fun _ _ h1 => ?_) h
    split
    · exact receiveInval_wf h1
    · exact h1
  split
  · exact h
  split
  · exact answer_wf hs2
  · exact answerParts_wf hs3

theorem poisonFlit_wf {s : State} {f : Flit} (h : MemoriesWf s) : MemoriesWf (poisonFlit s f) := by
  unfold poisonFlit
  split
  · exact h
  · exact addPoison_wf h

theorem eject_wf {s : State} {f : Flit} (h : MemoriesWf s) : MemoriesWf (eject s f) := by
  unfold eject
  refine ite_wf (ejectRead_wf h) ?_
  refine ite_wf ?_ ?_
  · split
    · extract_lets s1
      have hs1 : MemoriesWf s1 := poisonFlit_wf (physicalWrite_wf h)
      split
      · exact answer_wf hs1
      · exact hs1
    · exact h
  · refine ite_wf (landMerge_wf h) (ite_wf (landPart_wf h) (ite_wf (poisonFlit_wf (ejectAtomic_wf h)) ?_))
    refine ite_wf ?_ ?_
    · split
      · exact landPart_wf h
      split
      · exact sendPacket_wf h
      · exact h
    · refine ite_wf (ejectCoherence_wf h) ?_
      split
      · split
        · exact h.frame rfl
        · exact h
      split
      · split
        · exact modDie_wf h
        · exact h
      split
      · exact peerTrigger_wf h
      split
      · exact send_wf h
      · exact h

theorem landDue_wf {s : State} {now : Nat} (h : MemoriesWf s) : MemoriesWf (landDue s now) := by
  unfold landDue
  extract_lets _ _ s1
  have hs1 : MemoriesWf s1 := h.frame rfl
  refine foldl_wf (fun _ _ h1 => ?_) hs1
  split
  · exact h1.frame rfl
  · exact eject_wf h1

theorem countDeflection_wf {s : State} {die stop : Nat} (h : MemoriesWf s) : MemoriesWf (countDeflection s die stop) := by
  unfold countDeflection
  exact setThrottle_wf h

theorem countCrossing_wf {s : State} {die : Nat} {d : Dir} {n : Nat} (h : MemoriesWf s) : MemoriesWf (countCrossing s die d n) := by
  unfold countCrossing
  split
  · exact h
  · exact h.frame rfl

theorem routeOne_wf {die stop : Nat} {a : State × List Dir × Bool} {f : Flit} (h : MemoriesWf a.1) :
    MemoriesWf (routeOne die stop a f).1 := by
  unfold routeOne
  split
  next s free port =>
    have hs : MemoriesWf s := h
    extract_lets put
    split
    · exact hs.frame rfl
    split
    · exact hs.frame rfl
    split
    · exact hs.frame rfl
    extract_lets q
    have hq : MemoriesWf q := by
      refine countCrossing_wf ?_
      split
      · exact countDeflection_wf hs
      · exact hs
    exact hq.frame rfl

theorem execFlitRoute_wf {plane die stop : Nat} {s : State} (h : MemoriesWf s) : OutWf (execFlitRoute plane die stop s) := by
  unfold execFlitRoute
  extract_lets
  split
  · exact .next h
  extract_lets _ s1 _ _ s2 s3
  have hs1 : MemoriesWf s1 := landDue_wf h
  have hs2 : MemoriesWf s2 := hs1.frame rfl
  have hs3 : MemoriesWf s3.1 := foldl_fst_wf (fun _ _ h1 => routeOne_wf h1) hs2
  split
  · exact .next h
  · exact .next (setPorts_wf hs3)

theorem execThrottleWindow_wf {die stop : Nat} {s : State} (h : MemoriesWf s) : OutWf (execThrottleWindow die stop s) := by
  unfold execThrottleWindow
  extract_lets
  split
  · exact .next (setThrottle_wf h)
  · exact .next h

theorem execMergeSlotRequest_wf {core line : Nat} {s : State} (h : MemoriesWf s) : OutWf (execMergeSlotRequest core line s) := by
  unfold execMergeSlotRequest
  extract_lets
  split
  · exact .next h
  split
  · exact .next h
  · exact .next (queueFlit_wf (h.frame rfl))

theorem noteEscalations_wf {before after : State} (hafter : MemoriesWf after) :
    MemoriesWf (noteEscalations before after) := by
  unfold noteEscalations
  refine foldl_wf (fun _ _ h1 => foldl_wf (fun _ _ h2 => ?_) h1) hafter
  split
  · exact blackBox_wf (modDie_wf h2)
  · exact h2

theorem execFabricTick_wf {s : State} (h : MemoriesWf s) : OutWf (execFabricTick s) := by
  unfold execFabricTick
  extract_lets flying groups
  obtain ⟨hmem, hhost, hpeer, hgroups⟩ := h
  refine .next (bootStep_wf (landDue_wf (noteEscalations_wf ⟨hmem, hhost, hpeer, fun key g hg => ?_⟩)))
  have hk : tabGet? groups key = some g := hg
  rw [tabGet?_tabMap] at hk
  obtain ⟨q, hq, rfl⟩ := Option.map_eq_some_iff.1 hk
  split
  · exact hgroups key q hq
  · exact hgroups key q hq

/-! ## Traffic across the edge of the package (R428 to R436, R479) -/

theorem rebuild_wf {s : State} {p : Packet} (h : MemoriesWf s) : MemoriesWf (rebuild s p) := by
  unfold rebuild
  exact h.frame rfl

theorem drainStream_wf {s : State} {k fuel : Nat} (h : MemoriesWf s) : MemoriesWf (drainStream s k fuel) := by
  induction fuel generalizing s with
  | zero => exact h
  | succ fuel ih =>
    unfold drainStream
    extract_lets
    split
    · exact h
    · exact ih (rebuild_wf (setStream_wf h))

theorem countRevoked_wf {s : State} {port : Nat} (h : MemoriesWf s) : MemoriesWf (countRevoked s port) := setPort_wf h

theorem execZethesPacketReceive_wf {p : Packet} {s : State} (h : MemoriesWf s) : OutWf (execZethesPacketReceive p s) := by
  unfold execZethesPacketReceive
  split
  · exact .next h
  extract_lets _ s1
  have hs1 : MemoriesWf s1 := by
    unfold s1
    split
    · exact countRevoked_wf h
    · exact h
  split
  · exact .next hs1
  · exact .next (drainStream_wf (setStream_wf hs1))

theorem execRevokedArrival_wf {port key : Nat} {s : State} (h : MemoriesWf s) : OutWf (execRevokedArrival port key s) := by
  unfold execRevokedArrival
  split
  · exact .next (countRevoked_wf h)
  · exact .next h

theorem killPort_wf {s : State} {n : Nat} (h : MemoriesWf s) : MemoriesWf (killPort s n) := by
  unfold killPort
  extract_lets
  refine foldl_wf (fun _ _ h1 => ?_) (deadPort_wf h)
  split
  · exact setStream_wf h1
  · exact emit_wf h1

theorem execPortDead_wf {port : Nat} {s : State} (h : MemoriesWf s) : OutWf (execPortDead port s) := by
  unfold execPortDead
  split
  · exact .next h
  · exact .next (killPort_wf h)

theorem execZethesReplay_wf {port n : Nat} {s : State} (h : MemoriesWf s) : OutWf (execZethesReplay port n s) := by
  unfold execZethesReplay
  extract_lets _ _ s1
  have hs1 : MemoriesWf s1 := setPort_wf h
  split
  · exact .next h
  refine .next ?_
  split
  · exact killPort_wf hs1
  · exact hs1

theorem acknowledge_wf {s : State} {k n : Nat} (h : MemoriesWf s) : MemoriesWf (acknowledge s k n) := by
  unfold acknowledge
  exact h.frame rfl

theorem failQp_wf {s : State} {k : Nat} {q : QueuePair} {why : Nat} (h : MemoriesWf s) : MemoriesWf (failQp s k q why) := by
  unfold failQp
  exact send_wf (h.frame rfl)

theorem popQueue_wf {s : State} {ptr : Word} (h : MemoriesWf s) : MemoriesWf (popQueue s ptr).1 := by
  unfold popQueue
  split
  · exact h
  next e1 =>
    split
    next e2 => exact (unitLoc_wf h).of_eq e2
    next e3 =>
      extract_lets s1
      have hs1 : MemoriesWf s1.1 := unitHome_wf ((unitLoc_wf h).of_eq e3)
      split
      · exact hs1
      split
      next e4 => exact (unitBytes_wf hs1).of_eq e4
      next e5 => exact homeWrite_wf ((unitBytes_wf hs1).of_eq e5)

theorem localBytes_wf {s : State} {w : List Word} (h : MemoriesWf s) : MemoriesWf (localBytes s w).1 := by
  unfold localBytes
  extract_lets
  split
  · exact unitBytes_wf h
  split
  · exact h
  · exact homeRead_wf h

theorem localStore_wf {s : State} {w : List Word} {bs : List Byte} (h : MemoriesWf s) : MemoriesWf (localStore s w bs).1 := by
  unfold localStore
  extract_lets
  split
  · exact unitStore_wf h
  split
  · exact h
  · exact homeWrite_wf h

theorem postWork_wf {s : State} {k : Nat} {q : QueuePair} {w : List Word} (h : MemoriesWf s) : MemoriesWf (postWork s k q w) := by
  unfold postWork
  extract_lets
  split
  · exact send_wf (h.frame rfl)
  split
  next e1 => exact failQp_wf ((localBytes_wf h).of_eq e1)
  next e2 => exact send_wf (((localBytes_wf h).of_eq e2).frame rfl)

theorem popWork_wf {s : State} {k : Nat} {q : QueuePair} {recv : Bool} (h : MemoriesWf s) : MemoriesWf (popWork s k q recv).1 := by
  unfold popWork
  split
  next e => exact (popQueue_wf h).of_eq e
  next s p e =>
    have hs : MemoriesWf s := (popQueue_wf h).of_eq e
    have hr : MemoriesWf (if p.toNat % 64 = 0 && bits p.toNat 63 60 = 0 then unitBytes s p 64 else (s, none)).1 := by
      split
      · exact unitBytes_wf hs
      · exact hs
    split
    next e => exact failQp_wf (hr.of_eq e)
    next e =>
      have ht := hr.of_eq e
      extract_lets w
      split
      · exact failQp_wf ht
      split
      · exact ht.frame rfl
      · exact postWork_wf ht

theorem execWorkRequestPop_wf {die qp : Nat} {s : State} (h : MemoriesWf s) : OutWf (execWorkRequestPop die qp s) := by
  unfold execWorkRequestPop
  extract_lets
  split
  · exact .next h
  split
  · exact .next h
  split
  next e1 => exact .next (whole_wf h ((popWork_wf h).of_eq e1))
  next e2 =>
    have h1 := (popWork_wf h).of_eq e2
    split
    · exact .next (whole_wf h h1)
    · exact .next (whole_wf h (popWork_wf h1))

theorem workWordLoc_wf {s : State} {w : List Word} (h : MemoriesWf s) : MemoriesWf (workWordLoc s w).1 := by
  unfold workWordLoc
  extract_lets
  split
  · exact h
  split
  · exact h
  split
  · exact unitLoc_wf h
  · exact h

theorem workArrival_wf {s : State} {w : List Word} {n : Nat} (h : MemoriesWf s) : MemoriesWf (workArrival s w n) := by
  unfold workArrival
  split
  next e1 => exact (workWordLoc_wf h).of_eq e1
  next e2 => exact ((workWordLoc_wf h).of_eq e2).frame rfl

theorem finishQp_wf {s : State} {k : Nat} (h : MemoriesWf s) : MemoriesWf (finishQp s k) := by
  unfold finishQp
  split
  · exact h
  split
  · exact h
  split
  · exact send_wf (unitStore_wf (h.frame rfl))
  · exact h

theorem execWorkCompletion_wf {die qp : Nat} {ending : WorkEnd} {s : State} (h : MemoriesWf s) :
    OutWf (execWorkCompletion die qp ending s) := by
  unfold execWorkCompletion
  extract_lets
  split
  · exact .next h
  split
  · exact .next h
  extract_lets _ s1 s2
  have hs1 : MemoriesWf s1 := h.frame rfl
  have hs2 : MemoriesWf s2.1 := by
    unfold s2
    split
    · exact localStore_wf hs1
    · exact hs1
  split
  · exact .next (finishQp_wf (failQp_wf h))
  split
  · exact .next (finishQp_wf (workArrival_wf hs2))
  · exact .next (finishQp_wf (failQp_wf hs2))

theorem execRdmaIncomingWrite_wf {die qp rkey addr : Nat} {bytes : List Byte} {s : State} (h : MemoriesWf s) :
    OutWf (execRdmaIncomingWrite die qp rkey addr bytes s) := by
  unfold execRdmaIncomingWrite
  split
  · exact .next (unitStore_wf h)
  · exact .next h

theorem execRdmaIncomingRead_wf {die qp rkey addr len : Nat} {s : State} (h : MemoriesWf s) :
    OutWf (execRdmaIncomingRead die qp rkey addr len s) := by
  unfold execRdmaIncomingRead
  split
  · split
    next e1 => exact .next (send_wf ((unitBytes_wf h).of_eq e1))
    next e2 => exact .next (whole_wf h ((unitBytes_wf h).of_eq e2))
  · exact .next h

theorem execPriorityFlowControl_wf {die prio : Nat} {pause : Bool} {s : State} (h : MemoriesWf s) :
    OutWf (execPriorityFlowControl die prio pause s) := by
  unfold execPriorityFlowControl
  split
  · exact .next (modDie_wf h)
  · exact .next h

theorem execCongestionNotification_wf {die qp : Nat} {s : State} (h : MemoriesWf s) : OutWf (execCongestionNotification die qp s) := by
  unfold execCongestionNotification
  extract_lets
  split
  · exact .next h
  · exact .next (h.frame rfl)

end Sys2Proof.Machine
end

section
/-!
PROOFS. Debugging, errors and power keep the memories canonical.
-/

namespace Sys2Proof.Machine

/-! ## Debugging (R441 to R451, R478) -/

theorem nameGrid_wf {s : State} {ticket : Nat} (h : MemoriesWf s) : MemoriesWf (nameGrid s ticket) := by
  unfold nameGrid
  exact h.frame rfl

theorem resumeGroup_wf {s : State} {key : Nat} (h : MemoriesWf s) : MemoriesWf (resumeGroup s key) := by
  unfold resumeGroup
  split
  · exact h
  · exact settleRegroup_wf (modGroup_wf (foldl_wf (fun _ _ h1 => modTroupe_wf h1) h) (fun _ => rfl))

theorem execBrksetSet_wf {value : Nat} {s : State} (h : MemoriesWf s) : OutWf (execBrksetSet value s) := by
  unfold execBrksetSet
  split
  · exact .next (modGrid_wf h)
  · exact .next h

theorem execBrksetClear_wf {value : Nat} {s : State} (h : MemoriesWf s) : OutWf (execBrksetClear value s) := by
  unfold execBrksetClear
  split
  · exact .next h
  · exact .next (modGrid_wf h)

theorem execDumpreq_wf {base : Nat} {s : State} (h : MemoriesWf s) : OutWf (execDumpreq base s) := by
  unfold execDumpreq
  extract_lets _ _ s1
  have hs1 : MemoriesWf s1.1 := saveGroup_wf h
  split
  · exact .next (send_wf h)
  split
  · exact .next (send_wf h)
  · exact .next (send_wf hs1)

theorem execTriggerReceive_wf {block trigger time : Nat} {peer : Bool} {s : State} (h : MemoriesWf s) :
    OutWf (execTriggerReceive block trigger time peer s) := by
  unfold execTriggerReceive
  split
  · exact .next h
  split
  · exact .next (takeTrigger_wf h)
  split
  · exact .next (takeTrigger_wf (forwardTrigger_wf (noteReached_wf h)))
  · exact .next h

theorem execTriggerSend_wf {t : Nat} {s : State} (h : MemoriesWf s) : OutWf (execTriggerSend t s) := by
  unfold execTriggerSend
  split
  · exact .next (raiseTrigger_wf h)
  · exact .next h

theorem execSnapshotLatch_wf {block : Nat} {s : State} (h : MemoriesWf s) : OutWf (execSnapshotLatch block s) := by
  unfold execSnapshotLatch
  split
  · exact .next h
  split
  · exact .next h
  split
  · exact .next (h.frame rfl)
  · exact .next h

theorem execSnapshotRead_wf {block : Nat} {s : State} (h : MemoriesWf s) : OutWf (execSnapshotRead block s) := by
  unfold execSnapshotRead
  split
  · exact .next h
  · exact .next (h.frame rfl)

theorem sampleTroupe_wf {s : State} {core pos : Nat} {t : Troupe} (h : MemoriesWf s) : MemoriesWf (sampleTroupe s core pos t) :=
  traceRecord_wf h

theorem execTraceSample_wf {core : Nat} {s : State} (h : MemoriesWf s) : OutWf (execTraceSample core s) := by
  unfold execTraceSample
  extract_lets _ s1
  have hs1 : MemoriesWf s1 := modCore_wf h
  split
  · exact .next h
  split
  · exact .next hs1
  extract_lets s2
  have hs2 : MemoriesWf s2 := modCore_wf hs1
  split
  · exact .next (sampleTroupe_wf hs2)
  · exact .next hs2

theorem execHangWatchdogExpiry_wf {ticket group : Nat} {s : State} (h : MemoriesWf s) : OutWf (execHangWatchdogExpiry ticket group s) := by
  unfold execHangWatchdogExpiry
  extract_lets
  split
  · exact .next h
  extract_lets
  split
  · exact .next h
  · exact execGangKill_wf (raiseTrigger_wf h)

/-! ## Errors and background work (R452, R453, R458, R459) -/

theorem execTimingRepeat_wf {die : Nat} {s : State} (h : MemoriesWf s) : OutWf (execTimingRepeat die s) := by
  unfold execTimingRepeat
  split
  · exact .next h
  · exact .next (modDie_wf h)

theorem countCorrected_wf {s : State} {die : Nat} (h : MemoriesWf s) : MemoriesWf (countCorrected s die) := by
  unfold countCorrected
  extract_lets s1
  have hs1 : MemoriesWf s1 := modDie_wf h
  split
  · exact blackBox_wf hs1
  · exact hs1

theorem endAllGrids_wf {s : State} (h : MemoriesWf s) : MemoriesWf (endAllGrids s) := foldl_wf (fun _ _ h1 => endGrid_wf h1) h

theorem deviceError_wf {s : State} (h : MemoriesWf s) : MemoriesWf (deviceError s) := by
  unfold deviceError
  extract_lets s1 s2 s3
  have hs1 : MemoriesWf s1 := endAllGrids_wf h
  have hs2 : MemoriesWf s2 := foldl_wf (fun _ _ h1 => discardGroup_wf h1) hs1
  have hs3 : MemoriesWf s3 := raiseTrigger_wf hs2
  exact send_wf (hs3.frame rfl)

theorem execEccError_wf {e : EccEvent} {s : State} (h : MemoriesWf s) : OutWf (execEccError e s) := by
  unfold execEccError
  split
  · exact .next (countCorrected_wf h)
  · exact execGangKill_wf h
  · exact .next (addPoison_wf h)
  · split
    · exact .next h
    · exact .next (h.frame rfl)
  · exact .next (deviceError_wf h)

theorem execPatrolScrub_wf {die which : Nat} {s : State} (h : MemoriesWf s) : OutWf (execPatrolScrub die which s) := by
  unfold execPatrolScrub
  split
  · exact .next h
  · exact .next (modDie_wf h)

theorem execDramCalibration_wf {die _channel : Nat} {s : State} (h : MemoriesWf s) : OutWf (execDramCalibration die _channel s) := by
  unfold execDramCalibration
  split
  · exact .next h
  · exact .next (modDie_wf h)

theorem execMigrationAccounting_wf {page : Nat} {s : State} (h : MemoriesWf s) : OutWf (execMigrationAccounting page s) := by
  unfold execMigrationAccounting
  split
  · exact .next h
  split
  · exact .next h
  · exact .next (h.frame rfl)

theorem execCounterHalving_wf {die : Nat} {s : State} (h : MemoriesWf s) : OutWf (execCounterHalving die s) := by
  unfold execCounterHalving
  extract_lets
  split
  · exact .next h
  · exact .next (modDie_wf (h.frame rfl))

theorem execTelemetry_wf {die stop : Nat} {s : State} (h : MemoriesWf s) : OutWf (execTelemetry die stop s) := by
  unfold execTelemetry
  split
  · exact .next h
  extract_lets _ s1
  have hs1 : MemoriesWf s1 := modDie_wf h
  exact .next (hs1.frame rfl)

/-! ## Start, attestation, reset and power (R473 to R481) -/

theorem blank_wf {s : State} (h : MemoriesWf s) : MemoriesWf (blank s) := by
  obtain ⟨-, hhost, hpeer, -⟩ := h
  exact ⟨rfl, hhost, hpeer, nofun⟩

theorem startDevice_wf {s : State} (h : MemoriesWf s) : MemoriesWf (startDevice s) := by
  unfold startDevice
  exact h.frame rfl

theorem execPowerOn_wf {s : State} (h : MemoriesWf s) : OutWf (execPowerOn s) := by
  unfold execPowerOn
  split
  · exact .next h
  · exact .next (startDevice_wf (blank_wf h))

theorem execFirmwareImage_wf {bytes : List Byte} {sig : Nat} {trims : Bool} {dead : List Nat} {s : State} (h : MemoriesWf s) :
    OutWf (execFirmwareImage bytes sig trims dead s) := by
  unfold execFirmwareImage
  split
  · exact .next h
  · exact .next (h.frame rfl)

theorem execAttestationRequest_wf {nonce : Nat} {s : State} (h : MemoriesWf s) : OutWf (execAttestationRequest nonce s) := by
  unfold execAttestationRequest
  split
  · exact .next h
  · exact .next (send_wf h)

theorem execDeviceReset_wf {s : State} (h : MemoriesWf s) : OutWf (execDeviceReset s) := by
  unfold execDeviceReset
  split
  · exact .next h
  extract_lets s1 s2
  have hs1 : MemoriesWf s1 := foldl_wf (fun _ _ h1 => blackBox_wf h1) (endAllGrids_wf h)
  have hs2 : MemoriesWf s2 := blank_wf hs1
  exact .next (startDevice_wf (hs2.frame rfl))

theorem execPowerOff_wf {s : State} (h : MemoriesWf s) : OutWf (execPowerOff s) := by
  unfold execPowerOff
  split
  · exact .next (blank_wf (endAllGrids_wf h))
  · exact .next h

theorem execPowerWindow_wf {watts heldPct : Nat} {s : State} (h : MemoriesWf s) : OutWf (execPowerWindow watts heldPct s) := by
  unfold execPowerWindow
  split
  · exact .next h
  · exact .next (h.frame rfl)

theorem execThermalSample_wf {celsius : Nat} {s : State} (h : MemoriesWf s) : OutWf (execThermalSample celsius s) := by
  unfold execThermalSample
  split
  · exact .next h
  split
  · exact .next (blank_wf h)
  · exact .next (h.frame rfl)

end Sys2Proof.Machine
end

section
/-!
PROOFS. The lane instructions, loads and stores, and the management registers keep the memories canonical.
-/

namespace Sys2Proof.Machine

/-! ## Integer lane instructions (R179 to R196) -/

theorem binary_wf {s : State} {f : FA} {op : Nat → Nat → Nat → Nat} (h : MemoriesWf s) : OutWf (binary s f op) :=
  inClause_wf (fun _ => use_wf h (fun _ _ h1 => done_wf h1))

theorem unary_wf {s : State} {f : FA} {op : Nat → Nat → Nat} (h : MemoriesWf s) : OutWf (unary s f op) :=
  inClause_wf (fun _ => use_wf h (fun _ _ h1 => done_wf h1))

theorem compose_wf {s : State} {x : Ctx} {n : Nat} {d : Operand} {ops : List Operand} {r : Reg} {g : Nat → Word × Word → Word × Word}
    (h : MemoriesWf s) : OutWf (compose s x n d ops r g) :=
  done_wf h

theorem binaryFwd_wf {s : State} {f : FA} {op : Nat → Nat → Nat → Nat} {ga gb : Option (Word → Word × Word → Word × Word)}
    (h : MemoriesWf s) : OutWf (binaryFwd s f op ga gb) := by
  unfold binaryFwd
  refine inClause_wf fun _ => ?_
  split
  · split
    · exact compose_wf h
    · exact binary_wf h
  · split
    · exact compose_wf h
    · exact binary_wf h
  · exact binary_wf h

theorem execAddi_wf {f : FB} {s : State} (h : MemoriesWf s) : OutWf (execAddi f s) := by
  unfold execAddi
  refine inClause_wf fun _ => ?_
  extract_lets
  split
  · exact compose_wf h
  · exact use_wf h fun _ _ h1 => done_wf h1

theorem execBitNeg_wf {f : FA} {s : State} (h : MemoriesWf s) : OutWf (execBitNeg f s) := by
  unfold execBitNeg
  refine inClause_wf fun _ => ?_
  split
  · exact compose_wf h
  · exact unary_wf h

theorem execLea_wf {f : FX} {s : State} (h : MemoriesWf s) : OutWf (execLea f s) := by
  unfold execLea
  refine inClause_wf fun _ => ?_
  extract_lets
  split
  · exact compose_wf h
  · exact compose_wf h
  · exact use_wf h fun _ _ h1 => done_wf h1

theorem divide_wf {s : State} {f : FX} {op : Nat → Nat → Nat → Nat} (h : MemoriesWf s) : OutWf (divide s f op) :=
  inClause_wf (fun _ => use_wf h (fun _ _ h1 => done_wf h1))

theorem compare_wf {s : State} {f : FC} {cond : Nat → Nat → Nat → Bool} (h : MemoriesWf s) : OutWf (compare s f cond) :=
  inClause_wf (fun _ => use_wf h (fun _ _ h1 => done_wf h1))

theorem predOp_wf {s : State} {f : FC} {op : Bool → Bool → Bool} (h : MemoriesWf s) : OutWf (predOp s f op) :=
  inClause_wf (fun _ => done_wf h)

/-! ## Floating-point lane instructions (R197 to R213) -/

theorem fpInstr_wf {s : State} {f : FX} {ops : List Operand} {g : Ctx → FFmt → Nat → Nat → Nat → Nat × Nat} (h : MemoriesWf s) :
    OutWf (fpInstr s f ops g) :=
  inClause_wf (fun _ => use_wf h (fun _ _ h1 => done_wf h1))

theorem fpChain_wf {s : State} {f : FX} {ka kb : ChainKind} {ops : List Operand} (h : MemoriesWf s) : OutWf (fpChain s f ka kb ops) := by
  unfold fpChain
  refine inClause_wf fun _ => ?_
  split
  · exact done_wf h
  · exact use_wf h fun _ _ h1 => done_wf h1

theorem signOp_wf {s : State} {f : FX} {op : Bool → Bool → Bool} (h : MemoriesWf s) : OutWf (signOp s f op) :=
  inClause_wf (fun _ => use_wf h (fun _ _ h1 => done_wf h1))

theorem fcompare_wf {s : State} {f : FC} {quietOnly : Bool} {cond : FFmt → Nat → Nat → Bool} (h : MemoriesWf s) :
    OutWf (fcompare s f quietOnly cond) :=
  inClause_wf (fun _ => use_wf h (fun _ _ h1 => done_wf h1))

theorem approxInstr_wf {s : State} {f : FX} {fn : Nat} (h : MemoriesWf s) : OutWf (approxInstr s f fn) := fpInstr_wf h

theorem cvtInstr_wf {s : State} {f : FX} {src : View} {wd : Nat} {g : Ctx → Nat → Nat → Nat → Nat × Nat} (h : MemoriesWf s) :
    OutWf (cvtInstr s f src wd g) :=
  inClause_wf (fun _ => use_wf h (fun _ _ h1 => done_wf h1))

/-! ## Crossbar instructions (R214 to R222) -/

theorem shuffle_wf {s : State} {f : FX} {src : Nat → Nat → Nat → Option Nat} (h : MemoriesWf s) : OutWf (shuffle s f src) :=
  inClause_wf (fun _ => use_wf h (fun _ _ h1 => done_wf h1))

theorem voteResult_wf {s : State} {x : Ctx} {f : FX} {b : Bool} (h : MemoriesWf s) : OutWf (voteResult s x f b) := done_wf h

theorem reduce_wf {s : State} {f : FX} {scan fp : Bool} {c : Ctx → Combine} (h : MemoriesWf s) : OutWf (reduce s f scan fp c) :=
  inClause_wf (fun _ => use_wf h (fun _ _ h1 => done_wf h1))

/-! ## Loads, stores, spill, fill, bind and fences (R134 to R136, R347 to R353, R374 to R377) -/

theorem checkDeferred_wf {s : State} {x : Ctx} {f : FM} {r : Reg} {size : Nat} (h : MemoriesWf s) : OutWf (checkDeferred s x f r size) := by
  unfold checkDeferred
  exact checked_wf (reach_wf h)

theorem execLd_wf {f : FM} {s : State} (h : MemoriesWf s) : OutWf (execLd f s) := by
  unfold execLd
  refine inClause_wf fun _ => ?_
  extract_lets
  split
  · exact done_wf h
  split
  · split
    · exact checkDeferred_wf h
    · exact done_wf (takeSymbol_wf h)
  refine use_wf h fun _ _ h1 => ?_
  extract_lets _ _ _ _ s1
  have hs1 : MemoriesWf s1.1 := takeSymbol_wf h1
  split
  · exact checked_wf (reach_wf h1)
  · exact done_wf hs1

theorem pairInline_wf {s : State} {x : Ctx} {f : FM} {size : Nat} {k : State → List Byte → Out} (h : MemoriesWf s)
    (hk : ∀ a b, MemoriesWf a → OutWf (k a b)) : OutWf (pairInline s x f size k) := by
  unfold pairInline
  split
  · exact hk _ _ h
  split
  · exact hk _ _ h
  refine settle_wf h fun _ _ h1 => ?_
  split
  · exact waitHere_wf h1
  extract_lets s1 s2
  have hs1 : MemoriesWf s1.1 := readOwn_wf h1
  have hs2 : MemoriesWf s2 := noticePoison_wf hs1
  refine hk _ _ ?_
  split
  · exact acquireObjects_wf hs2
  · exact hs2

theorem execLd2_wf {f : FM} {s : State} (h : MemoriesWf s) : OutWf (execLd2 f s) := by
  unfold execLd2
  refine inClause_wf fun _ => ?_
  extract_lets
  split
  · exact done_wf h
  refine use_wf h fun _ _ h1 => ?_
  extract_lets
  split
  · exact checked_wf (reach_wf h1)
  refine pairInline_wf h1 fun _ _ h2 => ?_
  split
  · exact done_wf h2
  · exact done_wf (takeSymbol_wf (takeSymbol_wf h2))

theorem execLdk_wf {f : FM} {s : State} (h : MemoriesWf s) : OutWf (execLdk f s) := by
  unfold execLdk
  refine inClause_wf fun _ => ?_
  extract_lets
  split
  · exact done_wf h
  refine use_wf h fun _ _ h1 => ?_
  extract_lets
  split
  · exact checked_wf (reachLow_wf h1 (fun _ h2 => reach_wf h2))
  split
  · exact done_wf h1
  refine settle_wf h1 fun _ _ h3 => ?_
  split
  · exact done_wf (acquireObjects_wf (noticePoison_wf (readOwn_wf h3)))
  · exact waitHere_wf h3

theorem storeLanes_wf {f : FM} {s : State} {ops : List Operand} {size : Nat} {bytes : State → Ctx → Nat → List Byte} (h : MemoriesWf s) :
    OutWf (storeLanes f s ops size bytes) := by
  unfold storeLanes
  refine inClause_wf fun _ => ?_
  split
  · exact done_wf h
  refine use_wf h fun _ _ h1 => ?_
  extract_lets
  split
  · exact checked_wf (reach_wf h1)
  · exact performStores_wf h1

theorem execStk_wf {f : FM} {s : State} (h : MemoriesWf s) : OutWf (execStk f s) := by
  unfold execStk
  refine inClause_wf fun _ => ?_
  extract_lets
  split
  · exact done_wf h
  refine use_wf h fun _ _ h1 => ?_
  split
  · exact checked_wf (reachLow_wf h1 (fun _ h2 => reach_wf h2))
  · exact performStores_wf h1

theorem prefetch_wf {s : State} {core : Nat} {l : Loc} (h : MemoriesWf s) : MemoriesWf (prefetch s core l) := by
  unfold prefetch
  split
  · exact h
  split
  · split
    · exact h
    · exact loadSector_wf h
  · exact loadSector_wf h

theorem execPf_wf {f : FM} {s : State} (h : MemoriesWf s) : OutWf (execPf f s) := by
  unfold execPf
  refine inClause_wf fun _ => ?_
  split
  · exact done_wf h
  refine use_wf h fun _ _ h1 => ?_
  extract_lets
  split
  · exact done_wf (reach_wf h1)
  split
  · exact done_wf (foldl_wf (fun _ _ h2 => prefetch_wf h2) h1)
  · exact waitHere_wf h1

theorem lineControl_wf {fn : Nat} {f : FM} {s : State} (h : MemoriesWf s) : OutWf (lineControl fn f s) := by
  unfold lineControl
  refine inClause_wf fun _ => ?_
  split
  · exact done_wf h
  refine use_wf h fun _ _ h1 => ?_
  extract_lets
  split
  · exact checked_wf (reach_wf h1)
  · exact performOps_wf h1

theorem reachImage_wf {s : State} {x : Ctx} {kind : Access} {b : Nat} {ptr : Word} {len : Nat} (h : MemoriesWf s) :
    MemoriesWf (reachImage s x kind b ptr len).st := by
  unfold reachImage
  split
  · exact h
  · exact reachRange_wf h

theorem execSpill_wf {f : FM} {s : State} (h : MemoriesWf s) : OutWf (execSpill f s) := by
  unfold execSpill
  refine inClause_wf fun _ => ?_
  split
  · exact done_wf h
  refine use_wf h fun _ _ h1 => ?_
  extract_lets
  split
  · exact checked_wf (reachLow_wf h1 (fun _ h2 => reachImage_wf h2))
  · exact performStores_wf h1

theorem execFill_wf {f : FM} {s : State} (h : MemoriesWf s) : OutWf (execFill f s) := by
  unfold execFill
  refine inClause_wf fun _ => ?_
  split
  · exact done_wf h
  refine use_wf h fun _ _ h1 => ?_
  extract_lets _ _ _ s1
  have hs1 : MemoriesWf s1.1 := takeSymbol_wf h1
  split
  · exact checked_wf (reachLow_wf h1 (fun _ h2 => reachImage_wf h2))
  · exact done_wf hs1

theorem requestBind_wf {f : FM} {s : State} {unbind : Bool} {ops : List Operand} (h : MemoriesWf s) :
    OutWf (requestBind f s unbind ops) := by
  unfold requestBind
  refine inClause_wf fun _ => ?_
  split
  · exact done_wf h
  refine use_wf h fun _ _ h1 => ?_
  split <;> exact done_wf h1

theorem fenceHere_wf {s : State} {ready : Ctx → Bool} {applies : Bool} (h : MemoriesWf s) : OutWf (fenceHere s ready applies) := by
  unfold fenceHere
  refine inClause_wf fun _ => ?_
  split
  · exact done_wf h
  refine afterDeferreds_wf h ?_
  split
  · refine done_wf ?_
    split
    · exact applyInvals_wf h
    · exact h
  · exact waitHere_wf h

/-! ## Management registers and queue-pair commands (R321, R346, R388, R407, R432, R478 to R480) -/

theorem putCoreReg_wf {s : State} {off v : Nat} (h : MemoriesWf s) : MemoriesWf (putCoreReg s off v) := by
  unfold putCoreReg
  extract_lets
  split
  · exact storeCsr_wf h
  split
  · exact storeCsr_wf h
  split
  · exact storeCsr_wf h
  · exact h

theorem putReg_wf {s : State} {off v : Nat} (h : MemoriesWf s) : MemoriesWf (putReg s off v) := by
  unfold putReg
  extract_lets
  refine ite_wf h (ite_wf (h.frame rfl) (ite_wf (h.frame rfl) (ite_wf (h.frame rfl) (ite_wf (h.frame rfl) (ite_wf (h.frame rfl) ?_)))))
  split
  · exact modDie_wf h
  split
  · exact h.frame rfl
  split
  · exact h.frame rfl
  split
  · exact putCoreReg_wf h
  · exact h

theorem dropFenced_wf {s : State} {key : Nat} (h : MemoriesWf s) : MemoriesWf (dropFenced s key) := by
  unfold dropFenced
  extract_lets _ _ _ _ _ s1 _ s2
  have hs1 : MemoriesWf s1 := foldl_wf (fun _ _ h1 => dropLine_wf (h1.frame rfl)) h
  have hs2 : MemoriesWf s2 := hs1.frame rfl
  exact foldl_wf (fun _ _ h2 => send_wf h2) hs2

theorem endKeyJobs_wf {s : State} {key : Nat} (h : MemoriesWf s) : MemoriesWf (endKeyJobs s key) :=
  foldl_wf (fun _ _ h1 => endRevoked_wf h1) h

theorem dropKeyPackets_wf {s : State} {key : Nat} (h : MemoriesWf s) : MemoriesWf (dropKeyPackets s key) := by
  unfold dropKeyPackets
  exact h.frame rfl

theorem execKeyRevoke_wf {key : Nat} {s : State} (h : MemoriesWf s) : OutWf (execKeyRevoke key s) := by
  unfold execKeyRevoke
  split
  · exact .next h
  extract_lets _ s1 s2
  have hs1 : MemoriesWf s1 := h.frame rfl
  have hs2 : MemoriesWf s2 := foldl_wf (fun _ _ h1 => blackBox_wf h1) hs1
  exact .next (dropKeyPackets_wf (dropFenced_wf (endKeyJobs_wf hs2)))

theorem execTlbinvAll_wf {s : State} (h : MemoriesWf s) : OutWf (execTlbinvAll s) := by
  unfold execTlbinvAll
  split
  · exact .next (invalidateAll_wf h)
  · exact .next h

theorem execTlbinvPage_wf {ptr : Nat} {s : State} (h : MemoriesWf s) : OutWf (execTlbinvPage ptr s) := by
  unfold execTlbinvPage
  split
  · exact .next h
  split
  · exact .next (invalidatePage_wf h)
  · exact .next h

theorem execZretrain_wf {port : Nat} {s : State} (h : MemoriesWf s) : OutWf (execZretrain port s) := by
  unfold execZretrain
  split
  · exact .next h
  extract_lets _ s1 _ s2
  have hs1 : MemoriesWf s1 := setPort_wf h
  have hs2 : MemoriesWf s2 := hs1.frame rfl
  exact .next (foldl_wf (fun _ _ h1 => pump_wf h1) hs2)

theorem answerCommand_wf {s : State} {ptr : Nat} {c : Command} {status : Nat} {result : Option (Nat × Nat)} (h : MemoriesWf s) :
    MemoriesWf (answerCommand s ptr c status result) := by
  unfold answerCommand
  extract_lets s1 s2
  have hs1 : MemoriesWf s1 := unitStore_wf h
  have hs2 : MemoriesWf s2 := by
    unfold s2
    split
    · exact unitStore_wf hs1
    · exact hs1
  exact send_wf hs2

theorem queueCommand_wf {s : State} {ptr code : Nat} {k : State → Command → Out} (h : MemoriesWf s)
    (hk : ∀ a b, MemoriesWf a → OutWf (k a b)) : OutWf (queueCommand s ptr code k) := by
  unfold queueCommand
  split
  · exact .next h
  split
  next e1 => exact .next (whole_wf h ((unitBytes_wf h).of_eq e1))
  next e2 =>
    have h1 := (unitBytes_wf h).of_eq e2
    extract_lets
    split
    · exact .next (answerCommand_wf h1)
    split
    · exact .next h1
    split
    · exact .next (answerCommand_wf h1)
    · exact hk _ _ h1

theorem execQpCreate_wf {ptr : Nat} {s : State} (h : MemoriesWf s) : OutWf (execQpCreate ptr s) := by
  unfold execQpCreate
  refine queueCommand_wf h fun _ _ h1 => ?_
  extract_lets
  split
  · exact .next (answerCommand_wf h1)
  split
  · exact .next (answerCommand_wf h1)
  · exact .next (answerCommand_wf (h1.frame rfl))

theorem execQpConnect_wf {ptr : Nat} {s : State} (h : MemoriesWf s) : OutWf (execQpConnect ptr s) := by
  unfold execQpConnect
  refine queueCommand_wf h fun _ _ h1 => ?_
  extract_lets
  split
  · exact .next (answerCommand_wf h1)
  split
  · exact .next (answerCommand_wf h1)
  · exact .next (answerCommand_wf (h1.frame rfl))

theorem execRegionRegister_wf {ptr : Nat} {s : State} (h : MemoriesWf s) : OutWf (execRegionRegister ptr s) := by
  unfold execRegionRegister
  refine queueCommand_wf h fun _ _ h1 => ?_
  extract_lets
  split
  · exact .next (answerCommand_wf h1)
  split
  · exact .next (answerCommand_wf h1)
  · exact .next (answerCommand_wf (h1.frame rfl))

theorem execRegionDeregister_wf {ptr : Nat} {s : State} (h : MemoriesWf s) : OutWf (execRegionDeregister ptr s) := by
  unfold execRegionDeregister
  refine queueCommand_wf h fun _ _ h1 => ?_
  extract_lets
  split
  · exact .next (answerCommand_wf h1)
  · exact .next (answerCommand_wf (h1.frame rfl))

theorem execQpDestroy_wf {ptr : Nat} {s : State} (h : MemoriesWf s) : OutWf (execQpDestroy ptr s) := by
  unfold execQpDestroy
  refine queueCommand_wf h fun _ _ h1 => ?_
  extract_lets
  split
  · exact .next (answerCommand_wf h1)
  · exact .next (finishQp_wf (h1.frame rfl))

theorem queuePairCommand_wf {ptr : Nat} {s : State} (h : MemoriesWf s) : OutWf (queuePairCommand ptr s) := by
  unfold queuePairCommand
  split
  · exact execQpCreate_wf h
  extract_lets
  split
  · exact execQpConnect_wf h
  split
  · exact execRegionRegister_wf h
  split
  · exact execRegionDeregister_wf h
  split
  · exact execQpDestroy_wf h
  · exact execQpCreate_wf h

theorem debugCommand_wf {v : Nat} {s : State} (h : MemoriesWf s) : OutWf (debugCommand v s) := by
  unfold debugCommand
  extract_lets
  split
  · exact .next (modGrid_wf (nameGrid_wf h))
  split
  · exact .next (modGrid_wf (nameGrid_wf h))
  split
  · exact .next (haltGroup_wf (nameGrid_wf h))
  split
  · exact .next (resumeGroup_wf (nameGrid_wf h))
  · exact .next h

theorem writeOnly_wf {s : State} {off v : Nat} (h : MemoriesWf s) : OutWf (writeOnly s off v) := by
  unfold writeOnly
  refine .ite (.next h) ?_
  refine .ite ?_ ?_
  · split
    · exact execPowerOff_wf h
    split
    · exact execDeviceReset_wf h
    · exact .next h
  · refine .ite (execLaunchDoorbell_wf h) ?_
    refine .ite ?_ ?_
    · split
      · exact execKeyRevoke_wf h
      · exact .next (h.frame rfl)
    · refine .ite ?_ ?_
      · split
        · exact execTlbinvAll_wf h
        · exact execTlbinvPage_wf h
      · refine .ite (execZretrain_wf h) (.ite (execTraprst_wf h) (.ite (debugCommand_wf h) ?_))
        split
        · split
          · exact execBrksetSet_wf h
          · exact execBrksetClear_wf h
        split
        · exact execDumpreq_wf h
        split
        · exact queuePairCommand_wf h
        split
        · exact execTriggerSend_wf h
        · exact .next h

theorem execManagementRegisterWrite_wf {offset value : Nat} {s : State} (h : MemoriesWf s) :
    OutWf (execManagementRegisterWrite offset value s) := by
  unfold execManagementRegisterWrite
  split
  · exact writeOnly_wf (putReg_wf h)
  · exact .next h

end Sys2Proof.Machine
end

section
/-!
PROOFS. A step keeps the memories canonical: the moves it can make, each by the law of its operation.
-/

namespace Sys2Proof.Machine

/-! ## The moves between clauses (R30, R36, R484) -/

theorem tick_wf {s : State} (h : MemoriesWf s) : MemoriesWf (tick s) := by
  unfold tick
  exact h.frame rfl

theorem illegalWord_wf {s : State} {x : Ctx} (h : MemoriesWf s) : MemoriesWf (illegalWord s x) := squash_wf h

theorem settleYield_wf {s : State} {core pos : Nat} {t : Troupe} (h : MemoriesWf s) : MemoriesWf (settleYield s core pos t) := by
  unfold settleYield
  extract_lets
  split
  · exact h
  · exact modTroupe_wf h

theorem settleYields_wf {s : State} (h : MemoriesWf s) : MemoriesWf (settleYields s) :=
  foldl_wf (fun _ _ h1 => foldl_wf (fun _ _ h2 => settleYield_wf h2) h1) h

/-! ## A move, and a step -/

/-- Every instruction and every event of the agenda. The arms of one shape share their law. -/
theorem exec_wf {i : Instr} {s : State} (h : MemoriesWf s) : OutWf (exec i s) := by
  cases i with
  | gangKill | poisonConsumed =>
    unfold exec
    exact execGangKill_wf h
  | nop | movi | plTomask | ballot | br | call | exitPlain | exitInherit | yieldPlain =>
    unfold exec
    exact inClause_wf fun _ => done_wf h
  | add | sub | mul | shl =>
    unfold exec
    exact binaryFwd_wf h
  | addi => exact execAddi_wf h
  | mulhs | mulhn | andI | orI | xorI | andn | shr | sar | rot | mins | minn | maxs | maxn =>
    unfold exec
    exact binary_wf h
  | mad | bfe | bfi | sel | moviShifted | mov | plFrommask | icvt | fclass | fscale | fdot2 | perm | ballotPlane | rsel | rselFin
  | meetq | nap | trap | brk =>
    unfold exec
    exact inClause_wf fun _ => use_wf h fun _ _ hs => done_wf hs
  | bitClz | bitCtz | bitPopc | bitBrev | bitAbs | bitNot | bitSext8 | bitSext16 | bitSext32 =>
    unfold exec
    exact unary_wf h
  | bitNeg => exact execBitNeg_wf h
  | lea => exact execLea_wf h
  | divQuos | divQuon | divRems | divRemn =>
    unfold exec
    exact divide_wf h
  | cmpEq | cmpNe | cmpLts | cmpLes | cmpGts | cmpGes | cmpLtn | cmpLen | cmpGtn | cmpGen | cmpTst | cmpTsz =>
    unfold exec
    exact compare_wf h
  | plAnd | plOr | plXor | plAndn | plOrn =>
    unfold exec
    exact predOp_wf h
  | fadd | fsub | fmul | fma =>
    unfold exec
    exact fpChain_wf h
  | fmin | fmax | fdiv | fsqrt | frcp | frnd =>
    unfold exec
    exact fpInstr_wf h
  | fsgnCopy | fsgnCopyneg | fsgnXor =>
    unfold exec
    exact signOp_wf h
  | fcmpEq | fcmpNe | fcmpLt | fcmpLe | fcmpGt | fcmpGe | fcmpUno | fcmpOrd =>
    unfold exec
    exact fcompare_wf h
  | frsq | fexp2 | flog2 | fsin | fcos | ftanh =>
    unfold exec
    exact approxInstr_wf h
  | fcvt =>
    unfold exec execFcvt
    exact cvtInstr_wf h
  | ficvt =>
    unfold exec execFicvt
    exact cvtInstr_wf h
  | ifcvt =>
    unfold exec execIfcvt
    exact cvtInstr_wf h
  | shflIdx | shflUp | shflDown | shflXor =>
    unfold exec
    exact shuffle_wf h
  | voteAll | voteAny =>
    unfold exec
    exact inClause_wf fun _ => voteResult_wf h
  | voteUni =>
    unfold exec
    exact inClause_wf fun _ => use_wf h fun _ _ hs => voteResult_wf hs
  | lredAdd | lredMins | lredMinn | lredMaxs | lredMaxn | lredAnd | lredOr | lredXor | lredFadd | lredFmin | lredFmax | lscanAdd
  | lscanMins | lscanMinn | lscanMaxs | lscanMaxn | lscanAnd | lscanOr | lscanXor | lscanFadd | lscanFmin | lscanFmax =>
    unfold exec
    exact reduce_wf h
  | regroup | regroupRestore =>
    unfold exec
    exact regroup_wf h
  | regroupCapupd => exact execRegroupCapupd_wf h
  | ld => exact execLd_wf h
  | ld2 => exact execLd2_wf h
  | st | st2 =>
    unfold exec
    exact storeLanes_wf h
  | pf => exact execPf_wf h
  | clClean | clInvalidate | clCollapse | clWriteback =>
    unfold exec
    exact lineControl_wf h
  | ldk => exact execLdk_wf h
  | stk => exact execStk_wf h
  | amoAdd | amoMins | amoMinn | amoMaxs | amoMaxn | amoAnd | amoOr | amoXor | amoExch | amofAdd | amofMin | amofMax | amofExch =>
    unfold exec
    exact amo_wf h
  | cas =>
    unfold exec
    exact returning_wf h
  | redAdd | redMins | redMinn | redMaxs | redMaxn | redAnd | redOr | redXor | redfAdd | redfMin | redfMax | redfAcc =>
    unfold exec
    exact update_wf h
  | spill => exact execSpill_wf h
  | fill => exact execFill_wf h
  | bind | unbind =>
    unfold exec
    exact requestBind_wf h
  | fenceMem | fenceEng =>
    unfold exec
    exact fenceHere_wf h
  | sarm => exact execSarm_wf h
  | swait => exact execSwait_wf h
  | sadd => exact execSadd_wf h
  | gsp => exact execGsp_wf h
  | stqPush | stqPop | stqPeek =>
    unfold exec
    exact stq_wf h
  | cpy | cpqSend =>
    unfold exec
    exact submit_wf h
  | cpqStatus => exact execCpqStatus_wf h
  | trec => exact execTrec_wf h
  | brx | ret =>
    unfold exec
    exact inClause_wf fun _ => use_wf h fun _ _ hs => branchTo_wf hs
  | meet => exact execMeet_wf h
  | meetPacked =>
    unfold exec
    exact inClause_wf fun _ => use_wf h fun _ _ hs => settle_wf hs fun _ _ hs => setMeet_wf hs
  | bar => exact execBar_wf h
  | yieldQueue => exact execYieldQueue_wf h
  | grow => exact execGrow_wf h
  | slotClaim => exact execSlotClaim_wf h
  | slotClaimRetag => exact execSlotClaimRetag_wf h
  | slotRelease => exact execSlotRelease_wf h
  | slotQuery => exact execSlotQuery_wf h
  | tmm | tmmBfp =>
    unfold exec
    exact tmm_wf h
  | tsa => exact execTsa_wf h
  | accZero | accLd =>
    unfold exec
    exact accSet_wf h
  | accRd =>
    unfold exec
    exact accCell_wf h fun _ _ _ hs => done_wf hs
  | accWr => exact execAccWr_wf h
  | accSt => exact execAccSt_wf h
  | accCvst => exact execAccCvst_wf h
  | opmLd | opmSt =>
    unfold exec
    exact opm_wf h
  | csrr => exact execCsrr_wf h
  | csrw | psreq | gangkillReg =>
    unfold exec
    exact recordCsr_wf h
  | tlbiPage => exact execTlbiPage_wf h
  | tlbiKey => exact execTlbiKey_wf h
  | tlbiAll f => exact execTlbiAll_wf (_f := f) h
  | tret => exact execTret_wf h
  | ctxSave => exact execCtxSave_wf h
  | ctxRestore => exact execCtxRestore_wf h
  | trcMark => exact execTrcMark_wf h
  | trcArm => exact execTrcArm_wf h
  | trcDisarm => exact execTrcDisarm_wf h
  | quadrilleMove => exact execQuadrilleMove_wf h
  | clauseStart => exact execClauseStart_wf h
  | clauseRetire => exact execClauseRetire_wf h
  | groupRetire => exact execGroupRetire_wf h
  | napExpiry => exact execNapExpiry_wf h
  | yieldEnd => exact execYieldEnd_wf h
  | launchDoorbell => exact execLaunchDoorbell_wf h
  | launchQueueServe => exact execLaunchQueueServe_wf h
  | gangAdmit => exact execGangAdmit_wf h
  | workSteal => exact execWorkSteal_wf h
  | preempt => exact execPreempt_wf h
  | regionFlush => exact execRegionFlush_wf h
  | fullSave => exact execFullSave_wf h
  | gangRestore => exact execGangRestore_wf h
  | minuetTurn => exact execMinuetTurn_wf h
  | stagePeriod => exact execStagePeriod_wf h
  | spillAck => exact execSpillAck_wf h
  | refill => exact execRefill_wf h
  | symbolArrival => exact execSymbolArrival_wf h
  | syncArrival => exact execSyncArrival_wf h
  | watchPoll =>
    unfold exec
    exact .next (pollLane_wf h)
  | tileEntryStart => exact execTileEntryStart_wf h
  | tileEntryRetire => exact execTileEntryRetire_wf h
  | slotWrite => exact execSlotWrite_wf h
  | followOnEnqueue => exact execFollowOnEnqueue_wf h
  | cardAcceptance => exact execCardAcceptance_wf h
  | jobRelease => exact execJobRelease_wf h
  | waitWordPoll => exact execWaitWordPoll_wf h
  | waitWordRetired => exact execWaitWordRetired_wf h
  | jobStart => exact execJobStart_wf h
  | jobPageStall => exact execJobPageStall_wf h
  | jobResume => exact execJobResume_wf h
  | followOnIssue => exact execFollowOnIssue_wf h
  | jobRetire => exact execJobRetire_wf h
  | jobErrorEnd => exact execJobErrorEnd_wf h
  | zethesAdder => exact execZethesAdder_wf h
  | collectiveLost => exact execCollectiveLost_wf h
  | uGrant => exact execUGrant_wf h
  | collapse => exact execCollapse_wf h
  | uEviction => exact execUEviction_wf h
  | evictionMerge => exact execEvictionMerge_wf h
  | sliceUEviction => exact execSliceUEviction_wf h
  | invalidationReceive => exact execInvalidationReceive_wf h
  | invalidationAgeExpiry => exact execInvalidationAgeExpiry_wf h
  | homeUnitAccess => exact execHomeUnitAccess_wf h
  | storeBufferSend => exact execStoreBufferSend_wf h
  | storeAck => exact execStoreAck_wf h
  | pageWalk => exact execPageWalk_wf h
  | parkRetryTimeout => exact execParkRetryTimeout_wf h
  | migrationMove => exact execMigrationMove_wf h
  | trapDelivery => exact execTrapDelivery_wf h
  | flitRoute => exact execFlitRoute_wf h
  | flitInject => exact execFlitInject_wf h
  | fabricTick => exact execFabricTick_wf h
  | throttleWindow => exact execThrottleWindow_wf h
  | mergeSlotRequest => exact execMergeSlotRequest_wf h
  | zethesPacketReceive => exact execZethesPacketReceive_wf h
  | zethesReplay => exact execZethesReplay_wf h
  | portDead => exact execPortDead_wf h
  | partialFold =>
    unfold exec
    exact .next (takePartial_wf h)
  | revokedArrival => exact execRevokedArrival_wf h
  | workRequestPop => exact execWorkRequestPop_wf h
  | workCompletion => exact execWorkCompletion_wf h
  | rdmaIncomingWrite => exact execRdmaIncomingWrite_wf h
  | hostAccess => exact execHostAccess_wf h
  | haltRequest =>
    unfold exec
    exact .next (haltGroup_wf h)
  | haltTimeout =>
    unfold exec
    exact .next (checkHalt_wf h)
  | triggerReceive => exact execTriggerReceive_wf h
  | snapshotLatch => exact execSnapshotLatch_wf h
  | traceSample => exact execTraceSample_wf h
  | hangWatchdogExpiry => exact execHangWatchdogExpiry_wf h
  | timingRepeat => exact execTimingRepeat_wf h
  | eccError => exact execEccError_wf h
  | patrolScrub => exact execPatrolScrub_wf h
  | dramCalibration _ channel => exact execDramCalibration_wf (_channel := channel) h
  | migrationAccounting => exact execMigrationAccounting_wf h
  | counterHalving => exact execCounterHalving_wf h
  | telemetry => exact execTelemetry_wf h
  | powerOn => exact execPowerOn_wf h
  | firmwareImage => exact execFirmwareImage_wf h
  | attestationRequest => exact execAttestationRequest_wf h
  | deviceReset => exact execDeviceReset_wf h
  | powerOff => exact execPowerOff_wf h
  | powerWindow => exact execPowerWindow_wf h
  | thermalSample => exact execThermalSample_wf h
  | keyRevoke => exact execKeyRevoke_wf h
  | keyRestore =>
    unfold exec
    exact .next (h.frame rfl)
  | tlbinvAll => exact execTlbinvAll_wf h
  | tlbinvPage => exact execTlbinvPage_wf h
  | zretrain => exact execZretrain_wf h
  | traprst => exact execTraprst_wf h
  | debugEnable | debugDisable =>
    unfold exec
    exact .next (modGrid_wf (nameGrid_wf h))
  | debugHaltGroup =>
    unfold exec
    exact .next (haltGroup_wf (nameGrid_wf h))
  | debugResumeGroup =>
    unfold exec
    exact .next (resumeGroup_wf (nameGrid_wf h))
  | brksetSet => exact execBrksetSet_wf h
  | brksetClear => exact execBrksetClear_wf h
  | dumpreq => exact execDumpreq_wf h
  | qpCreate => exact execQpCreate_wf h
  | qpConnect => exact execQpConnect_wf h
  | regionRegister => exact execRegionRegister_wf h
  | regionDeregister => exact execRegionDeregister_wf h
  | qpDestroy => exact execQpDestroy_wf h
  | triggerSend => exact execTriggerSend_wf h
  | managementRegisterWrite => exact execManagementRegisterWrite_wf h
  | powerLoss =>
    unfold exec
    exact .next (blank_wf h)
  | snapshotRead => exact execSnapshotRead_wf h
  | zethesCreditReturn =>
    unfold exec
    exact .next (pump_wf (setStream_wf (acknowledge_wf h)))
  | rdmaIncomingRead => exact execRdmaIncomingRead_wf h
  | priorityFlowControl => exact execPriorityFlowControl_wf h
  | congestionNotification => exact execCongestionNotification_wf h

/-- The end of a clause's words, in each of its phases. -/
theorem wordsEnd_wf {s : State} {x : Ctx} (h : MemoriesWf s) : OutWf (wordsEnd s x) := by
  unfold wordsEnd
  split
  · exact .next (endCheck_wf h)
  · exact exec_wf (putClause_wf h)
  · exact exec_wf h

/-- A step inside a clause. -/
theorem clauseStep_wf {s : State} {x : Ctx} (h : MemoriesWf s) : OutWf (clauseStep s x) := by
  unfold clauseStep
  split
  · exact wordsEnd_wf h
  · split
    · exact exec_wf h
    · exact .next (illegalWord_wf h)

/-- A step between clauses: the next move of the agenda, or a move of the environment's choice. -/
theorem partStep_wf {s : State} (h : MemoriesWf s) : OutWf (partStep s) := by
  unfold partStep
  extract_lets q
  have hq : MemoriesWf q := settleYields_wf h
  split
  · exact exec_wf (hq.frame rfl)
  · exact .ite (exec_wf (hq.frame rfl)) (.next (hq.frame rfl))

/-- A step. -/
theorem step_wf {s : State} (h : MemoriesWf s) : OutWf (step s) := by
  unfold step stepOf
  split
  · exact clauseStep_wf (tick_wf h)
  · exact partStep_wf (tick_wf h)

/-- Settles O48: every operation a step is made of keeps the canonical form, and so does the step. -/
theorem everyStepKeepsMemoriesCanonical : Obligations.EveryStepKeepsMemoriesCanonical :=
  fun _ t h ht => step_wf h t ht

end Sys2Proof.Machine
end

section
/-!
PROOFS. The machine right after reset, read through its accessors: every core and die stands as at boot, nothing is resident, and every
byte of memory is zero.
-/

namespace Sys2Proof.Machine

/-! ## The parts of the machine at reset -/

/-- Every core stands as at boot (R393, R451). -/
@[simp] theorem coreOf_reset (c : Nat) : coreOf State.reset c = emptyCore := tabGet_nil c emptyCore

/-- Every die stands as at boot (R459). -/
@[simp] theorem dieAt_reset (d : Nat) : dieAt State.reset d = emptyDie := tabGet_nil d emptyDie

/-- No group is resident. -/
@[simp] theorem groupAt_reset (key : Nat) : groupAt State.reset key = none := tabGet?_nil key

/-- The trap troupe stands at position 64 of every core (R393). -/
theorem troupeAt_reset_trap (c : Nat) : troupeAt State.reset c 64 = some trapTroupe := by
  simp [troupeAt, emptyCore, tabGet?]

/-- No clause is being performed. -/
theorem ctxOf_reset : ctxOf State.reset = none := rfl

/-- Every byte of every memory is zero: the memories list no cell, and scratch has no group to belong to. -/
theorem rawByte_reset (l : Loc) (i : Nat) : rawByte State.reset l i = 0 := by
  unfold rawByte
  cases l.area with
  | device | host | peer | lost => rfl
  | scratch => simp

/-! ## The trap troupe's registers at boot (R393) -/

theorem regOf_trapTroupe (n : Nat) : regOf trapTroupe n = emptyReg := tabGet_nil n emptyReg
theorem kOf_trapTroupe (n : Nat) : kOf trapTroupe n = 0 := tabGet_nil n 0
theorem threadOf_trapTroupe (l : Nat) : threadOf trapTroupe l = exitedThread := tabGet_nil l exitedThread

/-- A core at boot: WDOGCFG 0x4000 (R451), and no trap being served or delivered. -/
theorem emptyCore_rests : emptyCore.wdog = 0x4000 ∧ emptyCore.service = none ∧ emptyCore.deliveries = [] := ⟨rfl, rfl, rfl⟩

/-- A die at boot: MIGPOL's reset value (R459), and no job. -/
theorem emptyDie_rests : emptyDie.migpol = 0x0000010020000040 ∧ emptyDie.jobs = [] := ⟨rfl, rfl⟩

/-- The trap troupe at boot: no clause, and every register, k register and predicate zero (R393). -/
theorem trapTroupe_rests : trapTroupe.clause = none ∧ (∀ n, regOf trapTroupe n = emptyReg) ∧ (∀ n, kOf trapTroupe n = 0) ∧
    ∀ l, (threadOf trapTroupe l).preds = 0 :=
  ⟨rfl, regOf_trapTroupe, kOf_trapTroupe, fun l => by rw [threadOf_trapTroupe]; rfl⟩

/-- Settles O46: the package's own fields are the reset state's, memory reads zero, and each core, die and trap troupe is as at boot. -/
theorem resetLeavesTheMachineEmpty : Obligations.ResetLeavesTheMachineEmpty := by
  unfold Obligations.ResetLeavesTheMachineEmpty
  refine ⟨rfl, rfl, rfl, rfl, rfl, rfl, ctxOf_reset, rawByte_reset, fun c => ?core, fun d => ?die⟩
  case core =>
    obtain ⟨hwdog, hservice, hdeliveries⟩ := emptyCore_rests
    rw [coreOf_reset]
    exact ⟨hwdog, hservice, hdeliveries, trapTroupe, troupeAt_reset_trap c, trapTroupe_rests⟩
  case die =>
    rw [dieAt_reset]
    exact emptyDie_rests

end Sys2Proof.Machine
end

section
/-!
PROOFS. Decoding inverts encoding (R39, R44, R50, R51): a well-formed instruction is rebuilt from its opcode and its fields, the fields are
read back from its words, and its words from their bytes.
-/

namespace Sys2Proof

/-! ## The opcode map, format by format (R50) -/

/-- The kind of an instruction's format; an event has none. -/
def Fmt.kind : Fmt → Option FmtKind
  | .A _ => some .A
  | .B _ => some .B
  | .X _ => some .X
  | .L _ => some .L
  | .M _ => some .M
  | .C _ => some .C
  | .S _ => some .S
  | .event => none

/-- The instruction that the decoder builds of a major opcode and the fields of its format. -/
def Fmt.build (op : Nat) : Fmt → Option Instr
  | .A f => buildA op f
  | .B f => buildB op f
  | .X f => buildX op f
  | .L f => buildL op f
  | .M f => buildM op f
  | .C f => buildC op f
  | .S f => buildS op f
  | .event => none

/-- Every instruction's opcode is one of its format. -/
theorem opFormat_spec_op (i : Instr) : opFormat i.spec.op = i.fmt.kind := by
  cases i <;> dsimp only [Instr.spec] <;> rfl

/-! ## What tells the instructions of one opcode apart (R51) -/

theorem fieldsOk_of_wellFormed {i : Instr} (h : WellFormed i = true) : i.fieldsOk = true := (Bool.and_eq_true_iff.1 h).1

theorem extra_of_wellFormed {i : Instr} (h : WellFormed i = true) : i.extra = true := (Bool.and_eq_true_iff.1 h).2

/-- The function field of an X word holds the function code. -/
theorem fn_eq_sel_X {i : Instr} {f : FX} (h : WellFormed i = true) (hf : i.fmt = .X f) (hs : i.spec.anyFn = false) :
    f.fn.toNat = i.spec.sel.getD 0 := by
  have hk := fieldsOk_of_wellFormed h
  simp only [Instr.fieldsOk, hf, hs, Bool.false_or, Bool.and_eq_true, beq_iff_eq] at hk
  exact hk.2

/-- The function field of an M word holds the function code. -/
theorem fn_eq_sel_M {i : Instr} {f : FM} (h : WellFormed i = true) (hf : i.fmt = .M f) : f.fn.toNat = i.spec.sel.getD 0 := by
  have hk := fieldsOk_of_wellFormed h
  simp only [Instr.fieldsOk, hf, Bool.and_eq_true, beq_iff_eq] at hk
  exact hk.2

/-- The condition field of a Compare word holds the function code. -/
theorem cond_eq_sel {i : Instr} {f : FC} (h : WellFormed i = true) (hf : i.fmt = .C f) : f.cond.toNat = i.spec.sel.getD 0 := by
  have hk := fieldsOk_of_wellFormed h
  simp only [Instr.fieldsOk, hf, Bool.and_eq_true, beq_iff_eq] at hk
  exact hk.2

/-- The second source field of a bit operation holds the function code (R186). -/
theorem b_eq_sel {i : Instr} {f : FA} (h : WellFormed i = true) (hf : i.fmt = .A f) (hop : i.spec.op = 0x14) :
    some f.b = i.spec.sel.map fun n => Operand.x (BitVec.ofNat 6 n) := by
  have hk := fieldsOk_of_wellFormed h
  simp only [Instr.fieldsOk, hf, hop, beq_self_eq_true, if_true, Bool.and_eq_true, beq_iff_eq] at hk
  exact hk.1.1.1.2

/-- `yield xa` names an x or a k register, and so not ZERO (R89). -/
theorem yieldQueue_a_ne_zero {f : FA} (h : WellFormed (.yieldQueue f) = true) : f.a ≠ .zero := by
  have hk := fieldsOk_of_wellFormed h
  simp only [Instr.fieldsOk, Instr.fmt, Bool.and_eq_true] at hk
  have ha : SRole.ok .xk f.pack.toNat f.a = true := hk.1.1.1.1.2
  rintro hz
  simp [SRole.ok, Operand.isX, Operand.isK, hz] at ha

/-- The bit of `rsel`'s immediate that makes it the final step is clear for its bit numbers (R222). -/
theorem rsel_imm_bit {f : FX} (h : WellFormed (.rsel f) = true) : f.imm.getLsbD 6 = false := by
  have hi : f.imm.toNat ≤ 32 := of_decide_eq_true (extra_of_wellFormed h)
  rw [BitVec.getLsbD, Nat.testBit_lt_two_pow (by omega)]

/-- The bit of `rsel`'s immediate that makes it the final step is set for the final steps (R222). -/
theorem rselFin_imm_bit {f : FX} (h : WellFormed (.rselFin f) = true) : f.imm.getLsbD 6 = true := by
  have hi : 64 ≤ f.imm.toNat ∧ f.imm.toNat ≤ 96 := by simpa [Instr.extra] using extra_of_wellFormed h
  rw [BitVec.getLsbD, Nat.testBit_eq_decide_div_mod_eq, decide_eq_true_iff]
  omega

/-- A well-formed instruction is the one built of its opcode and its fields. -/
theorem build_fmt {i : Instr} (h : WellFormed i = true) : i.fmt.build i.spec.op = some i := by
  cases i with
  | nop | add | sub | mul | mulhs | mulhn | andI | orI | xorI | andn | shl | shr | sar | rot | mins | minn | maxs | maxn | mov | brx | ret
  | grow | tret | addi | nap | trap | brk | csrr | mad | bfe | bfi | lea | sel | icvt | fadd | fsub | fmul | fma | fmin | fmax | fdiv | fsqrt
  | frcp | frsq | fexp2 | flog2 | fsin | fcos | ftanh | fcvt | ficvt | ifcvt | frnd | fclass | fscale | fdot2 | perm | trec | bar | tsa | ld
  | ld2 | st | st2 | pf | ldk | stk | cas | spill | fill | bind | unbind | sarm | swait | sadd | gsp | cpy | br | call =>
    dsimp only [Instr.spec]
    rfl
  | bitClz f | bitCtz f | bitPopc f | bitBrev f | bitAbs f | bitNeg f | bitNot f | bitSext8 f | bitSext16 f | bitSext32 f =>
    have hb := Option.some.inj (b_eq_sel h rfl rfl)
    dsimp only [Instr.spec, Instr.fmt, Fmt.build, buildA]
    rw [hb]
    rfl
  | divQuos f | divQuon f | divRems f | divRemn f | fsgnCopy f | fsgnCopyneg f | fsgnXor f | shflIdx f | shflUp f | shflDown f | shflXor f
  | ballot f | ballotPlane f | voteAll f | voteAny f | voteUni f | lredAdd f | lredMins f | lredMinn f | lredMaxs f | lredMaxn f | lredAnd f
  | lredOr f | lredXor f | lredFadd f | lredFmin f | lredFmax f | lscanAdd f | lscanMins f | lscanMinn f | lscanMaxs f | lscanMaxn f
  | lscanAnd f | lscanOr f | lscanXor f | lscanFadd f | lscanFmin f | lscanFmax f | regroup f | regroupRestore f | regroupCapupd f | tmm f
  | tmmBfp f | accZero f | accRd f | accWr f | accLd f | accSt f | accCvst f | opmLd f | opmSt f | ctxSave f | ctxRestore f | trcMark f
  | trcArm f | trcDisarm f | slotRelease f | slotQuery f =>
    have hfn := fn_eq_sel_X h rfl rfl
    dsimp only [Instr.spec, Instr.fmt, Fmt.build, buildX]
    rw [hfn]
    rfl
  | slotClaim f =>
    have hfn := fn_eq_sel_X h rfl rfl
    have himm : f.imm = 0 := by simpa [Instr.extra] using extra_of_wellFormed h
    dsimp only [Instr.spec, Instr.fmt, Fmt.build, buildX]
    rw [hfn, himm]
    rfl
  | slotClaimRetag f =>
    have hfn := fn_eq_sel_X h rfl rfl
    have himm : f.imm = 1 := by simpa [Instr.extra] using extra_of_wellFormed h
    dsimp only [Instr.spec, Instr.fmt, Fmt.build, buildX]
    rw [hfn, himm]
    rfl
  | rsel f => exact if_neg (by rw [rsel_imm_bit h]; decide)
  | rselFin f => exact if_pos (rselFin_imm_bit h)
  | meet f => exact if_neg (by simpa [Instr.extra] using extra_of_wellFormed h)
  | meetPacked f => exact if_pos (by simpa [Instr.extra] using extra_of_wellFormed h)
  | clClean f | clInvalidate f | clCollapse f | clWriteback f | amoAdd f | amoMins f | amoMinn f | amoMaxs f | amoMaxn f | amoAnd f | amoOr f
  | amoXor f | amoExch f | amofAdd f | amofMin f | amofMax f | amofExch f | redAdd f | redMins f | redMinn f | redMaxs f | redMaxn f
  | redAnd f | redOr f | redXor f | redfAdd f | redfMin f | redfMax f | redfAcc f | fenceMem f | fenceEng f | stqPush f | stqPop f
  | stqPeek f | cpqSend f | cpqStatus f | tlbiPage f | tlbiKey f | tlbiAll f =>
    have hfn := fn_eq_sel_M h rfl
    dsimp only [Instr.spec, Instr.fmt, Fmt.build, buildM]
    rw [hfn]
    rfl
  | cmpEq f | cmpNe f | cmpLts f | cmpLes f | cmpGts f | cmpGes f | cmpLtn f | cmpLen f | cmpGtn f | cmpGen f | cmpTst f | cmpTsz f
  | plAnd f | plOr f | plXor f | plAndn f | plOrn f | plFrommask f | plTomask f | fcmpEq f | fcmpNe f | fcmpLt f | fcmpLe f | fcmpGt f
  | fcmpGe f | fcmpUno f | fcmpOrd f | meetq f =>
    have hcond := cond_eq_sel h rfl
    dsimp only [Instr.spec, Instr.fmt, Fmt.build, buildC]
    rw [hcond]
    rfl
  | movi f =>
    have hx : f.a = .zero ∧ f.la = false := by simpa [Instr.extra] using extra_of_wellFormed h
    exact if_pos hx.1
  | moviShifted f => exact if_neg (by simpa [Instr.extra] using extra_of_wellFormed h)
  | yieldPlain f => exact if_pos (by simpa [Instr.extra] using extra_of_wellFormed h)
  | yieldQueue f => exact if_neg (yieldQueue_a_ne_zero h)
  | exitPlain f =>
    have himm : f.imm = 0 := by simpa [Instr.extra] using extra_of_wellFormed h
    dsimp only [Instr.spec, Instr.fmt, Fmt.build, buildB]
    rw [himm]
    rfl
  | exitInherit f =>
    have himm : f.imm = 1 := by simpa [Instr.extra] using extra_of_wellFormed h
    dsimp only [Instr.spec, Instr.fmt, Fmt.build, buildB]
    rw [himm]
    rfl
  | csrw f =>
    have hx : (f.imm.toNat < 512 ∧ f.imm ≠ 0x47) ∧ f.imm ≠ 0x48 := by simpa [Instr.extra] using extra_of_wellFormed h
    obtain ⟨⟨-, h47⟩, h48⟩ := hx
    exact (if_neg h47).trans (if_neg h48)
  | psreq f => exact if_pos (by simpa [Instr.extra] using extra_of_wellFormed h)
  | gangkillReg f =>
    have himm : f.imm = 0x48 := by simpa [Instr.extra] using extra_of_wellFormed h
    exact (if_neg (by rw [himm]; decide)).trans (if_pos himm)
  | _ => exact absurd (fieldsOk_of_wellFormed h) Bool.false_ne_true

/-! ## Every word has 32 bits -/

theorem FA.word_lt {op : Nat} (h : op < 128) (f : FA) : f.word op < 2 ^ 32 := by
  have := f.d.code_lt; have := f.a.code_lt; have := f.b.code_lt; have := b2n_lt f.la; have := b2n_lt f.lb; have := f.pack.isLt
  simp only [FA.word]; omega

theorem FB.word_lt {op : Nat} (h : op < 128) (f : FB) : f.word op < 2 ^ 32 := by
  have := f.d.code_lt; have := f.a.code_lt; have := b2n_lt f.la; have := f.imm.isLt
  simp only [FB.word]; omega

theorem FX.word0_lt {op : Nat} (h : op < 128) (f : FX) : f.word0 op < 2 ^ 32 := by
  have := f.d.code_lt; have := f.a.code_lt; have := f.b.code_lt; have := b2n_lt f.la; have := b2n_lt f.lb; have := f.pack.isLt
  simp only [FX.word0]; omega

theorem FX.word1_lt (f : FX) : f.word1 < 2 ^ 32 := by
  have := f.c.code_lt; have := b2n_lt f.lc; have := f.fn.isLt; have := f.rnd.isLt; have := b2n_lt f.sat; have := f.flg.isLt
  have := f.imm.isLt
  simp only [FX.word1]; omega

theorem FL.word0_lt {op : Nat} (h : op < 128) (f : FL) : f.word0 op < 2 ^ 32 := by
  have := f.d.code_lt; have := f.a.code_lt; have := b2n_lt f.la
  simp only [FL.word0]; omega

theorem FM.word0_lt {op : Nat} (h : op < 128) (f : FM) : f.word0 op < 2 ^ 32 := by
  have := f.d.code_lt; have := f.a.code_lt; have := b2n_lt f.la; have := f.ord.isLt; have := f.scope.isLt; have := f.off.isLt
  simp only [FM.word0]; omega

theorem FM.word1_lt (f : FM) : f.word1 < 2 ^ 32 := by
  have := f.ty.isLt; have := f.fn.isLt; have := f.e.code_lt; have := b2n_lt f.le; have := b2n_lt f.ld
  simp only [FM.word1]; omega

theorem FC.word_lt {op : Nat} (h : op < 128) (f : FC) : f.word op < 2 ^ 32 := by
  have := f.a.code_lt; have := f.b.code_lt; have := b2n_lt f.la; have := b2n_lt f.lb; have := f.pack.isLt
  have := f.q.isLt; have := f.cond.isLt
  simp only [FC.word]; omega

theorem FS.word_lt {op : Nat} (h : op < 128) (f : FS) : f.word op < 2 ^ 32 := by
  have := f.off.isLt
  simp only [FS.word]; omega

/-! ## Words and their bytes -/

/-- Each word of an instruction has 32 bits. -/
theorem encode_lt (i : Instr) : ∀ w ∈ encode i, w < 2 ^ 32 := by
  have hop := Laws.OpcodeField.op_lt i
  unfold encode
  cases i.fmt with
  | A f => exact List.forall_mem_singleton.2 (f.word_lt hop)
  | B f => exact List.forall_mem_singleton.2 (f.word_lt hop)
  | X f => exact List.forall_mem_cons.2 ⟨f.word0_lt hop, List.forall_mem_singleton.2 f.word1_lt⟩
  | L f => exact List.forall_mem_cons.2 ⟨f.word0_lt hop, List.forall_mem_singleton.2 f.imm.isLt⟩
  | M f => exact List.forall_mem_cons.2 ⟨f.word0_lt hop, List.forall_mem_singleton.2 f.word1_lt⟩
  | C f => exact List.forall_mem_singleton.2 (f.word_lt hop)
  | S f => exact List.forall_mem_singleton.2 (f.word_lt hop)
  | event => exact List.forall_mem_nil _

/-- An instruction has at most two words. -/
theorem encode_length (i : Instr) : (encode i).length ≤ 2 := by
  unfold encode
  cases i.fmt <;> simp

/-- The bytes of at most two words are decoded as the words are. -/
theorem decodeBytes_flatMap {ws : List Nat} (hw : ∀ w ∈ ws, w < 2 ^ 32) (hn : ws.length ≤ 2) :
    decodeBytes (ws.flatMap wordBytes) = decode (ws.getD 0 0) (ws.getD 1 0) := by
  match ws with
  | [] => rfl
  | [w] => exact congrArg (decode · 0) (wordOfBytes_wordBytes w (hw w (by simp)))
  | [w, v] => exact congrArg₂ decode (wordOfBytes_wordBytes w (hw w (by simp))) (wordOfBytes_wordBytes v (hw v (by simp)))
  | _ :: _ :: _ :: _ => simp at hn

/-! ## The round trip -/

/-- The words of an instruction are read as its opcode and its fields. -/
theorem parse_encode (i : Instr) (h : i.fmt ≠ .event) : parse ((encode i).getD 0 0) ((encode i).getD 1 0) = i.fmt.build i.spec.op := by
  have hop := Laws.OpcodeField.op_lt i
  have hkind := opFormat_spec_op i
  unfold encode parse
  cases hf : i.fmt with
  | A f => simp [field_op_A _ f hop, FA.ofWord_word, hkind, hf, Fmt.kind, Fmt.build]
  | B f => simp [field_op_B _ f hop, FB.ofWord_word, hkind, hf, Fmt.kind, Fmt.build]
  | X f => simp [field_op_X _ f hop, FX.ofWords_words, hkind, hf, Fmt.kind, Fmt.build]
  | L f => simp [field_op_L _ f hop, FL.ofWords_words, hkind, hf, Fmt.kind, Fmt.build]
  | M f => simp [field_op_M _ f hop, FM.ofWords_words, hkind, hf, Fmt.kind, Fmt.build]
  | C f => simp [field_op_C _ f hop, FC.ofWord_word, hkind, hf, Fmt.kind, Fmt.build]
  | S f => simp [field_op_S _ f hop, FS.ofWord_word, hkind, hf, Fmt.kind, Fmt.build]
  | event => exact absurd hf h

/-- A well-formed instruction is no event. -/
theorem fmt_ne_event {i : Instr} (h : WellFormed i = true) : i.fmt ≠ .event := by
  intro hf
  have hk := fieldsOk_of_wellFormed h
  simp [Instr.fieldsOk, hf] at hk

/-- The words of a well-formed instruction decode to it. -/
theorem decode_encode {i : Instr} (h : WellFormed i = true) : decode ((encode i).getD 0 0) ((encode i).getD 1 0) = some i := by
  unfold decode
  rw [parse_encode i (fmt_ne_event h), build_fmt h]
  exact if_pos h

/-- Settles O2: an instruction is rebuilt from the fields that its words hold, and its words from their bytes. -/
theorem decodeInvertsEncode : Obligations.DecodeInvertsEncode := fun i h =>
  ⟨decode_encode h, (decodeBytes_flatMap (encode_lt i) (encode_length i)).trans (decode_encode h)⟩

/-! ## Words written out (R39, R50) -/

/-- Settles O1: each word is decoded, and none of them needs more than the decoder's own evaluation. -/
theorem wordsDecodeToTheirInstructions : Obligations.WordsDecodeToTheirInstructions := by
  unfold Obligations.WordsDecodeToTheirInstructions
  decide

end Sys2Proof
end

section
/-!
PROOFS. No instruction is refused, and none stops but for want of a clause (R33, R36, R52): an instruction asks for the clause in
execution, and inside one every way it can go is a next state, its traps, its waits and its starts over among them; so is every way an
event can go.
-/

namespace Sys2Proof.Machine

/-! ## Outcomes that are a next state -/

/-- The machine goes on. -/
def Goes (o : Out) : Prop := ∃ t, o = .next t

theorem Goes.next {s : State} : Goes (.next s) := ⟨s, rfl⟩

/-- One of two outcomes. -/
theorem Goes.ite {c : Prop} [Decidable c] {o p : Out} (ho : Goes o) (hp : Goes p) : Goes (if c then o else p) := by
  split
  · exact ho
  · exact hp

theorem done_goes {s : State} {x : Ctx} {n : Nat} {cl : Clause} : Goes (done s x n cl) := .next

theorem waitHere_goes {s : State} : Goes (waitHere s) := .next

theorem raiseTrap_goes {s : State} {x : Ctx} {cause : Nat} {addr : Word} {lanes : LaneMask} : Goes (raiseTrap s x cause addr lanes) :=
  .ite .next .next

theorem trapAll_goes {s : State} {x : Ctx} {cause : Nat} {addr : Word} : Goes (trapAll s x cause addr) := .ite .next raiseTrap_goes

/-- Failures trap, park their lanes, or leave the rest to go on (R35). -/
theorem settle_goes {s : State} {x : Ctx} {fs : List Failure} {remote : LaneMask} {syms : List Nat} {k : State → Ctx → Out}
    (hk : ∀ s x, Goes (k s x)) : Goes (settle s x fs remote syms k) := by
  unfold settle
  extract_lets
  split
  · exact .ite (hk _ _) (hk _ _)
  · exact .ite (hk _ _) .next

/-- Operands make the clause start over, fault, or are read (R147, R155). -/
theorem useRegs_goes {s : State} {x : Ctx} {rs : List Reg} {k : State → Ctx → Out} (hk : ∀ s x, Goes (k s x)) : Goes (useRegs s x rs k) :=
  .ite .next (.ite (hk _ _) (settle_goes fun _ _ => hk _ _))

theorem use_goes {s : State} {x : Ctx} {ops : List Operand} {k : State → Ctx → Out} (hk : ∀ s x, Goes (k s x)) : Goes (use s x ops k) :=
  useRegs_goes hk

theorem checked_goes {x : Ctx} {r : Reach} {n : Nat} {k : State → Ctx → Clause → Clause} : Goes (checked x r n k) :=
  settle_goes fun _ _ => done_goes

theorem afterDeferreds_goes {s : State} {x : Ctx} {o : Out} (ho : Goes o) : Goes (afterDeferreds s x o) := .ite waitHere_goes ho

theorem performStores_goes {s : State} {x : Ctx} {n : Nat} {release : Option Nat} {ws : List (Loc × List Byte)} :
    Goes (performStores s x n release ws) := afterDeferreds_goes (.ite waitHere_goes done_goes)

theorem performRecords_goes {s : State} {x : Ctx} {n : Nat} {ws : List (Loc × List Byte)} : Goes (performRecords s x n ws) :=
  .ite waitHere_goes done_goes

theorem performOps_goes {s : State} {x : Ctx} {n unit : Nat} {kind : SBKind} {release : Option Nat} {ops : List LaneOp} {k : Ctx → Ctx} :
    Goes (performOps s x n unit kind release ops k) := afterDeferreds_goes (.ite waitHere_goes done_goes)

/-! ## Outcomes that need a clause in execution -/

/-- What an instruction answers: it asks for the clause in execution (R36), and inside one it goes on. -/
def RunsInClause (s : State) (o : Out) : Prop := ∃ k, o = inClause s k ∧ ∀ x, ctxOf s = some x → Goes (k x)

theorem RunsInClause.intro {s : State} {k : Ctx → Out} (hk : ∀ x, ctxOf s = some x → Goes (k x)) : RunsInClause s (inClause s k) :=
  ⟨k, rfl, hk⟩

theorem RunsInClause.goes {s : State} {o : Out} {x : Ctx} (h : RunsInClause s o) (hx : ctxOf s = some x) : Goes o := by
  obtain ⟨k, rfl, hk⟩ := h
  rw [inClause_some hx]
  exact hk x hx

theorem RunsInClause.stops {s : State} {o : Out} (h : RunsInClause s o) (hn : ctxOf s = none) : o = .fault .noClause := by
  obtain ⟨k, rfl, -⟩ := h
  exact inClause_none hn k

/-- An instruction that reads its operands and then goes on. -/
theorem use_runs {s : State} {ops : Ctx → List Operand} {k : State → Ctx → Out} (hk : ∀ s x, Goes (k s x)) :
    RunsInClause s (inClause s fun x => use s x (ops x) k) := .intro fun _ _ => use_goes hk

/-- A memory instruction with two words: nothing with no live lane, else its operands are read (R22). -/
theorem live_use_runs {s : State} {n : Nat} {ops : List Operand} {k : State → Ctx → Out} (hk : ∀ s x, Goes (k s x)) :
    RunsInClause s (inClause s fun x => if x.live = 0 then done s x n x.cl else use s x ops k) :=
  .intro fun _ _ => .ite done_goes (use_goes hk)

/-! ## Lane instructions (R179 to R222) -/

theorem binary_runs {s : State} {f : FA} {op : Nat → Nat → Nat → Nat} : RunsInClause s (binary s f op) := use_runs fun _ _ => done_goes

theorem unary_runs {s : State} {f : FA} {op : Nat → Nat → Nat} : RunsInClause s (unary s f op) := use_runs fun _ _ => done_goes

theorem binaryFwd_runs {s : State} {f : FA} {op : Nat → Nat → Nat → Nat} {ga gb : Option (Word → Word × Word → Word × Word)} :
    RunsInClause s (binaryFwd s f op ga gb) := by
  refine .intro fun x hx => ?_
  split
  · split
    · exact done_goes
    · exact binary_runs.goes hx
  · split
    · exact done_goes
    · exact binary_runs.goes hx
  · exact binary_runs.goes hx

theorem execAddi_runs {s : State} {f : FB} : RunsInClause s (execAddi f s) := by
  refine .intro fun x _ => ?_
  extract_lets
  split
  · exact done_goes
  · exact use_goes fun _ _ => done_goes

theorem execBitNeg_runs {s : State} {f : FA} : RunsInClause s (execBitNeg f s) := by
  refine .intro fun x hx => ?_
  split
  · exact done_goes
  · exact unary_runs.goes hx

theorem execLea_runs {s : State} {f : FX} : RunsInClause s (execLea f s) := by
  refine .intro fun x _ => ?_
  extract_lets
  split
  · exact done_goes
  · exact done_goes
  · exact use_goes fun _ _ => done_goes

theorem divide_runs {s : State} {f : FX} {op : Nat → Nat → Nat → Nat} : RunsInClause s (divide s f op) := use_runs fun _ _ => done_goes

theorem compare_runs {s : State} {f : FC} {cond : Nat → Nat → Nat → Bool} : RunsInClause s (compare s f cond) :=
  use_runs fun _ _ => done_goes

theorem predOp_runs {s : State} {f : FC} {op : Bool → Bool → Bool} : RunsInClause s (predOp s f op) := .intro fun _ _ => done_goes

theorem fpInstr_runs {s : State} {f : FX} {ops : List Operand} {g : Ctx → FFmt → Nat → Nat → Nat → Nat × Nat} :
    RunsInClause s (fpInstr s f ops g) := use_runs fun _ _ => done_goes

theorem fpChain_runs {s : State} {f : FX} {ka kb : ChainKind} {ops : List Operand} : RunsInClause s (fpChain s f ka kb ops) := by
  refine .intro fun x _ => ?_
  split
  · exact done_goes
  · exact use_goes fun _ _ => done_goes

theorem signOp_runs {s : State} {f : FX} {op : Bool → Bool → Bool} : RunsInClause s (signOp s f op) := use_runs fun _ _ => done_goes

theorem fcompare_runs {s : State} {f : FC} {quietOnly : Bool} {cond : FFmt → Nat → Nat → Bool} :
    RunsInClause s (fcompare s f quietOnly cond) := use_runs fun _ _ => done_goes

theorem cvtInstr_runs {s : State} {f : FX} {src : View} {wd : Nat} {g : Ctx → Nat → Nat → Nat → Nat × Nat} :
    RunsInClause s (cvtInstr s f src wd g) := use_runs fun _ _ => done_goes

theorem shuffle_runs {s : State} {f : FX} {src : Nat → Nat → Nat → Option Nat} : RunsInClause s (shuffle s f src) :=
  use_runs fun _ _ => done_goes

theorem reduce_runs {s : State} {f : FX} {scan fp : Bool} {c : Ctx → Combine} : RunsInClause s (reduce s f scan fp c) :=
  use_runs fun _ _ => done_goes

theorem regroup_runs {s : State} {fn : Nat} {f : FX} : RunsInClause s (regroup fn f s) := by
  refine use_runs fun s x => ?_
  split
  · exact done_goes
  split
  · exact trapAll_goes
  · exact .ite trapAll_goes (useRegs_goes fun _ _ => .ite checked_goes done_goes)

theorem execRegroupCapupd_runs {s : State} {f : FX} : RunsInClause s (execRegroupCapupd f s) := by
  refine .intro fun x _ => ?_
  split
  · exact done_goes
  split
  · exact trapAll_goes
  · exact .ite trapAll_goes (.ite checked_goes (afterDeferreds_goes (.ite waitHere_goes done_goes)))

/-! ## Memory instructions (R134 to R136, R347 to R377) -/

theorem checkDeferred_goes {s : State} {x : Ctx} {f : FM} {r : Reg} {size : Nat} : Goes (checkDeferred s x f r size) := by
  unfold checkDeferred
  exact checked_goes

theorem execLd_runs {s : State} {f : FM} : RunsInClause s (execLd f s) := by
  refine .intro fun x _ => .ite done_goes ?_
  split
  · exact .ite checkDeferred_goes done_goes
  · exact use_goes fun _ _ => .ite checked_goes done_goes

theorem pairInline_goes {s : State} {x : Ctx} {f : FM} {size : Nat} {k : State → List Byte → Out} (hk : ∀ s bs, Goes (k s bs)) :
    Goes (pairInline s x f size k) := by
  refine .ite (hk _ _) ?_
  split
  · exact hk _ _
  · exact settle_goes fun _ _ => .ite waitHere_goes (hk _ _)

theorem execLd2_runs {s : State} {f : FM} : RunsInClause s (execLd2 f s) :=
  live_use_runs fun _ _ => .ite checked_goes (pairInline_goes fun _ _ => .ite done_goes done_goes)

theorem execLdk_runs {s : State} {f : FM} : RunsInClause s (execLdk f s) := by
  refine .intro fun x _ => ?_
  extract_lets
  split
  · exact done_goes
  refine use_goes fun s x => .ite checked_goes ?_
  split
  · exact done_goes
  · exact settle_goes fun _ _ => .ite done_goes waitHere_goes

theorem storeLanes_runs {s : State} {f : FM} {ops : List Operand} {size : Nat} {bytes : State → Ctx → Nat → List Byte} :
    RunsInClause s (storeLanes f s ops size bytes) := live_use_runs fun _ _ => .ite checked_goes performStores_goes

theorem execStk_runs {s : State} {f : FM} : RunsInClause s (execStk f s) := by
  refine .intro fun x _ => ?_
  extract_lets
  split
  · exact done_goes
  · exact use_goes fun _ _ => .ite checked_goes performStores_goes

theorem execPf_runs {s : State} {f : FM} : RunsInClause s (execPf f s) :=
  live_use_runs fun _ _ => .ite done_goes (.ite done_goes waitHere_goes)

theorem lineControl_runs {s : State} {fn : Nat} {f : FM} : RunsInClause s (lineControl fn f s) :=
  live_use_runs fun _ _ => .ite checked_goes performOps_goes

theorem execSpill_runs {s : State} {f : FM} : RunsInClause s (execSpill f s) := by
  refine .intro fun x _ => ?_
  split
  · exact done_goes
  · exact use_goes fun _ _ => .ite checked_goes performStores_goes

theorem execFill_runs {s : State} {f : FM} : RunsInClause s (execFill f s) := by
  refine .intro fun x _ => ?_
  split
  · exact done_goes
  · exact use_goes fun _ _ => .ite checked_goes done_goes

theorem requestBind_runs {s : State} {f : FM} {unbind : Bool} {ops : List Operand} : RunsInClause s (requestBind f s unbind ops) := by
  refine .intro fun x _ => ?_
  split
  · exact done_goes
  · exact use_goes fun _ _ => .ite done_goes done_goes

theorem fenceHere_runs {s : State} {ready : Ctx → Bool} {applies : Bool} : RunsInClause s (fenceHere s ready applies) :=
  .intro fun _ _ => .ite done_goes (afterDeferreds_goes (.ite done_goes waitHere_goes))

theorem returning_runs {s : State} {f : FM} {ops : List Operand} {kind : Nat → SBKind} {val val2 : State → Ctx → Nat → Word} :
    RunsInClause s (returning f s ops kind val val2) :=
  live_use_runs fun _ _ => .ite checked_goes (.ite waitHere_goes performOps_goes)

theorem update_runs {s : State} {float : Bool} {fn : Nat} {f : FM} : RunsInClause s (update float fn f s) :=
  live_use_runs fun _ _ => .ite checked_goes performOps_goes

theorem execSarm_runs {s : State} {f : FM} : RunsInClause s (execSarm f s) :=
  live_use_runs fun _ _ => .ite checked_goes (.ite waitHere_goes done_goes)

theorem execSwait_runs {s : State} {f : FM} : RunsInClause s (execSwait f s) :=
  live_use_runs fun _ _ => .ite (.ite .next checked_goes) done_goes

theorem execSadd_runs {s : State} {f : FM} : RunsInClause s (execSadd f s) :=
  live_use_runs fun _ _ => .ite checked_goes performOps_goes

theorem execGsp_runs {s : State} {f : FM} : RunsInClause s (execGsp f s) :=
  live_use_runs fun _ _ => .ite checked_goes (settle_goes fun _ _ => .ite waitHere_goes done_goes)

theorem stq_runs {s : State} {fn : StqFn} {f : FM} : RunsInClause s (stq fn f s) := by
  refine live_use_runs fun s x => .ite checked_goes (afterDeferreds_goes (settle_goes fun s x => .ite waitHere_goes ?_))
  split
  · exact waitHere_goes
  · exact done_goes

theorem submit_runs {s : State} {remote : Bool} {f : FM} : RunsInClause s (submit remote f s) :=
  live_use_runs fun _ _ => .ite checked_goes (afterDeferreds_goes (.ite waitHere_goes done_goes))

theorem execCpqStatus_runs {s : State} {f : FM} : RunsInClause s (execCpqStatus f s) :=
  use_runs fun _ _ => settle_goes fun _ _ => .ite done_goes done_goes

theorem execTrec_runs {s : State} {f : FX} : RunsInClause s (execTrec f s) :=
  live_use_runs fun _ _ => .ite checked_goes (afterDeferreds_goes (settle_goes fun _ _ => .ite waitHere_goes performRecords_goes))

/-! ## Control and system instructions (R86 to R115, R393 to R409, R448) -/

theorem branchTo_goes {s : State} {x : Ctx} {target : Nat → Word} : Goes (branchTo s x target) := by
  unfold branchTo
  split
  · exact raiseTrap_goes
  · exact settle_goes fun _ _ => done_goes

theorem execMeet_runs {s : State} {f : FX} : RunsInClause s (execMeet f s) := use_runs fun _ _ => .ite trapAll_goes done_goes

theorem execBar_runs {s : State} {f : FX} : RunsInClause s (execBar f s) := by
  refine use_runs fun s x => .ite done_goes ?_
  split
  · exact trapAll_goes
  · exact .ite raiseTrap_goes done_goes

theorem execYieldQueue_runs {s : State} {f : FA} : RunsInClause s (execYieldQueue f s) := by
  refine use_runs fun s x => ?_
  split
  · exact done_goes
  refine .ite checked_goes ?_
  split
  · exact done_goes
  · exact .ite waitHere_goes done_goes

theorem execGrow_runs {s : State} {f : FA} : RunsInClause s (execGrow f s) := by
  refine use_runs fun s x => ?_
  split
  · exact done_goes
  · exact .ite done_goes (afterDeferreds_goes (.ite waitHere_goes done_goes))

theorem execCsrr_runs {s : State} {f : FB} : RunsInClause s (execCsrr f s) := .intro fun _ _ => .ite done_goes done_goes

theorem recordCsr_runs {s : State} {f : FB} : RunsInClause s (recordCsr f s) := by
  refine use_runs fun s x => ?_
  split
  · exact done_goes
  · exact done_goes

theorem execTlbiPage_runs {s : State} {f : FM} : RunsInClause s (execTlbiPage f s) := by
  refine use_runs fun s x => ?_
  split
  · exact done_goes
  · exact .ite (settle_goes fun _ _ => done_goes) (.ite done_goes (.ite done_goes waitHere_goes))

theorem execTlbiKey_runs {s : State} {f : FM} : RunsInClause s (execTlbiKey f s) := by
  refine use_runs fun s x => ?_
  split
  · exact done_goes
  · exact .ite done_goes (.ite done_goes waitHere_goes)

theorem execTlbiAll_runs {s : State} {f : FM} : RunsInClause s (execTlbiAll f s) :=
  .intro fun _ _ => .ite done_goes (.ite done_goes waitHere_goes)

theorem execTret_runs {s : State} {f : FA} : RunsInClause s (execTret f s) := by
  refine use_runs fun s x => ?_
  split
  · exact done_goes
  extract_lets
  split
  · exact raiseTrap_goes
  · exact done_goes

theorem startCtx_goes {s : State} {x : Ctx} {p : Word} {c : Control} : Goes (startCtx s x p c) := by
  refine .ite raiseTrap_goes ?_
  split
  · exact .ite (settle_goes fun _ _ => done_goes) done_goes
  · exact done_goes

theorem execTrcMark_runs {s : State} {f : FX} : RunsInClause s (execTrcMark f s) := by
  refine use_runs fun s x => ?_
  split
  · exact done_goes
  · exact .ite done_goes done_goes

theorem execTrcArm_runs {s : State} {f : FX} : RunsInClause s (execTrcArm f s) := by
  refine use_runs fun s x => ?_
  split
  · exact done_goes
  refine .ite (.ite checked_goes done_goes) (.ite done_goes ?_)
  split
  · exact done_goes
  · exact .ite waitHere_goes (.ite done_goes (.ite done_goes done_goes))

theorem execTrcDisarm_runs {s : State} {f : FX} : RunsInClause s (execTrcDisarm f s) := .intro fun _ _ => .ite done_goes done_goes

/-! ## Tile instructions (R251 to R291) -/

theorem tileChecked_goes {s : State} {x : Ctx} {f : FX} {b : Nat} {causes : List Nat} {mem : Option TileMem} {k : Clause → Clause} :
    Goes (tileChecked s x f b causes mem k) := checked_goes

theorem tileInstr_runs {s : State} {ops : List Operand} {k : State → Ctx → Nat → Group → Out} (hk : ∀ s x b g, Goes (k s x b g)) :
    RunsInClause s (tileInstr s ops k) := by
  refine use_runs fun s x => ?_
  split
  · exact done_goes
  split
  · exact trapAll_goes
  · exact hk _ _ _ _

theorem claimSlot_goes {s : State} {x : Ctx} {d : Operand} {h : Nat} {tag : Word} : Goes (claimSlot s x d h tag) := .ite done_goes done_goes

theorem execSlotClaim_runs {s : State} {f : FX} : RunsInClause s (execSlotClaim f s) := by
  refine tileInstr_runs fun s x b g => .ite trapAll_goes ?_
  split
  · exact done_goes
  · exact claimSlot_goes

theorem execSlotClaimRetag_runs {s : State} {f : FX} : RunsInClause s (execSlotClaimRetag f s) :=
  tileInstr_runs fun _ _ _ _ => .ite trapAll_goes (.ite .next claimSlot_goes)

theorem execSlotRelease_runs {s : State} {f : FX} : RunsInClause s (execSlotRelease f s) :=
  tileInstr_runs fun _ _ _ _ => .ite trapAll_goes (.ite (.ite done_goes .next) done_goes)

theorem execSlotQuery_runs {s : State} {f : FX} : RunsInClause s (execSlotQuery f s) :=
  tileInstr_runs fun _ _ _ _ => .ite trapAll_goes done_goes

theorem tmm_runs {s : State} {bfp : Bool} {f : FX} : RunsInClause s (tmm bfp f s) :=
  tileInstr_runs fun _ _ _ _ => .ite (.ite .next tileChecked_goes) (.ite done_goes done_goes)

theorem execTsa_runs {s : State} {f : FX} : RunsInClause s (execTsa f s) :=
  tileInstr_runs fun _ _ _ _ => .ite tileChecked_goes (settle_goes fun _ _ => .ite waitHere_goes done_goes)

theorem accSet_runs {s : State} {op : TileOp} {mem : Bool} {f : FX} : RunsInClause s (accSet op mem f s) :=
  tileInstr_runs fun _ _ _ _ => .ite tileChecked_goes done_goes

theorem execAccSt_runs {s : State} {f : FX} : RunsInClause s (execAccSt f s) :=
  tileInstr_runs fun _ _ _ _ => .ite tileChecked_goes done_goes

theorem execAccCvst_runs {s : State} {f : FX} : RunsInClause s (execAccCvst f s) :=
  tileInstr_runs fun _ _ _ _ => .ite trapAll_goes (.ite tileChecked_goes done_goes)

theorem accCell_runs {s : State} {f : FX} {ops : List Operand} {k : State → Ctx → Group → Out} (hk : ∀ s x g, Goes (k s x g)) :
    RunsInClause s (accCell f s ops k) := tileInstr_runs fun _ _ _ _ => settle_goes fun _ _ => .ite .next (hk _ _ _)

theorem opm_runs {s : State} {load : Bool} {f : FX} : RunsInClause s (opm load f s) :=
  tileInstr_runs fun _ _ _ _ => .ite tileChecked_goes done_goes

/-! ## Every instruction, and every event -/

/-- Every instruction of the opcode map asks for a clause, and goes on inside one. The arms of one shape share their law. -/
theorem exec_runs {i : Instr} (h : i.fmt ≠ .event) (s : State) : RunsInClause s (exec i s) := by
  cases i with
  | nop | movi | plTomask | ballot | br | call | exitPlain | exitInherit | yieldPlain | voteAll | voteAny =>
    unfold exec
    exact .intro fun _ _ => done_goes
  | add | sub | mul | shl =>
    unfold exec
    exact binaryFwd_runs
  | addi =>
    unfold exec
    exact execAddi_runs
  | mulhs | mulhn | andI | orI | xorI | andn | shr | sar | rot | mins | minn | maxs | maxn =>
    unfold exec
    exact binary_runs
  | mad | bfe | bfi | sel | moviShifted | mov | plFrommask | icvt | fclass | fscale | fdot2 | perm | ballotPlane | rsel | rselFin
  | meetq | nap | trap | brk | voteUni =>
    unfold exec
    exact use_runs fun _ _ => done_goes
  | bitClz | bitCtz | bitPopc | bitBrev | bitAbs | bitNot | bitSext8 | bitSext16 | bitSext32 =>
    unfold exec
    exact unary_runs
  | bitNeg =>
    unfold exec
    exact execBitNeg_runs
  | lea =>
    unfold exec
    exact execLea_runs
  | divQuos | divQuon | divRems | divRemn =>
    unfold exec
    exact divide_runs
  | cmpEq | cmpNe | cmpLts | cmpLes | cmpGts | cmpGes | cmpLtn | cmpLen | cmpGtn | cmpGen | cmpTst | cmpTsz =>
    unfold exec
    exact compare_runs
  | plAnd | plOr | plXor | plAndn | plOrn =>
    unfold exec
    exact predOp_runs
  | fadd | fsub | fmul | fma =>
    unfold exec
    exact fpChain_runs
  | fmin | fmax | fdiv | fsqrt | frcp | frnd | frsq | fexp2 | flog2 | fsin | fcos | ftanh =>
    unfold exec
    exact fpInstr_runs
  | fsgnCopy | fsgnCopyneg | fsgnXor =>
    unfold exec
    exact signOp_runs
  | fcmpEq | fcmpNe | fcmpLt | fcmpLe | fcmpGt | fcmpGe | fcmpUno | fcmpOrd =>
    unfold exec
    exact fcompare_runs
  | fcvt =>
    unfold exec execFcvt
    exact cvtInstr_runs
  | ficvt =>
    unfold exec execFicvt
    exact cvtInstr_runs
  | ifcvt =>
    unfold exec execIfcvt
    exact cvtInstr_runs
  | shflIdx | shflUp | shflDown | shflXor =>
    unfold exec
    exact shuffle_runs
  | lredAdd | lredMins | lredMinn | lredMaxs | lredMaxn | lredAnd | lredOr | lredXor | lredFadd | lredFmin | lredFmax | lscanAdd
  | lscanMins | lscanMinn | lscanMaxs | lscanMaxn | lscanAnd | lscanOr | lscanXor | lscanFadd | lscanFmin | lscanFmax =>
    unfold exec
    exact reduce_runs
  | regroup | regroupRestore =>
    unfold exec
    exact regroup_runs
  | regroupCapupd =>
    unfold exec
    exact execRegroupCapupd_runs
  | ld =>
    unfold exec
    exact execLd_runs
  | ld2 =>
    unfold exec
    exact execLd2_runs
  | st | st2 =>
    unfold exec
    exact storeLanes_runs
  | pf =>
    unfold exec
    exact execPf_runs
  | clClean | clInvalidate | clCollapse | clWriteback =>
    unfold exec
    exact lineControl_runs
  | ldk =>
    unfold exec
    exact execLdk_runs
  | stk =>
    unfold exec
    exact execStk_runs
  | amoAdd | amoMins | amoMinn | amoMaxs | amoMaxn | amoAnd | amoOr | amoXor | amoExch | amofAdd | amofMin | amofMax | amofExch
  | cas =>
    unfold exec
    exact returning_runs
  | redAdd | redMins | redMinn | redMaxs | redMaxn | redAnd | redOr | redXor | redfAdd | redfMin | redfMax | redfAcc =>
    unfold exec
    exact update_runs
  | spill =>
    unfold exec
    exact execSpill_runs
  | fill =>
    unfold exec
    exact execFill_runs
  | bind | unbind =>
    unfold exec
    exact requestBind_runs
  | fenceMem | fenceEng =>
    unfold exec
    exact fenceHere_runs
  | sarm =>
    unfold exec
    exact execSarm_runs
  | swait =>
    unfold exec
    exact execSwait_runs
  | sadd =>
    unfold exec
    exact execSadd_runs
  | gsp =>
    unfold exec
    exact execGsp_runs
  | stqPush | stqPop | stqPeek =>
    unfold exec
    exact stq_runs
  | cpy | cpqSend =>
    unfold exec
    exact submit_runs
  | cpqStatus =>
    unfold exec
    exact execCpqStatus_runs
  | trec =>
    unfold exec
    exact execTrec_runs
  | brx | ret =>
    unfold exec
    exact use_runs fun _ _ => branchTo_goes
  | meet =>
    unfold exec
    exact execMeet_runs
  | meetPacked =>
    unfold exec
    exact use_runs fun _ _ => settle_goes fun _ _ => done_goes
  | bar =>
    unfold exec
    exact execBar_runs
  | yieldQueue =>
    unfold exec
    exact execYieldQueue_runs
  | grow =>
    unfold exec
    exact execGrow_runs
  | slotClaim =>
    unfold exec
    exact execSlotClaim_runs
  | slotClaimRetag =>
    unfold exec
    exact execSlotClaimRetag_runs
  | slotRelease =>
    unfold exec
    exact execSlotRelease_runs
  | slotQuery =>
    unfold exec
    exact execSlotQuery_runs
  | tmm | tmmBfp =>
    unfold exec
    exact tmm_runs
  | tsa =>
    unfold exec
    exact execTsa_runs
  | accZero | accLd =>
    unfold exec
    exact accSet_runs
  | accRd =>
    unfold exec
    exact accCell_runs fun _ _ _ => done_goes
  | accWr =>
    unfold exec
    exact accCell_runs fun _ _ _ => .ite done_goes done_goes
  | accSt =>
    unfold exec
    exact execAccSt_runs
  | accCvst =>
    unfold exec
    exact execAccCvst_runs
  | opmLd | opmSt =>
    unfold exec
    exact opm_runs
  | csrr =>
    unfold exec
    exact execCsrr_runs
  | csrw | psreq | gangkillReg =>
    unfold exec
    exact recordCsr_runs
  | tlbiPage =>
    unfold exec
    exact execTlbiPage_runs
  | tlbiKey =>
    unfold exec
    exact execTlbiKey_runs
  | tlbiAll =>
    unfold exec
    exact execTlbiAll_runs
  | tret =>
    unfold exec
    exact execTret_runs
  | ctxSave | ctxRestore =>
    unfold exec
    exact use_runs fun _ _ => .ite done_goes startCtx_goes
  | trcMark =>
    unfold exec
    exact execTrcMark_runs
  | trcArm =>
    unfold exec
    exact execTrcArm_runs
  | trcDisarm =>
    unfold exec
    exact execTrcDisarm_runs
  | _ => exact absurd rfl h

/-- A command of the control node's is answered, left, or carried out (R479). -/
theorem queueCommand_goes {s : State} {ptr code : Nat} {k : State → Command → Out} (hk : ∀ s c, Goes (k s c)) :
    Goes (queueCommand s ptr code k) := by
  refine .ite .next ?_
  split
  · exact .next
  · exact .ite .next (.ite .next (.ite .next (hk _ _)))

theorem execFollowOnEnqueue_goes {die n : Nat} {s : State} : Goes (execFollowOnEnqueue die n s) := by
  unfold execFollowOnEnqueue
  split
  · exact .next
  split
  · exact .next
  extract_lets
  split
  · exact .next
  dsimp only
  split
  · exact .next
  · exact .next
  · exact .ite (.ite .next .next) (.ite .next .next)

/-- Every event but a management register's write goes on: along each branch of what it finds, it leaves a next state. -/
theorem exec_event_goes {i : Instr} (h : i.fmt = .event) (hw : ∀ off v, i ≠ .managementRegisterWrite off v) (s : State) :
    Goes (exec i s) := by
  cases i with
  | watchPoll | collapse | fabricTick | partialFold | haltRequest | haltTimeout | keyRestore | debugEnable | debugDisable
  | debugHaltGroup | debugResumeGroup | powerLoss | zethesCreditReturn =>
    unfold exec
    exact .next
  | qpCreate =>
    unfold exec
    refine queueCommand_goes fun s c => .ite .next ?_
    split
    · exact .next
    · exact .next
  | qpConnect | regionRegister | regionDeregister | qpDestroy =>
    unfold exec
    refine queueCommand_goes fun s c => ?_
    repeat' first | exact .next | split | extract_lets -underBinder
  | managementRegisterWrite off v => exact absurd rfl (hw off v)
  | quadrilleMove | clauseStart | clauseRetire | groupRetire | napExpiry | yieldEnd | launchDoorbell | launchQueueServe | gangAdmit
  | workSteal | preempt | regionFlush | fullSave | gangRestore | minuetTurn | stagePeriod | spillAck | refill | symbolArrival
  | syncArrival | tileEntryStart | tileEntryRetire | slotWrite | cardAcceptance | jobRelease | waitWordPoll
  | waitWordRetired | jobStart | jobPageStall | jobResume | followOnIssue | jobRetire | jobErrorEnd | zethesAdder | collectiveLost
  | uGrant | uEviction | evictionMerge | sliceUEviction | invalidationReceive | invalidationAgeExpiry | homeUnitAccess
  | storeBufferSend | storeAck | pageWalk | parkRetryTimeout | migrationMove | trapDelivery | flitRoute | flitInject
  | throttleWindow | mergeSlotRequest | zethesPacketReceive | zethesReplay | portDead | revokedArrival | workRequestPop
  | workCompletion | rdmaIncomingWrite | hostAccess | triggerReceive | snapshotLatch | traceSample | hangWatchdogExpiry
  | timingRepeat | eccError | poisonConsumed | gangKill | patrolScrub | dramCalibration | migrationAccounting | counterHalving
  | telemetry | powerOn | firmwareImage | attestationRequest | deviceReset | powerOff | powerWindow | thermalSample | keyRevoke
  | tlbinvAll | tlbinvPage | zretrain | traprst | brksetSet | brksetClear | dumpreq | triggerSend | snapshotRead | rdmaIncomingRead
  | priorityFlowControl | congestionNotification =>
    unfold exec
    simp -zeta only [execQuadrilleMove, execClauseStart, execClauseRetire, execGroupRetire, execNapExpiry, execYieldEnd, execLaunchDoorbell,
      execLaunchQueueServe, execGangAdmit, execWorkSteal, execPreempt, execRegionFlush, execFullSave, execGangRestore,
      execMinuetTurn, execStagePeriod, execSpillAck, execRefill, execSymbolArrival, execSyncArrival, execTileEntryStart,
      execTileEntryRetire, execSlotWrite, execCardAcceptance, execJobRelease, execWaitWordPoll,
      execWaitWordRetired, execJobStart, execJobPageStall, execJobResume, execFollowOnIssue, execJobRetire, execJobErrorEnd,
      execZethesAdder, execCollectiveLost, execUGrant, execUEviction, execEvictionMerge, execSliceUEviction,
      execInvalidationReceive, execInvalidationAgeExpiry, execHomeUnitAccess, execStoreBufferSend, execStoreAck, execPageWalk,
      execParkRetryTimeout, execMigrationMove, execTrapDelivery, execFlitRoute, execFlitInject, execThrottleWindow,
      execMergeSlotRequest, execZethesPacketReceive, execZethesReplay, execPortDead, execRevokedArrival, execWorkRequestPop,
      execWorkCompletion, execRdmaIncomingWrite, execHostAccess, execTriggerReceive, execSnapshotLatch, execTraceSample,
      execHangWatchdogExpiry, execTimingRepeat, execEccError, execPoisonConsumed, execGangKill, execPatrolScrub,
      execDramCalibration, execMigrationAccounting, execCounterHalving, execTelemetry, execPowerOn, execFirmwareImage,
      execAttestationRequest, execDeviceReset, execPowerOff, execPowerWindow, execThermalSample, execKeyRevoke, execTlbinvAll,
      execTlbinvPage, execZretrain, execTraprst, execBrksetSet, execBrksetClear, execDumpreq, execTriggerSend, execSnapshotRead,
      execRdmaIncomingRead, execPriorityFlowControl, execCongestionNotification]
    repeat' first | exact .next | split | extract_lets -underBinder
  | followOnEnqueue =>
    unfold exec
    exact execFollowOnEnqueue_goes
  | _ => cases h

/-- A write to a management register is the event that its offset names, or stores a value (R478). -/
theorem writeOnly_goes {s : State} {off v : Nat} : Goes (writeOnly s off v) := by
  have event (i : Instr) (h : i.fmt = .event) (hw : ∀ off v, i ≠ .managementRegisterWrite off v) : Goes (exec i s) := exec_event_goes h hw s
  have command : Goes (debugCommand v s) := .ite .next (.ite .next (.ite .next (.ite .next .next)))
  have qp : Goes (queuePairCommand v s) := by
    unfold queuePairCommand
    split
    · exact event (.qpCreate v) rfl nofun
    · exact .ite (event (.qpConnect v) rfl nofun) (.ite (event (.regionRegister v) rfl nofun)
        (.ite (event (.regionDeregister v) rfl nofun) (.ite (event (.qpDestroy v) rfl nofun) (event (.qpCreate v) rfl nofun))))
  unfold writeOnly
  refine .ite .next (.ite (.ite ?powerOff (.ite ?reset .next)) (.ite ?bell (.ite (.ite ?revoke .next) (.ite (.ite ?tlbinvAll ?tlbinvPage)
    (.ite ?zretrain (.ite ?traprst (.ite command (.ite (.ite ?brkset ?brkclear) (.ite ?dump (.ite qp (.ite ?trigger .next)))))))))))
  case powerOff => exact event .powerOff rfl nofun
  case reset => exact event .deviceReset rfl nofun
  case bell => exact event (.launchDoorbell _) rfl nofun
  case revoke => exact event (.keyRevoke _) rfl nofun
  case tlbinvAll => exact event .tlbinvAll rfl nofun
  case tlbinvPage => exact event (.tlbinvPage v) rfl nofun
  case zretrain => exact event (.zretrain _) rfl nofun
  case traprst => exact event (.traprst _) rfl nofun
  case brkset => exact event (.brksetSet v) rfl nofun
  case brkclear => exact event (.brksetClear v) rfl nofun
  case dump => exact event (.dumpreq v) rfl nofun
  case trigger => exact event (.triggerSend _) rfl nofun

/-- Settles O44: outside a clause an instruction's request for one is what stops it. -/
theorem noInstructionRunsOutsideAClause : Obligations.NoInstructionRunsOutsideAClause :=
  fun _ s hi hs => (exec_runs hi s).stops hs

/-- Settles O45: an event goes on, and so does an instruction once it has its clause. -/
theorem everyInstructionAndEventGoesOn : Obligations.EveryInstructionAndEventGoesOn := by
  intro i s h
  by_cases hi : i.fmt = .event
  · by_cases hw : ∃ off v, i = .managementRegisterWrite off v
    · obtain ⟨off, v, rfl⟩ := hw
      exact Goes.ite writeOnly_goes .next
    · exact exec_event_goes hi (fun off v hi => hw ⟨off, v, hi⟩) s
  · obtain ⟨x, hx⟩ := Option.ne_none_iff_exists'.1 (h.resolve_left hi)
    exact (exec_runs hi s).goes hx

end Sys2Proof.Machine
end

section
/-!
PROOFS. A step of the machine with a clause in execution (R29, R30, R36): the word under the cursor runs, or the words are done and the phase
ends.
-/

namespace Sys2Proof.Machine

/-- With a clause in execution a step is the clause's. -/
theorem step_of_ctx {s : State} {x : Ctx} (h : ctxOf s = some x) : step s = clauseStep (tick s) x := by
  simp only [step, stepOf, h]

/-- Words that stand under the cursor are not done. -/
theorem wordsDone_eq_false {cl : Clause} {w : Nat} {r : List Nat} (h : cl.words.drop cl.cursor = w :: r) : wordsDone cl = false := by
  refine decide_eq_false fun hle => ?_
  rw [List.drop_eq_nil_of_le hle] at h
  cases h

theorem cursorInstr_cons {cl : Clause} {w : Nat} {r : List Nat} (h : cl.words.drop cl.cursor = w :: r) :
    cursorInstr cl = decode w (r.headD 0) := by
  simp only [cursorInstr, h]

theorem clauseStep_word {s : State} {x : Ctx} {w : Nat} {r : List Nat} {i : Instr} (h : x.cl.words.drop x.cl.cursor = w :: r)
    (hi : decode w (r.headD 0) = some i) : clauseStep s x = exec i s := by
  simp only [clauseStep, wordsDone_eq_false h, cursorInstr_cons h, hi, Bool.false_eq_true, if_false]

theorem clauseStep_illegal {s : State} {x : Ctx} {w : Nat} {r : List Nat} (h : x.cl.words.drop x.cl.cursor = w :: r)
    (hi : decode w (r.headD 0) = none) : clauseStep s x = .next (squash s x 0x02 x.instrAddr x.cl.subset []) := by
  simp only [clauseStep, wordsDone_eq_false h, cursorInstr_cons h, hi, illegalWord, Bool.false_eq_true, if_false]

theorem clauseStep_end {s : State} {x : Ctx} (h : x.cl.words.length ≤ x.cl.cursor) : clauseStep s x = wordsEnd s x :=
  if_pos (decide_eq_true h)

/-- Settles O3: a step is the clause's, and what the clause does turns on the words under its cursor and then on its phase. -/
theorem stepRunsTheClausesNextWord : Obligations.StepRunsTheClausesNextWord := by
  refine ⟨fun s x hx => ⟨fun i w r hw hi => ?_, fun hd hp => ?_, fun hd hp => ?_, fun hd hp => ?_⟩, fun s x w r hx hw hi => ?_⟩
  · rw [step_of_ctx hx, clauseStep_word hw hi, tick]
  · rw [step_of_ctx hx, clauseStep_end hd, wordsEnd, hp, tick]
  · rw [step_of_ctx hx, clauseStep_end hd, wordsEnd, hp, tick]
  · rw [step_of_ctx hx, clauseStep_end hd, wordsEnd, hp, tick]
  · rw [step_of_ctx hx, clauseStep_illegal hw hi, tick, Ctx.instrAddr]

end Sys2Proof.Machine
end

section
/-!
PROOFS. A squash takes the trap of a program's clause (R33, R394 to R396): the clause's troupe, the deliveries of its core and memory after
it.
-/

namespace Sys2Proof.Machine

/-! ## Cores and troupes under the updates of a squash -/

@[simp] theorem coreOf_setTroupe_self (s : State) (c p : Nat) (t : Troupe) :
    coreOf (setTroupe s c p t) c = { coreOf s c with troupes := tabPut (coreOf s c).troupes p t } := by
  simp [setTroupe]

/-- An update of a core that leaves its troupes. -/
theorem troupeAt_modCore {s : State} {c : Nat} {f : CoreSt → CoreSt} (h : (f (coreOf s c)).troupes = (coreOf s c).troupes) (d p : Nat) :
    troupeAt (modCore s c f) d p = troupeAt s d p := by
  by_cases hc : c = d
  · subst hc
    simp [troupeAt, h]
  · simp [troupeAt, coreOf_modCore_ne s f hc]

/-- The end of a clause may leave the kill of its gang to be gone on with, and no more (R36). -/
theorem clauseOver_eq (s : State) (key : Nat) : ∃ a, clauseOver s key = { s with agenda := a } := by
  unfold clauseOver
  split
  · exact ⟨s.agenda, rfl⟩
  · dsimp only
    split
    · exact ⟨_, rfl⟩
    · exact ⟨s.agenda, rfl⟩

theorem raiseDelivery_troupe {s : State} {core : Nat} {d : Delivery} (h : d.kind = .troupe) :
    raiseDelivery s core d = modCore s core fun k => { k with deliveries := k.deliveries ++ [d] } := by
  simp [raiseDelivery, h]

/-- A program's trap waits behind the deliveries already there, and its troupe is suspended. -/
theorem takeTrap_program {s : State} {core pos : Nat} {t : Troupe} (hp : pos ≠ 64) (ht : troupeAt s core pos = some t) (cause : Nat)
    (addr : Word) (lanes subset : LaneMask) (pcs : Lanes) (syms : List Nat) :
    takeTrap s core pos cause addr lanes subset pcs syms =
      setTroupe (modCore s core fun k =>
          { k with deliveries := k.deliveries ++ [deliveryOf s .troupe cause addr lanes subset pcs pos t syms] })
        core pos { endNaps t with suspended := true } := by
  have hs : isSup pos = false := decide_eq_false hp
  simp only [takeTrap, hs, Bool.false_eq_true, if_false, ht]
  rw [raiseDelivery_troupe rfl]

/-- Where memory, the far memories and the groups stand, every byte does. -/
theorem sameBytes_of_memories {s t : State} (hm : t.mem = s.mem) (hh : t.hostMem = s.hostMem) (hp : t.peerMem = s.peerMem)
    (hg : t.groups = s.groups) : SameBytes s t := by
  intro l i
  simp only [rawByte, groupAt, hm, hh, hp, hg]

/-- Threads are all that a thread's reading looks at. -/
theorem threadOf_congr {t u : Troupe} (h : u.threads = t.threads) (l : Nat) : threadOf u l = threadOf t l := by
  simp only [threadOf, h]

/-- Cores change no byte. -/
theorem SameBytes.of_cores {s q : State} (h : SameBytes s q) (c p : Nat) (f : CoreSt → CoreSt) (u : Troupe) :
    SameBytes s (setTroupe (modCore q c f) c p u) :=
  fun l i => (sameBytes_of_memories (s := q) rfl rfl rfl rfl l i).trans (h l i)

/-- A nap ends and nothing else of a thread changes (R115). -/
theorem threadOf_endNaps (t : Troupe) (l : Nat) :
    threadOf (endNaps t) l =
      { threadOf t l with st := match (threadOf t l).st with | .napping _ => .runnable | st => st } := by
  simp only [threadOf, tabGet, endNaps, tabGet?_tabMap]
  cases tabGet? t.threads l with
  | none => rfl
  | some h =>
    simp only [Option.map_some, Option.getD_some]
    split <;> simp_all

/-! ## The clause dropped -/

/-- The machine with a squashed clause dropped, before its trap is taken. -/
def clauseDropped (s : State) (x : Ctx) : State :=
  let s := modTroupe s x.core x.pos fun t => { dropTaken t x.cl with clause := none }
  let s := modCore s x.core fun k => { k with passed := [], symbols := k.symbols.filter fun e => !x.cl.symbols.contains e.1 }
  clauseOver { s with focus := none } x.t.group

theorem squash_eq_takeTrap (s : State) (x : Ctx) (cause : Nat) (addr : Word) (lanes : LaneMask) (syms : List Nat) :
    squash s x cause addr lanes syms =
      takeTrap (clauseDropped s x) x.core x.pos cause addr lanes x.cl.subset (mkLanes fun _ => x.cl.head) syms := rfl

/-- What dropping a clause leaves: memory, the groups and the deliveries of its core; nothing is in execution then. -/
theorem clauseDropped_frame {s : State} {x : Ctx} (ht : troupeAt s x.core x.pos = some x.t) :
    SameBytes s (clauseDropped s x) ∧ (clauseDropped s x).focus = none ∧
      (coreOf (clauseDropped s x) x.core).deliveries = (coreOf s x.core).deliveries := by
  rw [clauseDropped, modTroupe_eq ht]
  obtain ⟨a, ha⟩ := clauseOver_eq _ x.t.group
  rw [ha]
  refine ⟨sameBytes_of_memories rfl rfl rfl rfl, rfl, ?_⟩
  simp [coreOf, modCore, setCore, setTroupe]

theorem troupeAt_clauseDropped {s : State} {x : Ctx} (ht : troupeAt s x.core x.pos = some x.t) :
    troupeAt (clauseDropped s x) x.core x.pos = some { dropTaken x.t x.cl with clause := none } := by
  rw [clauseDropped, modTroupe_eq ht]
  obtain ⟨a, ha⟩ := clauseOver_eq _ x.t.group
  rw [ha]
  simp [troupeAt, coreOf, modCore, setCore, setTroupe]

/-- Settles O30: the clause is dropped and its trap waits as a delivery. -/
theorem squashTakesTheTrap : Obligations.SquashTakesTheTrap := by
  intro s x cause addr lanes hx hp
  obtain ⟨-, ht, -⟩ := ctxOf_some hx
  obtain ⟨hbytes, hfocus, hdel⟩ := clauseDropped_frame ht
  rw [squash_eq_takeTrap, takeTrap_program hp (troupeAt_clauseDropped ht)]
  refine ⟨hbytes.of_cores _ _ _ _, hfocus, ⟨_, troupeAt_setTroupe_self .., rfl, rfl, rfl, rfl, rfl, rfl, fun l => ?_⟩, ?_⟩
  · rw [threadOf_congr (t := endNaps x.t), threadOf_endNaps]
    · exact ⟨rfl, rfl, rfl, rfl, rfl⟩
    · rfl
  · refine ⟨_, by rw [coreOf_setTroupe_self, coreOf_modCore_self, hdel], rfl, rfl, rfl, rfl, rfl, rfl, rfl, ?_⟩
    exact fun l hl => laneOf_mkLanes (fun _ => x.cl.head) hl

end Sys2Proof.Machine
end

section
/-!
PROOFS. The commit of a clause (R31): the registers, predicates and meetings of the lanes that took part, the k registers and the flags.
-/

namespace Sys2Proof.Machine

/-! ## Tables written in one pass -/

theorem tabGet?_eq_none {α : Type} {t : Tab α} {n : Nat} : tabGet? t n = none ↔ n ∉ t.map Prod.fst := by
  induction t with
  | nil => simp
  | cons e r ih =>
    obtain ⟨k, v⟩ := e
    by_cases h : k = n
    · simp [tabGet?, h]
    · simp [tabGet?, h, ih, Ne.symm h]

/-- A table put into another leaves the keys it does not have. -/
theorem tabGet?_foldl_tabPut_of_none {α β : Type} (g : Tab α → Nat × β → α) {w : Tab β} {n : Nat} (h : tabGet? w n = none) (a : Tab α) :
    tabGet? (w.foldl (fun a e => tabPut a e.1 (g a e)) a) n = tabGet? a n := by
  induction w generalizing a with
  | nil => rfl
  | cons e r ih =>
    simp only [tabGet?_eq_none, List.map_cons, List.mem_cons, not_or] at h
    rw [List.foldl_cons, ih (tabGet?_eq_none.2 h.2), tabGet?_tabPut_ne _ _ (Ne.symm h.1)]

/-- A table put into another, each entry computed from the one it replaces. -/
theorem tabGet?_foldl_tabPut_of_some {α β : Type} (f : β → α → α) (d : α) {w : Tab β} (hw : (w.map Prod.fst).Nodup) {n : Nat} {v : β}
    (h : tabGet? w n = some v) (a : Tab α) :
    tabGet? (w.foldl (fun a e => tabPut a e.1 (f e.2 (tabGet a e.1 d))) a) n = some (f v (tabGet a n d)) := by
  induction w generalizing a with
  | nil => cases h
  | cons e r ih =>
    obtain ⟨k, u⟩ := e
    simp only [List.map_cons, List.nodup_cons] at hw
    rw [List.foldl_cons]
    by_cases hk : k = n
    · subst hk
      obtain rfl : u = v := by simpa [tabGet?] using h
      rw [tabGet?_foldl_tabPut_of_none _ (tabGet?_eq_none.2 hw.1), tabGet?_tabPut_self]
    · simp only [tabGet?, if_neg hk] at h
      rw [ih hw.2 h, tabGet_tabPut_ne _ _ _ hk]

/-- Keys that a pass does not name keep what they hold. -/
theorem tabGet?_foldl_tabPut_of_notMem {α : Type} (g : Tab α → Nat → α) (ls : List Nat) (a : Tab α) {n : Nat} (h : n ∉ ls) :
    tabGet? (ls.foldl (fun a l => tabPut a l (g a l)) a) n = tabGet? a n := by
  induction ls generalizing a with
  | nil => rfl
  | cons l r ih =>
    simp only [List.mem_cons, not_or] at h
    rw [List.foldl_cons, ih _ h.2, tabGet?_tabPut_ne _ _ (Ne.symm h.1)]

/-- Keys named once take the value computed from what they held. -/
theorem tabGet_foldl_tabPut {α : Type} (f : Nat → α → α) (d : α) (ls : List Nat) (hl : ls.Nodup) (a : Tab α) (n : Nat) :
    tabGet (ls.foldl (fun a l => tabPut a l (f l (tabGet a l d))) a) n d = if n ∈ ls then f n (tabGet a n d) else tabGet a n d := by
  induction ls generalizing a with
  | nil => rfl
  | cons l r ih =>
    simp only [List.nodup_cons] at hl
    rw [List.foldl_cons, ih hl.2]
    by_cases h : l = n
    · subst h
      simp [hl.1]
    · simp [tabGet_tabPut_ne _ _ _ h, Ne.symm h]

/-- What one write of a key establishes and another keeps holds of a key named at least once. -/
theorem tabGet_foldl_tabPut_rec {α : Type} {P Q : α → Prop} {g : α → α} {d : α} (hP : ∀ v, P v → Q (g v)) (hQ : ∀ v, Q v → Q (g v))
    (ls : List Nat) (a : Tab α) {n : Nat} (h : Q (tabGet a n d) ∨ n ∈ ls ∧ P (tabGet a n d)) :
    Q (tabGet (ls.foldl (fun a l => tabPut a l (g (tabGet a l d))) a) n d) := by
  induction ls generalizing a with
  | nil => exact h.resolve_right (by simp)
  | cons l r ih =>
    rw [List.foldl_cons]
    apply ih
    by_cases hl : l = n
    · subst hl
      rw [tabGet_tabPut_self]
      exact .inl (h.elim (hQ _) fun h => hP _ h.2)
    · rw [tabGet_tabPut_ne _ _ _ hl]
      exact h.imp_right fun h => ⟨(List.mem_cons.1 h.1).resolve_left (Ne.symm hl), h.2⟩

/-! ## Threads -/

theorem nodup_maskLanes (m : LaneMask) : (maskLanes m).Nodup := List.Nodup.filter _ List.nodup_range

/-- A change to some lanes' threads. -/
@[simp] theorem threadOf_modThreads (t : Troupe) (m : LaneMask) (f : Nat → Thread → Thread) (l : Nat) :
    threadOf (modThreads t m f) l = if m.getLsbD l then f l (threadOf t l) else threadOf t l := by
  simp only [threadOf, modThreads, tabGet_foldl_tabPut _ _ _ (nodup_maskLanes m), mem_maskLanes]

theorem getLsbD_liveLanes (t : Troupe) {l : Nat} (hl : l < 32) (h : (threadOf t l).st ≠ .exited) : (liveLanes t).getLsbD l = true := by
  simp [liveLanes, hl, h]

/-- The lanes a register's storage format answers to include every lane that has not exited (R120). -/
theorem getLsbD_formatLanes (t : Troupe) {l : Nat} (hl : l < 32) (h : (threadOf t l).st ≠ .exited) :
    (formatLanes t).getLsbD l = true := by
  have hlive := getLsbD_liveLanes t hl h
  have hne : liveLanes t ≠ 0 := by
    intro h0
    simp [h0] at hlive
  unfold formatLanes
  split
  · change (BitVec.allOnes 32).getLsbD l = true
    simp only [BitVec.getLsbD_allOnes, hl, decide_true]
  · exact hlive

/-! ## Registers -/

/-- A register that is not pending. -/
theorem entry_encodeReg (lanes : LaneMask) (v : Lanes) : (encodeReg lanes v).entry ≠ .pending := by
  unfold encodeReg
  split
  · exact nofun
  · exact nofun

/-- Encoding keeps the values of the lanes it answers to (R119, R120). -/
theorem laneOf_encodeReg {lanes : LaneMask} (v : Lanes) {l : Nat} (h : lanes.getLsbD l = true) :
    laneOf (encodeReg lanes v).vals l = laneOf v l := by
  unfold encodeReg
  split
  next hz =>
    have h0 := List.all_eq_true.1 hz l ((mem_maskLanes lanes l).2 h)
    exact (beq_iff_eq.1 h0).symm
  next => simp [laneOf_mkLanes _ (BitVec.lt_of_getLsbD h), h]

theorem entry_known (f : Nat → Word) : (known f).entry ≠ .pending := by
  simp [known]

theorem commitReg_of_settled {live active : LaneMask} {new old : Reg} (hn : new.entry ≠ .pending) (ho : old.entry ≠ .pending) :
    commitReg live active new old = encodeReg live (laneMerge active new.vals old.vals) := by
  simp [commitReg, mergeReg, hn, ho]

theorem laneOf_commitReg {live active : LaneMask} {new old : Reg} (hn : new.entry ≠ .pending) (ho : old.entry ≠ .pending) {l : Nat}
    (hl : live.getLsbD l = true) :
    laneOf (commitReg live active new old).vals l = if active.getLsbD l then laneOf new.vals l else laneOf old.vals l := by
  rw [commitReg_of_settled hn ho, laneOf_encodeReg _ hl, laneMerge, laneOf_mkLanes _ (BitVec.lt_of_getLsbD hl)]

theorem entry_commitReg {live active : LaneMask} {new old : Reg} (hn : new.entry ≠ .pending) (ho : old.entry ≠ .pending) :
    (commitReg live active new old).entry ≠ .pending := by
  rw [commitReg_of_settled hn ho]
  exact entry_encodeReg _ _

/-- The marks of a clause that its words do not write (R122). -/
def unwrittenMarks (cl : Clause) : List Nat := cl.marks.filter fun n => (tabGet? cl.xw n).isNone

/-- The registers of a troupe with a clause's results written. -/
def writtenRegs (t : Troupe) (cl : Clause) : Tab Reg :=
  cl.xw.foldl (fun a e => tabPut a e.1 (commitReg (formatLanes t) cl.active e.2 (tabGet a e.1 emptyReg))) t.regs

/-- The registers with the unwritten marks read as zero after that. -/
def markedRegs (t : Troupe) (cl : Clause) : Tab Reg :=
  (unwrittenMarks cl).foldl (fun a n => tabPut a n (commitReg (formatLanes t) cl.active (known fun _ => 0) (tabGet a n emptyReg)))
    (writtenRegs t cl)

theorem commitRegs_eq (t : Troupe) {cl : Clause} (h : cl.active ≠ 0) : commitRegs t cl = { t with regs := markedRegs t cl } := by
  rw [commitRegs, if_neg h]
  rfl

theorem commitRegs_of_inactive (t : Troupe) {cl : Clause} (h : cl.active = 0) : commitRegs t cl = t := if_pos h

/-- The commit of registers is of registers alone. -/
theorem commitRegs_frame (t : Troupe) (cl : Clause) :
    (commitRegs t cl).threads = t.threads ∧ (commitRegs t cl).kregs = t.kregs ∧ (commitRegs t cl).mode = t.mode ∧
      (commitRegs t cl).sb = t.sb := by
  unfold commitRegs
  split
  · exact ⟨rfl, rfl, rfl, rfl⟩
  · exact ⟨rfl, rfl, rfl, rfl⟩

theorem mem_unwrittenMarks {cl : Clause} {n : Nat} : n ∈ unwrittenMarks cl ↔ n ∈ cl.marks ∧ tabGet? cl.xw n = none := by
  simp [unwrittenMarks]

theorem tabGet?_writtenRegs_of_none (t : Troupe) {cl : Clause} {n : Nat} (h : tabGet? cl.xw n = none) :
    tabGet? (writtenRegs t cl) n = tabGet? t.regs n := tabGet?_foldl_tabPut_of_none _ h _

/-- A written register, marked or not (R121, R122). -/
theorem regOf_commitRegs_written (t : Troupe) {cl : Clause} {n : Nat} {v : Reg} (ha : cl.active ≠ 0) (h : (cl.xw.map Prod.fst).Nodup)
    (hv : tabGet? cl.xw n = some v) : regOf (commitRegs t cl) n = commitReg (formatLanes t) cl.active v (regOf t n) := by
  have hm : n ∉ unwrittenMarks cl := by simp [mem_unwrittenMarks, hv]
  have hw : tabGet? (writtenRegs t cl) n = some (commitReg (formatLanes t) cl.active v (regOf t n)) :=
    tabGet?_foldl_tabPut_of_some (fun v r => commitReg (formatLanes t) cl.active v r) emptyReg h hv t.regs
  rw [commitRegs_eq t ha, regOf, tabGet, markedRegs, tabGet?_foldl_tabPut_of_notMem _ _ _ hm, hw, Option.getD_some]

/-- A register marked and not written is settled, and reads zero in the lanes that took part (R122). -/
theorem regOf_commitRegs_marked (t : Troupe) {cl : Clause} {n : Nat} (ha : cl.active ≠ 0) (hv : tabGet? cl.xw n = none) (hm : n ∈ cl.marks)
    (ho : (regOf t n).entry ≠ .pending) {l : Nat} (hl : (formatLanes t).getLsbD l = true) :
    laneOf (regOf (commitRegs t cl) n).vals l = if cl.active.getLsbD l then 0 else laneOf (regOf t n).vals l := by
  have hz : laneOf (known fun _ => 0).vals l = 0 := laneOf_mkLanes (fun _ => 0) (BitVec.lt_of_getLsbD hl)
  have hw : tabGet (writtenRegs t cl) n emptyReg = regOf t n := by rw [tabGet, tabGet?_writtenRegs_of_none t hv, regOf, tabGet]
  rw [commitRegs_eq t ha]
  refine (tabGet_foldl_tabPut_rec (P := (· = regOf t n))
    (Q := fun r => r.entry ≠ .pending ∧ laneOf r.vals l = if cl.active.getLsbD l then 0 else laneOf (regOf t n).vals l)
    ?_ ?_ (unwrittenMarks cl) (writtenRegs t cl) (.inr ⟨mem_unwrittenMarks.2 ⟨hm, hv⟩, hw⟩)).2
  · rintro r rfl
    exact ⟨entry_commitReg (entry_known _) ho, (laneOf_commitReg (entry_known _) ho hl).trans (by rw [hz])⟩
  · rintro r ⟨he, hr⟩
    refine ⟨entry_commitReg (entry_known _) he, (laneOf_commitReg (entry_known _) he hl).trans ?_⟩
    rw [hz, hr]
    split
    · rfl
    · rfl

theorem tabGet?_commitRegs_untouched (t : Troupe) {cl : Clause} {n : Nat} (hv : tabGet? cl.xw n = none) (hm : n ∉ cl.marks) :
    tabGet? (commitRegs t cl).regs n = tabGet? t.regs n := by
  by_cases ha : cl.active = 0
  · rw [commitRegs_of_inactive t ha]
  · rw [commitRegs_eq t ha, markedRegs, tabGet?_foldl_tabPut_of_notMem _ _ _ fun h => hm (mem_unwrittenMarks.1 h).1,
      tabGet?_writtenRegs_of_none t hv]

/-! ## Predicates and meetings -/

/-- A lane's predicates after the written ones (R31). -/
def writtenPreds (w : Tab (BitVec 32)) (l : Nat) (p : BitVec 7) : BitVec 7 :=
  w.foldl (fun p e => if e.2.getLsbD l then p ||| BitVec.ofNat 7 (1 <<< e.1) else p &&& ~~~BitVec.ofNat 7 (1 <<< e.1)) p

/-- Writing one predicate sets or clears its bit and no other. -/
theorem getLsbD_writtenPred (b : Bool) (p : BitVec 7) (k : Nat) {q : Nat} (hq : q < 7) :
    (if b then p ||| BitVec.ofNat 7 (1 <<< k) else p &&& ~~~BitVec.ofNat 7 (1 <<< k)).getLsbD q = if k = q then b else p.getLsbD q := by
  have hbit : (BitVec.ofNat 7 (1 <<< k)).getLsbD q = decide (k = q) := by
    rw [BitVec.getLsbD_ofNat, Nat.one_shiftLeft, Nat.testBit_two_pow]
    simp [hq]
  cases b
  case true =>
    simp only [if_true, BitVec.getLsbD_or, hbit]
    by_cases hk : k = q
    · simp [hk]
    · simp [hk]
  case false =>
    simp only [Bool.false_eq_true, if_false, BitVec.getLsbD_and, BitVec.getLsbD_not, hbit]
    by_cases hk : k = q
    · simp [hk]
    · simp [hk, hq]

theorem getLsbD_writtenPreds {w : Tab (BitVec 32)} (hw : (w.map Prod.fst).Nodup) (l : Nat) (p : BitVec 7) {q : Nat} (hq : q < 7) :
    (writtenPreds w l p).getLsbD q = ((tabGet? w q).map fun m => m.getLsbD l).getD (p.getLsbD q) := by
  induction w generalizing p with
  | nil => rfl
  | cons e r ih =>
    obtain ⟨k, m⟩ := e
    simp only [List.map_cons, List.nodup_cons] at hw
    rw [writtenPreds, List.foldl_cons, ← writtenPreds, ih hw.2, getLsbD_writtenPred _ _ _ hq]
    by_cases hk : k = q
    · subst hk
      simp [tabGet?_eq_none.2 hw.1, tabGet?]
    · simp [tabGet?, hk]

theorem threadOf_commitThreads (t : Troupe) (cl : Clause) (l : Nat) :
    threadOf (commitThreads t cl) l =
      if cl.active.getLsbD l then
        { threadOf t l with
          preds := writtenPreds cl.pw l (threadOf t l).preds
          meet := ((tabGet? cl.meets l).map fun m => m.extractLsb' 0 32).getD (threadOf t l).meet
          join := ((tabGet? cl.meets l).map fun m => m.extractLsb' 32 32).getD (threadOf t l).join }
      else threadOf t l := by
  rw [commitThreads, threadOf_modThreads]
  split
  · cases tabGet? cl.meets l with
    | none => rfl
    | some m => simp [BitVec.extractLsb', writtenPreds, Nat.shiftRight_eq_div_pow]
  · rfl

/-- A lane that took no part keeps its predicates and its meeting. -/
theorem threadOf_commitThreads_off (t : Troupe) {cl : Clause} {l : Nat} (h : cl.active.getLsbD l = false) :
    threadOf (commitThreads t cl) l = threadOf t l := by
  rw [threadOf_commitThreads, h]
  rfl

/-! ## Recording for the commit -/

/-- A k register takes the lowest lane's value (R31). -/
theorem kw_writeD (x : Ctx) (cl : Clause) (n : BitVec 5) (r : Reg) {b : Nat} (h : lowLane x.live = some b) :
    tabGet? (writeD x cl (.k n) r).kw n.toNat = some (laneOf r.vals b) := by
  simp [writeD, h]

/-- p7 takes nothing (R31). -/
theorem writePred_seven (x : Ctx) (cl : Clause) (p : Nat → Bool) : writePred x cl 7 p = cl := if_pos rfl

/-! ## What the commit leaves of the troupe -/

/-- A fold of updates that each leave a part of the state. -/
theorem foldl_keeps {α β : Type} {proj : State → β} {f : State → α → State} (hf : ∀ s a, proj (f s a) = proj s) (ls : List α)
    (s : State) : proj (ls.foldl f s) = proj s := by
  induction ls generalizing s with
  | nil => rfl
  | cons a r ih => exact (ih (f s a)).trans (hf s a)

theorem troupeAt_of_cores {s s' : State} (h : s'.cores = s.cores) (c p : Nat) : troupeAt s' c p = troupeAt s c p := by
  simp only [troupeAt, coreOf, h]

theorem countReaders_cores (s : State) (up : Bool) (rs : List Res) : (countReaders s up rs).cores = s.cores :=
  foldl_keeps (fun _ _ => modGroup_cores ..) rs s

theorem troupeAt_enqueue (s : State) (core : Nat) (hi : Bool) (e : TileEntry) (c p : Nat) :
    troupeAt (enqueue s core hi e) c p = troupeAt s c p := by
  refine (troupeAt_of_cores (countReaders_cores ..) c p).trans (troupeAt_modCore ?_ c p)
  cases hi
  · rfl
  · rfl

theorem troupeAt_appendSegment (s : State) (core key : Nat) (opn : Bool) (d : Word) (notify : Option Loc) (b : Nat)
    (job : Option (Nat × Nat × Nat)) (c p : Nat) : troupeAt (appendSegment s core key opn d notify b job) c p = troupeAt s c p :=
  (troupeAt_of_cores (countReaders_cores ..) c p).trans (troupeAt_modCore rfl c p)

theorem troupeAt_enqueueAll (s : State) (x : Ctx) (c p : Nat) : troupeAt (enqueueAll s x) c p = troupeAt s c p := by
  refine foldl_keeps (proj := fun s => troupeAt s c p) (fun s r => ?_) x.cl.tiles s
  cases r with
  | entry hi e => exact troupeAt_enqueue ..
  | segment opn d n b => exact troupeAt_appendSegment ..

theorem troupeAt_dropSpills (s : State) (core pos : Nat) (regs : List Nat) (c p : Nat) :
    troupeAt (dropSpills s core pos regs) c p = troupeAt s c p := troupeAt_modCore rfl c p

theorem troupeAt_sweepSymbols (s : State) (core pos c p : Nat) : troupeAt (sweepSymbols s core pos) c p = troupeAt s c p := by
  unfold sweepSymbols
  split
  · rfl
  · exact troupeAt_modCore rfl c p

theorem troupeAt_calm (s : State) (key c p : Nat) : troupeAt (calm s key) c p = troupeAt s c p := troupeAt_of_cores (modGroup_cores ..) c p

theorem troupeAt_clauseOver (s : State) (key c p : Nat) : troupeAt (clauseOver s key) c p = troupeAt s c p := by
  obtain ⟨a, ha⟩ := clauseOver_eq s key
  rw [ha]
  rfl

/-- The troupe stands but for its MODE. -/
def StandsButMode (core pos : Nat) (t : Troupe) (s : State) : Prop := ∃ m, troupeAt s core pos = some { t with mode := m }

theorem StandsButMode.of_same {core pos : Nat} {t : Troupe} {s s' : State} (h : troupeAt s core pos = some t)
    (hs : troupeAt s' core pos = troupeAt s core pos) : StandsButMode core pos t s' := ⟨t.mode, hs.trans h⟩

theorem StandsButMode.ite {core pos : Nat} {t : Troupe} {c : Prop} [Decidable c] {s s' : State} (h : StandsButMode core pos t s)
    (h' : StandsButMode core pos t s') : StandsButMode core pos t (if c then s else s') := by
  split
  · exact h
  · exact h'

/-- A control register's write reaches nothing of the troupe but its MODE. -/
theorem storeCsr_standsButMode {s : State} {core pos : Nat} {t : Troupe} (h : troupeAt s core pos = some t) (n : Nat) (v : Word) :
    StandsButMode core pos t (storeCsr s core pos n v) := by
  have core_update (f : CoreSt → CoreSt) (hf : (f (coreOf s core)).troupes = (coreOf s core).troupes) :
      StandsButMode core pos t (modCore s core f) := .of_same h (troupeAt_modCore hf _ _)
  unfold storeCsr
  refine .ite ?mode (.ite ?captab (.ite (core_update _ rfl) (.ite (core_update _ rfl) (.ite ?page (.ite ?kill
    (.ite (core_update _ rfl) (.ite (core_update _ rfl) (.ite (core_update _ rfl) (.of_same h rfl)))))))))
  case mode => exact ⟨modeWrite v, by rw [modTroupe_eq h, troupeAt_setTroupe_self]⟩
  case captab =>
    rw [h]
    dsimp only
    cases captabGroup s core pos t with
    | none => exact .of_same h rfl
    | some key => exact .of_same h (troupeAt_of_cores (modGroup_cores ..) _ _)
  case page =>
    cases liveService s core with
    | none => exact .of_same h rfl
    | some d => exact .of_same h rfl
  case kill =>
    cases liveService s core with
    | none => exact .of_same h rfl
    | some d => exact .ite (.of_same h rfl) (.of_same h rfl)

theorem storeCsrs_standsButMode {core pos : Nat} (w : Tab Word) {s : State} {t : Troupe} (h : StandsButMode core pos t s) :
    StandsButMode core pos t (w.foldl (fun s e => storeCsr s core pos e.1 e.2) s) := by
  induction w generalizing s with
  | nil => exact h
  | cons e r ih =>
    obtain ⟨m, hm⟩ := h
    exact ih (storeCsr_standsButMode hm e.1 e.2)

/-- The troupe with a clause's results written: registers, predicates, meetings, k registers. -/
def resultsTroupe (s : State) (x : Ctx) : Troupe :=
  let t := commitThreads (commitRegs (closeBatches s x.core x.t) x.cl) x.cl
  { t with kregs := x.cl.kw.foldl (fun a e => tabPut a e.1 e.2) t.kregs }

/-- A thread of the subset past the clause. -/
def passClause (s : State) (x : Ctx) (h : Thread) : Thread :=
  let site := (gridOfGroup s (resultsTroupe s x).group).bind fun g => stopSite g x.cl.head x.cl.hdr.stop
  { h with pc := nextHead x.cl, site := (site.map (· + 1)).getD h.site, seen := false }

/-- The troupe as the commit puts it back: results written, no clause, its subset at the next header. -/
def committedTroupe (s : State) (x : Ctx) : Troupe :=
  let t := { modThreads (resultsTroupe s x) x.cl.subset fun _ h => passClause s x h with clause := none }
  if x.cl.hdr.cls = 2 || x.cl.hdr.cls = 4 then { t with nextStart := max t.nextStart (s.cycle + 4) } else t

theorem committedTroupe_clause (s : State) (x : Ctx) : (committedTroupe s x).clause = none := by
  unfold committedTroupe
  dsimp only
  split
  · rfl
  · rfl

theorem committedTroupe_mode (s : State) (x : Ctx) : (committedTroupe s x).mode = x.t.mode := by
  have h := (commitRegs_frame (closeBatches s x.core x.t) x.cl).2.2.1
  unfold committedTroupe
  dsimp only
  split
  · exact h
  · exact h

theorem committedTroupe_kregs (s : State) (x : Ctx) :
    (committedTroupe s x).kregs = x.cl.kw.foldl (fun a e => tabPut a e.1 e.2) x.t.kregs := by
  have h := congrArg (x.cl.kw.foldl fun a e => tabPut a e.1 e.2) (commitRegs_frame (closeBatches s x.core x.t) x.cl).2.1
  unfold committedTroupe
  dsimp only
  split
  · exact h
  · exact h

theorem committedTroupe_threads (s : State) (x : Ctx) :
    (committedTroupe s x).threads = (modThreads (resultsTroupe s x) x.cl.subset fun _ h => passClause s x h).threads := by
  unfold committedTroupe
  dsimp only
  split
  · rfl
  · rfl

/-- Results leave the program counters. -/
theorem threadOf_resultsTroupe_pc (s : State) (x : Ctx) (l : Nat) : (threadOf (resultsTroupe s x) l).pc = (threadOf x.t l).pc := by
  have h : (resultsTroupe s x).threads = (commitThreads (commitRegs (closeBatches s x.core x.t) x.cl) x.cl).threads := rfl
  rw [threadOf_congr h, threadOf_commitThreads, threadOf_congr (t := x.t) (commitRegs_frame (closeBatches s x.core x.t) x.cl).1]
  split
  · rfl
  · rfl

/-- The lanes of the subset stand at the next header, the others where they were. -/
theorem threadOf_committedTroupe_pc (s : State) (x : Ctx) (l : Nat) :
    (threadOf (committedTroupe s x) l).pc = if x.cl.subset.getLsbD l then nextHead x.cl else (threadOf x.t l).pc := by
  rw [threadOf_congr (committedTroupe_threads s x), threadOf_modThreads]
  split
  · rfl
  · exact threadOf_resultsTroupe_pc ..

theorem joinBatch_eq (s : State) (core : Nat) (t : Troupe) (cl : Clause) : ∃ k, joinBatch s core t cl = { t with tracks := k } := by
  unfold joinBatch
  dsimp only
  split
  · exact ⟨_, rfl⟩
  · exact ⟨_, rfl⟩

/-- The state with the committed troupe put back, tile work enqueued and control registers stored. -/
def resultsStored (s : State) (x : Ctx) : State :=
  let s := enqueueAll (setTroupe s x.core x.pos (committedTroupe s x)) x
  let s := dropSpills s x.core x.pos ((x.cl.xw.map fun e => e.1) ++ x.cl.marks)
  x.cl.csrw.foldl (fun s e => storeCsr s x.core x.pos e.1 e.2) s

/-- The end of a commit: flags merged, the batch on its track (R28), symbols swept, the grid's clock and the gang's end. -/
def commitEnd (s : State) (x : Ctx) (key : Nat) : State :=
  let s := modTroupe s x.core x.pos fun t => { t with mode := modeMerge t.mode x.cl.flags }
  let s := modTroupe s x.core x.pos fun t => joinBatch s x.core t x.cl
  let s := sweepSymbols s x.core x.pos
  let s := modGrid s (key / 2 ^ 64) fun g => if isMinuet g then { g with clk := g.clk + (clauseInstrs x.cl).length } else g
  calm (clauseOver { s with focus := none } key) key

theorem commitClause_eq (s : State) (x : Ctx) : commitClause s x = commitEnd (resultsStored s x) x (committedTroupe s x).group := rfl

theorem resultsStored_standsButMode (s : State) (x : Ctx) : StandsButMode x.core x.pos (committedTroupe s x) (resultsStored s x) :=
  storeCsrs_standsButMode _ (.of_same (troupeAt_setTroupe_self ..) ((troupeAt_dropSpills ..).trans (troupeAt_enqueueAll ..)))

theorem troupeAt_resultsStored_of_noCsr (s : State) {x : Ctx} (h : x.cl.csrw = []) :
    troupeAt (resultsStored s x) x.core x.pos = some (committedTroupe s x) := by
  rw [resultsStored, h, List.foldl_nil, troupeAt_dropSpills, troupeAt_enqueueAll, troupeAt_setTroupe_self]

theorem troupeAt_commitEnd {s : State} {x : Ctx} {t : Troupe} (h : troupeAt s x.core x.pos = some t) (key : Nat) :
    ∃ k, troupeAt (commitEnd s x key) x.core x.pos = some { t with mode := modeMerge t.mode x.cl.flags, tracks := k } := by
  obtain ⟨k, hk⟩ := joinBatch_eq (setTroupe s x.core x.pos { t with mode := modeMerge t.mode x.cl.flags }) x.core
    { t with mode := modeMerge t.mode x.cl.flags } x.cl
  refine ⟨k, ?_⟩
  rw [commitEnd, troupeAt_calm, troupeAt_clauseOver, modTroupe_eq h, modTroupe_eq (troupeAt_setTroupe_self ..), hk]
  refine (troupeAt_of_cores (modGrid_cores ..) ..).trans ?_
  rw [troupeAt_sweepSymbols, troupeAt_setTroupe_self]

/-- The commit puts the troupe back, stores the control registers and merges the flags into MODE; its batch joins a track (R28, R31). -/
theorem troupeAt_commitClause (s : State) (x : Ctx) :
    ∃ m k, troupeAt (commitClause s x) x.core x.pos = some { committedTroupe s x with mode := modeMerge m x.cl.flags, tracks := k } ∧
      (x.cl.csrw = [] → m = x.t.mode) := by
  rw [commitClause_eq]
  obtain ⟨m, hm⟩ := resultsStored_standsButMode s x
  obtain ⟨k, hk⟩ := troupeAt_commitEnd hm (committedTroupe s x).group
  refine ⟨m, k, hk, fun hw => ?_⟩
  have h := Option.some.inj (hm.symm.trans (troupeAt_resultsStored_of_noCsr s hw))
  exact (congrArg Troupe.mode h).trans (committedTroupe_mode s x)

/-! ## The obligation -/

/-- The flags of a clause are bits 8 to 12 of MODE (R167, R168). -/
theorem getLsbD_modeMerge (mode : Word) (flags i : Nat) :
    (modeMerge mode flags).getLsbD i = (mode.getLsbD i || (decide (8 ≤ i) && decide (i ≤ 12) && flags.testBit (i - 8))) := by
  have hflag : (word (flags % 32 * 256)).getLsbD i = (decide (8 ≤ i) && decide (i ≤ 12) && flags.testBit (i - 8)) := by
    rw [word, BitVec.getLsbD_ofNat, show (256 : Nat) = 2 ^ 8 from rfl, Nat.testBit_mul_two_pow, show (32 : Nat) = 2 ^ 5 from rfl,
      Nat.testBit_mod_two_pow]
    by_cases h8 : 8 ≤ i
    · by_cases h12 : i ≤ 12
      · simp [h8, h12, show i < 64 by omega, show i - 8 < 5 by omega]
      · simp [h12, show ¬i - 8 < 5 by omega]
    · simp [h8]
  rw [modeMerge, BitVec.getLsbD_or, hflag]

theorem kOf_committedTroupe (s : State) {x : Ctx} (h : (x.cl.kw.map Prod.fst).Nodup) (n : Nat) :
    kOf (committedTroupe s x) n = (tabGet? x.cl.kw n).getD (kOf x.t n) := by
  rw [kOf, committedTroupe_kregs, tabGet]
  cases hv : tabGet? x.cl.kw n with
  | none => rw [tabGet?_foldl_tabPut_of_none _ hv]; rfl
  | some v => rw [tabGet?_foldl_tabPut_of_some (fun v _ => v) 0 h hv]; rfl

/-- Settles O29: each part of the commit, by the pass that writes it. -/
theorem commitWritesTheLanesThatTookPart : Obligations.CommitWritesTheLanesThatTookPart := by
  refine ⟨fun t cl n => ?registers, fun t cl l hl hp => ?threads, fun x cl n r b => kw_writeD x cl n r, writePred_seven, fun s x ht hk => ?commit⟩
  case registers =>
    refine ⟨fun v l ha hw hv hn ho hl hst => ?_, fun l hv hm ha ho hl hst => ?_, tabGet?_commitRegs_untouched t, commitRegs_of_inactive t,
      commitRegs_frame t cl⟩
    · rw [regOf_commitRegs_written t ha hw hv, laneOf_commitReg hn ho (getLsbD_formatLanes t hl hst)]
    · exact regOf_commitRegs_marked t ha hv hm ho (getLsbD_formatLanes t hl hst)
  case threads =>
    refine ⟨threadOf_commitThreads_off t, fun hon => ?_⟩
    rw [threadOf_commitThreads, if_pos hon]
    refine ⟨rfl, rfl, fun q hq => ?_, ?_⟩
    · rw [getLsbD_writtenPreds hp l _ hq]
      cases tabGet? cl.pw q with
      | none => rfl
      | some m => rfl
    · cases tabGet? cl.meets l with
      | none => rfl
      | some m => rfl
  case commit =>
    obtain ⟨m, k, hu, hm⟩ := troupeAt_commitClause s x
    refine ⟨_, hu, fun n => ?_, fun hw i => ?_⟩
    · refine (kOf_committedTroupe s hk n).trans ?_
      cases tabGet? x.cl.kw n with
      | none => rfl
      | some v => rfl
    · exact (getLsbD_modeMerge ..).trans (by rw [hm hw])

end Sys2Proof.Machine
end

section
/-!
PROOFS. A yield on a queue waits for the troupe's acquires before it reads the queue (R361): its effect is not kept then.
-/

namespace Sys2Proof.Machine

/-- A queue yield of a troupe with an acquire not complete reads nothing yet: its clause waits. -/
theorem exec_yieldQueue_waits {s : State} {x : Ctx} {f : FA} {b : Nat} {l : Loc} (hx : ctxOf s = some x) (hp : performing x = true)
    (hops : settledOps x [f.a] = true) (hb : lowLane x.live = some b) (hl : tabGet? (found x) b = some l) (ha : x.t.acquires ≠ []) :
    exec (.yieldQueue f) s = waitHere s := by
  have hc : checking x = false := by
    have h : x.cl.phase = .perform := beq_iff_eq.1 hp
    simp [checking, h]
  have hw : (x.t.acquires.isEmpty && entryClear s x l) = false := by simp [ha]
  change execYieldQueue f s = waitHere s
  rw [execYieldQueue, inClause_some hx, use_settled s x _ _ hops]
  simp only [hb, hc, hl, hw, Bool.false_eq_true, if_false, Bool.not_false, if_true]

/-- A troupe whose acquire of program order 1 is not complete. -/
def acquiring (t : Troupe) : Troupe := { t with acquires := [1] }

/-- Refutes O27: lane 0 has found the queue it yields on, and the troupe's acquire is not complete: the clause leaves the focus and waits,
and no effect is kept. -/
theorem not_waitsAndEndsAreKeptForCommit : ¬ Obligations.WaitsAndEndsAreKeptForCommit := by
  intro h
  have hx : ctxOf (wState acquiring wPerform) = some (wCtx acquiring wPerform) := rfl
  have hops : settledOps (wCtx acquiring wPerform) [testA.a] = true := by decide
  have hb : lowLane (wCtx acquiring wPerform).live = some 0 := by decide
  have hl : tabGet? (found (wCtx acquiring wPerform)) 0 = some wLoc := rfl
  obtain ⟨-, -, -, -, -, -, hyield⟩ := h _ _ hx
  have hkept := hyield testA 0 wLoc rfl hops hb hl
  have hwaits := exec_yieldQueue_waits hx rfl hops hb hl (List.cons_ne_nil 1 [])
  have hfocus : none = (wState acquiring wPerform).focus := congrArg State.focus (Host.Outcome.next.inj (hwaits.symm.trans hkept))
  cases hfocus

end Sys2Proof.Machine
end

section
/-!
PROOFS. A clause retires (R24, R30, R31): which of its ways the retirement takes, and what the control instruction's effect does to the
threads.
-/

namespace Sys2Proof.Machine

/-! ## The retirement taken -/

/-- A clause that may retire does. -/
theorem exec_clauseRetire {s : State} {core pos : Nat} {t : Troupe} {cl : Clause} (ht : troupeAt s core pos = some t)
    (hc : t.clause = some cl) (hp : cl.phase = .retire) (hr : cl.replies = []) (hready : controlReady s ⟨core, pos, t, cl⟩ = true) :
    exec (.clauseRetire core pos) s = .next (retireClause s ⟨core, pos, t, cl⟩) := by
  change execClauseRetire core pos s = _
  rw [execClauseRetire, ht]
  dsimp only
  rw [hc]
  dsimp only
  rw [if_neg (by simp [hp]), if_neg (by simp [hr, hready])]

/-- Only a `bar` compares its masks again (R112). -/
theorem lateBarFails_of_not_bar {s : State} {x : Ctx} (h : ∀ n a b, x.cl.control ≠ .bar n a b) : lateBarFails s x = 0 := by
  unfold lateBarFails
  split
  next heq _ => exact absurd heq (h _ _ _)
  next => rfl

/-- The clause commits and its control instruction acts, at a boundary then. -/
def committed (s : State) (x : Ctx) : State := boundary (controlEffect (commitClause s x) x) x

/-- What a `bar` leaves: its commit, or its squash with 0x08 (R112). -/
def barOutcome (s : State) (x : Ctx) : State :=
  if lateBarFails s x = 0 then committed s x else squash s x 0x08 (lastPairAddr x.cl) (lateBarFails s x) []

/-- What a `ctx` leaves: the record moved and the clause committed, or the clause squashed with 0x45 (R409). -/
def ctxOutcome (s : State) (x : Ctx) (p : Word) : State :=
  if x.cl.active = 0 then committed s x
  else match (if recordMapped s p then ctxEffect (commitClause s x) x.core x.cl.control else none) with
    | some s => boundary (controlEffect s x) x
    | none => squash s x 0x45 p x.cl.active []

/-- The granules a restored record needs. -/
def restoredNeed (s : State) (core : Nat) (p : Word) : Tab Nat := ((liveService s core).map fun d => (d.pos, restoreNeed s p)).toList

/-- What a `ctx.restore` leaves: where the core has no room for what the record brings, pressure is relieved first (R125). -/
def restoreOutcome (s : State) (x : Ctx) (p : Word) : State :=
  let q := ctxOutcome s x p
  if x.cl.active = 0 || (decide (poolTakes (restoredNeed s x.core p) (coreOf q x.core) ≤ 8064) && tablesOk q x.core) then q
  else relieveFor { s with focus := none } q x.core (restoredNeed s x.core p)

/-- The way of a control instruction's retirement. -/
def retireBy (save restore : Word → State) (bar other : State) : Control → State
  | .ctxSave p => save p
  | .ctxRestore p => restore p
  | .bar _ _ _ => bar
  | _ => other

theorem retireClause_eq (s : State) (x : Ctx) :
    retireClause s x = retireBy (ctxOutcome s x) (restoreOutcome s x) (barOutcome s x) (committed s x) x.cl.control := rfl

theorem retireBy_of_not_ctx {save restore : Word → State} {bar other : State} {c : Control}
    (hctx : ∀ p, c ≠ .ctxSave p ∧ c ≠ .ctxRestore p) (hbar : (∃ n a b, c = .bar n a b) → bar = other) :
    retireBy save restore bar other c = other := by
  unfold retireBy
  split
  next p => exact absurd rfl (hctx p).1
  next p => exact absurd rfl (hctx p).2
  next n a b => exact hbar ⟨n, a, b, rfl⟩
  next => rfl

theorem retireClause_commits {s : State} {x : Ctx} (hctx : ∀ p, x.cl.control ≠ .ctxSave p ∧ x.cl.control ≠ .ctxRestore p)
    (h : lateBarFails s x = 0) : retireClause s x = committed s x := by
  exact (retireClause_eq s x).trans (retireBy_of_not_ctx hctx fun _ => if_pos h)

theorem retireClause_squashes {s : State} {x : Ctx} (h : lateBarFails s x ≠ 0) :
    retireClause s x = squash s x 0x08 (lastPairAddr x.cl) (lateBarFails s x) [] := by
  have hbar : ∃ n a b, x.cl.control = .bar n a b := by
    by_contra hn
    exact h (lateBarFails_of_not_bar fun n a b hc => hn ⟨n, a, b, hc⟩)
  obtain ⟨n, a, b, hc⟩ := hbar
  rw [retireClause_eq, hc]
  exact if_neg h

theorem ctxOutcome_inactive {s : State} {x : Ctx} (h : x.cl.active = 0) (p : Word) : ctxOutcome s x p = committed s x := if_pos h

theorem ctxOutcome_moved {s s' : State} {x : Ctx} {p : Word} (ha : x.cl.active ≠ 0) (hm : recordMapped s p = true)
    (he : ctxEffect (commitClause s x) x.core x.cl.control = some s') : ctxOutcome s x p = boundary (controlEffect s' x) x := by
  rw [ctxOutcome, if_neg ha, if_pos hm, he]

theorem ctxOutcome_unmapped {s : State} {x : Ctx} {p : Word} (ha : x.cl.active ≠ 0)
    (h : recordMapped s p = false ∨ ctxEffect (commitClause s x) x.core x.cl.control = none) :
    ctxOutcome s x p = squash s x 0x45 p x.cl.active [] := by
  have hnone : (if recordMapped s p then ctxEffect (commitClause s x) x.core x.cl.control else none) = none := by
    rcases h with h | h
    · rw [h]
      rfl
    · rw [h, ite_self]
  rw [ctxOutcome, if_neg ha, hnone]

/-- A `ctx` leaves its outcome where, for a restore, the core has room for what the record brings. -/
theorem retireClause_ctx {s : State} {x : Ctx} {p : Word} (h : x.cl.control = .ctxSave p ∨ x.cl.control = .ctxRestore p)
    (hfits : x.cl.active ≠ 0 → x.cl.control = .ctxRestore p →
      poolTakes (restoredNeed s x.core p) (coreOf (ctxOutcome s x p) x.core) ≤ 8064 ∧ tablesOk (ctxOutcome s x p) x.core = true) :
    retireClause s x = ctxOutcome s x p := by
  rw [retireClause_eq]
  rcases h with h | h
  · rw [h]
    rfl
  · have hq : (x.cl.active = 0 || (decide (poolTakes (restoredNeed s x.core p) (coreOf (ctxOutcome s x p) x.core) ≤ 8064) &&
        tablesOk (ctxOutcome s x p) x.core)) = true := by
      by_cases ha : x.cl.active = 0
      · simp [ha]
      · simp [hfits ha h]
    rw [h]
    exact if_pos hq

/-! ## The control instruction's effect on the threads -/

/-- The active lanes take a new state, the other lanes stand. -/
theorem troupeAt_setStates {s : State} {x : Ctx} {u : Troupe} (h : troupeAt s x.core x.pos = some u) (f : Nat → Thread → Thread) :
    troupeAt (setStates s x f) x.core x.pos = some (modThreads u x.cl.active f) := by
  rw [setStates, modTroupe_eq h, troupeAt_setTroupe_self]

theorem controlEffect_goto {s : State} {x : Ctx} {ts : Lanes} (h : x.cl.control = .goto ts) :
    controlEffect s x = setStates s x fun l h => { h with pc := laneOf ts l } := by
  simp only [controlEffect, h]

theorem controlEffect_nap {s : State} {x : Ctx} {cs : Lanes} (h : x.cl.control = .nap cs) (hm : minuetTroupe s x.t = false) :
    controlEffect s x = setStates s x fun l h =>
      if (laneOf cs l).toNat = 0 then h else { h with st := .napping (s.cycle + (laneOf cs l).toNat) } := by
  simp only [controlEffect, h, hm, Bool.false_eq_true, if_false]

theorem controlEffect_exit {s : State} {x : Ctx} {keep : Bool} (h : x.cl.control = .exit keep) :
    controlEffect s x = settleRegroup (completeBarriers
      (leaveRegs (setStates s x fun _ h => { h with st := .exited, keep }) x.core x.pos x.cl.active keep) x.t.group) x.t.group := by
  simp only [controlEffect, h]

theorem controlEffect_none {s : State} {x : Ctx} (h : x.cl.control = .none) : controlEffect s x = s := by
  simp only [controlEffect, h]

/-! ## Exited lanes stay exited

An exit may complete a barrier and settle a regroup: both wake threads of the gang, none of them exited. -/

/-- Some lanes of a troupe have exited. -/
def LanesExited (core pos : Nat) (lanes : LaneMask) (s : State) : Prop :=
  ∃ t, troupeAt s core pos = some t ∧ ∀ l, lanes.getLsbD l = true → (threadOf t l).st = .exited

section
variable {core pos : Nat} {lanes : LaneMask} {s : State}

theorem LanesExited.of_same {s' : State} (h : LanesExited core pos lanes s) (hs : troupeAt s' core pos = troupeAt s core pos) :
    LanesExited core pos lanes s' := by
  obtain ⟨t, ht, hl⟩ := h
  exact ⟨t, hs.trans ht, hl⟩

/-- A troupe put back with its exited lanes exited, or another troupe. -/
theorem LanesExited.setTroupe {c p : Nat} {u : Troupe} (h : LanesExited core pos lanes s)
    (hu : c = core → p = pos → ∀ l, lanes.getLsbD l = true → (threadOf u l).st = .exited) :
    LanesExited core pos lanes (setTroupe s c p u) := by
  by_cases hc : c = core
  · subst hc
    by_cases hp : p = pos
    · subst hp
      exact ⟨u, troupeAt_setTroupe_self .., hu rfl rfl⟩
    · exact h.of_same (troupeAt_setTroupe_ne s c u hp)
  · exact h.of_same (troupeAt_setTroupe_core s p pos u hc)

theorem LanesExited.modTroupe {c p : Nat} {f : Troupe → Troupe} (h : LanesExited core pos lanes s)
    (hf : ∀ t l, c = core → p = pos → lanes.getLsbD l = true → (threadOf t l).st = .exited → (threadOf (f t) l).st = .exited) :
    LanesExited core pos lanes (modTroupe s c p f) := by
  unfold Machine.modTroupe
  split
  · exact h
  next t ht =>
    obtain ⟨u, hu, hl⟩ := h
    refine LanesExited.setTroupe ⟨u, hu, hl⟩ fun hc hp l hlane => hf t l hc hp hlane ?_
    subst hc hp
    rw [ht] at hu
    obtain rfl := Option.some.inj hu
    exact hl l hlane

/-- Threads changed elsewhere than in the exited lanes. -/
theorem LanesExited.modThreads {c p : Nat} {m : LaneMask} {f : Nat → Thread → Thread} (h : LanesExited core pos lanes s)
    (hm : c = core → p = pos → ∀ l, lanes.getLsbD l = true → m.getLsbD l = false) :
    LanesExited core pos lanes (Machine.modTroupe s c p fun t => Machine.modThreads t m f) := by
  refine h.modTroupe fun t l hc hp hl hst => ?_
  rw [threadOf_modThreads, hm hc hp l hl]
  exact hst

theorem LanesExited.applyInvals (h : LanesExited core pos lanes s) (c : Nat) (p : Inval → Bool) :
    LanesExited core pos lanes (Machine.applyInvals s c p) := h.of_same (troupeAt_modCore rfl ..)

/-- The report of a supervisor fault changes no core. -/
theorem troupeAt_faultReported (s : State) (die c kind group payload : Nat) (m : Message) (d p : Nat) :
    troupeAt (send { blackBox s die c kind group payload with focus := none } m) d p = troupeAt s d p := rfl

theorem LanesExited.supervisorFault (h : LanesExited core pos lanes s) (c cause : Nat) (addr : Word) :
    LanesExited core pos lanes (Machine.supervisorFault s c cause addr) := by
  have h1 : LanesExited core pos lanes (Machine.modTroupe s c 64 fun t => { t with clause := none }) :=
    h.modTroupe fun _ _ _ _ _ hst => hst
  have h2 : LanesExited core pos lanes (modCore (Machine.modTroupe s c 64 fun t => { t with clause := none }) c fun k =>
      { k with supStopped := true, passed := [] }) := h1.of_same (troupeAt_modCore rfl ..)
  exact h2.of_same (troupeAt_faultReported ..)

theorem LanesExited.takeTrap (h : LanesExited core pos lanes s) (c p cause : Nat) (addr : Word) (raised subset : LaneMask) (pcs : Lanes)
    (syms : List Nat) : LanesExited core pos lanes (Machine.takeTrap s c p cause addr raised subset pcs syms) := by
  by_cases hp : p = 64
  · subst hp
    exact h.supervisorFault c cause addr
  · cases ht : troupeAt s c p with
    | none =>
      have hs : isSup p = false := decide_eq_false hp
      simp only [Machine.takeTrap, hs, ht, Bool.false_eq_true, if_false]
      exact h
    | some t =>
      rw [takeTrap_program hp ht]
      refine (h.of_same (troupeAt_modCore rfl ..)).setTroupe fun hc hpos l hl => ?_
      subst hc hpos
      obtain ⟨u, hu, hlanes⟩ := h
      obtain rfl := Option.some.inj (ht.symm.trans hu)
      rw [threadOf_congr (t := endNaps t), threadOf_endNaps, hlanes l hl]
      · rfl

end

/-- A member of a group: it stands on the group's core, and its thread is its troupe's. -/
theorem mem_groupThreads {s : State} {key : Nat} {m : Member} (h : m ∈ groupThreads s key) :
    (groupAt s key).map (fun g => g.core) = some m.core ∧
      ∃ t, troupeAt s m.core m.pos = some t ∧ m.th = threadOf t m.lane ∧ m.lane < 32 := by
  unfold groupThreads at h
  split at h
  · cases h
  next g hg =>
    obtain ⟨e, -, he⟩ := List.mem_flatMap.1 h
    split at he
    · cases he
    next t ht =>
      obtain ⟨l, hl, rfl⟩ := List.mem_map.1 he
      rw [hg]
      exact ⟨rfl, t, ht, rfl, (mem_laneList l).1 hl⟩

/-- A group stands on one core. -/
theorem core_eq_of_mem_groupThreads {s : State} {key : Nat} {m n : Member} (hm : m ∈ groupThreads s key) (hn : n ∈ groupThreads s key) :
    m.core = n.core := Option.some.inj ((mem_groupThreads hm).1.symm.trans (mem_groupThreads hn).1)

theorem mem_groupThreads_of_mem_gangThreads {s : State} {key : Nat} {m : Member} (h : m ∈ gangThreads s key) :
    ∃ k, m ∈ groupThreads s k := by
  obtain ⟨k, -, hk⟩ := List.mem_flatMap.1 h
  exact ⟨k, hk⟩

/-- A member that has not exited is none of the exited lanes. -/
theorem LanesExited.not_mem {core pos key : Nat} {lanes : LaneMask} {s : State} {m : Member} (h : LanesExited core pos lanes s)
    (hm : m ∈ groupThreads s key) (hst : m.th.st ≠ .exited) (hc : m.core = core) (hp : m.pos = pos) : lanes.getLsbD m.lane = false := by
  obtain ⟨-, t, ht, hth, -⟩ := mem_groupThreads hm
  obtain ⟨u, hu, hl⟩ := h
  subst hc hp
  obtain rfl := Option.some.inj (ht.symm.trans hu)
  rw [hth] at hst
  exact Bool.eq_false_iff.2 fun hlane => hst (hl m.lane hlane)

theorem getLsbD_laneBit {k l : Nat} (h : (laneBit k).getLsbD l = true) : l = k := by
  rw [laneBit, BitVec.getLsbD_ofNat, Nat.one_shiftLeft, Nat.testBit_two_pow] at h
  simp at h
  exact h.2.symm

/-- A member whose barrier is complete waits (R111). -/
theorem waiting_of_barrierDone {g : Grid} {ms : List Member} {m : Member} (h : barrierDone g ms m = true) : m.th.st ≠ .exited := by
  intro hst
  simp [barrierDone, hst] at h

theorem LanesExited.completeBarriers {core pos : Nat} {lanes : LaneMask} {s : State} (h : LanesExited core pos lanes s) (key : Nat) :
    LanesExited core pos lanes (Machine.completeBarriers s key) := by
  unfold Machine.completeBarriers
  split
  · exact h
  next g hg =>
    refine List.foldlRecOn (motive := LanesExited core pos lanes) _ _ h fun q hq m hm => ?_
    obtain ⟨hmem, hdone⟩ := List.mem_filter.1 hm
    obtain ⟨k, hk⟩ := mem_groupThreads_of_mem_gangThreads hmem
    have hwake : LanesExited core pos lanes
        (Machine.modTroupe q m.core m.pos fun t => Machine.modThreads t (laneBit m.lane) fun _ h => { h with st := .runnable }) := by
      refine hq.modThreads fun hc hp l hl => Bool.eq_false_iff.2 fun hbit => ?_
      rw [getLsbD_laneBit hbit, h.not_mem hk (waiting_of_barrierDone hdone) hc hp] at hl
      cases hl
    dsimp only
    split
    · split
      · exact hwake.applyInvals ..
      · exact hwake
    · exact hwake

theorem LanesExited.leaveRegs {core pos : Nat} {lanes : LaneMask} {s : State} (h : LanesExited core pos lanes s) (c p : Nat)
    (m : LaneMask) (keep : Bool) : LanesExited core pos lanes (Machine.leaveRegs s c p m keep) := by
  unfold Machine.leaveRegs
  split
  · exact h
  next t ht =>
    split
    · exact h
    · refine LanesExited.of_same (h.setTroupe fun hc hp l hl => ?_) (troupeAt_sweepSymbols ..)
      subst hc hp
      obtain ⟨u, hu, hlanes⟩ := h
      obtain rfl := Option.some.inj (ht.symm.trans hu)
      exact hlanes l hl

theorem LanesExited.settleRegroup {core pos : Nat} {lanes : LaneMask} {s : State} (h : LanesExited core pos lanes s) (key : Nat) :
    LanesExited core pos lanes (Machine.settleRegroup s key) := by
  unfold Machine.settleRegroup
  dsimp only
  generalize hsorted : List.mergeSort _ _ = sorted
  have hms (m : Member) (hm : m ∈ sorted) : m ∈ groupThreads s key ∧ m.th.st ≠ .exited := by
    rw [← hsorted] at hm
    obtain ⟨hmem, hst⟩ := List.mem_filter.1 (List.mem_mergeSort.1 hm)
    exact ⟨hmem, by simpa using hst⟩
  cases sorted with
  | nil => exact h
  | cons m0 rest =>
    dsimp only
    split
    · exact h
    split
    · exact h.of_same (troupeAt_modCore rfl ..)
    refine List.foldlRecOn (motive := LanesExited core pos lanes) _ _ h fun q hq p hp => ?_
    refine LanesExited.takeTrap (hq.modThreads fun hc hpos l hl => Bool.eq_false_iff.2 fun hlane => ?_) ..
    simp only [getLsbD_maskOf, Bool.and_eq_true, List.any_eq_true, List.mem_filter, beq_iff_eq] at hlane
    obtain ⟨-, m, ⟨⟨hm, -⟩, hmp⟩, hml⟩ := hlane
    obtain ⟨hmem, hst⟩ := hms m hm
    have hmc : m.core = m0.core := core_eq_of_mem_groupThreads hmem (hms m0 (List.mem_cons_self ..)).1
    rw [← hml, h.not_mem hmem hst (hmc.trans hc) (hmp.trans hpos)] at hl
    cases hl

/-- An exit leaves its lanes exited, whatever it lets go on (R86, R111, R225). -/
theorem controlEffect_exit_lanesExited {s : State} {x : Ctx} {u : Troupe} {keep : Bool} (h : x.cl.control = .exit keep)
    (hu : troupeAt s x.core x.pos = some u) : LanesExited x.core x.pos x.cl.active (controlEffect s x) := by
  rw [controlEffect_exit h]
  refine LanesExited.settleRegroup (.completeBarriers (.leaveRegs ⟨_, troupeAt_setStates hu _, fun l hl => ?_⟩ ..) _) _
  rw [threadOf_modThreads, if_pos hl]

/-! ## The obligation -/

/-- Settles O28: the retirement's ways by the control instruction, the commit's troupe, and the effects on the threads. -/
theorem retirementCommitsThenActs : Obligations.RetirementCommitsThenActs := by
  intro s core pos t cl ht hcl hphase hreplies hready
  have hexec := exec_clauseRetire ht hcl hphase hreplies hready
  refine ⟨fun hctx => ⟨fun hlate => ?_, fun hlate => ?_⟩, fun p hp => ⟨fun ha => ?_, fun ha hm s' he hfits => ?_, fun ha hno hfits => ?_⟩,
    ?commit, fun s' u hu => ⟨fun ts hc => ?goto, fun cs hc hm => ?nap, fun keep hc => ?exit, fun hc => ?none⟩⟩
  · rw [hexec, retireClause_commits hctx hlate]
    rfl
  · rw [hexec, retireClause_squashes hlate]
  · rw [hexec, retireClause_ctx hp fun h => absurd ha h, ctxOutcome_inactive ha]
    rfl
  · have hq := ctxOutcome_moved (x := ⟨core, pos, t, cl⟩) ha hm he
    rw [hexec, retireClause_ctx hp fun _ hr => hq ▸ hfits hr, hq]
  · have hq := ctxOutcome_unmapped (x := ⟨core, pos, t, cl⟩) ha hno
    rw [hexec, retireClause_ctx hp fun _ hr => hq ▸ hfits hr, hq]
  case commit =>
    obtain ⟨m, k, hu, -⟩ := troupeAt_commitClause s ⟨core, pos, t, cl⟩
    exact ⟨_, hu, committedTroupe_clause .., fun l _ => threadOf_committedTroupe_pc s ⟨core, pos, t, cl⟩ l⟩
  case goto =>
    rw [controlEffect_goto (x := ⟨core, pos, t, cl⟩) hc]
    exact ⟨_, troupeAt_setStates hu _, fun l _ => threadOf_modThreads ..⟩
  case nap =>
    rw [controlEffect_nap (x := ⟨core, pos, t, cl⟩) hc hm]
    refine ⟨_, troupeAt_setStates hu _, fun l _ => (threadOf_modThreads ..).trans ?_⟩
    by_cases hl : cl.active.getLsbD l = true
    · by_cases h0 : laneOf cs l = 0
      · simp [hl, h0]
      · have hn : ¬(laneOf cs l).toNat = 0 := fun h => h0 (BitVec.eq_of_toNat_eq h)
        simp only [hl, if_true, if_neg hn, ne_eq, h0, not_false_eq_true, and_self]
    · simp [hl]
  case exit =>
    obtain ⟨v, hv, hl⟩ := controlEffect_exit_lanesExited (x := ⟨core, pos, t, cl⟩) hc hu
    exact ⟨v, hv, fun l _ => hl l⟩
  case none => exact controlEffect_none (x := ⟨core, pos, t, cl⟩) hc

end Sys2Proof.Machine
end

section
/-!
PROOFS. Waiting threads wake (R81, R87, R115, R246, R390), ready candidates start their clauses (R18 to R29, R92), and a stopped trap troupe
runs again (R393, R397).
-/

namespace Sys2Proof.Machine

/-! ## Waits that are over -/

/-- One lane alone. -/
theorem maskLanes_laneBit {l : Nat} (hl : l < 32) : maskLanes (laneBit l) = [l] := by
  have all : ∀ l < 32, maskLanes (laneBit l) = [l] := by decide
  exact all l hl

/-- A change of one lane's thread. -/
theorem modThreads_laneBit (t : Troupe) {l : Nat} (hl : l < 32) (f : Nat → Thread → Thread) :
    modThreads t (laneBit l) f = setThread t l (f l (threadOf t l)) := by
  rw [modThreads, maskLanes_laneBit hl]
  rfl

theorem wake_eq {s : State} {core pos : Nat} {u : Troupe} (hu : troupeAt s core pos = some u) (m : LaneMask) :
    wake s core pos m = setTroupe s core pos (modThreads u m fun _ h => { h with st := .runnable }) := modTroupe_eq hu _

/-- One lane that may run again. -/
theorem wake_laneBit {s : State} {core pos lane : Nat} {u : Troupe} (hu : troupeAt s core pos = some u) (hl : lane < 32) :
    wake s core pos (laneBit lane) = woken s core pos lane u := by
  rw [wake_eq hu, modThreads_laneBit u hl]
  rfl

theorem waitClock_eq {s : State} {core pos : Nat} {u : Troupe} (hu : troupeAt s core pos = some u) :
    waitClock s core pos = if minuetTroupe s u then u.turns else s.cycle := by
  rw [waitClock, hu]

theorem exec_napExpiry {s : State} {core pos lane til : Nat} {u : Troupe} (hu : troupeAt s core pos = some u) (hl : lane < 32)
    (hst : (threadOf u lane).st = .napping til) (ht : til ≤ waitClock s core pos) :
    exec (.napExpiry core pos lane) s = .next (woken s core pos lane u) := by
  change execNapExpiry core pos lane s = _
  simp only [execNapExpiry, threadAt, hu, Option.map_some, hst, ge_iff_le, ht, if_true, wake_laneBit hu hl]

/-- The turn or the issue cycle of a plain yield has come (R87). -/
theorem yieldOver_yielded {s : State} {core pos : Nat} {u : Troupe} {others : List Nat} {til : Nat} (hu : troupeAt s core pos = some u)
    (h : if minuetTroupe s u then til ≤ u.turns else others = [] ∨ til ≤ tabGet (coreOf s core).slotIssues (slotOf s core pos) 0) :
    yieldOver s core pos (.yielded others til) = true := by
  simp only [yieldOver, hu]
  split
  next hm => simpa [hm] using h
  next hm => simpa [hm] using h

theorem yieldOver_yieldedOn {s : State} {core pos : Nat} {u : Troupe} {q : Loc} {head tail : Nat} {closed : Bool} {til : Nat}
    (hu : troupeAt s core pos = some u)
    (h : (queueAt s q).head ≠ head ∨ (queueAt s q).tail ≠ tail ∨ queueClosed (queueAt s q) ≠ closed ∨
      til ≤ if minuetTroupe s u then u.turns else s.cycle) :
    yieldOver s core pos (.yieldedOn q head tail closed til) = true := by
  simp only [yieldOver, waitClock_eq hu, ge_iff_le, Bool.or_eq_true, bne_iff_ne, decide_eq_true_eq, or_assoc]
  exact h

/-- A yield that is over ends for all the lanes that yielded with it (R87). -/
theorem exec_yieldEnd {s : State} {core pos lane : Nat} {u : Troupe} (hu : troupeAt s core pos = some u)
    (h : yieldOver s core pos (threadOf u lane).st = true) :
    exec (.yieldEnd core pos lane) s =
      .next (setTroupe s core pos (modThreads u (yieldedWith u lane) fun _ h => { h with st := .runnable })) := by
  change execYieldEnd core pos lane s = _
  simp only [execYieldEnd, hu, h, if_true, wake_eq hu]

theorem threadOf_yieldEnded (u : Troupe) (lane : Nat) {l : Nat} (hl : l < 32) :
    threadOf (modThreads u (yieldedWith u lane) fun _ h => { h with st := .runnable }) l =
      if (threadOf u l).st = (threadOf u lane).st then { threadOf u l with st := .runnable } else threadOf u l := by
  simp only [threadOf_modThreads, yieldedWith, getLsbD_maskOf, hl, decide_true, Bool.true_and, beq_iff_eq]

theorem refind_of_placed {s : State} {w : Who} {l : Loc} (h : l.area ≠ .lost) (n : Nat) (k : Access) : refind s w l n k = (s, l) :=
  if_neg h

/-- A word that has advanced releases its lane (R246). -/
theorem pollLane_advanced {s : State} {core pos lane gen : Nat} {w : Loc} {u v : Troupe} (hu : troupeAt s core pos = some u) (hl : lane < 32)
    (hst : (threadOf u lane).st = .watching w gen none) (hgen : (readSync (dropPlain s core w.line) w).2.gen ≠ gen) (hw : w.area ≠ .lost)
    (hstay : pollStays s core pos w = false) (hv : troupeAt (readSync (dropPlain s core w.line) w).1 core pos = some v) :
    pollLane s core pos lane = woken (readSync (dropPlain s core w.line) w).1 core pos lane v := by
  simp only [pollLane, hu, Option.map_some, hst, refind_of_placed hw, if_true, hw, hstay, hgen, decide_false,
    Bool.or_self, Bool.false_eq_true, if_false, acquireObjects]
  exact wake_laneBit hv hl

/-- No symbol stands in a chain of faults that begins nowhere (R156). -/
theorem faultClosure_nil (s : State) (core fuel : Nat) : faultClosure s core fuel [] = [] := by
  induction fuel with
  | zero => rfl
  | succ fuel ih => exact ih

/-- With nothing to reissue the core's troupes only close their batches. -/
theorem reissue_nil (s : State) (core : Nat) (lanes : LaneMask) :
    reissue s core [] lanes = modCore s core fun k => { k with troupes := tabMap k.troupes fun _ t => closeBatches s core t } := by
  rw [reissue, faultClosure_nil]
  rfl

/-- A troupe whose park is over (R390). -/
def parkOver (u : Troupe) (k : Park) : Troupe :=
  { modThreads u k.lanes fun _ h => if h.st = .parked k.id then { h with st := .runnable } else h with
    parks := u.parks.filter fun e => e.id != k.id }

theorem threadOf_parkOver (u : Troupe) (k : Park) (l : Nat) :
    threadOf (parkOver u k) l = if k.lanes.getLsbD l = true ∧ (threadOf u l).st = .parked k.id
      then { threadOf u l with st := .runnable } else threadOf u l := by
  have hmod := threadOf_modThreads u k.lanes (fun _ h => if h.st = .parked k.id then { h with st := .runnable } else h) l
  rw [ite_and]
  exact hmod

theorem wakePark_eq {s : State} {core pos : Nat} {u : Troupe} (hu : troupeAt s core pos = some u) (k : Park) :
    wakePark s core pos k = reissue (setTroupe s core pos (parkOver u k)) core k.syms k.lanes := by
  rw [wakePark, modTroupe_eq hu]
  rfl

/-- A park that consumed no fault ends without a reissue. -/
theorem troupeAt_wakePark {s : State} {core pos : Nat} {u : Troupe} {k : Park} (hu : troupeAt s core pos = some u) (hk : k.syms = []) :
    troupeAt (wakePark s core pos k) core pos = some (closeBatches (setTroupe s core pos (parkOver u k)) core (parkOver u k)) := by
  rw [wakePark_eq hu, hk, reissue_nil]
  simp [troupeAt]

theorem exec_parkRetryTimeout {s : State} {core pos til : Nat} {u : Troupe} {k : Park} (hu : troupeAt s core pos = some u)
    (hk : u.parks.find? (fun e => e.id == k.id) = some k) (hr : k.retry = some til) (ht : til ≤ s.cycle) :
    exec (.parkRetryTimeout core pos k.id) s = .next (wakePark s core pos k) := by
  change execParkRetryTimeout core pos k.id s = _
  simp only [execParkRetryTimeout, hu, hk, hr, ge_iff_le, ht, if_true]

/-! ## A clause starts -/

theorem startFirst_of_some {s t : State} {core slot pos lane : Nat} {m : LaneMask} {r : List (Nat × Nat × LaneMask)}
    (h : tryStart s core slot pos m = some t) : startFirst s core slot ((pos, lane, m) :: r) = t := by
  simp only [startFirst, h]

/-- A free slot goes through its candidates (R29, R92). -/
theorem exec_clauseStart {s : State} {core slot : Nat} (h : tabGet (coreOf s core).slotBusy slot 0 ≤ s.cycle) :
    exec (.clauseStart core slot) s =
      .next (startFirst (settleSlot s core slot) core slot (candidates (settleSlot s core slot) core slot)) :=
  if_neg (Nat.not_lt.2 h)

/-- The lanes of a subset whose guard holds (R19). -/
def guardedLanes (u : Troupe) (hdr : Header) (m : LaneMask) : LaneMask :=
  maskOf fun l => m.getLsbD l && (predOf u hdr.guard l != hdr.negate)

/-- What a clause waits for before it starts (R29), beside its fetch: with no active lane its wait field alone. -/
def StartsNow (s : State) (core pos : Nat) (u : Troupe) (hdr : Header) (trailer : Nat) (active : LaneMask) (is : List (Nat × Instr)) : Prop :=
  u.nextStart ≤ s.cycle ∧ waitOk s core u hdr = true ∧
    (active ≠ 0 → (hdr.trailer = true → (openBatches s core u (bits trailer 2 0)).length < 8) ∧
      (hdr.cls = 1 → injectionLevel s core ≤ 3 ∧ u.acquires = []) ∧ deferredOpen s core pos = false ∧
      ∀ e ∈ is, ∀ n ∈ xNumbers (namedOperands e.2), (regOf u n).entry ≠ .spilled)

/-- The start conditions as the slot tests them. -/
theorem StartsNow.ready {s : State} {core pos : Nat} {u : Troupe} {hdr : Header} {trailer : Nat} {active : LaneMask} {is : List (Nat × Instr)}
    (h : StartsNow s core pos u hdr trailer active is) :
    (decide (u.nextStart ≤ s.cycle) && waitOk s core u hdr &&
      (decide (active = 0) ||
        (!hdr.trailer || decide ((openBatches s core u (bits trailer 2 0)).length < 8)) &&
        (hdr.cls != 1 || decide (injectionLevel s core ≤ 3) && u.acquires.isEmpty) &&
        !(deferredOpen s core pos && is.any fun e => afterDeferred e.2) &&
        !is.any fun e => (xNumbers (namedOperands e.2)).any fun n => (regOf u n).entry == .spilled)) = true := by
  obtain ⟨hnext, hwait, hactive⟩ := h
  by_cases ha : active = 0
  · simp [hnext, hwait, ha]
  · obtain ⟨hbatch, hclass, hdeferred, hnamed⟩ := hactive ha
    have hb : (!hdr.trailer || decide ((openBatches s core u (bits trailer 2 0)).length < 8)) = true := by
      simpa [Bool.or_eq_true, ← Bool.not_eq_true, ← imp_iff_not_or] using hbatch
    have hc : (hdr.cls != 1 || decide (injectionLevel s core ≤ 3) && u.acquires.isEmpty) = true := by
      simpa [← imp_iff_not_or] using hclass
    have hn : (is.any fun e => (xNumbers (namedOperands e.2)).any fun n => (regOf u n).entry == .spilled) = false := by
      simpa [List.any_eq_false] using hnamed
    simp only [hnext, hwait, hb, hc, hn, hdeferred, decide_true, Bool.true_and, Bool.false_and, Bool.not_false, Bool.or_true]

/-- The clause of some words at a head, about to begin its check (R30). -/
def startedClause (s : State) (core slot : Nat) (head : Word) (hdr : Header) (words : List Nat) (trailer : Nat) (m active : LaneMask)
    (is : List (Nat × Instr)) : Clause :=
  { newClause head hdr words trailer m active s.cycle slot (is.flatMap fun e => marksOf e.2) with misses := (coreOf s core).tlbMisses }

/-- A subset whose header and words are well formed starts its clause where nothing is waited for. -/
theorem tryStart_starts {s s1 s2 : State} {core slot pos h : Nat} {m : LaneMask} {u : Troupe} {who : Who} {head : Word} {ws : List Nat}
    {cut : List (Nat × Nat × Nat)} {is : List (Nat × Instr)}
    (hwho : who = if pos = 64 then ⟨core, true, 0, 0⟩ else ⟨core, false, troupeKey s u, u.group⟩)
    (hhead : head = (threadOf u ((lowLane m).getD 0)).pc)
    (hu : troupeAt s core pos = some u) (hfree : u.clause = none)
    (hf1 : fetchWords s who 1 head = (s1, .inr [h])) (hok : headerOk h = true)
    (hf2 : fetchWords s1 who ((headerOf h).count + if (headerOf h).trailer then 1 else 0) (head + 4) = (s2, .inr ws))
    (hcut : cutWords 24 0 (ws.take (headerOf h).count) = some cut) (hplaced : placed (headerOf h).cls cut = true)
    (htrailer : (headerOf h).trailer = true → trailerOk (ws.getD (headerOf h).count 0) = true)
    (hdec : decodeAll (isSup pos) (gridOfGroup s u.group) cut = .inr is)
    (hpoison : pos = 64 ∨ fetchPoison s2 who (1 + ws.length) head = false)
    (hstart : StartsNow s2 core pos u (headerOf h) (ws.getD (headerOf h).count 0) (guardedLanes u (headerOf h) m) is) :
    tryStart s core slot pos m = some
      { setTroupe s2 core pos { u with clause := some (startedClause s2 core slot head (headerOf h) (ws.take (headerOf h).count)
          (ws.getD (headerOf h).count 0) m (guardedLanes u (headerOf h) m) is) } with focus := some (core, pos) } := by
  -- The header is read back from the words fetched: they stand as `w`, so that it is one term throughout.
  generalize hw : [h] = w at hf1
  obtain rfl : w.headD 0 = h := by rw [← hw]; rfl
  have hwho' : who = if isSup pos then ⟨core, true, 0, 0⟩ else ⟨core, false, troupeKey s u, u.group⟩ := by simp [hwho, isSup]
  have hclean : ¬ (fetchPoison s2 who (1 + ws.length) head && !isSup pos) = true := by
    rcases hpoison with rfl | hpure
    · simp [isSup]
    · simp [hpure]
  have hformed : ¬ (!placed (headerOf (w.headD 0)).cls cut ||
      (headerOf (w.headD 0)).trailer && !trailerOk (ws.getD (headerOf (w.headD 0)).count 0)) = true := by
    rw [hplaced]
    simpa using htrailer
  have hready := hstart.ready
  unfold guardedLanes at hready
  simp only [tryStart, hu, hfree, Option.isSome_none, Bool.false_eq_true, if_false, ← hwho', ← hhead, hf1, hok, Bool.not_true, hf2, hclean,
    hcut, hformed, hdec, hready]
  rfl

/-! ## The trap troupe begins again -/

/-- A troupe as the trap troupe starts (R393). -/
def supStarted (u : Troupe) (pc : Word) : Troupe :=
  modThreads { u with clause := none, mode := 1 } (-1) fun _ h => { h with st := .runnable, pc, meet := 0, join := 0 }

theorem startSupervisor_eq {s : State} {core : Nat} {u : Troupe} (hu : troupeAt s core 64 = some u) :
    startSupervisor s core = setTroupe s core 64 (supStarted u (coreOf s core).trapvec) := modTroupe_eq hu _

@[simp] theorem supStarted_clause (u : Troupe) (pc : Word) : (supStarted u pc).clause = none := rfl

@[simp] theorem supStarted_regs (u : Troupe) (pc : Word) : (supStarted u pc).regs = u.regs := by
  simp only [supStarted, modThreads]

theorem threadOf_supStarted (u : Troupe) (pc : Word) {l : Nat} (hl : l < 32) :
    (threadOf (supStarted u pc) l).st = .runnable ∧ (threadOf (supStarted u pc) l).pc = pc := by
  have hall : (-1 : LaneMask).getLsbD l = true := by
    change (BitVec.allOnes 32).getLsbD l = true
    simp only [BitVec.getLsbD_allOnes, hl, decide_true]
  rw [supStarted, threadOf_modThreads, if_pos hall]
  exact ⟨rfl, rfl⟩

/-- The machine with a core's trap troupe let run again. -/
def supReleased (s : State) (core : Nat) : State := modCore s core fun k => { k with supStopped := false }

theorem exec_traprst {s : State} {core : Nat} (h : (coreOf s core).supStopped = true) :
    exec (.traprst core) s =
      .next (if (coreOf s core).service.isSome then startSupervisor (supReleased s core) core else supReleased s core) := by
  change execTraprst core s = _
  have hservice : (coreOf (supReleased s core) core).service = (coreOf s core).service := by simp [supReleased]
  rw [execTraprst, if_pos h, ← hservice]
  rfl

/-- Settles O50: the waits that are over, the start of a ready candidate, and the trap troupe's restart. The start of a memory clause with no
active lane is the model's choice (notes/assumptions/43.md). -/
theorem threadsWakeAndClausesStart : Obligations.ThreadsWakeAndClausesStart := by
  refine ⟨?nap, ?yield, ?watch, ?park, ?start, ?restart, ?release⟩
  case nap =>
    intro s core pos lane til u hu hl hst ht
    exact exec_napExpiry hu hl hst ((waitClock_eq hu).symm ▸ ht)
  case yield =>
    intro s core pos lane u hu hl h
    have hover : yieldOver s core pos (threadOf u lane).st = true := by
      rcases h with ⟨til, others, hst, h⟩ | ⟨q, head, tail, closed, til, hst, h⟩
      · rw [hst]
        exact yieldOver_yielded hu h
      · rw [hst]
        exact yieldOver_yieldedOn hu h
    exact ⟨_, _, exec_yieldEnd hu hover, rfl, rfl, rfl, fun l hl => threadOf_yieldEnded u lane hl⟩
  case watch =>
    intro s core pos lane gen w u v r hu hl hst hgen hw hstay hv
    exact congrArg _ (pollLane_advanced hu hl hst hgen hw hstay hv)
  case park =>
    intro s core pos til u k hu hk hr ht hsyms
    exact ⟨_, _, exec_parkRetryTimeout hu hk hr ht, troupeAt_wakePark hu hsyms, rfl, rfl, fun l _ => threadOf_parkOver u k l⟩
  case start =>
    intro s core slot pos lane m r u s1 s2 h ws cut is s0 who head hdr trailer active hslot hcand hu hfree hf1 hok hf2 hcut hplaced htrailer hdec
      hnext hwait hpoison hactive
    have hstart : StartsNow s2 core pos u hdr trailer active is := ⟨hnext, hwait, hactive⟩
    have hstarts := tryStart_starts (slot := slot) (who := who) (head := head) rfl rfl hu hfree hf1 hok hf2 hcut hplaced htrailer hdec
      hpoison hstart
    rw [exec_clauseStart hslot, hcand, startFirst_of_some hstarts]
    rfl
  case restart =>
    intro s core d u hstop hd hu
    have hu' : troupeAt (supReleased s core) core 64 = some u := (troupeAt_modCore rfl core 64).trans hu
    have hexec : exec (.traprst core) s =
        .next (setTroupe (supReleased s core) core 64 (supStarted u (coreOf (supReleased s core) core).trapvec)) := by
      rw [← startSupervisor_eq hu', exec_traprst hstop, hd]
      rfl
    refine ⟨_, _, hexec, ?_, ?_, troupeAt_setTroupe_self .., supStarted_clause .., supStarted_regs .., fun l hl => ?_⟩
    · simp [supReleased]
    · simp [supReleased, hd]
    · simpa [supReleased] using threadOf_supStarted u (coreOf (supReleased s core) core).trapvec hl
  case release =>
    intro s core hstop hnone
    rw [exec_traprst hstop, hnone]
    rfl

end Sys2Proof.Machine
end

section
/-!
PROOFS. What accesses leave alone, however they perform: grids and the counters that number them, which groups are resident, the gangs that
wait on each die, and, but for what is sent to the control node, the messages that wait to leave.
-/

namespace Sys2Proof.Machine

/-! ## The books -/

/-- What the arbiter and the dispatchers go by: the grids, the next ticket and order, which groups are resident, each die's pending gangs. -/
structure Books where
  grids : Tab Grid
  ticket : Nat
  order : Nat
  resident : Nat → Bool
  pending : Nat → List PendingGang

/-- The books, and the messages that wait to leave. -/
structure Ledger where
  books : Books
  sent : List Message

def ledger (s : State) : Ledger :=
  ⟨⟨s.grids, s.nextTicket, s.nextOrder, fun key => (groupAt s key).isSome, fun d => (dieAt s d).pending⟩, s.outbox⟩

/-- The ledger of a pair's state, once the pair has been taken apart. -/
theorem ledger_of_eq {α : Type} {p : State × α} {t : State} {a : α} (e : p = (t, a)) : ledger t = ledger p.1 := by
  rw [e]

/-- What each step of a fold leaves alone the fold does. -/
theorem apply_foldl_of_step {α β σ : Type} (F : σ → β) {f : σ → α → σ} (hf : ∀ s a, F (f s a) = F s) (l : List α) (s : σ) :
    F (l.foldl f s) = F s := by
  induction l generalizing s with
  | nil => rfl
  | cons a l ih => exact (ih _).trans (hf s a)

theorem ledger_foldl {α : Type} {f : State → α → State} (hf : ∀ s a, ledger (f s a) = ledger s) (l : List α) (s : State) :
    ledger (l.foldl f s) = ledger s := apply_foldl_of_step ledger hf l s

theorem ledger_foldl_fst {α β : Type} {f : State × β → α → State × β} (hf : ∀ p a, ledger (f p a).1 = ledger p.1) (l : List α)
    (p : State × β) : ledger (l.foldl f p).1 = ledger p.1 := apply_foldl_of_step (fun p => ledger p.1) hf l p

theorem books_foldl {α : Type} {f : State → α → State} (hf : ∀ s a, (ledger (f s a)).books = (ledger s).books) (l : List α) (s : State) :
    (ledger (l.foldl f s)).books = (ledger s).books := apply_foldl_of_step (fun s => (ledger s).books) hf l s

/-- One of two states with one ledger. -/
@[simp] theorem ledger_ite (c : Prop) [Decidable c] (s t : State) : ledger (if c then s else t) = if c then ledger s else ledger t :=
  apply_ite ..

/-! ## Cores, dies, groups and memory -/

@[simp] theorem ledger_setCore (s : State) (c : Nat) (v : CoreSt) : ledger (setCore s c v) = ledger s := rfl

@[simp] theorem ledger_modCore (s : State) (c : Nat) (f : CoreSt → CoreSt) : ledger (modCore s c f) = ledger s := rfl

/-- A die's state is changed, its pending gangs apart. -/
theorem ledger_modDie (s : State) (d : Nat) {f : DieSt → DieSt} (hf : ∀ v, (f v).pending = v.pending) : ledger (modDie s d f) = ledger s := by
  have hp : (fun e => (dieAt (modDie s d f) e).pending) = fun e => (dieAt s e).pending := by
    funext e
    by_cases h : d = e
    · subst h
      rw [dieAt_modDie_self, hf]
    · simp [modDie, setDie, dieAt, tabGet_tabPut_ne _ _ _ h]
  rw [ledger, hp]
  rfl

/-- A group's contents are changed. -/
@[simp] theorem ledger_modGroup (s : State) (key : Nat) (f : Group → Group) : ledger (modGroup s key f) = ledger s := by
  unfold modGroup
  split
  · rfl
  next g hg =>
    have hr : (fun k => (groupAt (setGroup s key (f g)) k).isSome) = fun k => (groupAt s k).isSome := by
      funext k
      rw [groupAt_setGroup]
      split
      next h => rw [← h, hg]; rfl
      · rfl
    rw [ledger, hr]
    rfl

@[simp] theorem ledger_rawWrite (s : State) (l : Loc) (bs : List Byte) : ledger (rawWrite s l bs) = ledger s := by
  unfold rawWrite
  split
  case h_4 => exact ledger_modGroup ..
  all_goals rfl

/-! ## Slices, lines and accesses at a home (R327 to R346) -/

@[simp] theorem ledger_setLine (s : State) (core line : Nat) (n : Line) : ledger (setLine s core line n) = ledger s := rfl

@[simp] theorem ledger_dropLine (s : State) (core line : Nat) : ledger (dropLine s core line) = ledger s := rfl

@[simp] theorem ledger_clearPoison (s : State) (l : Loc) (len : Nat) : ledger (clearPoison s l len) = ledger s := rfl

@[simp] theorem ledger_countMiss (s : State) (line : Nat) : ledger (countMiss s line) = ledger s := rfl

@[simp] theorem ledger_applyInvals (s : State) (core : Nat) (p : Inval → Bool) : ledger (applyInvals s core p) = ledger s := rfl

@[simp] theorem ledger_applyOwn (s : State) (core line : Nat) : ledger (applyOwn s core line) = ledger s := rfl

@[simp] theorem ledger_l2Drop (s : State) (die line : Nat) : ledger (l2Drop s die line) = ledger s := by
  unfold l2Drop
  split
  · rfl
  · exact ledger_modDie _ _ fun _ => rfl

@[simp] theorem ledger_l2DropAll (s : State) (line : Nat) : ledger (l2DropAll s line) = ledger s :=
  ledger_foldl (fun s d => ledger_l2Drop s d line) _ _

@[simp] theorem ledger_l2Mark (s : State) (die line : Nat) (st : L2State) : ledger (l2Mark s die line st) = ledger s := by
  unfold l2Mark
  split
  · rfl
  · exact ledger_modDie _ _ fun _ => rfl

@[simp] theorem ledger_l2Spare (s : State) (die line : Nat) : ledger (l2Spare s die line) = ledger s := by
  unfold l2Spare
  extract_lets
  split
  · rfl
  split
  · exact ledger_l2Drop ..
  · rfl

@[simp] theorem ledger_writeBack (s : State) (core line : Nat) : ledger (writeBack s core line) = ledger s := by
  unfold writeBack
  split
  · rfl
  · simp [ledger_foldl]

@[simp] theorem ledger_demote (s : State) (core line : Nat) (st : LineState) : ledger (demote s core line st) = ledger s := by
  unfold demote
  split
  · rfl
  · simp

@[simp] theorem ledger_giveUp (s : State) (core line : Nat) : ledger (giveUp s core line) = ledger s := ledger_writeBack ..

@[simp] theorem ledger_receiveInval (s : State) (core line : Nat) : ledger (receiveInval s core line) = ledger s := by
  unfold receiveInval
  split
  · rfl
  · simp

@[simp] theorem ledger_expelSharers (s : State) (self line : Nat) : ledger (expelSharers s self line) = ledger s :=
  ledger_foldl (fun s c => ledger_receiveInval s c line) _ _

@[simp] theorem ledger_mergeHome (s : State) (line op ty : Nat) (inc : Line) : ledger (mergeHome s line op ty inc) = ledger s :=
  ledger_foldl (fun _ _ => ledger_foldl (fun _ _ => ledger_rawWrite ..) _ _) _ _

@[simp] theorem ledger_evictU (s : State) (core line : Nat) : ledger (evictU s core line) = ledger s := by
  unfold evictU
  split
  · rfl
  split
  · rfl
  · rfl

@[simp] theorem ledger_mergeEviction (s : State) (core line : Nat) : ledger (mergeEviction s core line) = ledger s := by
  unfold mergeEviction
  split
  · rfl
  split
  · extract_lets _ _ _ s1
    have hs1 : ledger s1 = ledger s := by simp [s1]
    exact hs1
  · rfl

@[simp] theorem ledger_settleEvicting (s : State) (line : Nat) : ledger (settleEvicting s line) = ledger s :=
  ledger_foldl (fun s c => ledger_mergeEviction s c line) _ _

@[simp] theorem ledger_collapseLine (s : State) (line : Nat) : ledger (collapseLine s line) = ledger s := by
  unfold collapseLine
  extract_lets s1
  have hs1 : ledger s1 = ledger s := ledger_settleEvicting s line
  split
  · exact hs1
  extract_lets _ _ s2 s3
  have hs2 : ledger s2 = ledger s1 := by
    refine ledger_foldl (fun s e => ?_) _ _
    split
    · exact ledger_mergeHome ..
    · rfl
  have hs3 : ledger s3 = ledger s2 := ledger_foldl (fun s c => ledger_dropLine s c line) _ _
  exact hs3.trans (hs2.trans hs1)

@[simp] theorem ledger_releaseSlice (s : State) (die line : Nat) : ledger (releaseSlice s die line) = ledger s := by
  unfold releaseSlice
  split
  · rfl
  split
  · split
    · exact ledger_collapseLine ..
    · exact ledger_mergeHome ..
  · rfl

@[simp] theorem ledger_l2Room (s : State) (die line : Nat) : ledger (l2Room s die line) = ledger s := by
  unfold l2Room
  extract_lets
  split
  · exact ledger_l2Spare ..
  split
  · simp
  · rfl

@[simp] theorem ledger_ackEviction (s : State) (core line : Nat) : ledger (ackEviction s core line) = ledger s := by
  simp [ackEviction]

@[simp] theorem ledger_l2Take (s : State) (die line : Nat) (write first : Bool) : ledger (l2Take s die line write first) = ledger s := by
  unfold l2Take
  extract_lets _ s1 put s2
  have hs1 : ledger s1 = ledger s := by
    refine ledger_foldl (fun s d => ?_) _ _
    split
    · exact ledger_l2Drop ..
    · exact ledger_modDie _ _ fun _ => rfl
  have hput (s : State) (e : L2Line) : ledger (put s e) = ledger s := ledger_modDie _ _ fun _ => rfl
  have hs2 : ledger s2 = ledger s1 := by simp [s2]
  split
  · rw [hput, hs1]
  · rw [ledger_ite, hput, hs2, hs1, ite_self]

@[simp] theorem ledger_l2Home (s : State) (l : Loc) (write : Bool) : ledger (l2Home s l write) = ledger s := by
  simp [l2Home]

@[simp] theorem ledger_makeRoom (s : State) (core line : Nat) : ledger (makeRoom s core line) = ledger s := by
  unfold makeRoom
  extract_lets
  split
  · rfl
  split
  · exact ledger_giveUp ..
  split
  · simp
  · rfl

@[simp] theorem ledger_shareOwners (s : State) (self line : Nat) : ledger (shareOwners s self line) = ledger s :=
  ledger_foldl (fun s c => ledger_demote s c line .s) _ _

@[simp] theorem ledger_expelOwners (s : State) (self line : Nat) : ledger (expelOwners s self line) = ledger s :=
  ledger_foldl (fun s c => ledger_giveUp s c line) _ _

@[simp] theorem ledger_fillSector (s : State) (core line sec va : Nat) (st : LineState) :
    ledger (fillSector s core line sec va st) = ledger s := by
  simp [fillSector]

@[simp] theorem ledger_dropPeers (s : State) (line : Nat) : ledger (dropPeers s line) = ledger s := by
  unfold dropPeers
  split
  · rfl
  · rfl

@[simp] theorem ledger_loadSector (s : State) (core : Nat) (l : Loc) : ledger (loadSector s core l) = ledger s := by
  unfold loadSector
  extract_lets _ _ s1 s2 s3
  split
  · simp
  · simp [s3, s2, s1]

@[simp] theorem ledger_homeRead (s : State) (l : Loc) (n : Nat) : ledger (homeRead s l n).1 = ledger s := by
  unfold homeRead
  split
  · simp [ledger_foldl]
  · simp [ledger_foldl]
  · rfl

@[simp] theorem ledger_clearForWrite (s : State) (l : Loc) : ledger (clearForWrite s l) = ledger s := by
  unfold clearForWrite
  split
  · simp [ledger_foldl]
  · simp [ledger_foldl]
  · rfl

@[simp] theorem ledger_dropPlain (s : State) (core line : Nat) : ledger (dropPlain s core line) = ledger s := by
  unfold dropPlain
  split
  · rfl
  · simp

@[simp] theorem ledger_homeWrite (s : State) (l : Loc) (bs : List Byte) : ledger (homeWrite s l bs) = ledger s := by
  simp [homeWrite]

@[simp] theorem ledger_coreLoad (s : State) (core : Nat) (l : Loc) (n : Nat) : ledger (coreLoad s core l n).1 = ledger s := by
  unfold coreLoad
  split
  · extract_lets s1 s2
    have hs1 : ledger s1 = ledger s := by
      unfold s1
      split
      · simp
      · simp
    have hs2 : ledger s2 = ledger s := (ledger_loadSector ..).trans hs1
    split
    · exact hs2
    · exact hs2
  · simp

@[simp] theorem ledger_ownForStore (s : State) (core : Nat) (l : Loc) (whole : Bool) : ledger (ownForStore s core l whole) = ledger s := by
  simp [ownForStore]

@[simp] theorem ledger_coreStore (s : State) (core : Nat) (sector : Loc) (bytes : Tab Byte) :
    ledger (coreStore s core sector bytes) = ledger s := by
  unfold coreStore
  extract_lets _ s1 s2 s3
  have hs1 : ledger s1 = ledger s := by simp [s1]
  have hs2 : ledger s2 = ledger s := (ledger_ownForStore ..).trans hs1
  have hs3 : ledger s3 = ledger s := by simp [s3, hs1]
  split
  · split
    · exact hs2
    · exact hs2
  · exact (ledger_foldl (fun _ _ => ledger_rawWrite ..) _ _).trans hs3

@[simp] theorem ledger_updateCopy (s : State) (core op ty : Nat) (l : Loc) (v : Nat) : ledger (updateCopy s core op ty l v) = ledger s := by
  unfold updateCopy
  split
  · rfl
  · rfl

@[simp] theorem ledger_grantU (s : State) (core op ty : Nat) (l : Loc) : ledger (grantU s core op ty l) = ledger s := by
  unfold grantU
  extract_lets line s1 s2 s3 s4 s5 s6 s7 s8
  have hs3 : ledger s3 = ledger s := by simp [s3, s2, s1]
  clear_value s3
  have hs5 : ledger s5 = ledger s3 := ledger_foldl (fun s c => ledger_giveUp s c line) _ _
  simp [s8, s7, s6, hs5, hs3]

@[simp] theorem ledger_atomicAt (s : State) (core : Nat) (l : Loc) (w : Nat) (f : Nat → Nat) :
    ledger (atomicAt s core l w f).1 = ledger s := by
  unfold atomicAt
  split
  · simp
  · simp

/-! ## Translation (R379 to R387, R404) -/

@[simp] theorem ledger_setLeaf (s : State) (a e : Nat) : ledger (setLeaf s a e) = ledger s := ledger_homeWrite ..

@[simp] theorem ledger_fillFirst (s : State) (u : Nat) (e : TlbEntry) : ledger (fillFirst s u e) = ledger s := by
  unfold fillFirst
  split
  · rfl
  split
  · exact ledger_modDie _ _ fun _ => rfl
  · rfl

@[simp] theorem ledger_walkFill (s : State) (core va : Nat) (write : Bool) : ledger (walkFill s core va write).1 = ledger s := by
  unfold walkFill
  split
  · rfl
  · extract_lets _ s1 n
    have hs1 : ledger s1 = ledger s := by simp [s1]
    refine Eq.trans ?_ ((ledger_fillFirst s1 core n).trans hs1)
    exact ledger_modDie _ _ fun _ => rfl

@[simp] theorem ledger_lookup (s : State) (core va : Nat) : ledger (lookup s core va).1 = ledger s := by
  unfold lookup
  split
  · rfl
  extract_lets s1
  have hs1 : ledger s1 = ledger s := by simp [s1]
  split
  · simp [hs1]
  · simp [hs1]

@[simp] theorem ledger_translateVa (s : State) (w : Who) (va space size : Nat) (report : Word) (kind : Access) :
    ledger (translateVa s w va space size report kind).1 = ledger s := by
  have hlookup := ledger_lookup s w.core va
  unfold translateVa
  split
  next e => exact (ledger_of_eq e).trans hlookup
  next s1 e he =>
    have hs1 : ledger s1 = ledger s := (ledger_of_eq he).trans hlookup
    split
    · split
      · split
        · exact hs1
        split
        · have hfill := ledger_walkFill s1 w.core va true
          split
          next hw => exact (ledger_of_eq hw).trans (hfill.trans hs1)
          next hw => exact (ledger_of_eq hw).trans (hfill.trans hs1)
        · exact hs1
      · exact hs1
    · exact hs1

@[simp] theorem ledger_translate (s : State) (w : Who) (wid ptr : Word) (size : Nat) (kind : Access) :
    ledger (translate s w wid ptr size kind).1 = ledger s := by
  unfold translate
  extract_lets
  split
  · rfl
  split
  · rfl
  split
  · rfl
  split
  · split
    · rfl
    · split <;> rfl
  split
  · split
    · rfl
    split
    · rfl
    · split <;> rfl
  split
  · split
    · rfl
    · exact ledger_translateVa ..
  · exact ledger_translateVa ..

@[simp] theorem ledger_locate (s : State) (w : Who) (ptr : Word) (size : Nat) (kind : Access) :
    ledger (locate s w ptr size kind).1 = ledger s := by
  unfold locate
  split
  · exact ledger_translateVa ..
  · exact ledger_translate ..

@[simp] theorem ledger_relocate (s : State) (w : Who) (l : Loc) (size : Nat) (kind : Access) :
    ledger (relocate s w l size kind).1 = ledger s := by
  unfold relocate
  split
  · rfl
  · exact ledger_locate ..

/-! ## Units' accesses and records (R320, R449, R483) -/

@[simp] theorem ledger_unitLookup (s : State) (va : Nat) (write : Bool) : ledger (unitLookup s va write).1 = ledger s := by
  unfold unitLookup
  split
  · rfl
  · simp

@[simp] theorem ledger_unitPlace (s : State) (ptr : Word) (read write : Bool) : ledger (unitPlace s ptr read write).1 = ledger s := by
  have hlookup := ledger_unitLookup s ptr.toNat false
  unfold unitPlace
  extract_lets
  split
  · rfl
  split
  next e => exact (ledger_of_eq e).trans hlookup
  next s1 e he =>
    have hs1 : ledger s1 = ledger s := (ledger_of_eq he).trans hlookup
    split
    · exact hs1
    · simp [hs1]

@[simp] theorem ledger_unitWrite (s : State) (ptr : Word) (bs : List Byte) : ledger (unitWrite s ptr bs).1 = ledger s := by
  have hplace := ledger_unitPlace s ptr false true
  unfold unitWrite
  split
  next e => exact (ledger_of_eq e).trans hplace
  next s1 l e =>
    have hs1 : ledger s1 = ledger s := (ledger_of_eq e).trans hplace
    split
    · exact hs1
    · exact (ledger_homeWrite ..).trans hs1

@[simp] theorem ledger_unitStore (s : State) (ptr : Word) (bs : List Byte) : ledger (unitStore s ptr bs).1 = ledger s := by
  refine ledger_foldl_fst (fun p a => ?_) _ (s, true)
  split
  · exact ledger_unitWrite ..
  · rfl

/-- What is sent stands in no book. -/
@[simp] theorem books_send (s : State) (m : Message) : (ledger (send s m)).books = (ledger s).books := rfl

@[simp] theorem books_recordStore (s : State) (key unit : Nat) (ptr : Word) (bs : List Byte) :
    (ledger (recordStore s key unit ptr bs)).books = (ledger s).books := by
  unfold recordStore
  split
  · simp
  · rfl

@[simp] theorem books_writeTileRecord (s : State) (stamp ticket core : Nat) (hi : Bool) (e : TileEntry) (steps state : Nat) :
    (ledger (writeTileRecord s stamp ticket core hi e steps state)).books = (ledger s).books := by
  unfold writeTileRecord
  split
  · rfl
  · exact books_recordStore ..

@[simp] theorem books_entryRecords (s : State) (core : Nat) (hi : Bool) (e : TileEntry) (state : Nat) :
    (ledger (entryRecords s core hi e state)).books = (ledger s).books := by
  unfold entryRecords
  extract_lets n s1
  have hs1 : (ledger s1).books = (ledger s).books := by
    unfold s1
    split
    · rfl
    · exact books_writeTileRecord ..
  refine (books_foldl (fun s q => ?_) _ _).trans hs1
  split
  · rfl
  · exact books_writeTileRecord ..

@[simp] theorem books_failEntries (s : State) (key : Nat) : (ledger (failEntries s key)).books = (ledger s).books := by
  unfold failEntries
  split
  · rfl
  · exact books_foldl (fun _ _ => books_entryRecords ..) _ _

/-! ## The sending side of the links (R428 to R432) -/

@[simp] theorem ledger_setStream (s : State) (k : Nat) (v : Stream) : ledger (setStream s k v) = ledger s := rfl

@[simp] theorem ledger_setPort (s : State) (p : Nat) (v : Port) : ledger (setPort s p v) = ledger s := rfl

@[simp] theorem ledger_emit (s : State) (p : Packet) : ledger (emit s p) = ledger s := by
  unfold emit
  extract_lets
  split
  · rfl
  · exact ledger_setPort ..

@[simp] theorem ledger_pump (s : State) (k : Nat) : ledger (pump s k) = ledger s := by
  unfold pump
  extract_lets
  split
  · rfl
  · exact (ledger_foldl ledger_emit _ _).trans (ledger_setStream ..)

@[simp] theorem ledger_sendPacket (s : State) (peer plane key : Nat) (flits : List Flit) :
    ledger (sendPacket s peer plane key flits) = ledger s := (ledger_pump ..).trans (ledger_setStream ..)

@[simp] theorem ledger_requestTo (s : State) (key kind : Nat) (l : Loc) (bs : List Byte) : ledger (requestTo s key kind l bs) = ledger s := by
  unfold requestTo
  split
  · rfl
  · exact ledger_sendPacket ..

@[simp] theorem ledger_coreRequest (s : State) (core key kind : Nat) (l : Loc) (bs : List Byte) :
    ledger (coreRequest s core key kind l bs) = ledger s := by
  simp [coreRequest]

/-! ## Buffered entries at their point of performance (R248, R351 to R356, R363) -/

@[simp] theorem ledger_grantFor (s : State) (core group op ty : Nat) (l : Loc) : ledger (grantFor s core group op ty l) = ledger s := by
  simp [grantFor]

@[simp] theorem ledger_updateAt (s : State) (core : Nat) (float : Bool) (fn ty : Nat) (o : LaneOp) :
    ledger (updateAt s core float fn ty o) = ledger s := by
  unfold updateAt
  split
  · exact ledger_atomicAt ..
  · exact ledger_atomicAt ..

@[simp] theorem ledger_updateLane (core : Nat) (e : SBEntry) (float : Bool) (fn ty : Nat) (s : State) (o : LaneOp) :
    ledger (updateLane core e float fn ty s o) = ledger s := by
  unfold updateLane
  split
  · simp
  · exact ledger_updateAt ..

@[simp] theorem ledger_atomicLane (core ty : Nat) (f : LaneOp → Nat → Nat) (a : State × Tab Word) (o : LaneOp) :
    ledger (atomicLane core ty f a o).1 = ledger a.1 := ledger_atomicAt ..

@[simp] theorem ledger_clEffect (s : State) (core fn : Nat) (l : Loc) : ledger (clEffect s core fn l) = ledger s := by
  unfold clEffect
  extract_lets line s1 s2
  have hs1 : ledger s1 = ledger s := ledger_applyOwn ..
  have hs2 : ledger s2 = ledger s := (ledger_collapseLine ..).trans hs1
  split
  · rfl
  split
  · split
    · exact hs2
    · split
      · simp [hs1]
      · exact hs1
  split
  · split
    · simp [hs1]
    · exact hs1
  split
  · exact hs2
  · exact (ledger_foldl (fun s c => ledger_demote s c line .e) _ _).trans hs2

@[simp] theorem ledger_readSync (s : State) (l : Loc) : ledger (readSync s l).1 = ledger s := ledger_homeRead ..

@[simp] theorem ledger_raiseDelivery (s : State) (core : Nat) (d : Delivery) : ledger (raiseDelivery s core d) = ledger s := rfl

@[simp] theorem books_staleNotice (s : State) (l : Loc) : (ledger (staleNotice s l)).books = (ledger s).books := by
  unfold staleNotice
  split
  · split
    · rfl
    · rfl
  · rfl
  · rfl

@[simp] theorem ledger_matchNotice (s : State) (l : Loc) (gen : Nat) : ledger (matchNotice s l gen) = ledger s := by
  unfold matchNotice
  split
  · rfl
  · exact ledger_modDie _ _ fun _ => rfl

@[simp] theorem books_arrive (s : State) (l : Loc) (g n : Nat) : (ledger (arrive s l g n)).books = (ledger s).books := by
  unfold arrive
  extract_lets r s1 w s2 c w' s3
  have hs1 : ledger s1 = ledger s := ledger_readSync ..
  have hs2 : ledger s2 = ledger s := (ledger_homeWrite ..).trans hs1
  have hs3 : ledger s3 = ledger s := (ledger_homeWrite ..).trans hs1
  split
  · split
    · rw [books_staleNotice, hs2]
    · rw [hs2]
  · simp [hs1, hs3]

@[simp] theorem ledger_noteRace (s : State) (e : SBEntry) : ledger (noteRace s e) = ledger s := by
  unfold noteRace
  split
  · rfl
  · extract_lets
    split
    · rfl
    · rfl

theorem books_performEntryOp (s : State) (core : Nat) (e : SBEntry) : (ledger (performEntryOp s core e).1).books = (ledger s).books := by
  unfold performEntryOp
  split
  · simp
  · simp
  · exact congrArg _ (ledger_foldl (fun s o => ledger_updateLane ..) _ s)
  · exact congrArg _ (ledger_foldl_fst (fun a o => ledger_atomicLane ..) _ (s, []))
  · exact congrArg _ (ledger_foldl_fst (fun a o => ledger_atomicLane ..) _ (s, []))
  · simp
  · exact books_foldl (fun s o => (books_arrive ..).trans (by simp)) _ s
  · rfl

@[simp] theorem books_performBuffered (s : State) (core : Nat) (e : SBEntry) :
    (ledger (performBuffered s core e).1).books = (ledger s).books := by
  rw [performBuffered, books_performEntryOp, ledger_noteRace]

/-! ## Draining (R78, R404) -/

@[simp] theorem ledger_renewEntry (s : State) (w : Who) (e : SBEntry) : ledger (renewEntry s w e).1 = ledger s := by
  have hplace := ledger_relocate s w e.loc 1 (entryAccess e.kind)
  unfold renewEntry
  extract_lets
  split
  next he => exact (ledger_of_eq he).trans hplace
  next s1 loc he =>
    extract_lets r
    have hr : ledger r.1 = ledger s := by
      refine (ledger_foldl_fst (fun p o => ?_) _ _).trans ((ledger_of_eq he).trans hplace)
      have hop := ledger_relocate p.1 w o.loc 1 (entryAccess e.kind)
      split
      next ho => exact (ledger_of_eq ho).trans hop
      next ho => exact (ledger_of_eq ho).trans hop
    split
    · exact hr
    · exact hr

@[simp] theorem ledger_sendCard (s : State) (core pos : Nat) (t : Troupe) (e : SBEntry) : ledger (sendCard s core pos t e) = ledger s := by
  unfold sendCard
  split
  · rfl
  · exact ledger_modDie _ _ fun _ => rfl

@[simp] theorem ledger_keepRemote (s : State) (slot : Nat) (e : SBEntry) : ledger (keepRemote s slot e) = ledger s := rfl

@[simp] theorem books_drainNow (s : State) (core key tidx : Nat) (e : SBEntry) :
    (ledger (drainNow s core key tidx e)).books = (ledger s).books := by
  unfold drainNow
  split
  · rfl
  split
  · rfl
  extract_lets s1 s2
  have hs1 : ledger s1 = ledger s := ledger_coreRequest ..
  have hs2 : ledger s2 = ledger s1 := by
    refine ledger_foldl (fun s o => ?_) _ _
    split
    · simp
    · rfl
  simp [hs2, hs1]

@[simp] theorem books_drainAgain (s : State) (core key tidx : Nat) (e : SBEntry) :
    (ledger (drainAgain s core key tidx e)).books = (ledger s).books := by
  have hrenew := ledger_renewEntry s ⟨core, false, ((gridOfGroup s key).map gridKey).getD 0, key⟩ e
  unfold drainAgain
  split
  next he => rw [books_drainNow, ledger_of_eq he, hrenew]
  next he =>
    split
    · rw [ledger_keepRemote, ledger_of_eq he, hrenew]
    · rw [books_send, ledger_of_eq he, hrenew]

@[simp] theorem books_drainEntry (s : State) (core pos : Nat) (t : Troupe) (e : SBEntry) :
    (ledger (drainEntry s core pos t e)).books = (ledger s).books := by
  unfold drainEntry
  split
  · simp
  split
  · exact books_drainAgain ..
  · exact books_drainNow ..

@[simp] theorem books_drainGroup (s : State) (key : Nat) : (ledger (drainGroup s key)).books = (ledger s).books := by
  unfold drainGroup
  split
  · rfl
  · exact books_foldl (fun _ _ => books_foldl (fun _ _ => books_drainEntry ..) _ _) _ _

end Sys2Proof.Machine
end

section
/-!
PROOFS. Launches are served (R59, R478), grids accepted or refused (R60, R66, R70), and stage periods begin (R83).
-/

namespace Sys2Proof.Machine

/-! ## Launch queues -/

theorem exec_launchDoorbell {s : State} {q : Nat} (hq : q < 8) (hboot : s.mgmt.boot = 5) (hgood : s.mgmt.failed = false) :
    exec (.launchDoorbell q) s = .next { s with mgmt := { s.mgmt with lqblocked := tabPut s.mgmt.lqblocked q false } } :=
  if_neg (by simp [hq, hboot, hgood])

/-- A queue that has a descriptor to serve is set up and not blocked. -/
theorem launchQueue_open {s : State} {q : Nat} {l : Loc} (h : launchQueue s q = some l) :
    ¬ (decide (tabGet s.mgmt.lqdesc q 0 = 0) || tabGet s.mgmt.lqblocked q false) = true := by
  intro hshut
  rw [launchQueue] at h
  simp only [hshut, if_true] at h
  cases h

/-- A queue that holds an entry which reads gives it up (R59). -/
theorem serveQueue_takes {s s1 s2 : State} {q : Nat} {l : Loc} {bs e : List Byte} (hl : launchQueue s q = some l)
    (hd : unitHome s l 64 = (s1, bs)) (hok : queueOk (queueOf bs) = true) (hne : 0 < queueHeld (queueOf bs))
    (hle : queueHeld (queueOf bs) ≤ (queueOf bs).capacity)
    (he : unitBytes s1 (entryPtr (queueOf bs) (queueOf bs).head) 8 = (s2, some e)) :
    serveQueue s q = takeEntry (homeWrite s2 (l.plus 16) (leBytes 8 ((queueOf bs).head + 1))) q (word (leNat e)) := by
  have hfits : ¬ (!queueOk (queueOf bs) || decide (queueHeld (queueOf bs) > (queueOf bs).capacity)) = true := by
    simp [hok, hle]
  simp only [serveQueue, launchQueue_open hl, Bool.false_eq_true, if_false, hl, hd, hfits, hne.ne', he]

theorem whole_of_clear {s t : State} (h : t.stuck = false) : whole s t = t := by
  simp [whole, h]

theorem exec_launchQueueServe {s : State} {q : Nat} (hboot : s.mgmt.boot = 5) (hgood : s.mgmt.failed = false)
    (hq : ((List.range 8).map fun n => (s.mgmt.lqnext + n) % 8).find? (queueWaiting s) = some q) :
    exec .launchQueueServe s = .next (whole s (serveQueue { s with mgmt := { s.mgmt with lqnext := (q + 1) % 8 } } q)) := by
  change execLaunchQueueServe s = _
  simp only [execLaunchQueueServe, hboot, hgood, hq]
  rfl

/-! ## Acceptance and refusal -/

/-- A status word is written, and no book. -/
@[simp] theorem ledger_writeStatus (s : State) (g : Grid) (ticket state reason : Nat) (retired : Option Nat) :
    ledger (writeStatus s g ticket state reason retired) = ledger s := by
  unfold writeStatus
  extract_lets
  split
  · exact ledger_unitStore ..
  · exact (ledger_unitStore ..).trans (ledger_unitStore ..)

/-- Dealing gangs to the dies leaves the grids, their counters and the messages. -/
theorem dealGangs_frame (s : State) (ticket a b : Nat) :
    ((dealGangs s ticket a b).grids, (dealGangs s ticket a b).nextTicket, (dealGangs s ticket a b).nextOrder, (dealGangs s ticket a b).outbox) =
      (s.grids, s.nextTicket, s.nextOrder, s.outbox) := by
  refine apply_foldl_of_step (fun s : State => (s.grids, s.nextTicket, s.nextOrder, s.outbox)) (fun s i => ?_) _ s
  rfl

theorem ledger_send (s : State) (m : Message) : ledger (send s m) = ⟨(ledger s).books, (ledger s).sent ++ [m]⟩ := rfl

/-- A grid on the books: its ticket and order are taken. -/
def enrolled (s : State) (g : Grid) : State :=
  { setGrid s s.nextTicket { g with order := s.nextOrder } with nextTicket := ticketAfter s.nextTicket, nextOrder := s.nextOrder + 1 }

/-- The accepted grid as the control node hears of it: its status and current count stand in its record (R66). -/
def announced (s : State) (g : Grid) : State :=
  (unitStore (send (writeStatus (enrolled s g) g s.nextTicket 1 0 none) (.completion s.nextTicket 1 0)) (g.recordAddr + 0xC8)
    (leBytes 8 g.current)).1

theorem acceptGrid_eq {s : State} {g : Grid} (h : g.current ≠ 0) :
    acceptGrid s g = dealGangs (announced s g) s.nextTicket 0 (g.current / gangSize g) := if_neg h

theorem announced_ledger (s : State) (g : Grid) : ledger (announced s g) = ledger (send (enrolled s g) (.completion s.nextTicket 1 0)) := by
  rw [announced, ledger_unitStore, ledger_send, ledger_writeStatus, ← ledger_send]

/-- An accepted grid's books (R60, R66, R70). -/
theorem acceptGrid_books {s : State} {g : Grid} (h : g.current ≠ 0) :
    gridAt (acceptGrid s g) s.nextTicket = some { g with order := s.nextOrder } ∧ (acceptGrid s g).nextTicket = ticketAfter s.nextTicket ∧
      (acceptGrid s g).nextOrder = s.nextOrder + 1 ∧ Message.completion s.nextTicket 1 0 ∈ (acceptGrid s g).outbox := by
  have hdeal := dealGangs_frame (announced s g) s.nextTicket 0 (g.current / gangSize g)
  simp only [Prod.mk.injEq] at hdeal
  obtain ⟨hgrids, hticket, horder, hsent⟩ := hdeal
  have hled := announced_ledger s g
  rw [acceptGrid_eq h]
  refine ⟨?_, ?_, ?_, ?_⟩
  · rw [gridAt, hgrids, show (announced s g).grids = _ from congrArg (fun l => l.books.grids) hled]
    exact gridAt_setGrid_self ..
  · rw [hticket, show (announced s g).nextTicket = _ from congrArg (fun l => l.books.ticket) hled]
    rfl
  · rw [horder, show (announced s g).nextOrder = _ from congrArg (fun l => l.books.order) hled]
    rfl
  · rw [hsent, show (announced s g).outbox = _ from congrArg Ledger.sent hled]
    simp [ledger]

/-- A refusal is reported in state 3 with its reason (R66). -/
theorem refuseRecord_sends (s : State) (ptr : Word) (r : Nat) : Message.completion 0 3 r ∈ (refuseRecord s ptr r).outbox := by
  simp [refuseRecord]

/-! ## Stage periods -/

/-- A period that is over begins anew, with no gang to let go (R83). -/
theorem exec_stagePeriod {s : State} {pipe : Nat} {p : Pipeline} (hp : tabGet? s.pipelines pipe = some p) (hover : p.nextPeriod ≤ s.cycle) :
    let q : Pipeline := { p with admitted := [], nextPeriod := s.cycle + 8192,
                                 weights := p.stages.map fun k => ((gridAt s k).map (weightOf s)).getD 0 }
    let s1 := { s with pipelines := tabPut s.pipelines pipe q }
    idleChoice s1 q = none → exec (.stagePeriod pipe) s = .next s1 := by
  intro q s1 hidle
  change execStagePeriod pipe s = _
  simp only [execStagePeriod, hp, if_neg (Nat.not_lt.2 hover)]
  change (match idleChoice s1 q with
    | some (t, g, gang, true) => Host.Outcome.next (flushGang s1 t g gang)
    | some (t, g, gang, false) => .next (startSave s1 t g gang)
    | none => .next s1) = _
  rw [hidle]

end Sys2Proof.Machine
end

section
/-!
PROOFS. Gangs are admitted (R71 to R74), give way (R75 to R80, R465), and are flushed, saved and restored (R403, R404).
-/

namespace Sys2Proof.Machine

/-! ## Admission -/

theorem groupKey_inj {t i j : Nat} : groupKey t i = groupKey t j ↔ i = j := Nat.add_left_cancel_iff

/-- A member of a gang is numbered by its gang and its place there. -/
theorem memberIndex_inj {n a b i j : Nat} (hi : i < n) (hj : j < n) (h : a * n + i = b * n + j) : a = b ∧ i = j := by
  have hn : 0 < n := Nat.zero_lt_of_lt hi
  have hdiv : a = b := by
    have := congrArg (· / n) h
    simpa [Nat.mul_comm _ n, Nat.mul_add_div hn, Nat.div_eq_of_lt hi, Nat.div_eq_of_lt hj] using this
  subst hdiv
  exact ⟨rfl, Nat.add_left_cancel h⟩

/-- A group as it is admitted to a core: its scratchpad zero, its clauses free to start (R74). -/
def AdmittedTo (s : State) (key core index : Nat) : Prop :=
  ∃ w, groupAt s key = some w ∧ w.core = core ∧ w.index = index ∧ w.scratch = [] ∧ w.closing = false

theorem AdmittedTo.of_groupAt {s t : State} {key core index : Nat} (h : AdmittedTo s key core index) (e : groupAt t key = groupAt s key) :
    AdmittedTo t key core index := by
  obtain ⟨w, hw, hrest⟩ := h
  exact ⟨w, e.trans hw, hrest⟩

/-- An admission is of cores and of one group. -/
theorem admitGroup_eq (s : State) (ticket : Nat) (g : Grid) (index core : Nat) (start : Word) (gang : Tab Nat) (saved : Bool) :
    ∃ q w, admitGroup s ticket g index core start gang saved = setGroup q (groupKey ticket index) w ∧
      (q.groups, q.grids, q.dies) = (s.groups, s.grids, s.dies) ∧
      w.core = core ∧ w.index = index ∧ w.scratch = [] ∧ w.closing = false := by
  unfold admitGroup
  extract_lets key k inh ps w s1 s2
  have hs1 : (s1.groups, s1.grids, s1.dies) = (s.groups, s.grids, s.dies) := by
    refine apply_foldl_of_step (fun s : State => (s.groups, s.grids, s.dies)) (fun s t => ?_) _ s
    rfl
  have hs2 : (s2.groups, s2.grids, s2.dies) = (s1.groups, s1.grids, s1.dies) := by
    clear_value s1
    unfold s2
    clear_value inh
    cases inh with
    | none => rfl
    | some r => rfl
  exact ⟨s2, w, rfl, hs2.trans hs1, rfl, rfl, rfl, rfl⟩

theorem admitGroup_admits (s : State) (ticket : Nat) (g : Grid) (index core : Nat) (start : Word) (gang : Tab Nat) (saved : Bool) :
    AdmittedTo (admitGroup s ticket g index core start gang saved) (groupKey ticket index) core index := by
  obtain ⟨q, w, hq, -, hw⟩ := admitGroup_eq s ticket g index core start gang saved
  exact ⟨w, by rw [hq, groupAt_setGroup_self], hw⟩

theorem groupAt_admitGroup_ne {s : State} {ticket : Nat} {g : Grid} {index core : Nat} {start : Word} {gang : Tab Nat} {saved : Bool} {key : Nat}
    (h : groupKey ticket index ≠ key) : groupAt (admitGroup s ticket g index core start gang saved) key = groupAt s key := by
  obtain ⟨q, w, hq, hframe, -⟩ := admitGroup_eq s ticket g index core start gang saved
  rw [hq, groupAt_setGroup_ne _ _ h, groupAt, groupAt, (Prod.mk.inj hframe).1]

theorem admitGroup_frame (s : State) (ticket : Nat) (g : Grid) (index core : Nat) (start : Word) (gang : Tab Nat) (saved : Bool) :
    ((admitGroup s ticket g index core start gang saved).grids, (admitGroup s ticket g index core start gang saved).dies) =
      (s.grids, s.dies) := by
  obtain ⟨q, w, hq, hframe, -⟩ := admitGroup_eq s ticket g index core start gang saved
  rw [hq]
  exact (Prod.mk.inj hframe).2

/-- The members of a gang, admitted one after the other. -/
def admitMembers (s : State) (ticket : Nat) (g : Grid) (p : PendingGang) (cores ms : List Nat) : State :=
  ms.foldl (fun s m => admitGroup s ticket g (p.gang * gangSize g + m) (cores.getD m 0) (p.starts.getD m (recEntry g))
    (gangTab ticket g p.gang) p.saved) s

theorem admitMembers_admits {ticket : Nat} {g : Grid} {p : PendingGang} {cores : List Nat} {m : Nat} (ms : List Nat) (s : State)
    (h : m ∈ ms ∨ AdmittedTo s (groupKey ticket (p.gang * gangSize g + m)) (cores.getD m 0) (p.gang * gangSize g + m)) :
    AdmittedTo (admitMembers s ticket g p cores ms) (groupKey ticket (p.gang * gangSize g + m)) (cores.getD m 0) (p.gang * gangSize g + m) := by
  induction ms generalizing s with
  | nil => exact h.resolve_left List.not_mem_nil
  | cons n ms ih =>
    apply ih
    by_cases hn : n = m
    · subst hn
      exact .inr (admitGroup_admits ..)
    · refine (h.imp_left fun hm => ?_).imp_right fun ha => ha.of_groupAt (groupAt_admitGroup_ne ?_)
      · exact (List.mem_cons.1 hm).resolve_left (Ne.symm hn)
      · simpa [groupKey_inj] using hn

theorem groupAt_admitMembers_of_not_mem {ticket : Nat} {g : Grid} {p : PendingGang} {cores : List Nat} {key : Nat} (ms : List Nat) (s : State)
    (h : ∀ m ∈ ms, groupKey ticket (p.gang * gangSize g + m) ≠ key) : groupAt (admitMembers s ticket g p cores ms) key = groupAt s key := by
  induction ms generalizing s with
  | nil => rfl
  | cons n ms ih =>
    rw [List.forall_mem_cons] at h
    exact (ih _ h.2).trans (groupAt_admitGroup_ne h.1)

theorem admitMembers_frame (s : State) (ticket : Nat) (g : Grid) (p : PendingGang) (cores ms : List Nat) :
    ((admitMembers s ticket g p cores ms).grids, (admitMembers s ticket g p cores ms).dies) = (s.grids, s.dies) := by
  refine apply_foldl_of_step (fun s : State => (s.grids, s.dies)) (fun s m => ?_) ms s
  exact admitGroup_frame ..

theorem mem_liveMembers_lt {g : Grid} {gang m : Nat} (h : m ∈ liveMembers g gang) : m < gangSize g :=
  List.mem_range.1 (List.mem_of_mem_filter h)

/-- What a change of a grid leaves of every grid: its launch record (R61). -/
theorem record_modGrid (s : State) (ticket k : Nat) {f : Grid → Grid} (hf : ∀ q, (f q).record = q.record) :
    (gridAt (modGrid s ticket f) k).map Grid.record = (gridAt s k).map Grid.record := by
  unfold modGrid
  split
  · rfl
  next g hg =>
    by_cases h : ticket = k
    · subst h
      rw [gridAt_setGrid_self, hg, Option.map_some, Option.map_some, hf]
    · rw [gridAt, setGrid, tabGet?_tabPut_ne _ _ h]
      rfl

theorem gangSize_congr {g q : Grid} (h : q.record = g.record) : gangSize q = gangSize g := by
  simp only [gangSize, gangBits, groupBits, gridShape, recWord, h]

theorem isMinuet_congr {g q : Grid} (h : q.record = g.record) : isMinuet q = isMinuet g := by
  simp only [isMinuet, allotment, recWord, h]

/-- Besides its members an admission changes its own grid's turn alone (R81). -/
theorem admitGang_frame (s : State) (ticket : Nat) (g : Grid) (p : PendingGang) (cores : List Nat) :
    (∀ key, groupAt (admitGang s ticket g p cores) key = groupAt (admitMembers s ticket g p cores (liveMembers g p.gang)) key) ∧
      (admitGang s ticket g p cores).dies = s.dies ∧
      ∀ k, (gridAt (admitGang s ticket g p cores) k).map Grid.record = (gridAt s k).map Grid.record := by
  have hframe := admitMembers_frame s ticket g p cores (liveMembers g p.gang)
  obtain ⟨hgrids, hdies⟩ := Prod.mk.inj hframe
  have hrecord (k : Nat) : (gridAt (admitMembers s ticket g p cores (liveMembers g p.gang)) k).map Grid.record = (gridAt s k).map Grid.record := by
    rw [gridAt, hgrids, gridAt]
  unfold admitGang
  extract_lets s1
  split
  · refine ⟨fun key => congrArg (tabGet? · key) (modGrid_groups ..), (modGrid_dies ..).trans hdies, fun k => Eq.trans ?_ (hrecord k)⟩
    exact record_modGrid s1 ticket k fun _ => rfl
  · exact ⟨fun _ => rfl, hdies, hrecord⟩

theorem admitGang_admits {s : State} {ticket : Nat} {g : Grid} {p : PendingGang} {cores : List Nat} {m : Nat} (hm : m ∈ liveMembers g p.gang) :
    AdmittedTo (admitGang s ticket g p cores) (groupKey ticket (p.gang * gangSize g + m)) (cores.getD m 0) (p.gang * gangSize g + m) :=
  (admitMembers_admits _ _ (.inl hm)).of_groupAt ((admitGang_frame s ticket g p cores).1 _)

/-- An admission of another gang of the grid leaves a gang's members as they are. -/
theorem groupAt_admitGang_of_ne {s : State} {ticket : Nat} {g : Grid} {p : PendingGang} {cores : List Nat} {gang m : Nat} (hm : m < gangSize g)
    (h : p.gang ≠ gang) :
    groupAt (admitGang s ticket g p cores) (groupKey ticket (gang * gangSize g + m)) = groupAt s (groupKey ticket (gang * gangSize g + m)) := by
  obtain ⟨hgroups, -, -⟩ := admitGang_frame s ticket g p cores
  rw [hgroups]
  refine groupAt_admitMembers_of_not_mem _ _ fun n hn e => h ?_
  exact (memberIndex_inj (mem_liveMembers_lt hn) hm (groupKey_inj.1 e)).1

/-! ## A gang leaves its die's queue -/

/-- A gang stands in no place of a die's queue. -/
def NotPending (s : State) (die ticket gang : Nat) : Prop := ∀ q ∈ (dieAt s die).pending, ¬ (q.ticket = ticket ∧ q.gang = gang)

theorem pending_dropPending (s : State) (die ticket gang d : Nat) :
    (dieAt (dropPending s die ticket gang) d).pending =
      if die = d then (dieAt s d).pending.filter fun p => !(p.ticket == ticket && p.gang == gang) else (dieAt s d).pending := by
  unfold dropPending
  split
  next h => rw [← h, dieAt_modDie_self]
  next h => simp [modDie, setDie, dieAt, tabGet_tabPut_ne _ _ _ h]

theorem dropPending_notPending (s : State) (die ticket gang : Nat) : NotPending (dropPending s die ticket gang) die ticket gang := by
  rintro q hq ⟨hticket, hgang⟩
  rw [pending_dropPending, if_pos rfl] at hq
  simp [hticket, hgang] at hq

theorem NotPending.dropPending {s : State} {die ticket gang : Nat} (h : NotPending s die ticket gang) (d t n : Nat) :
    NotPending (dropPending s d t n) die ticket gang := by
  intro q hq
  rw [pending_dropPending] at hq
  split at hq
  · exact h q (List.mem_of_mem_filter hq)
  · exact h q hq

theorem NotPending.of_dies {s t : State} {die ticket gang : Nat} (h : NotPending s die ticket gang) (e : t.dies = s.dies) :
    NotPending t die ticket gang := by
  simpa only [NotPending, dieAt, e] using h

theorem countStage_frame (s : State) (g : Grid) :
    (countStage s g).groups = s.groups ∧ (countStage s g).dies = s.dies ∧ (countStage s g).grids = s.grids := by
  unfold countStage
  split
  · exact ⟨rfl, rfl, rfl⟩
  split
  · exact ⟨rfl, rfl, rfl⟩
  · exact ⟨rfl, rfl, rfl⟩

/-- A gang is on its cores and off its die's queue. -/
structure GangPlaced (s : State) (die ticket gang : Nat) (g : Grid) (cores : List Nat) : Prop where
  off : NotPending s die ticket gang
  on : ∀ m ∈ liveMembers g gang, AdmittedTo s (groupKey ticket (gang * gangSize g + m)) (cores.getD m 0) (gang * gangSize g + m)

/-- The gang a dispatcher chose is placed at once (R72, R74). -/
theorem gangPlaced_of_admit (s : State) (die ticket : Nat) (g : Grid) (p : PendingGang) (cores : List Nat) :
    GangPlaced (countStage (admitGang (dropPending s die ticket p.gang) ticket g p cores) g) die ticket p.gang g cores := by
  obtain ⟨hgroups, hdies, -⟩ := countStage_frame (admitGang (dropPending s die ticket p.gang) ticket g p cores) g
  obtain ⟨-, hadmit, -⟩ := admitGang_frame (dropPending s die ticket p.gang) ticket g p cores
  refine ⟨(dropPending_notPending s die ticket p.gang).of_dies (hdies.trans hadmit), fun m hm => ?_⟩
  exact (admitGang_admits hm).of_groupAt (by rw [groupAt, hgroups, groupAt])

/-- The further gangs of a Minuet grid are others: they leave a gang of die 0 that is placed where it is (R81). -/
theorem GangPlaced.admitMore {ticket gang : Nat} {g : Grid} {cores : List Nat} (fuel : Nat) (s : State)
    (h : GangPlaced s 0 ticket gang g cores) (hg : (gridAt s ticket).map Grid.record = some g.record) :
    GangPlaced (admitMore ticket fuel s) 0 ticket gang g cores := by
  induction fuel generalizing s with
  | zero => exact h
  | succ fuel ih =>
    unfold Machine.admitMore
    split
    next q p hq hp =>
      split
      · exact h
      split
      next cs hcs =>
        have hrec : q.record = g.record := by simpa [hq] using hg
        have hsize := gangSize_congr hrec
        have hne : p.gang ≠ gang := by
          obtain ⟨hoff, -⟩ := h
          have hmem := List.mem_of_find?_eq_some hp
          have hticket := List.find?_some hp
          exact fun e => hoff p hmem ⟨by simpa using hticket, e⟩
        obtain ⟨-, hdies, hrecords⟩ := admitGang_frame (dropPending s 0 ticket p.gang) ticket q p cs
        refine ih _ ⟨(h.off.dropPending _ _ _).of_dies hdies, fun m hm => ?_⟩ ((hrecords ticket).trans hg)
        refine (h.on m hm).of_groupAt ?_
        have hlt : m < gangSize q := hsize ▸ mem_liveMembers_lt hm
        rw [← hsize]
        exact groupAt_admitGang_of_ne hlt hne
      · exact h
    · exact h

/-- A pending grid is on the books. -/
theorem gridAt_of_mem_pendingGrids {s : State} {die : Nat} {e : Nat × Grid} (h : e ∈ pendingGrids s die) : gridAt s e.1 = some e.2 := by
  unfold pendingGrids at h
  obtain ⟨t, -, ht⟩ := List.mem_filterMap.1 (List.mem_mergeSort.1 h)
  obtain ⟨g, hg, rfl⟩ := Option.map_eq_some_iff.1 ht
  exact hg

/-- The first gang that fits is of a grid on the books and has a place on the die. -/
theorem firstFit_places {s : State} {die ticket : Nat} {g : Grid} {p : PendingGang} {cs : List Nat}
    (h : firstFit s die = some (ticket, g, p, cs)) : gridAt s ticket = some g ∧ placeGang s ticket g p die = some cs := by
  obtain ⟨e, he, hfit⟩ := List.exists_of_findSome?_eq_some h
  have hgrid := gridAt_of_mem_pendingGrids he
  split at hfit
  · cases hfit
  obtain ⟨p', -, hp⟩ := Option.bind_eq_some_iff.1 hfit
  obtain ⟨cs', hcs, heq⟩ := Option.map_eq_some_iff.1 hp
  cases heq
  exact ⟨hgrid, hcs⟩

/-- A Minuet grid stands on die 0 (R81). -/
theorem die_of_placeGang_minuet {s : State} {ticket die : Nat} {g : Grid} {p : PendingGang} {cs : List Nat} (hm : isMinuet g = true)
    (h : placeGang s ticket g p die = some cs) : die = 0 := by
  by_contra hd
  rw [placeGang, if_pos hm, if_pos hd] at h
  cases h

/-- A grid that is not in Minuet takes no further gangs with one. -/
theorem admitMore_of_not_minuet {s : State} {ticket : Nat} {g : Grid} (hm : isMinuet g = false)
    (hg : (gridAt s ticket).map Grid.record = some g.record) (fuel : Nat) : admitMore ticket fuel s = s := by
  obtain ⟨q, hq, hrec⟩ := Option.map_eq_some_iff.1 hg
  have hmq : isMinuet q = false := (isMinuet_congr hrec).trans hm
  cases fuel with
  | zero => rfl
  | succ fuel =>
    rw [admitMore, hq]
    cases nextGang s 0 ticket with
    | none => rfl
    | some p => simp [hmq]

theorem startRotation_frame (s : State) (ticket : Nat) :
    (startRotation s ticket).groups = s.groups ∧ (startRotation s ticket).dies = s.dies := ⟨modGrid_groups .., modGrid_dies ..⟩

theorem GangPlaced.of_same {s t : State} {die ticket gang : Nat} {g : Grid} {cores : List Nat} (h : GangPlaced s die ticket gang g cores)
    (hgroups : t.groups = s.groups) (hdies : t.dies = s.dies) : GangPlaced t die ticket gang g cores :=
  ⟨h.off.of_dies hdies, fun m hm => (h.on m hm).of_groupAt (by rw [groupAt, hgroups, groupAt])⟩

/-- An admission places the first gang that fits (R71 to R74). -/
theorem exec_gangAdmit {s : State} {die ticket : Nat} {g : Grid} {p : PendingGang} {cs : List Nat}
    (hfit : firstFit s die = some (ticket, g, p, cs)) (hp : p.saved = false) :
    ∃ t, exec (.gangAdmit die) s = .next t ∧ GangPlaced t die ticket p.gang g cs := by
  obtain ⟨hgrid, hplace⟩ := firstFit_places hfit
  let a := countStage (admitGang (dropPending s die ticket p.gang) ticket g p cs) g
  have hplaced : GangPlaced a die ticket p.gang g cs := gangPlaced_of_admit s die ticket g p cs
  have hrecord : (gridAt a ticket).map Grid.record = some g.record := by
    obtain ⟨-, -, hgrids⟩ := countStage_frame (admitGang (dropPending s die ticket p.gang) ticket g p cs) g
    obtain ⟨-, -, hrecords⟩ := admitGang_frame (dropPending s die ticket p.gang) ticket g p cs
    rw [gridAt, hgrids, ← gridAt, hrecords]
    exact congrArg (Option.map Grid.record) hgrid
  have hmore : GangPlaced (admitMore ticket 64 a) die ticket p.gang g cs := by
    cases hm : isMinuet g with
    | false => rwa [admitMore_of_not_minuet hm hrecord]
    | true =>
      obtain rfl := die_of_placeGang_minuet hm hplace
      exact hplaced.admitMore 64 a hrecord
  refine ⟨if isMinuet g then startRotation (admitMore ticket 64 a) ticket else admitMore ticket 64 a, ?_, ?_⟩
  · change execGangAdmit die s = _
    simp only [execGangAdmit, hfit, hp]
    rfl
  · split
    · exact hmore.of_same (startRotation_frame ..).1 (startRotation_frame ..).2
    · exact hmore

/-- An idle die takes the gang that the die with the most unstarted ones gives up (R71). -/
theorem exec_workSteal {s : State} {die donor ticket : Nat} {g : Grid} {p : PendingGang} {cs : List Nat} (hdie : die < 4)
    (hidle : dieIdle s die = true) (hbusy : dieIdle s donor = false)
    (hdonor : (((List.range 4).filter (· != die)).mergeSort fun a b => decide ((unstarted s b).length ≤ (unstarted s a).length)).head? = some donor)
    (hgang : stolenGang s die donor = some (ticket, g, p, cs)) :
    exec (.workSteal die) s = .next (countStage (admitGang (dropPending s donor ticket p.gang) ticket g p cs) g) := by
  change execWorkSteal die s = _
  have hgo : ¬ (decide (die ≥ 4) || !dieIdle s die) = true := by simp [hidle, hdie]
  simp only [execWorkSteal, hgo, hdonor, hbusy, hgang]
  rfl

/-! ## Gangs give way -/

theorem mem_gangResident {s : State} {ticket : Nat} {g : Grid} {gang k : Nat} (h : k ∈ gangResident s ticket g gang) :
    k ∈ (gangTab ticket g gang).map Prod.snd ∧ (groupAt s k).isSome = true := by
  simpa [gangResident] using h

theorem mem_wholeKeys {s : State} {ticket : Nat} {g : Grid} {gang k : Nat} (h : k ∈ wholeKeys s ticket g gang) :
    ∃ n ∈ givingWay s ticket g gang, k ∈ gangResident s ticket g n := List.mem_flatMap.1 h

/-- The end of a group's naps changes threads, and no group (R115). -/
theorem endGroupNaps_groups (s : State) (key : Nat) : (endGroupNaps s key).groups = s.groups := by
  unfold endGroupNaps
  split
  · rfl
  · exact apply_foldl_of_step State.groups (fun _ _ => modTroupe_groups ..) _ _

/-- A group that starts no new clause. -/
def GroupCloses (s : State) (k : Nat) : Prop := ∃ w, groupAt s k = some w ∧ w.closing = true

/-- One group of a save begins it: its own mark is set, and other groups' stand. -/
theorem groupCloses_step {s : State} {j k : Nat} (h : j = k ∧ (groupAt s k).isSome = true ∨ GroupCloses s k) :
    GroupCloses (endGroupNaps (modGroup s j fun q => { q with closing := true }) j) k := by
  have hnaps (s : State) : GroupCloses (endGroupNaps s j) k ↔ GroupCloses s k := by
    simp only [GroupCloses, groupAt, endGroupNaps_groups]
  rw [hnaps]
  by_cases hj : j = k
  · subst hj
    obtain ⟨w, hw⟩ : ∃ w, groupAt s j = some w := by
      obtain ⟨-, hr⟩ | ⟨w, hw, -⟩ := h
      · exact Option.isSome_iff_exists.1 hr
      · exact ⟨w, hw⟩
    exact ⟨_, by rw [modGroup_eq hw, groupAt_setGroup_self], rfl⟩
  · obtain ⟨w, hw, hc⟩ := h.resolve_left fun h => hj h.1
    refine ⟨w, ?_, hc⟩
    unfold modGroup
    split
    · exact hw
    · rw [groupAt_setGroup_ne _ _ hj, hw]

/-- Whether a group is resident is on the books. -/
theorem resident_of_books {s t : State} (h : (ledger t).books = (ledger s).books) (k : Nat) : (groupAt t k).isSome = (groupAt s k).isSome :=
  congrFun (congrArg Books.resident h) k

theorem pending_of_books {s t : State} (h : (ledger t).books = (ledger s).books) (d : Nat) : (dieAt t d).pending = (dieAt s d).pending :=
  congrFun (congrArg Books.pending h) d

theorem startSave_closes {s : State} {ticket : Nat} {g : Grid} {gang k : Nat} (hk : k ∈ wholeKeys s ticket g gang) :
    GroupCloses (startSave s ticket g gang) k := by
  obtain ⟨n, -, hn⟩ := mem_wholeKeys hk
  have main (keys : List Nat) (s : State) (h : k ∈ keys ∧ (groupAt s k).isSome = true ∨ GroupCloses s k) :
      GroupCloses (keys.foldl (fun s k => endGroupNaps (modGroup s k fun q => { q with closing := true }) k) s) k := by
    induction keys generalizing s with
    | nil => exact h.resolve_left fun h => List.not_mem_nil h.1
    | cons j keys ih =>
      apply ih
      by_cases hj : j = k
      · exact .inr (groupCloses_step (h.imp_left fun h => ⟨hj, h.2⟩))
      · refine h.imp (fun ⟨hmem, hr⟩ => ⟨(List.mem_cons.1 hmem).resolve_left (Ne.symm hj), ?_⟩) fun h => groupCloses_step (.inr h)
        rw [groupAt, endGroupNaps_groups, ← groupAt, ← hr]
        exact resident_of_books (congrArg Ledger.books (ledger_modGroup ..)) k
  exact main _ s (.inl ⟨hk, (mem_gangResident hn).2⟩)

theorem exec_preempt {s : State} {die ticket gang : Nat} {g : Grid} {flush : Bool} (h : preemptChoice s die = some (ticket, g, gang, flush)) :
    exec (.preempt die) s = .next (if flush then flushGang s ticket g gang else startSave s ticket g gang) := by
  change execPreempt die s = _
  unfold execPreempt
  rw [h]
  cases flush with
  | false => rfl
  | true => rfl

/-- A region flush is of the gang that some die's pre-emption flushes (R78). -/
theorem exec_regionFlush {s : State} {die ticket gang : Nat} {g : Grid} (hd : die < 4) (hg : gridAt s ticket = some g)
    (h : preemptChoice s die = some (ticket, g, gang, true)) : exec (.regionFlush ticket gang) s = .next (flushGang s ticket g gang) := by
  change execRegionFlush ticket gang s = _
  unfold execRegionFlush
  rw [hg]
  refine if_pos (List.any_eq_true.2 ⟨die, List.mem_range.2 hd, ?_⟩)
  rw [h]
  simp

/-! ## Groups that leave their cores -/

/-- A group removed is gone, and no other becomes resident. -/
theorem groupAt_removeGroup_of_none {s : State} {key k : Nat} (h : key = k ∨ groupAt s k = none) : groupAt (removeGroup s key) k = none := by
  unfold removeGroup
  split
  next hs => exact h.elim (fun e => e ▸ hs) id
  next g hg =>
    extract_lets at_ reads s1 s2 own focus
    have hreaders : (groupAt s1 k).isSome = (groupAt s k).isSome := by
      refine resident_of_books (congrArg Ledger.books ?_) k
      exact ledger_foldl (fun s r => ledger_modGroup ..) _ s
    change tabGet? (tabDel s2.groups key) k = none
    rw [tabGet?_tabDel]
    split
    · rfl
    next hne =>
      rw [h.resolve_left hne, Option.isSome_none] at hreaders
      have hgone : groupAt s1 k = none := Option.isNone_iff_eq_none.1 (Option.isSome_eq_false_iff.1 hreaders)
      exact hgone

theorem pending_removeGroup (s : State) (key d : Nat) : (dieAt (removeGroup s key) d).pending = (dieAt s d).pending := by
  unfold removeGroup
  split
  · rfl
  · refine pending_of_books (s := s) (t := countReaders s false _) (congrArg Ledger.books ?_) d
    exact ledger_foldl (fun s r => ledger_modGroup ..) _ s

theorem groupAt_discardGroup_of_none {s : State} {key k : Nat} (h : key = k ∨ groupAt s k = none) : groupAt (discardGroup s key) k = none :=
  groupAt_removeGroup_of_none h

theorem pending_discardGroup (s : State) (key d : Nat) : (dieAt (discardGroup s key) d).pending = (dieAt s d).pending :=
  pending_removeGroup ..

/-! ## Gangs that wait again -/

theorem pending_requeue_ne {s : State} {die d : Nat} (p : PendingGang) (h : die ≠ d) : (dieAt (requeue s die p) d).pending = (dieAt s d).pending := by
  simp [requeue, modDie, setDie, dieAt, tabGet_tabPut_ne _ _ _ h]

/-- A requeued gang waits on its die, behind or ahead of those that waited there (R70). -/
theorem mem_pending_requeue {s : State} {die d : Nat} {p q : PendingGang} (h : die = d ∧ q = p ∨ q ∈ (dieAt s d).pending) :
    q ∈ (dieAt (requeue s die p) d).pending := by
  by_cases hd : die = d
  · subst hd
    simp only [requeue, dieAt_modDie_self, List.mem_append, List.mem_filter, List.mem_mergeSort, List.mem_cons]
    obtain ⟨-, rfl⟩ | hq := h
    · exact .inl (.inr (.inl rfl))
    · by_cases ht : q.ticket = p.ticket
      · cases hr : q.requeued
        · simp [hq, ht]
        · simp [hq, ht]
      · simp [hq, ht]
  · rw [pending_requeue_ne p hd]
    exact h.resolve_left fun h => hd h.1

theorem requeue_groups (s : State) (die : Nat) (p : PendingGang) : (requeue s die p).groups = s.groups := modDie_groups ..

/-! ## Region flushes (R78, R137) -/

/-- The gang's entry in its die's queue after a flush: it starts again at its region. -/
def flushedEntry (s : State) (ticket : Nat) (g : Grid) (gang : Nat) : PendingGang :=
  { ticket, gang, requeued := true, saved := false,
    starts := (gangTab ticket g gang).map fun e => (((groupAt s e.2).bind (flushRegion s g)).map fun r => r.1).getD (recEntry g) }

/-- The members of a gang, drained and discarded one after the other. -/
def discardMembers (s : State) (keys : List Nat) : State := keys.foldl (fun s k => discardGroup (failEntries (drainGroup s k) k) k) s

theorem flushOne_eq (s : State) (ticket : Nat) (g : Grid) (gang : Nat) :
    flushOne s ticket g gang =
      requeue (dropRetained (discardMembers s (gangResident s ticket g gang)) ticket g gang) (residentDie s ticket g gang)
        (flushedEntry s ticket g gang) := rfl

theorem groupAt_discardMembers_of_none {k : Nat} (keys : List Nat) (s : State) (h : k ∈ keys ∨ groupAt s k = none) :
    groupAt (discardMembers s keys) k = none := by
  induction keys generalizing s with
  | nil => exact h.resolve_left List.not_mem_nil
  | cons j keys ih =>
    apply ih
    have hdrain : (groupAt (failEntries (drainGroup s j) j) k).isSome = (groupAt s k).isSome :=
      resident_of_books ((books_failEntries ..).trans (books_drainGroup ..)) k
    obtain hk | hn := h
    · exact (List.mem_cons.1 hk).symm.imp_right fun e => groupAt_discardGroup_of_none (.inl e.symm)
    · refine .inr (groupAt_discardGroup_of_none (.inr ?_))
      rw [← Option.isNone_iff_eq_none, ← Option.not_isSome, hdrain, hn]
      rfl

theorem pending_discardMembers (keys : List Nat) (s : State) (d : Nat) : (dieAt (discardMembers s keys) d).pending = (dieAt s d).pending := by
  refine apply_foldl_of_step (fun s : State => (dieAt s d).pending) (fun s k => ?_) keys s
  exact (pending_discardGroup ..).trans (pending_of_books ((books_failEntries ..).trans (books_drainGroup ..)) d)

theorem groupAt_flushOne_of_none {s : State} {ticket : Nat} {g : Grid} {gang k : Nat}
    (h : k ∈ (gangTab ticket g gang).map Prod.snd ∨ groupAt s k = none) : groupAt (flushOne s ticket g gang) k = none := by
  rw [flushOne_eq, groupAt, requeue_groups]
  refine groupAt_discardMembers_of_none _ _ ?_
  by_cases hr : (groupAt s k).isSome
  · refine .inl ?_
    have hk := h.resolve_right fun hn => by simp [hn] at hr
    exact List.mem_filter.2 ⟨hk, hr⟩
  · exact .inr (by simpa using hr)

theorem mem_pending_flushOne {s : State} {ticket : Nat} {g : Grid} {gang d : Nat} {q : PendingGang}
    (h : residentDie s ticket g gang = d ∧ q = flushedEntry s ticket g gang ∨ q ∈ (dieAt s d).pending) :
    q ∈ (dieAt (flushOne s ticket g gang) d).pending := by
  rw [flushOne_eq]
  refine mem_pending_requeue (h.imp_right fun hq => ?_)
  have hkeep := pending_discardMembers (gangResident s ticket g gang) s d
  exact hkeep.symm ▸ hq

/-- The gangs that are flushed leave their cores, whatever is flushed with them (R78, R465). -/
theorem groupAt_flushGang {s : State} {ticket : Nat} {g : Grid} {gang k : Nat} (hk : k ∈ wholeKeys s ticket g gang) :
    groupAt (flushGang s ticket g gang) k = none := by
  obtain ⟨n, hn, hkn⟩ := mem_wholeKeys hk
  have main (gangs : List Nat) (s : State) (h : n ∈ gangs ∨ groupAt s k = none) :
      groupAt (gangs.foldl (fun s n => flushOne s ticket g n) s) k = none := by
    induction gangs generalizing s with
    | nil => exact h.resolve_left List.not_mem_nil
    | cons j gangs ih =>
      apply ih
      obtain hmem | hnone := h
      · refine (List.mem_cons.1 hmem).symm.imp_right fun e => groupAt_flushOne_of_none (.inl ?_)
        exact e ▸ (mem_gangResident hkn).1
      · exact .inr (groupAt_flushOne_of_none (.inr hnone))
  exact main _ s (.inl hn)

/-- A place in a die's queue is kept as further gangs are flushed. -/
theorem mem_pending_flushes {ticket : Nat} {g : Grid} {d : Nat} {q : PendingGang} (gangs : List Nat) (s : State) (h : q ∈ (dieAt s d).pending) :
    q ∈ (dieAt (gangs.foldl (fun s n => flushOne s ticket g n) s) d).pending := by
  induction gangs generalizing s with
  | nil => exact h
  | cons n gangs ih => exact ih _ (mem_pending_flushOne (.inr h))

/-- Each gang that gives way waits again on the die it stood on (R70, R78). -/
theorem flushGang_requeues {s : State} {ticket : Nat} {g : Grid} {gang n : Nat} (hn : n ∈ givingWay s ticket g gang) :
    ∃ d starts, { ticket, gang := n, requeued := true, saved := false, starts } ∈ (dieAt (flushGang s ticket g gang) d).pending := by
  have main (gangs : List Nat) (s : State) (h : n ∈ gangs) :
      ∃ d starts, { ticket, gang := n, requeued := true, saved := false, starts } ∈
        (dieAt (gangs.foldl (fun s n => flushOne s ticket g n) s) d).pending := by
    induction gangs generalizing s with
    | nil => cases h
    | cons j gangs ih =>
      obtain rfl | hmem := List.mem_cons.1 h
      · exact ⟨_, _, mem_pending_flushes gangs _ (mem_pending_flushOne (.inl ⟨rfl, rfl⟩))⟩
      · exact ih _ hmem
  exact main _ s hn

theorem givingWay_of_not_minuet {g : Grid} (h : isMinuet g = false) (s : State) (ticket gang : Nat) : givingWay s ticket g gang = [gang] := by
  simp [givingWay, h]

/-- What a pre-emption by flush and a region flush leave (R78). -/
theorem flushGang_leaves {s : State} {ticket : Nat} {g : Grid} {gang : Nat} :
    (∀ k ∈ wholeKeys s ticket g gang, groupAt (flushGang s ticket g gang) k = none) ∧
      (∀ n ∈ givingWay s ticket g gang, ∃ d starts, { ticket, gang := n, requeued := true, saved := false, starts } ∈
        (dieAt (flushGang s ticket g gang) d).pending) ∧
      (isMinuet g = false → ∃ starts, { ticket, gang, requeued := true, saved := false, starts } ∈
        (dieAt (flushGang s ticket g gang) (residentDie s ticket g gang)).pending) := by
  refine ⟨fun k hk => groupAt_flushGang hk, fun n hn => flushGang_requeues hn,
    fun hm => ⟨(flushedEntry s ticket g gang).starts, ?_⟩⟩
  rw [flushGang, givingWay_of_not_minuet hm]
  exact mem_pending_flushOne (.inl ⟨rfl, rfl⟩)

/-! ## Full saves (R79, R403) -/

theorem keepTiles_groups (s : State) (key : Nat) : (keepTiles s key).groups = s.groups := by
  unfold keepTiles
  split
  · rfl
  · extract_lets
    split
    · rfl
    · rfl

theorem leaveSent_groups (s : State) (core slot : Nat) (t : Troupe) : (leaveSent s core slot t).groups = s.groups := by
  unfold leaveSent
  extract_lets
  split
  · rfl
  · rfl

theorem toRemote_groups (s : State) (key : Nat) (g : Group) : (toRemote s key g).groups = s.groups :=
  apply_foldl_of_step State.groups (fun _ _ => leaveSent_groups ..) _ s

/-- A saved group is taken off its core (R403). -/
def takeSaved (s : State) (k : Nat) : State :=
  match groupAt s k with
  | some q => removeGroup (toRemote (keepTiles s k) k q) k
  | none => s

theorem groupAt_takeSaved_of_none {s : State} {j k : Nat} (h : j = k ∨ groupAt s k = none) : groupAt (takeSaved s j) k = none := by
  unfold takeSaved
  split
  · refine groupAt_removeGroup_of_none (h.imp_right fun hn => ?_)
    rw [groupAt, toRemote_groups, keepTiles_groups, ← groupAt, hn]
  next hj => exact h.elim (fun e => e ▸ hj) id

theorem groupAt_takeSaved_all {k : Nat} (keys : List Nat) (s : State) (h : k ∈ keys ∨ groupAt s k = none) :
    groupAt (keys.foldl takeSaved s) k = none := by
  induction keys generalizing s with
  | nil => exact h.resolve_left List.not_mem_nil
  | cons j keys ih =>
    apply ih
    obtain hk | hn := h
    · exact (List.mem_cons.1 hk).symm.imp_right fun e => groupAt_takeSaved_of_none (.inl e.symm)
    · exact .inr (groupAt_takeSaved_of_none (.inr hn))

/-- The saved gangs of a grid wait on a die. -/
def requeueSaved (s : State) (die ticket : Nat) (gangs : List Nat) : State :=
  gangs.foldl (fun s k => requeue s die { ticket, gang := k, requeued := true, saved := true, starts := [] }) s

theorem requeueSaved_groups (s : State) (die ticket : Nat) (gangs : List Nat) : (requeueSaved s die ticket gangs).groups = s.groups :=
  apply_foldl_of_step State.groups (fun _ _ => requeue_groups ..) _ s

theorem mem_pending_requeueSaved {die ticket n : Nat} (gangs : List Nat) (s : State)
    (h : n ∈ gangs ∨ { ticket, gang := n, requeued := true, saved := true, starts := [] } ∈ (dieAt s die).pending) :
    { ticket, gang := n, requeued := true, saved := true, starts := [] } ∈ (dieAt (requeueSaved s die ticket gangs) die).pending := by
  induction gangs generalizing s with
  | nil => exact h.resolve_left List.not_mem_nil
  | cons j gangs ih =>
    apply ih
    obtain hn | hq := h
    · exact (List.mem_cons.1 hn).symm.imp_right fun e => mem_pending_requeue (.inl ⟨rfl, by rw [e]⟩)
    · exact .inr (mem_pending_requeue (.inr hq))

/-- The images of some groups are written, as long as none fails. -/
def saveImages (s : State) (g : Grid) (keys : List Nat) : State × Bool :=
  keys.foldl (fun (a : State × Bool) k => if a.2 then saveGroup a.1 k (imageBase g (k % 2 ^ 64)) false else a) (s, true)

theorem closing_of_saveReady {s : State} {k : Nat} (h : saveReady s k = true) : (groupAt s k).map Group.closing = some true := by
  unfold saveReady at h
  split at h
  · cases h
  next g hg =>
    simp only [Bool.and_eq_true] at h
    obtain ⟨⟨⟨⟨⟨hc, -⟩, -⟩, -⟩, -⟩, -⟩ := h
    rw [hg, Option.map_some, hc]

/-- A gang that is ready is saved where its images can be written (R403). -/
theorem exec_fullSave {s s1 : State} {ticket gang : Nat} {g : Grid} (hg : gridAt s ticket = some g) (hdying : tabGet? g.dying gang = none)
    (hjob : heldByJob s (wholeKeys s ticket g gang) = false) (hexited : someExited s ticket g gang = false)
    (hne : wholeKeys s ticket g gang ≠ []) (hready : ∀ k ∈ wholeKeys s ticket g gang, saveReady s k = true)
    (hflush : (wholeKeys s ticket g gang).all (flushable s g) = false) (hstill : minuetStill s ticket g = true)
    (hentries : ∀ k ∈ wholeKeys s ticket g gang, runningEntries s k = []) (hsave : saveImages s g (wholeKeys s ticket g gang) = (s1, true)) :
    exec (.fullSave ticket gang) s =
      .next (requeueSaved ((wholeKeys s ticket g gang).foldl takeSaved s1) (residentDie s ticket g gang) ticket (givingWay s ticket g gang)) := by
  have hclosing : (wholeKeys s ticket g gang).any (fun k => ((groupAt s k).map fun q => q.closing) == some true) = true := by
    obtain ⟨k, hk⟩ := List.exists_mem_of_ne_nil _ hne
    exact List.any_eq_true.2 ⟨k, hk, beq_iff_eq.2 (closing_of_saveReady (hready k hk))⟩
  have hall : (wholeKeys s ticket g gang).all (saveReady s) = true := List.all_eq_true.2 hready
  have hidle : (wholeKeys s ticket g gang).any (fun k => !(runningEntries s k).isEmpty) = false :=
    List.any_eq_false.2 fun k hk => by simp [hentries k hk]
  change execFullSave ticket gang s = _
  unfold execFullSave
  rw [hg]
  dsimp only
  rw [if_neg (by simp [hdying, hclosing]), if_neg (by simp [hjob, hexited]), if_neg (by simp [hflush]),
    if_neg (by simp [hne, hall, hstill]), if_neg (by simp [hidle])]
  unfold saveImages at hsave
  rw [hsave]
  rfl

/-! ## Restores (R404, R465) -/

/-- Room for what the images bring leaves nothing to relieve (R125, R137). -/
theorem relieveRestore_of_room {s q : State} {cores : List Nat} {need : Nat → Tab Nat}
    (h : ∀ c ∈ cores, poolTakes (need c) (coreOf q c) ≤ 8064) : relieveRestore s q cores need = none := by
  have hshort : cores.filter (fun c => decide (8064 < poolTakes (need c) (coreOf q c))) = [] :=
    List.filter_eq_nil_iff.2 fun c hc => by simpa using h c hc
  rw [relieveRestore, hshort]
  rfl

section
variable {s : State} {die ticket : Nat} {g : Grid} {p : PendingGang} {cs : List Nat}

/-- The gang that a die restores: the first that fits, saved, its images in order to be read. -/
structure Restores (s : State) (die ticket : Nat) (g : Grid) (p : PendingGang) (cs : List Nat) : Prop where
  fit : firstFit s die = some (ticket, g, p, cs)
  saved : p.saved = true
  ready : imagesReady s g cs (comingBack s die ticket g p) = true

/-- The cores that a restored gang stands on. -/
def restoredCores (g : Grid) (p : PendingGang) (cs : List Nat) : List Nat := (liveMembers g p.gang).map fun m => cs.getD m 0

/-- What a restore answers, by what its images brought back. -/
def restoreOut (s : State) (ticket : Nat) (g : Grid) (p : PendingGang) (cs : List Nat) (ps : List PendingGang) : State ⊕ Nat → Out
  | .inl q => .next (if (restoredCores g p cs).all (tablesOk q) then
      (relieveRestore s q (restoredCores g p cs) (imageNeed s q ticket g ps)).getD (countStage q g) else s)
  | .inr gang => execGangKill ticket gang 0x42 s

theorem exec_gangRestore (h : Restores s die ticket g p cs) :
    exec (.gangRestore die) s =
      restoreOut s ticket g p cs (comingBack s die ticket g p) (bringBack s die ticket g cs (comingBack s die ticket g p)) := by
  obtain ⟨hfit, hsaved, hready⟩ := h
  have hgo : ¬ (!p.saved || !imagesReady s g cs (comingBack s die ticket g p)) = true := by simp [hsaved, hready]
  change execGangRestore die s = _
  unfold execGangRestore
  rw [hfit]
  dsimp only
  rw [if_neg hgo]
  cases bringBack s die ticket g cs (comingBack s die ticket g p) with
  | inl q => rfl
  | inr gang => rfl

end

/-- A gang that is not in Minuet comes back alone: its members' groups are rebuilt one after the other. -/
theorem bringBack_of_one {s s1 : State} {die ticket : Nat} {g : Grid} {p : PendingGang} {cs : List Nat}
    (h : (liveMembers g p.gang).foldl (fun (a : Option State) m => a.bind fun s =>
        restoreGroup s (groupKey ticket (p.gang * gangSize g + m)) (imageBase g (p.gang * gangSize g + m)))
      (some (admitGang (dropPending s die ticket p.gang) ticket g p cs)) = some s1) :
    bringBack s die ticket g cs [p] = .inl (forgetTiles s1 ticket g p.gang) := by
  rw [bringBack, List.foldl_cons, List.foldl_nil]
  dsimp only
  rw [h]

/-! ## The obligation -/

/-- Settles O53: launches and grids by the books, admissions by the groups they place, and what gives way by the groups that go and the entries
that come. That a doorbell only lets its queue be served again is the model's choice (notes/assumptions/26.md). -/
theorem gridsAreLaunchedAndGangsPlaced : Obligations.GridsAreLaunchedAndGangsPlaced := by
  refine ⟨fun _ _ => exec_launchDoorbell, ?serve, fun _ _ => acceptGrid_books, refuseRecord_sends, fun _ _ _ => exec_stagePeriod, ?place, ?save,
    ?flush, ?saved, ?restore⟩
  case serve =>
    intro s q l s1 s2 bs e hq s0 hboot hgood hl hd hok hne hle he t ht
    rw [exec_launchQueueServe hboot hgood hq, serveQueue_takes hl hd hok hne hle he]
    exact congrArg _ (whole_of_clear ht)
  case place =>
    rintro s die donor ticket g p cs i (⟨rfl, rfl, hfit, hp⟩ | ⟨rfl, hdie, hidle, hbusy, hdonor, hgang⟩)
    · obtain ⟨t, ht, hplaced⟩ := exec_gangAdmit hfit hp
      exact ⟨t, ht, hplaced.off, hplaced.on⟩
    · have hplaced := gangPlaced_of_admit s donor ticket g p cs
      exact ⟨_, exec_workSteal hdie hidle hbusy hdonor hgang, hplaced.off, hplaced.on⟩
  case save =>
    intro s die ticket gang g h
    exact ⟨_, exec_preempt h, fun k hk => startSave_closes hk⟩
  case flush =>
    intro s die ticket gang g hd hg h i hi
    refine ⟨flushGang s ticket g gang, ?_, flushGang_leaves⟩
    obtain rfl | rfl := List.mem_pair.1 hi
    · exact exec_preempt h
    · exact exec_regionFlush hd hg h
  case saved =>
    intro s s1 ticket gang g keys hg hdying hjob hexited hne hready hflush hstill hentries hsave
    refine ⟨_, exec_fullSave hg hdying hjob hexited hne hready hflush hstill hentries hsave, fun k hk => ?_, fun n hn => ?_⟩
    · rw [groupAt, requeueSaved_groups]
      exact groupAt_takeSaved_all _ _ (.inl hk)
    · exact mem_pending_requeueSaved _ _ (.inl hn)
  case restore =>
    intro s die ticket g p cs ms ps hfit hsaved hready
    have hrestores : Restores s die ticket g p cs := ⟨hfit, hsaved, hready⟩
    refine ⟨fun q hq hroom => ?_, fun n hn => ?_, fun hm s1 hs1 => ?_⟩
    · have hall : (restoredCores g p cs).all (tablesOk q) = true := by
        simpa [restoredCores] using fun m hm => (hroom m hm).1
      have hpool : ∀ c ∈ restoredCores g p cs, poolTakes (imageNeed s q ticket g ps c) (coreOf q c) ≤ 8064 := by
        simpa [restoredCores] using fun m hm => (hroom m hm).2
      rw [exec_gangRestore hrestores, hq, restoreOut, if_pos hall, relieveRestore_of_room hpool]
      rfl
    · rw [exec_gangRestore hrestores, hn]
      rfl
    · have hps : ps = [p] := by simp [ps, comingBack, hm]
      rw [hps]
      exact bringBack_of_one hs1

end Sys2Proof.Machine
end

section
/-!
PROOFS. Branches, calls and returns (R24, R105 to R107): the targets they keep for the commit, and the traps of register targets that are
misaligned or out of range (R35, R52).
-/

namespace Sys2Proof.Machine

/-! ## The clause's record -/

/-- A record written over another leaves no trace of it. -/
theorem putClause_putClause (s : State) (x : Ctx) (cl cl' : Clause) :
    putClause (putClause s x cl) { x with t := { x.t with clause := some cl }, cl } cl' = putClause s x cl' := by
  simp [putClause]

/-- The clause's record is no part of what a commit changes (R31). -/
theorem nothingCommitted_putClause (s : State) (x : Ctx) (cl : Clause) : NothingCommitted s (putClause s x cl) x :=
  ⟨sameBytes_of_memories rfl rfl rfl rfl, rfl, rfl, _, troupeAt_putClause .., rfl, rfl, rfl, rfl, rfl⟩

/-- An `x` destination holds what was recorded last (R31). -/
theorem xw_writeD (x : Ctx) (cl : Clause) (n : BitVec 6) (r : Reg) : tabGet? (writeD x cl (.x n) r).xw n.toNat = some r := by
  simp [writeD]

theorem pendMask_known (v : Nat → Word) : pendMask (known v) = 0 := if_neg (entry_known v)

/-- A known result holds its values in every lane that takes part. -/
theorem holds_known (x : Ctx) (v : Nat → Word) : Holds x (known v) v := fun l hl => by
  rw [pendMask_known]
  exact ⟨BitVec.getLsbD_zero, laneOf_mkLanes v (BitVec.lt_of_getLsbD hl)⟩

/-! ## Lanes in ascending order -/

/-- The lowest lane of a mask that passes a test. -/
theorem find?_maskLanes {m : LaneMask} {p : Nat → Bool} {b : Nat} (hb : m.getLsbD b = true) (hp : p b = true)
    (hlow : ∀ l, l < b → m.getLsbD l = true → p l = false) : (maskLanes m).find? p = some b := by
  rw [maskLanes, List.find?_filter, laneList, List.find?_range_eq_some]
  refine ⟨by simp [hb, hp], List.mem_range.2 (BitVec.lt_of_getLsbD hb), fun l hl => ?_⟩
  cases hm : m.getLsbD l with
  | false => rfl
  | true => simp [hlow l hl hm]

theorem maskOf_congr {p q : Nat → Bool} (h : ∀ l, l < 32 → p l = q l) : maskOf p = maskOf q := by
  refine BitVec.eq_of_getLsbD_eq fun l hl => ?_
  rw [getLsbD_maskOf, getLsbD_maskOf, h l hl]

/-! ## Failures of one cause -/

/-- The failures of some lanes that share a cause. -/
def failuresOf (cause : Nat) (addr : Nat → Word) (ls : List Nat) : List Failure := ls.map fun l => (l, cause, addr l)

/-- A test of the cause keeps all of them or none. -/
theorem filter_failuresOf (p : Nat → Bool) (cause : Nat) (addr : Nat → Word) (ls : List Nat) :
    (failuresOf cause addr ls).filter (fun f => p f.2.1) = if p cause then failuresOf cause addr ls else [] := by
  cases h : p cause with
  | false => simp [failuresOf, h]
  | true => simp [failuresOf, h]

theorem minCause_failuresOf (cause : Nat) (addr : Nat → Word) (ls : List Nat) :
    (failuresOf cause addr ls).foldl (fun c f => min c f.2.1) cause = cause := by
  rw [failuresOf, List.foldl_map]
  exact List.foldl_fixed' (fun _ => Nat.min_self cause) ls

theorem lanes_failuresOf (cause : Nat) (addr : Nat → Word) (ls : List Nat) :
    (maskOf fun l => (failuresOf cause addr ls).any fun f => f.1 == l) = maskOf fun l => ls.contains l := by
  refine maskOf_congr fun l _ => ?_
  rw [failuresOf, List.any_map, List.contains_eq_any_beq]
  exact List.any_congr rfl fun m => Bool.beq_comm

/-- Failures that share a squashing cause raise it with the first lane's address, in all their lanes: it is kept while the clause is
checked, and squashes the clause later (R30, R35). -/
theorem settle_failuresOf (s : State) (x : Ctx) {cause : Nat} (hc : splits cause = false) (addr : Nat → Word) (b : Nat) (ls : List Nat)
    (remote : LaneMask) (syms : List Nat) (k : State → Ctx → Out) :
    settle s x (failuresOf cause addr (b :: ls)) remote syms k =
      let lanes := maskOf fun l => (b :: ls).contains l
      let cl := keepTrap (notePark x.cl [] remote syms) ⟨x.cl.cursor, cause, addr b, lanes, syms⟩
      if x.cl.phase = .check then k (putClause s x cl) { x with t := { x.t with clause := some cl }, cl }
      else .next (squash s x cause (addr b) lanes syms) := by
  have hcons : failuresOf cause addr (b :: ls) = (b, cause, addr b) :: failuresOf cause addr ls := rfl
  have hsquash := filter_failuresOf (fun c => !splits c) cause addr (b :: ls)
  have hpark := filter_failuresOf splits cause addr (b :: ls)
  have hmine := filter_failuresOf (· == cause) cause addr (b :: ls)
  simp only [hc, Bool.not_false, if_true, Bool.false_eq_true, if_false, BEq.rfl] at hsquash hpark hmine
  unfold settle
  rw [hsquash, hpark, hcons]
  dsimp only
  rw [minCause_failuresOf, ← hcons, hmine, lanes_failuresOf]
  rfl

/-! ## Branches to an offset (R105) -/

/-- An S-format offset counts words from the head of the clause. -/
theorem branchTarget_eq (x : Ctx) (f : FS) : branchTarget x f = x.cl.head + f.off.signExtend 64 <<< 2 := by
  have hword (z : Int) : word (ofSigned 64 z) = BitVec.ofInt 64 z := by
    apply BitVec.eq_of_toNat_eq
    simp only [word, ofSigned, BitVec.toNat_ofNat, BitVec.toNat_ofInt]
    omega
  have hfour : BitVec.ofInt 64 4 = BitVec.twoPow 64 2 := by decide
  rw [branchTarget, hword, BitVec.ofInt_mul, hfour, BitVec.shiftLeft_eq_mul_twoPow, BitVec.mul_comm]
  rfl

theorem exec_br {s : State} {x : Ctx} (hx : ctxOf s = some x) (f : FS) :
    exec (.br f) s = done s x 1 (setControl x (.goto (mkLanes fun _ => branchTarget x f))) := inClause_some hx _

theorem exec_call {s : State} {x : Ctx} (hx : ctxOf s = some x) (f : FS) :
    exec (.call f) s =
      done s x 1 (writeLanes x (setControl x (.goto (mkLanes fun _ => branchTarget x f))) (.x 63) fun _ => nextHead x.cl) :=
  inClause_some hx _

/-! ## Branches to checked targets (R106, R107) -/

theorem exec_brx {s : State} {x : Ctx} (hx : ctxOf s = some x) {f : FA} (h : settledOps x [f.a, f.b] = true) :
    exec (.brx f) s = branchTo s x fun l => word64 s x f.a l + word64 s x f.b l <<< 2 := by
  have hfour (v : Word) : v <<< 2 = v * 4 := BitVec.shiftLeft_eq_mul_twoPow v 2
  simp only [hfour]
  exact (inClause_some hx _).trans (use_settled s x _ _ h)

theorem exec_ret {s : State} {x : Ctx} (hx : ctxOf s = some x) {f : FA} (h : settledOps x [f.a] = true) :
    exec (.ret f) s = branchTo s x fun l => word64 s x f.a l :=
  (inClause_some hx _).trans (use_settled s x _ _ h)

/-- The instructions that branch to register targets: each is a branch to those its operands give. -/
theorem exec_branchTo {s : State} {x : Ctx} (hx : ctxOf s = some x) (f : FA) :
    ∀ e ∈ [(Instr.brx f, [f.a, f.b], fun l => word64 s x f.a l + word64 s x f.b l <<< 2), (.ret f, [f.a], fun l => word64 s x f.a l)],
      settledOps x e.2.1 = true → exec e.1 s = branchTo s x e.2.2 := by
  simp only [List.forall_mem_cons, List.not_mem_nil, false_imp_iff, implies_true, and_true]
  exact ⟨exec_brx hx, exec_ret hx⟩

/-- The failures of register targets are the lanes whose target lies at 2^52 or above. -/
theorem targetFails_eq (x : Ctx) (target : Nat → Word) :
    targetFails x target =
      failuresOf 0x20 target ((maskLanes x.live).filter fun l => decide (2 ^ 52 ≤ (target l).toNat)) := by
  have hout (v : Word) : (bits v.toNat 63 52 != 0) = decide (2 ^ 52 ≤ v.toNat) := by
    have hlt := v.isLt
    rw [Bool.eq_iff_iff, bne_iff_ne, decide_eq_true_iff, bits]
    omega
  rw [targetFails, failuresOf, ← List.filterMap_eq_map, List.filterMap_filter]
  simp only [hout, Function.comp_apply]

/-- A misaligned target is a decode trap of the whole subset, with the lowest such lane's target (R35, R52). -/
theorem branchTo_misaligned (s : State) {x : Ctx} {target : Nat → Word} {b : Nat} (hb : x.live.getLsbD b = true)
    (hbad : (target b).toNat % 4 ≠ 0) (hlow : ∀ l, l < b → x.live.getLsbD l = true → (target l).toNat % 4 = 0) :
    branchTo s x target = raiseTrap s x 0x03 (target b) x.cl.subset := by
  have hfind : ((maskLanes x.live).find? fun l => (target l).toNat % 4 != 0) = some b :=
    find?_maskLanes hb (by simpa using hbad) fun l hl hm => by simpa using hlow l hl hm
  rw [branchTo, hfind]

/-- Aligned targets are checked for their range. -/
theorem branchTo_aligned (s : State) {x : Ctx} {target : Nat → Word} (h : ∀ l, x.live.getLsbD l = true → (target l).toNat % 4 = 0) :
    branchTo s x target =
      settle s x (targetFails x target) 0 [] fun s x => done s x 1 (setControl x (.goto (mkLanes target))) := by
  have hfind : ((maskLanes x.live).find? fun l => (target l).toNat % 4 != 0) = none := by
    simpa [List.find?_eq_none] using h
  rw [branchTo, hfind]

/-- Targets that are aligned and in range are kept for the commit. -/
theorem branchTo_fits (s : State) {x : Ctx} {target : Nat → Word}
    (h : ∀ l, x.live.getLsbD l = true → (target l).toNat % 4 = 0 ∧ (target l).toNat < 2 ^ 52) :
    branchTo s x target = done s x 1 (setControl x (.goto (mkLanes target))) := by
  have hin : targetFails x target = [] := by
    simpa [targetFails_eq, failuresOf] using fun l hl => (h l hl).2
  rw [branchTo_aligned s fun l hl => (h l hl).1, hin]
  rfl

/-- Targets out of range raise 0x20 with the lowest such lane's target (R35, R107). -/
theorem branchTo_outOfRange (s : State) {x : Ctx} {target : Nat → Word} {b : Nat}
    (haligned : ∀ l, x.live.getLsbD l = true → (target l).toNat % 4 = 0) (hb : x.live.getLsbD b = true)
    (hbad : 2 ^ 52 ≤ (target b).toNat) (hlow : ∀ l, l < b → x.live.getLsbD l = true → (target l).toNat < 2 ^ 52) :
    branchTo s x target =
      let lanes := maskOf fun l => x.live.getLsbD l && decide (2 ^ 52 ≤ (target l).toNat)
      let cl := keepTrap (notePark x.cl [] 0 []) ⟨x.cl.cursor, 0x20, target b, lanes, []⟩
      if x.cl.phase = .check then .next (putClause s x (stepped { cl with control := .goto (mkLanes target) } 1))
      else .next (squash s x 0x20 (target b) lanes []) := by
  have hfirst : ((maskLanes x.live).filter fun l => decide (2 ^ 52 ≤ (target l).toNat)).head? = some b := by
    rw [List.head?_filter]
    exact find?_maskLanes hb (decide_eq_true hbad) fun l hl hm => decide_eq_false (Nat.not_le.2 (hlow l hl hm))
  obtain ⟨ls, hls⟩ := List.head?_eq_some_iff.1 hfirst
  have hlanes : (maskOf fun l => (b :: ls).contains l) = maskOf fun l => x.live.getLsbD l && decide (2 ^ 52 ≤ (target l).toNat) := by
    refine maskOf_congr fun l _ => ?_
    rw [← hls, Bool.eq_iff_iff, List.contains_iff_mem, List.mem_filter, mem_maskLanes, Bool.and_eq_true]
  rw [branchTo_aligned s haligned, targetFails_eq, hls, settle_failuresOf s x rfl target, hlanes]
  simp only [done, setControl, putClause_putClause]

/-! ## The obligation -/

/-- Settles O25: branches to an offset by their target's formula, and branches to register targets by the check of the targets. -/
theorem branchesRecordOrTrap : Obligations.BranchesRecordOrTrap := by
  refine ⟨fun s x hx => ⟨fun f => ?br, fun f => ?call, fun f hops hfits => ?brx, fun f hops hfits => ?ret⟩,
    fun f s x hx e he hops b hb => ⟨fun hbad hlow => ?misaligned, fun haligned hbad hlow => ⟨fun hcheck => ?checking, fun hcheck => ?squashing⟩⟩⟩
  case br =>
    exact ⟨_, exec_br hx f, _, fun l hl => (laneOf_mkLanes _ hl).trans (branchTarget_eq x f), rfl⟩
  case call =>
    exact ⟨_, _, _, exec_call hx f, ctxOf_putClause hx _, xw_writeD x _ _ _, holds_known _ _, _, rfl,
      fun l hl => (laneOf_mkLanes _ hl).trans (branchTarget_eq x f)⟩
  case brx =>
    exact ⟨_, (exec_brx hx hops).trans (branchTo_fits s hfits), _, fun l hl => laneOf_mkLanes _ hl, rfl⟩
  case ret =>
    exact ⟨_, (exec_ret hx hops).trans (branchTo_fits s hfits), _, fun l hl => laneOf_mkLanes _ hl, rfl⟩
  case misaligned =>
    rw [exec_branchTo hx f e he hops, branchTo_misaligned s hb hbad hlow]
  case checking =>
    rw [exec_branchTo hx f e he hops, branchTo_outOfRange s haligned hb hbad hlow]
    exact ⟨_, _, if_pos hcheck, ctxOf_putClause hx _, nothingCommitted_putClause .., rfl, rfl⟩
  case squashing =>
    rw [exec_branchTo hx f e he hops, branchTo_outOfRange s haligned hb hbad hlow]
    exact if_neg hcheck

end Sys2Proof.Machine
end

section
/-!
PROOFS. Meetings (R99, R108, R109): the values recorded for the commit, the old ones given back, and the test of a mask of lanes.
-/

namespace Sys2Proof.Machine

/-! ## Meetings set (R108) -/

/-- A pass that names a key leaves its value there. -/
theorem tabGet?_foldl_tabPut_of_mem {α : Type} (v : Nat → α) (ls : List Nat) (a : Tab α) {n : Nat} (h : n ∈ ls) :
    tabGet? (ls.foldl (fun a l => tabPut a l (v l)) a) n = some (v n) := by
  induction ls generalizing a with
  | nil => cases h
  | cons l r ih =>
    rw [List.foldl_cons]
    by_cases hr : n ∈ r
    · exact ih _ hr
    · obtain rfl := (List.mem_cons.1 h).resolve_right hr
      rw [tabGet?_foldl_tabPut_of_notMem (fun _ l => v l) r _ hr, tabGet?_tabPut_self]

/-- The lanes that take part are to meet as told, and the destination holds their old packed values (R99). -/
theorem setMeet_sets {s : State} {x : Ctx} (hx : ctxOf s = some x) (d : Operand) (new : Nat → Word) :
    ∃ t, setMeet s x d new = .next t ∧ ∃ u, ctxOf t = some u ∧
      (∀ l, x.live.getLsbD l = true → tabGet? u.cl.meets l = some (new l)) ∧
      (∀ n : BitVec 6, d = .x n → ∃ r, tabGet? u.cl.xw n.toNat = some r ∧ Holds x r fun l => packedMeet (threadOf x.t l)) ∧
      NothingCommitted s t x := by
  refine ⟨_, rfl, _, ctxOf_putClause hx _, fun l hl => ?_, ?_, nothingCommitted_putClause ..⟩
  · exact tabGet?_foldl_tabPut_of_mem new _ _ ((mem_maskLanes _ l).2 hl)
  · rintro n rfl
    exact ⟨_, xw_writeD x _ _ _, holds_known _ _⟩

/-- A label whose distance from the entry fits 32 signed bits. -/
theorem exec_meet {s : State} {x : Ctx} (hx : ctxOf s = some x) {f : FX} (hops : settledOps x [f.a] = true) {off : Int}
    (hoff : off = (x.cl.head.toNat : Int) + 4 * f.imm.toInt - (entryOf s x.t).toNat) (hlo : -2 ^ 31 ≤ off) (hhi : off < 2 ^ 31) :
    exec (.meet f) s = setMeet s x f.d fun l => word ((word64 s x f.a l).toNat % 2 ^ 32 * 2 ^ 32 + ofSigned 32 off) := by
  subst hoff
  refine ((inClause_some hx _).trans (use_settled s x _ _ hops)).trans (if_neg ?_)
  rintro (h | h)
  · exact Int.not_lt.2 hlo h
  · exact Int.not_le.2 hhi h

/-- Packed values that name word addresses. -/
theorem exec_meetPacked {s : State} {x : Ctx} (hx : ctxOf s = some x) {f : FX} (hops : settledOps x [f.b] = true)
    (haligned : ∀ l, x.live.getLsbD l = true → (word64 s x f.b l).toNat % 4 = 0) :
    exec (.meetPacked f) s = setMeet s x f.d (word64 s x f.b) := by
  have hgood : ((maskLanes x.live).filter fun l => (word64 s x f.b l).toNat % 4 != 0) = [] := by
    simpa [List.filter_eq_nil_iff] using haligned
  refine ((inClause_some hx _).trans (use_settled s x _ _ hops)).trans ?_
  rw [hgood]
  rfl

/-! ## Meetings tested (R109) -/

theorem getLsbD_exitedMask (t : Troupe) {l : Nat} (hl : l < 32) : (exitedMask t).getLsbD l = true ↔ (threadOf t l).st = .exited := by
  simp only [exitedMask, liveLanes, BitVec.getLsbD_not, getLsbD_maskOf, hl, decide_true, Bool.true_and]
  simp

/-- No lane of one mask is outside another. -/
theorem and_not_beq_zero {a b : LaneMask} : (a &&& ~~~b == 0) = true ↔ ∀ l, l < 32 → a.getLsbD l = true → b.getLsbD l = true := by
  rw [beq_iff_eq]
  constructor
  · intro h l hl ha
    have hbit := congrArg (fun m => m.getLsbD l) h
    simpa [ha, hl] using hbit
  · intro h
    refine BitVec.eq_of_getLsbD_eq fun l hl => ?_
    cases ha : a.getLsbD l with
    | false => simp [ha]
    | true => simp [h l hl ha]

/-- A result that sets no flag. -/
@[simp] theorem addFlags_zero (cl : Clause) : addFlags cl 0 = cl := by simp [addFlags]

theorem exec_meetq {s : State} {x : Ctx} (hx : ctxOf s = some x) {f : FC} (hops : settledOps x [f.a] = true) :
    exec (.meetq f) s = done s x 1 (writePred x x.cl f.q.toNat fun l =>
      BitVec.ofNat 32 (word64 s x f.a l).toNat &&& ~~~(x.cl.active ||| exitedMask x.t) == 0) :=
  (inClause_some hx _).trans (use_settled s x _ _ hops)

/-! ## The obligation -/

/-- Settles O26: both ways of setting a meeting record it alike, and the test is that no lane of the mask is still to come. -/
theorem meetingsAreSetAndTested : Obligations.MeetingsAreSetAndTested := by
  refine fun s x hx => ⟨fun f hops off hoff hlo hhi => ?meet, fun f hops haligned => ?meetPacked, fun f hops => ?meetq⟩
  case meet =>
    rw [exec_meet hx hops hoff hlo hhi]
    exact setMeet_sets hx ..
  case meetPacked =>
    rw [exec_meetPacked hx hops haligned]
    exact setMeet_sets hx ..
  case meetq =>
    refine ⟨_, _, exec_meetq hx hops, by rw [RecordsPred, addFlags_zero], fun l => and_not_beq_zero.trans ?_⟩
    refine forall₂_congr fun m hm => imp_congr ?mask ?gone
    case mask =>
      rw [BitVec.getLsbD_ofNat, decide_eq_true hm, Bool.true_and]
      rfl
    case gone => rw [BitVec.getLsbD_or, Bool.or_eq_true, getLsbD_exitedMask x.t hm]

end Sys2Proof.Machine
end

section
/-!
PROOFS. What accesses to memory and translations leave of the cores: every troupe as it stood (R327 to R346, R361, R379 to R387).
-/

namespace Sys2Proof.Machine

/-! ## Updates beside the troupes -/

/-- The troupes of a pair's state, once the pair has been taken apart. -/
theorem troupeAt_of_eq {α : Type} {p : State × α} {t : State} {a : α} (e : p = (t, a)) : troupeAt t = troupeAt p.1 := by
  rw [e]

theorem troupeAt_foldl {α : Type} {f : State → α → State} (hf : ∀ s a, troupeAt (f s a) = troupeAt s) (l : List α) (s : State) :
    troupeAt (l.foldl f s) = troupeAt s := foldl_keeps hf l s

theorem troupeAt_of_same_cores {s t : State} (h : t.cores = s.cores) : troupeAt t = troupeAt s :=
  funext fun c => funext fun p => troupeAt_of_cores h c p

theorem troupeAt_coreUpdate (s : State) (c : Nat) {f : CoreSt → CoreSt} (hf : ∀ k, (f k).troupes = k.troupes) :
    troupeAt (modCore s c f) = troupeAt s := funext fun d => funext fun p => troupeAt_modCore (hf _) d p

@[simp] theorem troupeAt_modDie (s : State) (d : Nat) (f : DieSt → DieSt) : troupeAt (modDie s d f) = troupeAt s := rfl

@[simp] theorem troupeAt_rawWrite (s : State) (l : Loc) (bs : List Byte) : troupeAt (rawWrite s l bs) = troupeAt s := by
  unfold rawWrite
  split
  case h_4 => exact troupeAt_of_same_cores (modGroup_cores ..)
  all_goals rfl

@[simp] theorem troupeAt_setLine (s : State) (core line : Nat) (n : Line) : troupeAt (setLine s core line n) = troupeAt s :=
  troupeAt_coreUpdate _ _ fun _ => rfl

@[simp] theorem troupeAt_dropLine (s : State) (core line : Nat) : troupeAt (dropLine s core line) = troupeAt s :=
  troupeAt_coreUpdate _ _ fun _ => rfl

@[simp] theorem troupeAt_applyInvals (s : State) (core : Nat) (p : Inval → Bool) : troupeAt (applyInvals s core p) = troupeAt s :=
  troupeAt_coreUpdate _ _ fun _ => rfl

@[simp] theorem troupeAt_clearPoison (s : State) (l : Loc) (len : Nat) : troupeAt (clearPoison s l len) = troupeAt s := rfl

@[simp] theorem troupeAt_countMiss (s : State) (line : Nat) : troupeAt (countMiss s line) = troupeAt s := rfl

/-! ## Slices and lines (R327 to R341) -/

@[simp] theorem troupeAt_l2Drop (s : State) (die line : Nat) : troupeAt (l2Drop s die line) = troupeAt s := by
  unfold l2Drop
  split
  · rfl
  · rfl

@[simp] theorem troupeAt_l2DropAll (s : State) (line : Nat) : troupeAt (l2DropAll s line) = troupeAt s :=
  troupeAt_foldl (fun s d => troupeAt_l2Drop s d line) _ _

@[simp] theorem troupeAt_l2Mark (s : State) (die line : Nat) (st : L2State) : troupeAt (l2Mark s die line st) = troupeAt s := by
  unfold l2Mark
  split
  · rfl
  · rfl

@[simp] theorem troupeAt_l2Spare (s : State) (die line : Nat) : troupeAt (l2Spare s die line) = troupeAt s := by
  unfold l2Spare
  extract_lets
  split
  · rfl
  split
  · exact troupeAt_l2Drop ..
  · rfl

@[simp] theorem troupeAt_writeBack (s : State) (core line : Nat) : troupeAt (writeBack s core line) = troupeAt s := by
  unfold writeBack
  split
  · rfl
  · extract_lets s1 s2
    have hs1 : troupeAt s1 = troupeAt s := troupeAt_foldl (fun _ _ => troupeAt_rawWrite ..) _ _
    have hs2 : troupeAt s2 = troupeAt s := by
      unfold s2
      split
      · exact hs1
      · exact (troupeAt_l2Mark ..).trans hs1
    refine (troupeAt_coreUpdate _ _ fun _ => ?_).trans hs2
    rfl

@[simp] theorem troupeAt_demote (s : State) (core line : Nat) (st : LineState) : troupeAt (demote s core line st) = troupeAt s := by
  unfold demote
  split
  · rfl
  · refine (troupeAt_coreUpdate _ _ fun _ => ?_).trans (troupeAt_writeBack ..)
    rfl

@[simp] theorem troupeAt_giveUp (s : State) (core line : Nat) : troupeAt (giveUp s core line) = troupeAt s :=
  (troupeAt_dropLine ..).trans (troupeAt_writeBack ..)

@[simp] theorem troupeAt_dropPlain (s : State) (core line : Nat) : troupeAt (dropPlain s core line) = troupeAt s := by
  unfold dropPlain
  split
  · rfl
  split
  · exact troupeAt_giveUp ..
  · rfl

@[simp] theorem troupeAt_receiveInval (s : State) (core line : Nat) : troupeAt (receiveInval s core line) = troupeAt s := by
  unfold receiveInval
  split
  · rfl
  split
  · split
    · rfl
    · extract_lets s1
      have hs1 : troupeAt s1 = troupeAt s := by
        unfold s1
        split
        · exact troupeAt_applyInvals ..
        · rfl
      refine (troupeAt_coreUpdate s1 core fun k => ?_).trans hs1
      split
      · rfl
      · rfl
  split
  · exact troupeAt_giveUp ..
  · rfl

@[simp] theorem troupeAt_expelSharers (s : State) (self line : Nat) : troupeAt (expelSharers s self line) = troupeAt s :=
  troupeAt_foldl (fun s c => troupeAt_receiveInval s c line) _ _

@[simp] theorem troupeAt_mergeHome (s : State) (line op ty : Nat) (inc : Line) : troupeAt (mergeHome s line op ty inc) = troupeAt s :=
  troupeAt_foldl (fun _ _ => troupeAt_foldl (fun _ _ => troupeAt_rawWrite ..) _ _) _ _

@[simp] theorem troupeAt_mergeEviction (s : State) (core line : Nat) : troupeAt (mergeEviction s core line) = troupeAt s := by
  unfold mergeEviction
  split
  · rfl
  split
  · extract_lets _ _ _ s1
    have hs1 : troupeAt s1 = troupeAt s := by
      unfold s1
      split
      · rfl
      · exact (troupeAt_l2Spare ..).trans (troupeAt_l2Drop ..)
    exact (troupeAt_dropLine ..).trans hs1
  · rfl

@[simp] theorem troupeAt_settleEvicting (s : State) (line : Nat) : troupeAt (settleEvicting s line) = troupeAt s :=
  troupeAt_foldl (fun s c => troupeAt_mergeEviction s c line) _ _

@[simp] theorem troupeAt_collapseLine (s : State) (line : Nat) : troupeAt (collapseLine s line) = troupeAt s := by
  unfold collapseLine
  extract_lets s1
  have hs1 : troupeAt s1 = troupeAt s := troupeAt_settleEvicting s line
  split
  · exact hs1
  extract_lets _ _ s2 s3
  have hs2 : troupeAt s2 = troupeAt s1 := by
    refine troupeAt_foldl (fun s e => ?_) _ _
    split
    · exact troupeAt_mergeHome ..
    · rfl
  have hs3 : troupeAt s3 = troupeAt s2 := troupeAt_foldl (fun s c => troupeAt_dropLine s c line) _ _
  exact hs3.trans (hs2.trans hs1)

@[simp] theorem troupeAt_releaseSlice (s : State) (die line : Nat) : troupeAt (releaseSlice s die line) = troupeAt s := by
  unfold releaseSlice
  split
  · rfl
  split
  · split
    · exact troupeAt_collapseLine ..
    · exact troupeAt_mergeHome ..
  · rfl

@[simp] theorem troupeAt_l2Room (s : State) (die line : Nat) : troupeAt (l2Room s die line) = troupeAt s := by
  unfold l2Room
  extract_lets
  split
  · exact troupeAt_l2Spare ..
  split
  · split
    · exact troupeAt_releaseSlice ..
    · rfl
  · rfl

@[simp] theorem troupeAt_l2Take (s : State) (die line : Nat) (write first : Bool) : troupeAt (l2Take s die line write first) = troupeAt s := by
  unfold l2Take
  extract_lets _ s1 put s2
  have hs1 : troupeAt s1 = troupeAt s := by
    refine troupeAt_foldl (fun s d => ?_) _ _
    split
    · exact troupeAt_l2Drop ..
    · rfl
  have hs2 : troupeAt s2 = troupeAt s1 := (troupeAt_l2Room ..).trans (troupeAt_countMiss ..)
  split
  · exact hs1
  split
  · exact hs2.trans hs1
  · exact hs2.trans hs1

@[simp] theorem troupeAt_l2Home (s : State) (l : Loc) (write : Bool) : troupeAt (l2Home s l write) = troupeAt s := by
  unfold l2Home
  split
  · rfl
  split
  · split
    · exact troupeAt_l2DropAll ..
    · rfl
  · exact troupeAt_l2Take ..

@[simp] theorem troupeAt_dropPeers (s : State) (line : Nat) : troupeAt (dropPeers s line) = troupeAt s := by
  unfold dropPeers
  split
  · rfl
  · rfl

/-! ## Accesses at a home (R338, R345, R361, R483) -/

@[simp] theorem troupeAt_homeRead (s : State) (l : Loc) (n : Nat) : troupeAt (homeRead s l n).1 = troupeAt s := by
  unfold homeRead
  split
  · simp [troupeAt_foldl]
  · simp [troupeAt_foldl]
  · rfl

@[simp] theorem troupeAt_clearForWrite (s : State) (l : Loc) : troupeAt (clearForWrite s l) = troupeAt s := by
  unfold clearForWrite
  split
  · simp [troupeAt_foldl]
  · simp [troupeAt_foldl]
  · rfl

@[simp] theorem troupeAt_homeWrite (s : State) (l : Loc) (bs : List Byte) : troupeAt (homeWrite s l bs) = troupeAt s := by
  simp [homeWrite]

@[simp] theorem troupeAt_readSync (s : State) (l : Loc) : troupeAt (readSync s l).1 = troupeAt s := troupeAt_homeRead ..

@[simp] theorem troupeAt_acquireObjects (s : State) (core : Nat) (scope : Option Nat) (ptrs : List Word) :
    troupeAt (acquireObjects s core scope ptrs) = troupeAt s := by
  unfold acquireObjects
  split
  · rfl
  · unfold acquireApply
    split
    · rfl
    · exact troupeAt_applyInvals ..

/-! ## Translation (R379 to R387, R404) -/

@[simp] theorem troupeAt_setLeaf (s : State) (a e : Nat) : troupeAt (setLeaf s a e) = troupeAt s := troupeAt_homeWrite ..

@[simp] theorem troupeAt_fillFirst (s : State) (u : Nat) (e : TlbEntry) : troupeAt (fillFirst s u e) = troupeAt s := by
  unfold fillFirst
  split
  · exact troupeAt_coreUpdate _ _ fun _ => rfl
  split
  · rfl
  · rfl

@[simp] theorem troupeAt_walkFill (s : State) (core va : Nat) (write : Bool) : troupeAt (walkFill s core va write).1 = troupeAt s := by
  unfold walkFill
  split
  · rfl
  · extract_lets _ s1 n
    have hs1 : troupeAt s1 = troupeAt s := by
      unfold s1
      split
      · rfl
      · exact troupeAt_setLeaf ..
    exact (troupeAt_fillFirst s1 core n).trans hs1

@[simp] theorem troupeAt_lookup (s : State) (core va : Nat) : troupeAt (lookup s core va).1 = troupeAt s := by
  unfold lookup
  split
  · rfl
  extract_lets s1
  have hs1 : troupeAt s1 = troupeAt s := by
    unfold s1
    split
    · exact troupeAt_coreUpdate _ _ fun _ => rfl
    · rfl
  split
  · exact (troupeAt_fillFirst ..).trans hs1
  · exact (troupeAt_walkFill ..).trans hs1

@[simp] theorem troupeAt_translateVa (s : State) (w : Who) (va space size : Nat) (report : Word) (kind : Access) :
    troupeAt (translateVa s w va space size report kind).1 = troupeAt s := by
  have hlookup := troupeAt_lookup s w.core va
  unfold translateVa
  split
  next e => exact (troupeAt_of_eq e).trans hlookup
  next s1 e he =>
    have hs1 : troupeAt s1 = troupeAt s := (troupeAt_of_eq he).trans hlookup
    have hfill := (troupeAt_walkFill s1 w.core va true).trans hs1
    split
    · split
      · split
        · exact hs1
        split
        · split
          next hw => exact (troupeAt_of_eq hw).trans hfill
          next hw => exact (troupeAt_of_eq hw).trans hfill
        · exact hs1
      · exact hs1
    · exact hs1

@[simp] theorem troupeAt_translate (s : State) (w : Who) (wid ptr : Word) (size : Nat) (kind : Access) :
    troupeAt (translate s w wid ptr size kind).1 = troupeAt s := by
  unfold translate
  extract_lets
  split
  · rfl
  split
  · rfl
  split
  · rfl
  split
  · split
    · rfl
    · split <;> rfl
  split
  · split
    · rfl
    split
    · rfl
    · split <;> rfl
  split
  · split
    · rfl
    · exact troupeAt_translateVa ..
  · exact troupeAt_translateVa ..

@[simp] theorem troupeAt_locate (s : State) (w : Who) (ptr : Word) (size : Nat) (kind : Access) :
    troupeAt (locate s w ptr size kind).1 = troupeAt s := by
  unfold locate
  split
  · exact troupeAt_translateVa ..
  · exact troupeAt_translate ..

/-- A lost location is looked for with a translation, and no more (R404). -/
theorem refind_state (s : State) (w : Who) (l : Loc) (size : Nat) (kind : Access) :
    (refind s w l size kind).1 = s ∨ (refind s w l size kind).1 = (locate s w (word l.addr) size kind).1 := by
  unfold refind
  split
  · right
    unfold findAgain
    split
    next e => rw [e]
    next e => rw [e]
  · exact .inl rfl

end Sys2Proof.Machine
end

section
/-!
PROOFS. Spills are acknowledged and refills encoded (R126, R127), the Minuet rotation passes its turn (R81, R292), and the Quadrille unit moves
a group's threads (R224 to R228).
-/

namespace Sys2Proof.Machine

/-! ## Registers move (R126, R127) -/

/-- The register an acknowledged spill leaves behind (R126). -/
def spilledFrom (pos : Nat) : Reg := { emptyReg with entry := .spilled, home := pos }

/-- No running clause names the register: the acknowledgement takes its effect at once (R126). -/
theorem exec_spillAck {s : State} {core n pos reg : Nat} {u : Troupe} (hn : (coreOf s core).spills[n]? = some (pos, reg))
    (hu : troupeAt s core pos = some u) (hcl : u.clause = none) (hres : (regOf u reg).entry = .resident) :
    exec (.spillAck core n) s = .next (setTroupe (modCore s core fun k => { k with spills := k.spills.eraseIdx n }) core pos
      { u with regs := tabPut u.regs reg (spilledFrom pos) }) := by
  have hv : troupeAt (modCore s core fun k => { k with spills := k.spills.eraseIdx n }) core pos = some u :=
    (troupeAt_modCore rfl ..).trans hu
  change execSpillAck core n s = _
  simp [execSpillAck, hn, hu, hcl, modTroupe_eq hv, hres, spilledFrom]

/-- A register a clause's set names, with room for it, is read back into the troupe as the read leaves it (R127). -/
theorem exec_refill {s s1 : State} {core pos reg : Nat} {u v : Troupe} {img : List Byte} {named : List Nat}
    (hu : troupeAt s core pos = some u) (hspilled : (regOf u reg).entry = .spilled) (hrun : u.suspended = false)
    (hwant : (wantedSets s core u).find? (fun q => q.contains reg) = some named) (hfit : regsFit (coreOf s core) pos u 4 = true)
    (hread : readSpill s core (regOf u reg).home reg = (s1, .inr img)) (hv : troupeAt s1 core pos = some v) :
    exec (.refill core pos reg) s = .next
      (setTroupe s1 core pos { v with regs := tabPut v.regs reg (encodeReg (formatLanes v) (mkLanes (imageLane img))) }) := by
  have hreg : refillReg s core pos reg =
      setTroupe s1 core pos { v with regs := tabPut v.regs reg (encodeReg (formatLanes v) (mkLanes (imageLane img))) } := by
    simp only [refillReg, hu, Option.map_some, Option.getD_some, hread, modTroupe_eq hv]
  change execRefill core pos reg s = _
  simp only [execRefill, hu, hwant, hspilled, hrun, hfit, hreg, bne_self_eq_false, Bool.or_self, Bool.not_true, Bool.false_eq_true, if_false]

/-! ## What a rotation goes by (R81) -/

/-- The grids, and the turns that each troupe has had. -/
def turnBook (s : State) : Tab Grid × (Nat → Nat → Option Nat) := (s.grids, fun c p => (troupeAt s c p).map Troupe.turns)

theorem turnBook_of_frame {s t : State} (hg : t.grids = s.grids) (ht : troupeAt t = troupeAt s) : turnBook t = turnBook s := by
  rw [turnBook, hg, ht]
  rfl

theorem grids_of_ledger {s t : State} (h : ledger t = ledger s) : t.grids = s.grids := congrArg (fun l => l.books.grids) h

theorem turnBook_of_ledger {s t : State} (hl : ledger t = ledger s) (ht : troupeAt t = troupeAt s) : turnBook t = turnBook s :=
  turnBook_of_frame (grids_of_ledger hl) ht

theorem troupeAt_setTroupe (s : State) (c p d q : Nat) (t : Troupe) :
    troupeAt (setTroupe s c p t) d q = if c = d ∧ p = q then some t else troupeAt s d q := by
  by_cases hc : c = d
  · subst hc
    by_cases hp : p = q
    · subst hp
      simp
    · simp [hp, troupeAt_setTroupe_ne]
  · simp [hc, troupeAt_setTroupe_core]

theorem turnBook_modTroupe (s : State) (c p : Nat) {f : Troupe → Troupe} (hf : ∀ t, (f t).turns = t.turns) :
    turnBook (modTroupe s c p f) = turnBook s := by
  unfold modTroupe
  split
  · rfl
  next t ht =>
    refine Prod.ext rfl (funext fun d => funext fun q => ?_)
    simp only [turnBook, troupeAt_setTroupe]
    split
    next h =>
      obtain ⟨rfl, rfl⟩ := h
      simp [ht, hf]
    · rfl

/-- Threads alone change. -/
theorem turnBook_modThreads (s : State) (c p : Nat) (m : LaneMask) (f : Troupe → Nat → Thread → Thread) :
    turnBook (modTroupe s c p fun t => modThreads t m (f t)) = turnBook s := turnBook_modTroupe _ _ _ fun _ => rfl

theorem turnBook_refind (s : State) (w : Who) (l : Loc) (size : Nat) (kind : Access) :
    turnBook (refind s w l size kind).1 = turnBook s := by
  obtain h | h := refind_state s w l size kind
  · rw [h]
  · rw [h]
    exact turnBook_of_ledger (ledger_locate ..) (troupeAt_locate ..)

theorem turnBook_readSync_dropPlain (s : State) (core : Nat) (w : Loc) :
    turnBook (readSync (dropPlain s core w.line) w).1 = turnBook s :=
  turnBook_of_ledger (by simp) (by simp)

theorem turnBook_acquireObjects (s : State) (core : Nat) (scope : Option Nat) (ptrs : List Word) :
    turnBook (acquireObjects s core scope ptrs) = turnBook s := by
  refine turnBook_of_frame ?_ (troupeAt_acquireObjects ..)
  unfold acquireObjects
  split
  · rfl
  · unfold acquireApply
    split
    · rfl
    · rfl

/-- A waiting lane's poll reads its word and may release the lane (R246). -/
theorem turnBook_pollLane (s : State) (core pos lane : Nat) : turnBook (pollLane s core pos lane) = turnBook s := by
  unfold pollLane
  split
  next w gen acq _ =>
    extract_lets f s1 w1 r s2
    have hf : turnBook f.1 = turnBook s := by
      unfold f
      split
      · exact turnBook_refind ..
      · rfl
    have hs1 : turnBook s1 = turnBook s := by
      unfold s1
      split
      · exact hf
      · exact (turnBook_modThreads ..).trans hf
    have hr : turnBook r.1 = turnBook s := (turnBook_readSync_dropPlain ..).trans hs1
    split
    · exact hs1
    split
    · exact hr
    · exact (turnBook_acquireObjects ..).trans ((turnBook_modThreads ..).trans hr)
  · rfl

theorem turnBook_pollTroupe (s : State) (core pos : Nat) : turnBook (pollTroupe s core pos) = turnBook s := by
  unfold pollTroupe
  split
  · split
    · rfl
    · exact foldl_keeps (fun s l => turnBook_pollLane s core pos l) _ _
  · rfl

/-- The waits that end at a turn count no turn and pass none on (R87, R115, R246). -/
theorem turnBook_wakeTurn (s : State) (core pos : Nat) : turnBook (wakeTurn s core pos) = turnBook s := by
  unfold wakeTurn
  rw [turnBook_pollTroupe, turnBook_modThreads s core pos (-1)]

theorem gridAt_of_turnBook {s t : State} (h : turnBook t = turnBook s) (k : Nat) : gridAt t k = gridAt s k := by
  rw [gridAt, show t.grids = s.grids from congrArg Prod.fst h]
  rfl

theorem turns_of_turnBook {s t : State} (h : turnBook t = turnBook s) (c p : Nat) :
    (troupeAt t c p).map Troupe.turns = (troupeAt s c p).map Troupe.turns :=
  congrFun (congrFun (congrArg Prod.snd h) c) p

/-! ## The turn is passed (R81, R292) -/

/-- A turn that is used up, or forfeited, of a troupe that nothing holds is passed on once its clause is complete. -/
theorem exec_minuetTurn_passes {s : State} {ticket core pos : Nat} {g : Grid} {u : Troupe} (hg : gridAt s ticket = some g)
    (hsaved : gangSaved s ticket = false) (hturn : turnTroupeOf s ticket g = some (core, pos, g.turnGroup, g.turnTroupe))
    (hopen : s.groups.any (fun e => e.2.ticket == ticket && e.2.closing) = false) (hu : troupeAt s core pos = some u)
    (hheld : heldByTrap s core pos u = false) (hparks : u.parks = []) (hhalt : u.halted = false) (hquiet : turnQuiet s core pos u = true)
    (hover : g.turnUsed = true ∨ u.suspended = true) :
    exec (.minuetTurn ticket) s = .next (passTurn s ticket core pos g.turnGroup g.turnTroupe) := by
  change execMinuetTurn ticket s = _
  simp [execMinuetTurn, hg, hsaved, hopen, hturn, hu, hheld, hparks, hhalt, hquiet, hover]

/-- The turn is now a place's of the rotation, and not used. -/
def Grid.turnTo (g : Grid) (group troupe : Nat) : Grid := { g with turnGroup := group, turnTroupe := troupe, turnUsed := false }

/-- The troupe at a position, its turn counted. -/
def turnCounted (s : State) (core pos : Nat) (u : Troupe) : State := setTroupe s core pos { u with turns := u.turns + 1 }

/-- A place is the rotation's last. -/
def endsRotation (s : State) (ticket group tidx : Nat) : Prop :=
  ((rotation s ticket).getLast?.map fun r => (r.2.2.1, r.2.2.2)) = some (group, tidx)

section
variable {s : State} {ticket core pos group tidx c p i j : Nat} {u : Troupe}

theorem passTurn_within (hu : troupeAt s core pos = some u) (hlast : ¬endsRotation (turnCounted s core pos u) ticket group tidx)
    (hnext : turnAfter (turnCounted s core pos u) ticket group tidx = some (c, p, i, j)) :
    passTurn s ticket core pos group tidx = wakeTurn (modGrid (turnCounted s core pos u) ticket fun g => g.turnTo i j) c p := by
  unfold endsRotation turnCounted at hlast
  unfold turnCounted at hnext
  simp only [passTurn, modTroupe_eq hu, beq_iff_eq, if_neg hlast, hnext]
  rfl

/-- As a rotation ends, the grid's gangs that fit are admitted before the next one begins. -/
theorem passTurn_last (hu : troupeAt s core pos = some u) (hlast : endsRotation (turnCounted s core pos u) ticket group tidx)
    (hnext : turnAfter (admitMore ticket 64 (turnCounted s core pos u)) ticket group tidx = some (c, p, i, j)) :
    passTurn s ticket core pos group tidx =
      wakeTurn (modGrid (admitMore ticket 64 (turnCounted s core pos u)) ticket fun g => g.turnTo i j) c p := by
  unfold endsRotation turnCounted at hlast
  unfold turnCounted at hnext
  simp only [passTurn, modTroupe_eq hu, beq_iff_eq, if_pos hlast, hnext]
  rfl

/-- Within a rotation the troupe has had one turn more, and its successor has the turn. -/
theorem turnPassed_within {g : Grid} (hg : gridAt s ticket = some g) :
    let t := wakeTurn (modGrid (turnCounted s core pos u) ticket fun g => g.turnTo i j) c p
    (∃ v, troupeAt t core pos = some v ∧ v.turns = u.turns + 1) ∧ gridAt t ticket = some (g.turnTo i j) := by
  rw [modGrid_eq (s := turnCounted s core pos u) hg]
  have hbook := turnBook_wakeTurn (setGrid (turnCounted s core pos u) ticket (g.turnTo i j)) c p
  have hcount : troupeAt (setGrid (turnCounted s core pos u) ticket (g.turnTo i j)) core pos = some { u with turns := u.turns + 1 } :=
    troupeAt_setTroupe_self ..
  refine ⟨Option.map_eq_some_iff.1 ((turns_of_turnBook hbook core pos).trans ?_), ?_⟩
  · rw [hcount]
    rfl
  · rw [gridAt_of_turnBook hbook]
    exact gridAt_setGrid_self ..

end

/-! ## The Quadrille unit moves a group's threads (R224 to R228) -/

theorem groups_modTroupes (g : Group) (f : Nat × Nat → Troupe → Troupe) (s : State) :
    (g.troupes.foldl (fun s e => modTroupe s g.core e.2 (f e)) s).groups = s.groups := foldl_keeps (fun _ _ => modTroupe_groups ..) _ _

theorem groups_sweepSymbols_dropSpills (s : State) (core pos : Nat) (regs : List Nat) :
    (sweepSymbols (dropSpills s core pos regs) core pos).groups = s.groups := by
  unfold sweepSymbols
  split
  · rfl
  · rfl

/-- A move turns the group to be restored next, or to be regrouped. -/
theorem groupAt_performMove {s : State} {key : Nat} {g : Group} (hg : groupAt s key = some g) (range : Nat) (restore : Bool)
    (mv : List Move) : groupAt (performMove s key g range restore mv) key = some { g with posRecord := !restore } := by
  unfold performMove
  extract_lets _ gone s1 s2 s3
  have hs1 : s1.groups = s.groups := groups_modTroupes g _ s
  have hs2 : s2.groups = s1.groups := foldl_keeps (fun _ _ => groups_sweepSymbols_dropSpills ..) _ _
  have hg3 : groupAt s3 key = some g := by
    rw [groupAt, show s3.groups = s2.groups from rfl, hs2, hs1]
    exact hg
  rw [modGroup_eq hg3]
  exact groupAt_setGroup_self ..

/-- An arrived thread: its function, its range, its destination and its key. -/
abbrev ArrivedThread := Member × Nat × Nat × Nat × Nat

/-- Positions and keys of arrived threads. -/
def arrivedKeys (q : List ArrivedThread) : List (Nat × Nat) := q.map fun e => (memberPos e.1, e.2.2.2.2 % 512)

/-- One arrived thread's move to the place that R226 gives it. -/
def moveTo (ps : List Placed) (ts : List (Nat × Nat)) (e : ArrivedThread) : Move :=
  match ps.find? fun p => p.pos == memberPos e.1 with
  | some p => { m := e.1, to_ := p.to_, p6 := !p.own, ticket := ticketOf ts p, dest := e.2.2.2.1 }
  | none => { m := e.1, to_ := memberPos e.1, p6 := true, ticket := 0, dest := e.2.2.2.1 }

theorem moveTo_thread (ps : List Placed) (ts : List (Nat × Nat)) (e : ArrivedThread) :
    ((moveTo ps ts e).m, (moveTo ps ts e).dest) = (e.1, e.2.2.2.1) := by
  unfold moveTo
  split
  · rfl
  · rfl

theorem moveTo_member (ps : List Placed) (ts : List (Nat × Nat)) (e : ArrivedThread) : (moveTo ps ts e).m = e.1 :=
  congrArg Prod.fst (moveTo_thread ps ts e)

/-- The moves of a regroup with no capacity table. -/
def uncappedMoves (g : Group) (q : List ArrivedThread) : List Move :=
  q.map (moveTo (placement g.ntroupes (fun _ => 1024) (arrivedKeys q)) (arrivedKeys q))

theorem uncappedMoves_threads (g : Group) (q : List ArrivedThread) :
    (uncappedMoves g q).map (fun e => (e.m, e.dest)) = q.map fun e => (e.1, e.2.2.2.1) := by
  rw [uncappedMoves, List.map_map]
  exact List.map_congr_left fun e _ => moveTo_thread ..

theorem uncappedMoves_placed {g : Group} {q : List ArrivedThread} {e : Move} {r : Placed} (he : e ∈ uncappedMoves g q)
    (hr : (placement g.ntroupes (fun _ => 1024) (arrivedKeys q)).find? (fun p => p.pos == memberPos e.m) = some r) :
    e.to_ = r.to_ ∧ e.ticket = ticketOf (arrivedKeys q) r ∧ e.p6 = !r.own := by
  obtain ⟨a, -, rfl⟩ := List.mem_map.1 he
  rw [moveTo_member] at hr
  rw [moveTo, hr]
  exact ⟨rfl, rfl, rfl⟩

theorem regroupMove_uncapped {s : State} {key : Nat} {g : Group} {q : List ArrivedThread} {range : Nat} (hcap : rangeCap range = false) :
    regroupMove s key g q range = some (performMove s key g range false (uncappedMoves g q)) := by
  simp only [regroupMove, hcap, Bool.not_false, if_true]
  rfl

section
variable {s : State} {ticket group fn range head : Nat} {g : Group} {q : List ArrivedThread}

theorem arrivedAll_ne_nil {key : Nat} (h : arrivedAll s key = some q) : q ≠ [] := by
  unfold arrivedAll at h
  extract_lets ms r at h
  split at h
  next hr =>
    obtain ⟨-, hr⟩ := Bool.and_eq_true_iff.1 hr
    obtain rfl := Option.some.inj h
    simpa [← List.length_eq_zero_iff] using hr
  · cases h

/-- Threads that agree, with their turn come and room for their registers, are moved (R224, R228). -/
theorem exec_quadrilleMove (hg : groupAt s (groupKey ticket group) = some g) (hq : arrivedAll s (groupKey ticket group) = some q)
    (hagree : ∀ e ∈ q, e.2.1 = fn ∧ e.2.2.1 = range ∧ arrivedWhat s e.1 = some (fn, range, head))
    (hturn : moveTurn s (groupKey ticket group) g = true) (hready : ∀ e ∈ g.troupes, moveReady s g.core e.2 range = true)
    (hfit : moveFits (coreOf s g.core) g range ((q.head?.map fun e => e.2.2.2.1).getD 120) (fun e => holding e.2) = true) :
    exec (.quadrilleMove ticket group) s =
      if fn = 1 then .next (restoreMove s (groupKey ticket group) g q range)
      else .next ((regroupMove s (groupKey ticket group) g q range).getD s) := by
  obtain ⟨e, r, rfl⟩ := List.exists_cons_of_ne_nil (arrivedAll_ne_nil hq)
  obtain ⟨hfn, hrange, hwhat⟩ := hagree e (List.mem_cons_self ..)
  have hsame : (e :: r).any (fun d => arrivedWhat s d.1 != (((e :: r).head?).bind fun f => arrivedWhat s f.1)) = false := by
    refine List.any_eq_false.2 fun d hd => ?_
    obtain ⟨-, -, hd⟩ := hagree d hd
    simp [hd, hwhat]
  have hall : g.troupes.all (fun d => moveReady s g.core d.2 range) = true := List.all_eq_true.2 hready
  change execQuadrilleMove ticket group s = _
  have hfit' : moveFits (coreOf s g.core) g range e.2.2.2.1 (fun e => holding e.2) = true := hfit
  simp only [execQuadrilleMove, hg, hq, hsame, List.map_cons, List.headD_cons, hfn, hrange, hturn, hall, hfit', Bool.false_eq_true,
    if_false, Bool.not_true, Bool.or_self]
  cases regroupMove s (groupKey ticket group) g (e :: r) range with
  | none => rfl
  | some t => rfl

end

/-! ## The obligation -/

/-- Settles O51: a spill and a refill as the core carries them out, a turn passed within a rotation and at its end, and the two moves of the
Quadrille unit. -/
theorem registersTurnsAndThreadsMove : Obligations.RegistersTurnsAndThreadsMove := by
  refine ⟨?spill, fun s s1 core pos reg u v img named hu hspilled hrun hwant hfit hread hv =>
    exec_refill hu hspilled hrun hwant hfit hread hv, ?turn, ?move⟩
  case spill =>
    intro s core n pos reg u hn hu hcl hres
    refine ⟨_, _, exec_spillAck hn hu hcl hres, ?_, troupeAt_setTroupe_self .., ?_, rfl, fun m hm => ?_⟩
    · simp
    · exact tabGet_tabPut_self ..
    · exact tabGet_tabPut_ne _ _ _ hm.symm
  case turn =>
    intro s ticket core pos g u c p i j hg hsaved hturn hopen hu hheld hparks hhalt hquiet hover s1 last
    have hexec := exec_minuetTurn_passes hg hsaved hturn hopen hu hheld hparks hhalt hquiet hover
    refine ⟨fun hlast hnext => ?_, fun hlast hnext => ?_⟩
    · obtain ⟨⟨v, hv, hturns⟩, hgrid⟩ := turnPassed_within (u := u) (core := core) (pos := pos) (c := c) (p := p) (i := i) (j := j) hg
      rw [passTurn_within hu hlast hnext] at hexec
      exact ⟨_, v, _, hexec, hv, hturns, hgrid, rfl⟩
    · rw [hexec, passTurn_last hu hlast hnext]
      rfl
  case move =>
    intro s ticket group fn range head g q key hg hq hagree hturn hready hfit
    have hexec := exec_quadrilleMove hg hq hagree hturn hready hfit
    refine ⟨fun hfn => ?restore, fun hfn hcap => ?regroup⟩
    case restore =>
      rw [if_pos hfn] at hexec
      exact ⟨_, hexec, rfl, groupAt_performMove hg range true _⟩
    case regroup =>
      rw [if_neg (by omega), regroupMove_uncapped hcap, Option.getD_some] at hexec
      exact ⟨_, _, hexec, rfl, uncappedMoves_threads g q, fun _ he _ hr => uncappedMoves_placed he hr, groupAt_performMove hg range false _⟩

end Sys2Proof.Machine
end

section
/-!
PROOFS. What a read leaves as it stands, at a home or through an L1 (R327 to R350, R428): the groups and the grids, the arrivals under way, the
clause in execution, and every core but for the lines of its L1 and their queued invalidations.
-/

namespace Sys2Proof.Machine

/-- What no read changes. -/
structure Standing where
  groups : Tab Group
  grids : Tab Grid
  arrivals : List Arrival
  focus : Option (Nat × Nat)
  core : Nat → CoreSt

/-- A core without the lines of its L1. -/
def beyondL1 (k : CoreSt) : CoreSt := { k with l1 := [], invq := [] }

def standing (s : State) : Standing := ⟨s.groups, s.grids, s.arrivals, s.focus, fun c => beyondL1 (coreOf s c)⟩

theorem standing_foldl {α : Type} {f : State → α → State} (hf : ∀ s a, standing (f s a) = standing s) (l : List α) (s : State) :
    standing (l.foldl f s) = standing s := foldl_keeps hf l s

/-! ## Updates of lines, dies and memory -/

theorem standing_modCore (s : State) (c : Nat) {f : CoreSt → CoreSt} (hf : ∀ k, beyondL1 (f k) = beyondL1 k) :
    standing (modCore s c f) = standing s := by
  have hcores : (fun d => beyondL1 (coreOf (modCore s c f) d)) = fun d => beyondL1 (coreOf s d) := by
    funext d
    by_cases h : c = d
    · subst h
      rw [coreOf_modCore_self, hf]
    · rw [coreOf_modCore_ne _ _ h]
  rw [standing, hcores]
  rfl

@[simp] theorem standing_modDie (s : State) (d : Nat) (f : DieSt → DieSt) : standing (modDie s d f) = standing s := rfl

/-- A line's place lies in device memory or in a peer's. -/
theorem area_lineLoc_plus (line n : Nat) : ((lineLoc line).plus n).area ≠ .scratch := by
  unfold lineLoc
  split
  · simp [Loc.plus]
  · simp [Loc.plus]

theorem standing_rawWrite (s : State) {l : Loc} (h : l.area ≠ .scratch) (bs : List Byte) : standing (rawWrite s l bs) = standing s := by
  unfold rawWrite
  split
  case h_4 hl => exact absurd hl h
  all_goals rfl

@[simp] theorem standing_setLine (s : State) (core line : Nat) (n : Line) : standing (setLine s core line n) = standing s :=
  standing_modCore _ _ fun _ => rfl

@[simp] theorem standing_dropLine (s : State) (core line : Nat) : standing (dropLine s core line) = standing s :=
  standing_modCore _ _ fun _ => rfl

@[simp] theorem standing_applyOwn (s : State) (core line : Nat) : standing (applyOwn s core line) = standing s :=
  standing_modCore _ _ fun _ => rfl

@[simp] theorem standing_countMiss (s : State) (line : Nat) : standing (countMiss s line) = standing s := rfl

/-! ## Slices and lines (R327 to R341) -/

@[simp] theorem standing_l2Drop (s : State) (die line : Nat) : standing (l2Drop s die line) = standing s := by
  unfold l2Drop
  split
  · rfl
  · rfl

@[simp] theorem standing_l2DropAll (s : State) (line : Nat) : standing (l2DropAll s line) = standing s :=
  standing_foldl (fun s d => standing_l2Drop s d line) _ _

@[simp] theorem standing_l2Mark (s : State) (die line : Nat) (st : L2State) : standing (l2Mark s die line st) = standing s := by
  unfold l2Mark
  split
  · rfl
  · rfl

@[simp] theorem standing_l2Spare (s : State) (die line : Nat) : standing (l2Spare s die line) = standing s := by
  unfold l2Spare
  extract_lets
  split
  · rfl
  split
  · exact standing_l2Drop ..
  · rfl

@[simp] theorem standing_writeBack (s : State) (core line : Nat) : standing (writeBack s core line) = standing s := by
  unfold writeBack
  split
  · rfl
  · extract_lets s1 s2
    have hs1 : standing s1 = standing s := standing_foldl (fun s _ => standing_rawWrite s (area_lineLoc_plus _ _) _) _ _
    have hs2 : standing s2 = standing s := by
      unfold s2
      split
      · exact hs1
      · exact (standing_l2Mark ..).trans hs1
    refine (standing_modCore _ _ fun _ => ?_).trans hs2
    rfl

@[simp] theorem standing_demote (s : State) (core line : Nat) (st : LineState) : standing (demote s core line st) = standing s := by
  unfold demote
  split
  · rfl
  · refine (standing_modCore _ _ fun _ => ?_).trans (standing_writeBack ..)
    rfl

@[simp] theorem standing_giveUp (s : State) (core line : Nat) : standing (giveUp s core line) = standing s :=
  (standing_dropLine ..).trans (standing_writeBack ..)

@[simp] theorem standing_mergeHome (s : State) (line op ty : Nat) (inc : Line) : standing (mergeHome s line op ty inc) = standing s :=
  standing_foldl (fun _ _ => standing_foldl (fun s _ => standing_rawWrite s (area_lineLoc_plus _ _) _) _ _) _ _

@[simp] theorem standing_evictU (s : State) (core line : Nat) : standing (evictU s core line) = standing s := by
  unfold evictU
  split
  · rfl
  next n _ =>
    split
    next op ty _ =>
      have hmod : standing (modCore s core fun k => { k with l1 := tabPut k.l1 line { n with st := .evicting op ty } }) = standing s :=
        standing_modCore _ _ fun _ => by rfl
      exact hmod
    · rfl

@[simp] theorem standing_mergeEviction (s : State) (core line : Nat) : standing (mergeEviction s core line) = standing s := by
  unfold mergeEviction
  split
  · rfl
  split
  · extract_lets _ _ _ s1
    have hs1 : standing s1 = standing s := by
      unfold s1
      split
      · rfl
      · exact (standing_l2Spare ..).trans (standing_l2Drop ..)
    exact (standing_dropLine ..).trans hs1
  · rfl

@[simp] theorem standing_settleEvicting (s : State) (line : Nat) : standing (settleEvicting s line) = standing s :=
  standing_foldl (fun s c => standing_mergeEviction s c line) _ _

@[simp] theorem standing_collapseLine (s : State) (line : Nat) : standing (collapseLine s line) = standing s := by
  unfold collapseLine
  extract_lets s1
  have hs1 : standing s1 = standing s := standing_settleEvicting s line
  split
  · exact hs1
  extract_lets _ _ s2 s3
  have hs2 : standing s2 = standing s1 := by
    refine standing_foldl (fun s e => ?_) _ _
    split
    · exact standing_mergeHome ..
    · rfl
  have hs3 : standing s3 = standing s2 := standing_foldl (fun s c => standing_dropLine s c line) _ _
  exact hs3.trans (hs2.trans hs1)

@[simp] theorem standing_releaseSlice (s : State) (die line : Nat) : standing (releaseSlice s die line) = standing s := by
  unfold releaseSlice
  split
  · rfl
  split
  · split
    · exact standing_collapseLine ..
    · exact standing_mergeHome ..
  · rfl

@[simp] theorem standing_l2Room (s : State) (die line : Nat) : standing (l2Room s die line) = standing s := by
  unfold l2Room
  extract_lets
  split
  · exact standing_l2Spare ..
  split
  · split
    · exact standing_releaseSlice ..
    · rfl
  · rfl

@[simp] theorem standing_ackEviction (s : State) (core line : Nat) : standing (ackEviction s core line) = standing s := by
  unfold ackEviction
  extract_lets
  refine (standing_mergeEviction ..).trans ?_
  split
  · exact standing_l2Room ..
  · rfl

@[simp] theorem standing_l2Take (s : State) (die line : Nat) (write first : Bool) : standing (l2Take s die line write first) = standing s := by
  unfold l2Take
  extract_lets _ s1 put s2
  have hs1 : standing s1 = standing s := by
    refine standing_foldl (fun s d => ?_) _ _
    split
    · exact standing_l2Drop ..
    · rfl
  have hs2 : standing s2 = standing s1 := (standing_l2Room ..).trans (standing_countMiss ..)
  split
  · exact hs1
  split
  · exact hs2.trans hs1
  · exact hs2.trans hs1

@[simp] theorem standing_l2Home (s : State) (l : Loc) (write : Bool) : standing (l2Home s l write) = standing s := by
  unfold l2Home
  split
  · rfl
  split
  · split
    · exact standing_l2DropAll ..
    · rfl
  · exact standing_l2Take ..

@[simp] theorem standing_makeRoom (s : State) (core line : Nat) : standing (makeRoom s core line) = standing s := by
  unfold makeRoom
  extract_lets
  split
  · rfl
  split
  · exact standing_giveUp ..
  split
  · simp
  · rfl

@[simp] theorem standing_shareOwners (s : State) (self line : Nat) : standing (shareOwners s self line) = standing s :=
  standing_foldl (fun s c => standing_demote s c line .s) _ _

@[simp] theorem standing_fillSector (s : State) (core line sec va : Nat) (st : LineState) :
    standing (fillSector s core line sec va st) = standing s := by
  unfold fillSector
  extract_lets
  split
  · rfl
  · exact standing_setLine ..

@[simp] theorem standing_loadSector (s : State) (core : Nat) (l : Loc) : standing (loadSector s core l) = standing s := by
  unfold loadSector
  extract_lets _ _ s1 s2 s3 others
  split
  · split
    · split
      · exact standing_setLine ..
      · simp
    · rfl
  · have hs3 : standing s3 = standing s := by simp [s3, s2, s1]
    refine (standing_fillSector ..).trans ?_
    split
    · exact hs3
    · exact (standing_l2Mark ..).trans hs3

/-! ## Reads (R338, R350, R361, R428, R483) -/

@[simp] theorem standing_homeRead (s : State) (l : Loc) (n : Nat) : standing (homeRead s l n).1 = standing s := by
  unfold homeRead
  split
  · simp [standing_foldl]
  · simp [standing_foldl]
  · rfl

@[simp] theorem standing_coreLoad (s : State) (core : Nat) (l : Loc) (n : Nat) : standing (coreLoad s core l n).1 = standing s := by
  unfold coreLoad
  split
  · extract_lets s1 s2
    have hs1 : standing s1 = standing s := by
      unfold s1
      split
      · split
        · rfl
        · exact standing_collapseLine ..
      · exact standing_collapseLine ..
    have hs2 : standing s2 = standing s := (standing_loadSector ..).trans hs1
    split
    · exact hs2
    · exact hs2
  · exact (standing_homeRead ..).trans (standing_applyOwn ..)

@[simp] theorem standing_emit (s : State) (p : Packet) : standing (emit s p) = standing s := by
  unfold emit
  extract_lets
  split
  · rfl
  · rfl

@[simp] theorem standing_pump (s : State) (k : Nat) : standing (pump s k) = standing s := by
  unfold pump
  extract_lets
  split
  · rfl
  · exact standing_foldl standing_emit _ _

@[simp] theorem standing_coreRequest (s : State) (core key kind : Nat) (l : Loc) (bs : List Byte) :
    standing (coreRequest s core key kind l bs) = standing s := by
  unfold coreRequest requestTo
  split
  · split
    · rfl
    · exact standing_pump ..
  · rfl

/-- A troupe's own read through its core (R350, R364). -/
@[simp] theorem standing_readOwn (s : State) (core : Nat) (t : Troupe) (seq : Nat) (l : Loc) (n : Nat) :
    standing (readOwn s core t seq l n).1 = standing s :=
  (standing_coreLoad ..).trans (standing_coreRequest ..)

/-- Poison that a read finds only asks for a kill (R454). -/
@[simp] theorem standing_noticePoison (s : State) (t : Troupe) (l : Loc) (n : Nat) : standing (noticePoison s t l n) = standing s := by
  unfold noticePoison
  split
  · unfold poisonKill
    split
    · rfl
    · extract_lets
      split
      · rfl
      · rfl
  · rfl

/-! ## What stands, read off -/

section
variable {s t : State} (h : standing t = standing s)
include h

theorem groups_of_standing : t.groups = s.groups := congrArg Standing.groups h

theorem grids_of_standing : t.grids = s.grids := congrArg Standing.grids h

theorem arrivals_of_standing : t.arrivals = s.arrivals := congrArg Standing.arrivals h

theorem focus_of_standing : t.focus = s.focus := congrArg Standing.focus h

theorem beyondL1_of_standing (c : Nat) : beyondL1 (coreOf t c) = beyondL1 (coreOf s c) := congrFun (congrArg Standing.core h) c

theorem trace_of_standing (c : Nat) : (coreOf t c).trace = (coreOf s c).trace := congrArg (fun k => k.trace) (beyondL1_of_standing h c)

theorem nextSym_of_standing (c : Nat) : (coreOf t c).nextSym = (coreOf s c).nextSym := congrArg (fun k => k.nextSym) (beyondL1_of_standing h c)

end

end Sys2Proof.Machine
end

section
/-!
PROOFS. Loads and fills take their symbols (R138, R139, R148 to R151, R347, R350): what is pending then, what the symbol asks for, and what
is left to the commit.
-/

namespace Sys2Proof.Machine

/-! ## The clause's record, its core and its context -/

/-- A record written where the machine stands is the one in execution. -/
theorem ctxOf_putClause_of_focus {s : State} {x : Ctx} (h : s.focus = some (x.core, x.pos)) (cl : Clause) :
    ctxOf (putClause s x cl) = some ⟨x.core, x.pos, { x.t with clause := some cl }, cl⟩ := by
  simp [ctxOf, h]

theorem symbolAt_putClause (s : State) (x : Ctx) (cl : Clause) (id : Nat) :
    symbolAt (putClause s x cl) x.core id = symbolAt s x.core id := by
  simp [symbolAt, putClause, setTroupe]

theorem nextSym_putClause (s : State) (x : Ctx) (cl : Clause) :
    (coreOf (putClause s x cl) x.core).nextSym = (coreOf s x.core).nextSym := by
  simp [putClause, setTroupe]

/-- Symbols, the order of accesses and the clause's record are no part of what a commit changes (R31). -/
theorem nothingCommitted_of_cores {s s' : State} {x x' : Ctx} {cs : Tab CoreSt} (hs : s' = { s with cores := cs }) (hcore : x'.core = x.core)
    (hpos : x'.pos = x.pos) {n : Nat} {as : List Nat} (ht : x'.t = { x.t with seq := n, acquires := as }) (cl : Clause) :
    NothingCommitted s (putClause s' x' cl) x := by
  subst hs
  refine ⟨sameBytes_of_memories rfl rfl rfl rfl, rfl, rfl, { x'.t with clause := some cl }, ?_, ?_⟩
  · rw [← hcore, ← hpos]
    exact troupeAt_putClause ..
  · rw [ht]
    exact ⟨rfl, rfl, rfl, rfl, rfl⟩

/-- Of its context a recording looks at the lanes that take part alone. -/
theorem writeD_congr {x x' : Ctx} (h : x'.live = x.live) (cl : Clause) (d : Operand) (r : Reg) : writeD x' cl d r = writeD x cl d r := by
  simp only [writeD, h]

theorem writeHalf_congr {x x' : Ctx} (h : x'.live = x.live) (cl : Clause) (d : Operand) (ty half : Nat) (r : Reg) (bs : List Byte) :
    writeHalf x' cl d ty half r bs = writeHalf x cl d ty half r bs := by
  simp only [writeHalf, writeLanes, writeD_congr h]

/-- The half that goes to no k register is recorded as it is (R138). -/
theorem writeHalf_pending {x : Ctx} {cl : Clause} {d : Operand} (h : d.isK = false) (ty half : Nat) (r : Reg) (bs : List Byte) :
    writeHalf x cl d ty half r bs = writeD x cl d r := by
  simp [writeHalf, h]

/-! ## Forms and symbols as a load leaves them -/

/-- A fresh form over some lanes is pending, with scale 1 and offset 0 there (R139). -/
theorem pendingOn_freshForm {x : Ctx} (h : x.live ≠ 0) (id : Nat) : PendingOn x id (freshForm x.live id) := by
  obtain ⟨b, hb⟩ := Option.ne_none_iff_exists'.1 (mt lowLane_eq_none.1 h)
  have hlane : x.live.getLsbD b = true := lowLane_mem hb
  have hscale : ¬ (maskLanes x.live).all (fun l => laneOf (mkLanes fun _ => 1) l == 0) = true := by
    intro hall
    have hzero := List.all_eq_true.1 hall b ((mem_maskLanes ..).2 hlane)
    rw [laneOf_mkLanes _ (BitVec.lt_of_getLsbD hlane)] at hzero
    exact absurd hzero (by decide)
  rw [freshForm, mkForm, if_neg hscale]
  refine ⟨rfl, rfl, rfl, fun l hl => ⟨?_, ?_⟩⟩
  · rw [laneOf_mkLanes _ hl, laneOf_mkLanes _ hl]
  · exact laneOf_mkLanes (fun _ => 0) hl

section
variable (s : State) (x : Ctx) (y : Symbol)

theorem symbolAt_takeSymbol : symbolAt (takeSymbol s x y).1 x.core (nextSymbol s x) = some y := by
  simp [takeSymbol, symbolAt]

theorem symbolAt_takeSymbol_ne {id : Nat} (h : id ≠ nextSymbol s x) : symbolAt (takeSymbol s x y).1 x.core id = symbolAt s x.core id := by
  simp [takeSymbol, symbolAt, tabGet?_tabPut_ne _ _ h.symm]

theorem nextSymbol_takeSymbol : (coreOf (takeSymbol s x y).1 x.core).nextSym = nextSymbol s x + 1 := by
  simp [takeSymbol]

/-- An acquire is noted under the order its symbol takes (R361). -/
theorem mem_acquires_takeSymbol : x.t.seq ∈ (takeSymbol s x y).2.t.acquires ↔ x.t.seq ∈ x.t.acquires ∨ y.acq.isSome = true := by
  change x.t.seq ∈ (if y.acq.isSome then x.t.acquires ++ [x.t.seq] else x.t.acquires) ↔ _
  split
  next h => simp [h]
  next h => simp [h]

end

theorem acquireScope_isSome (f : FM) : (acquireScope f).isSome = f.ord.getLsbD 0 := by
  unfold acquireScope
  split
  next h => rw [h]; rfl
  next h => exact (Bool.eq_false_iff.2 h).symm

/-- A load of one symbol records its destination and steps on: what it leaves, whatever the symbol is (R138, R139, R151). -/
def OneSymbolTaken (s t : State) (u x : Ctx) (y : Symbol) (d : Operand) : Prop :=
  ctxOf t = some u ∧ symbolAt t x.core (nextSymbol s x) = some y ∧ nextSymbol t u = nextSymbol s x + 1 ∧
    PendingOn x (nextSymbol s x) (freshForm x.live (nextSymbol s x)) ∧
    u.cl = stepped (writeD x { x.cl with symbols := x.cl.symbols ++ [nextSymbol s x] } d (freshForm x.live (nextSymbol s x))) 2 ∧
    u.t.seq = x.t.seq + 1 ∧ (x.t.seq ∈ u.t.acquires ↔ x.t.seq ∈ x.t.acquires ∨ y.acq.isSome = true) ∧ NothingCommitted s t x

/-- The destination recorded on a symbol just taken. -/
def recordOn (s : State) (x : Ctx) (y : Symbol) (d : Operand) : Out :=
  done (takeSymbol s x y).1 (takeSymbol s x y).2 2
    (writeD (takeSymbol s x y).2 (takeSymbol s x y).2.cl d (freshForm x.live (nextSymbol s x)))

theorem recordOn_takes {s : State} {x : Ctx} (hx : ctxOf s = some x) (hlive : x.live ≠ 0) (y : Symbol) (d : Operand) :
    ∃ t u, recordOn s x y d = .next t ∧ OneSymbolTaken s t u x y d := by
  have hfocus : (takeSymbol s x y).1.focus = some (x.core, x.pos) := (ctxOf_some hx).1
  have hlanes : (takeSymbol s x y).2.live = x.live := rfl
  refine ⟨_, _, rfl, ctxOf_putClause_of_focus (x := (takeSymbol s x y).2) hfocus _, ?_, ?_, pendingOn_freshForm hlive _, ?_, rfl,
    mem_acquires_takeSymbol s x y, nothingCommitted_of_cores rfl rfl rfl rfl _⟩
  · exact (symbolAt_putClause _ (takeSymbol s x y).2 _ _).trans (symbolAt_takeSymbol s x y)
  · exact (nextSym_putClause _ (takeSymbol s x y).2 _).trans (nextSymbol_takeSymbol s x y)
  · change stepped _ 2 = _
    rw [writeD_congr hlanes]
    rfl

/-- The symbol of a pair's lower half, which carries the access, and of the upper, which names it (R138). -/
def lowerSymbol (s : State) (x : Ctx) (f : FM) (addr : Nat → Word) : Symbol :=
  { blankSymbol x (.lower f.ty.toNat (nextSymbol s x + 1)) x.live with locs := found x, acq := acquireScope f, ptrs := lanePtrs s x addr }
def upperSymbol (s : State) (x : Ctx) (f : FM) : Symbol :=
  { blankSymbol x (.upper f.ty.toNat (nextSymbol s x)) x.live with locs := found x }

/-- Both taken, one after the other. -/
def pairSymbols (s : State) (x : Ctx) (f : FM) (addr : Nat → Word) : State × Ctx :=
  takeSymbol (takeSymbol s x (lowerSymbol s x f addr)).1 (takeSymbol s x (lowerSymbol s x f addr)).2 (upperSymbol s x f)

/-- The halves of a pair recorded in a clause's record, the pending ones on two symbols in a row. -/
def recordHalves (x : Ctx) (cl : Clause) (f : FM) (id : Nat) (bs : List Byte) : Clause :=
  writeHalf x (writeHalf x cl f.d f.ty.toNat 0 (freshForm x.live id) bs) f.e f.ty.toNat 1 (freshForm x.live (id + 1)) bs

/-- A pair's load as its symbols are taken. -/
def recordPair (s : State) (x : Ctx) (f : FM) (addr : Nat → Word) (bs : List Byte) : Out :=
  let q := pairSymbols s x f addr
  done q.1 q.2 2 (recordHalves q.2 q.2.cl f (nextSymbol s x) bs)

section
variable (s : State) (x : Ctx) (f : FM) (addr : Nat → Word)

theorem nextSymbol_takeLower : nextSymbol (takeSymbol s x (lowerSymbol s x f addr)).1 (takeSymbol s x (lowerSymbol s x f addr)).2 =
    nextSymbol s x + 1 := nextSymbol_takeSymbol ..

theorem symbolAt_pairSymbols_lower : symbolAt (pairSymbols s x f addr).1 x.core (nextSymbol s x) = some (lowerSymbol s x f addr) := by
  refine (symbolAt_takeSymbol_ne _ (takeSymbol s x (lowerSymbol s x f addr)).2 _ ?_).trans (symbolAt_takeSymbol ..)
  rw [nextSymbol_takeLower]
  omega

theorem symbolAt_pairSymbols_upper : symbolAt (pairSymbols s x f addr).1 x.core (nextSymbol s x + 1) = some (upperSymbol s x f) := by
  rw [← nextSymbol_takeLower s x f addr]
  exact symbolAt_takeSymbol ..

theorem nextSym_pairSymbols : (coreOf (pairSymbols s x f addr).1 x.core).nextSym = nextSymbol s x + 2 :=
  (nextSymbol_takeSymbol _ (takeSymbol s x (lowerSymbol s x f addr)).2 _).trans (congrArg (· + 1) (nextSymbol_takeLower ..))

theorem cl_pairSymbols : (pairSymbols s x f addr).2.cl = { x.cl with symbols := x.cl.symbols ++ [nextSymbol s x, nextSymbol s x + 1] } := by
  have hids : (x.cl.symbols ++ [nextSymbol s x]) ++ [nextSymbol s x + 1] = x.cl.symbols ++ [nextSymbol s x, nextSymbol s x + 1] :=
    List.append_assoc ..
  rw [← hids, ← nextSymbol_takeLower s x f addr]
  rfl

end

theorem recordPair_eq (s : State) (x : Ctx) (f : FM) (addr : Nat → Word) (bs : List Byte) :
    recordPair s x f addr bs = .next (putClause (pairSymbols s x f addr).1 (pairSymbols s x f addr).2
      (stepped (recordHalves x { x.cl with symbols := x.cl.symbols ++ [nextSymbol s x, nextSymbol s x + 1] } f (nextSymbol s x) bs) 2)) := by
  have hlive : (pairSymbols s x f addr).2.live = x.live := rfl
  rw [← cl_pairSymbols s x f addr]
  simp only [recordPair, recordHalves, done, writeHalf_congr hlive, hlive]

/-- What a pair's load leaves as its symbols are taken, in whatever state its machine stands at it. -/
theorem recordPair_records {s : State} {x : Ctx} (hfocus : s.focus = some (x.core, x.pos)) (f : FM) (addr : Nat → Word) (bs : List Byte) :
    ∃ t u, recordPair s x f addr bs = .next t ∧ ctxOf t = some u ∧ symbolAt t x.core (nextSymbol s x) = some (lowerSymbol s x f addr) ∧
      symbolAt t x.core (nextSymbol s x + 1) = some (upperSymbol s x f) ∧ nextSymbol t u = nextSymbol s x + 2 ∧
      u.cl = stepped (recordHalves x { x.cl with symbols := x.cl.symbols ++ [nextSymbol s x, nextSymbol s x + 1] } f (nextSymbol s x) bs) 2 ∧
      NothingCommitted s t x := by
  have hfocus' : (pairSymbols s x f addr).1.focus = some (x.core, x.pos) := hfocus
  refine ⟨_, _, recordPair_eq .., ctxOf_putClause_of_focus (x := (pairSymbols s x f addr).2) hfocus' _, ?_, ?_, ?_, rfl,
    nothingCommitted_of_cores rfl rfl rfl rfl _⟩
  · exact (symbolAt_putClause _ (pairSymbols s x f addr).2 _ _).trans (symbolAt_pairSymbols_lower ..)
  · exact (symbolAt_putClause _ (pairSymbols s x f addr).2 _ _).trans (symbolAt_pairSymbols_upper ..)
  · exact (nextSym_putClause _ (pairSymbols s x f addr).2 _).trans (nextSym_pairSymbols ..)

/-! ## What the instructions do while their clause performs -/

theorem checking_eq_false {x : Ctx} (h : performing x = true) : checking x = false := by
  rw [performing, beq_iff_eq] at h
  rw [checking, h]
  rfl

/-- The symbol of a load at the places found by the check (R350), of one that depends on its address (R149), of a fill (R135). -/
def loadSymbol (s : State) (x : Ctx) (f : FM) : Symbol :=
  { blankSymbol x (.element f.ty.toNat) x.live with
    locs := found x, acq := acquireScope f, ptrs := lanePtrs s x (memAddr s x f (typeWidth f.ty.toNat / 8)) }
def deferredLoadSymbol (s : State) (x : Ctx) (f : FM) (r : Reg) : Symbol :=
  deferredSymbol s x f r (typeWidth f.ty.toNat / 8) { blankSymbol x (.element f.ty.toNat) x.live with locs := found x }
def fillSymbol (s : State) (x : Ctx) (f : FM) (b : Nat) : Symbol :=
  { blankSymbol x .image x.live with locs := found x, ptrs := [(0, memAddr s x f 8 b)] }

/-- An address register that is not pending makes no load a deferred one (R148). -/
theorem deferredForm_eq_none {x : Ctx} {f : FM} (h : notPending x [f.a] = true) : deferredForm x f = none := by
  unfold deferredForm
  split
  · rfl
  split
  next r _ hr =>
    have hentry : r.entry ≠ .pending := by
      simpa [notPending, hr] using h
    simp [intForm, pendMask, hentry]
  · rfl

section
variable {s : State} {x : Ctx} {f : FM} (hx : ctxOf s = some x) (hperf : performing x = true)
include hx hperf

/-- A load with a settled address takes its symbol at the places found by the check (R350). -/
theorem exec_ld_settled (hlive : x.live ≠ 0) (hform : notPending x [f.a] = true) (ha : settledOps x [f.a] = true) :
    exec (.ld f) s = recordOn s x (loadSymbol s x f) f.d := by
  change execLd f s = _
  unfold execLd
  rw [inClause_some hx]
  simp only [if_neg hlive, deferredForm_eq_none hform, use_settled _ _ _ _ ha, checking_eq_false hperf, Bool.false_eq_true, if_false]
  rfl

/-- A relaxed load over a pending address does not wait for it (R148). -/
theorem exec_ld_deferred (hlive : x.live ≠ 0) {r : Reg} (hform : deferredForm x f = some r) :
    exec (.ld f) s = recordOn s x (deferredLoadSymbol s x f r) f.d := by
  change execLd f s = _
  unfold execLd
  rw [inClause_some hx]
  simp only [if_neg hlive, hform, checking_eq_false hperf, Bool.false_eq_true, if_false]
  rfl

theorem exec_fill_settled {b : Nat} (hb : lowLane x.live = some b) (ha : settledOps x [f.a] = true) :
    exec (.fill f) s = recordOn s x (fillSymbol s x f b) f.d := by
  change execFill f s = _
  unfold execFill
  rw [inClause_some hx]
  simp only [hb, use_settled _ _ _ _ ha, checking_eq_false hperf, Bool.false_eq_true, if_false]
  rfl

/-- A pair's load with a settled address, its k halves read first (R138, R350). -/
theorem exec_ld2_settled (hlive : x.live ≠ 0) (ha : settledOps x [f.a] = true) :
    exec (.ld2 f) s = pairInline s x f (2 * (typeWidth f.ty.toNat / 8)) fun s' bs =>
      if f.d.isK && f.e.isK then
        done s' x 2 (writeHalf x (writeHalf x x.cl f.d f.ty.toNat 0 emptyReg bs) f.e f.ty.toNat 1 emptyReg bs)
      else recordPair s' x f (memAddr s x f (2 * (typeWidth f.ty.toNat / 8))) bs := by
  have hcheck : ¬ checking x = true := by simp [checking_eq_false hperf]
  change execLd2 f s = _
  unfold execLd2
  rw [inClause_some hx]
  extract_lets ty size
  rw [if_neg hlive, use_settled _ _ _ _ ha, if_neg hcheck]
  rfl

end

/-- The lanes that wait in an integer form are those that have a scale (R139). -/
theorem getLsbD_pendMask_form {r : Reg} (hpend : pendMask r ≠ 0) (hchain : r.chain = []) {l : Nat} (hl : l < 32) :
    (pendMask r).getLsbD l = (laneOf r.scale l != 0) := by
  have hentry : r.entry = .pending := by
    by_contra h
    exact hpend (if_neg h)
  rw [pendMask, if_pos hentry, hchain, if_pos List.isEmpty_nil, getLsbD_maskOf, decide_eq_true hl, Bool.true_and]

/-! ## A pair with k halves (R138, R350) -/

/-- What the k halves of a pair are read from, and the state after it. -/
def pairRead (s : State) (x : Ctx) (l : Loc) (n : Nat) : State × List Byte :=
  (noticePoison (readOwn s x.core x.t x.t.seq l n).1 x.t l n, (readOwn s x.core x.t x.t.seq l n).2)

theorem standing_pairRead (s : State) (x : Ctx) (l : Loc) (n : Nat) : standing (pairRead s x l n).1 = standing s :=
  (standing_noticePoison ..).trans (standing_readOwn ..)

/-- With no k half nothing is read as the load performs. -/
theorem pairInline_of_not_isK {s : State} {x : Ctx} {f : FM} {size : Nat} {k : State → List Byte → Out} (hd : f.d.isK = false)
    (he : f.e.isK = false) : pairInline s x f size k = k s [] := by
  simp [pairInline, hd, he]

/-- With a k half the pair is read at the lowest lane's place, once it may be. -/
theorem pairInline_ready {s : State} {x : Ctx} {f : FM} {size b : Nat} {l : Loc} {k : State → List Byte → Out}
    (hk : (f.d.isK || f.e.isK) = true) (hb : lowLane x.live = some b) (hl : tabGet? (found x) b = some l)
    (hrevoked : inlineRevoked s x [(b, l)] = []) (hready : inlineReady s x [(l, size)] = true) :
    pairInline s x f size k =
      k (if f.d.isK && f.e.isK then
          acquireObjects (pairRead s x l size).1 x.core (acquireScope f) [objectPtr (pairRead s x l size).1 x (memAddr (pairRead s x l size).1 x f size b)]
        else (pairRead s x l size).1) (pairRead s x l size).2 := by
  simp only [pairInline, hk, hb, hl, Option.bind_some, Option.map_some, Bool.not_true, Bool.false_eq_true, if_false]
  rw [hrevoked]
  change (if (!inlineReady s x [(l, size)]) = true then _ else _) = _
  rw [hready, if_neg (by decide)]
  rfl

/-- The halves of a pair both of which go to k registers (R350). -/
theorem writeHalf_writeHalf_isK (x : Ctx) (cl : Clause) {f : FM} (hd : f.d.isK = true) (he : f.e.isK = true) (ra rb : Reg) (bs : List Byte) :
    writeHalf x (writeHalf x cl f.d f.ty.toNat 0 ra bs) f.e f.ty.toNat 1 rb bs =
      writeLanes x (writeLanes x cl f.d fun _ => extElem f.ty.toNat (leNat (bs.take (typeWidth f.ty.toNat / 8)))) f.e
        fun _ => extElem f.ty.toNat (leNat ((bs.drop (typeWidth f.ty.toNat / 8)).take (typeWidth f.ty.toNat / 8))) := by
  simp [writeHalf, hd, he]

/-! ## The obligations -/

/-- Settles O16: a load or a fill takes one symbol, a pair's load two, and a pair with k halves is read first. -/
theorem loadsBecomePending : Obligations.LoadsBecomePending := by
  intro f s x hx hperf hlive hform ha id n
  have hfocus : s.focus = some (x.core, x.pos) := (ctxOf_some hx).1
  have hpair := exec_ld2_settled hx hperf hlive ha
  refine ⟨?ld, ?ld2, fun b l hb hl hrevoked hready => ⟨?bothK, ?oneK⟩, ?fill⟩
  case ld =>
    rw [exec_ld_settled hx hperf hlive hform ha]
    obtain ⟨t, u, ht, hu, hsym, hnext, hpend, hcl, hseq, hacq, hnone⟩ := recordOn_takes hx hlive (loadSymbol s x f) f.d
    rw [loadSymbol, acquireScope_isSome] at hacq
    exact ⟨t, u, _, _, ht, hu, hsym, ⟨rfl, rfl, rfl, rfl, rfl, rfl, rfl⟩, rfl, rfl, hnext, hpend, hcl, hseq, hacq, hnone⟩
  case ld2 =>
    intro hd he
    rw [hpair, pairInline_of_not_isK hd he, hd, Bool.false_and, if_neg Bool.false_ne_true]
    obtain ⟨t, u, ht, hu, hlower, hupper, hnext, hcl, hnone⟩ :=
      recordPair_records hfocus f (memAddr s x f (2 * (typeWidth f.ty.toNat / 8))) []
    rw [recordHalves, writeHalf_pending hd, writeHalf_pending he] at hcl
    exact ⟨t, u, _, _, _, _, ht, hu, hlower, hupper, ⟨rfl, rfl, rfl, rfl, rfl, rfl, rfl⟩, rfl, rfl, rfl, hnext,
      pendingOn_freshForm hlive _, pendingOn_freshForm hlive _, hcl, hnone⟩
  case bothK =>
    intro hd he
    rw [hpair, pairInline_ready (by rw [hd, Bool.true_or]) hb hl hrevoked hready, hd, he, Bool.and_true, if_pos rfl, writeHalf_writeHalf_isK x x.cl hd he]
    exact ⟨_, _, rfl, rfl⟩
  case oneK =>
    intro hne
    have hk : (f.d.isK || f.e.isK) = true ∧ (f.d.isK && f.e.isK) = false := by
      revert hne
      cases f.d.isK <;> cases f.e.isK <;> decide
    have hstand : standing (pairRead s x l (2 * n)).1 = standing s := standing_pairRead ..
    have hid : nextSymbol (pairRead s x l (2 * n)).1 x = id := nextSym_of_standing hstand x.core
    rw [hpair, pairInline_ready hk.1 hb hl hrevoked hready, hk.2, if_neg Bool.false_ne_true, if_neg Bool.false_ne_true]
    obtain ⟨t, u, ht, hu, -, -, -, hcl, -⟩ := recordPair_records ((focus_of_standing hstand).trans hfocus) f
      (memAddr s x f (2 * (typeWidth f.ty.toNat / 8))) (pairRead s x l (2 * n)).2
    rw [hid] at hcl
    exact ⟨t, u, _, _, ht, hu, pendingOn_freshForm hlive _, pendingOn_freshForm hlive _, hcl⟩
  case fill =>
    obtain ⟨b, hb⟩ := Option.ne_none_iff_exists'.1 (mt lowLane_eq_none.1 hlive)
    rw [exec_fill_settled hx hperf hb ha]
    obtain ⟨t, u, ht, hu, hsym, -, hpend, hcl, -, -, hnone⟩ := recordOn_takes hx hlive (fillSymbol s x f b) f.d
    exact ⟨t, u, _, _, ht, hu, hsym, ⟨rfl, rfl, rfl, rfl, rfl, rfl, rfl⟩, rfl, hpend, hcl, hnone⟩

/-- Settles O17: over a pending address the load's symbol takes the address's form. -/
theorem deferredLoadsDependOnTheirAddress : Obligations.DeferredLoadsDependOnTheirAddress := by
  intro f n r s x hx hperf hlive hstrict hord hd hr hpend hchain hfree
  have hform : deferredForm x f = some r := by
    have hint : intForm r = true := by
      rw [intForm, bne_iff_ne.2 hpend, hchain]
      rfl
    simp [deferredForm, hord, hstrict, hd, hr, hint, hfree]
  rw [exec_ld_deferred hx hperf hlive hform]
  obtain ⟨t, u, ht, hu, hsym, -, hq, hcl, -, -, hnone⟩ := recordOn_takes hx hlive (deferredLoadSymbol s x f r) f.d
  refine ⟨t, u, _, _, ht, hu, hsym, rfl, rfl, rfl, fun l hl => ⟨?scale, ?offset⟩, hq, ?record, hnone⟩
  case scale =>
    refine (laneOf_mkLanes (fun l => if (pendMask r &&& x.live).getLsbD l then laneOf r.scale l else 0) hl).trans ?_
    rw [BitVec.getLsbD_and, getLsbD_pendMask_form hpend hchain hl]
    by_cases hzero : laneOf r.scale l = 0
    · rw [hzero, ite_self, ite_self]
    · rw [bne_iff_ne.2 hzero, Bool.true_and]
  case offset => exact laneOf_mkLanes (fun l => laneOf r.vals l + memOffset f (typeWidth f.ty.toNat / 8)) hl
  case record =>
    rw [hcl, hd]
    exact xw_writeD x _ _ _

end Sys2Proof.Machine
end

section
/-!
PROOFS. Answers arrive in lanes (R153, R350, R356, R432) and arrivals at their words (R240, R241, R432); flits of a job perform (R258, R483) and
a follow-on joins its tile queue (R312).
-/

namespace Sys2Proof.Machine

/-! ## Answers -/

/-- An answer for a lane that still waits arrives there (R153). -/
theorem exec_symbolArrival {s : State} {core sym lane : Nat} {y : Symbol} {u : Troupe} (hy : symbolAt s core sym = some y)
    (hu : troupeAt s core y.pos = some u) (hopen : (openLanes y).getLsbD lane = true) :
    exec (.symbolArrival core sym lane) s = .next (arriveLane s core sym lane y u) := by
  change execSymbolArrival core sym lane s = _
  simp only [execSymbolArrival, hy, hu, hopen, if_true]

/-- A reply that has been made is delivered. -/
theorem arriveLane_reply {y : Symbol} {ty lane : Nat} {v : Word} (hkind : y.kind = .atomic ty ∨ y.kind = .element ty)
    (hv : tabGet? y.replies lane = some v) (s : State) (core sym : Nat) (u : Troupe) :
    arriveLane s core sym lane y u = finishSymbol (deliver s core sym [(lane, v)]) core sym := by
  rcases hkind with hkind | hkind
  · simp only [arriveLane, hkind, hv]
  · simp only [arriveLane, hkind, hv]

/-- A load of one element whose turn has come performs (R350, R364). -/
theorem arriveLane_element {s : State} {core sym lane ty : Nat} {y : Symbol} {u : Troupe} {loc : Loc} (hkind : y.kind = .element ty)
    (hreply : tabGet? y.replies lane = none) (hloc : tabGet? y.locs lane = some loc) (harea : loc.area ≠ .host)
    (hready : readReady s core u y loc (typeWidth ty / 8) = true) (hslot : hasSlot s core sym y loc.line = true) :
    arriveLane s core sym lane y u = performLoad s core sym y u loc := by
  have harea' : (loc.area == .host) = false := beq_eq_false_iff_ne.2 harea
  simp only [arriveLane, hkind, hreply, hloc, kindSize, harea', hready, hslot, Bool.not_true, Bool.or_self, Bool.false_eq_true, if_false]

/-- Its bytes go to every lane that shares them (R349, R350). -/
theorem performLoad_element {s s1 : State} {core sym ty : Nat} {y : Symbol} {u : Troupe} {loc : Loc} {bs : List Byte}
    (hkind : y.kind = .element ty) (hanswer : answerRevoked s y.pos u loc = false)
    (hread : readOwn s core u y.seq loc (typeWidth ty / 8) = (s1, bs)) :
    performLoad s core sym y u loc = finishSymbol (deliver (noticePoison s1 u loc (typeWidth ty / 8)) core sym
      ((sharedLanes y loc).map fun l => (l, extElem ty (leNat ((List.range (typeWidth ty / 8)).map fun i =>
        (tabGet? y.shadow (loc.key + i)).getD (bs.getD i 0)))))) core sym := by
  simp only [performLoad, hanswer, hkind, kindSize, hread, deliverBytes, Bool.false_eq_true, if_false]

/-- Under a revoked key each of these lanes faults with 0x38 instead (R432). -/
theorem performLoad_revoked {s : State} {core sym ty : Nat} {y : Symbol} {u : Troupe} {loc : Loc} (hkind : y.kind = .element ty)
    (hanswer : answerRevoked s y.pos u loc = true) :
    performLoad s core sym y u loc = (sharedLanes y loc).foldl (fun s l =>
      finishSymbol (raiseFault s core sym l 0x38 (word loc.va)) core sym) s := by
  simp only [performLoad, hanswer, if_true, faultBoth, hkind]

/-! ## Arrivals at sync words -/

section
variable {s : State} {n : Nat} {a : Arrival} (ha : s.arrivals[n]? = some a)
include ha

theorem exec_syncArrival (hkey : arrivalRevoked s a = false) (hwait : arrivalWaits s a = false) :
    exec (.syncArrival n) s =
      .next (arrive (requestTo { s with arrivals := s.arrivals.eraseIdx n } a.key 8 a.word []) a.word a.gen a.bytes) := by
  change execSyncArrival n s = _
  simp only [execSyncArrival, ha, hkey, hwait, Bool.false_eq_true, if_false]

/-- An arrival under a revoked key is discarded with an event (R432). -/
theorem exec_syncArrival_revoked (hkey : arrivalRevoked s a = true) :
    exec (.syncArrival n) s =
      .next (send { s with arrivals := s.arrivals.eraseIdx n } (.event evRevoked 0 (a.word.va % 2 ^ 52) 0)) := by
  change execSyncArrival n s = _
  simp only [execSyncArrival, ha, hkey, if_true]

end

/-! ## Flits and follow-ons of jobs -/

section
variable {s s1 : State} {die n : Nat} {j : Job} (hj : jobAt s die n = some j) (hrun : j.st = .running)
include hj hrun

/-- The flit that an engine has reached performs where nothing is in its way (R310, R344). -/
theorem engineAccess_performs {i : Nat} {f : JobFlit} {p : FlitPlan} (hbuilt : j.built = true) (hreach : reachedFlit s die j i = true)
    (hf : j.todo[i]? = some f) (hscatter : scatterWaits j i = false) (hjoin : hasJoined s j = true)
    (hplan : planFlit (setJob s die { j with joined := true }) die { j with joined := true } f = (s1, .inr p))
    (hwait : planWaits s1 p = false) : engineAccess s die n i = performFlit s1 die { j with joined := true } i f p := by
  have hrun' : (j.st != .running) = false := by rw [hrun]; rfl
  have hbuilt' : (!j.built) = false := by rw [hbuilt]; rfl
  simp only [engineAccess, hj, hrun', hbuilt', hf, hscatter, hjoin, hreach, hplan, hwait, Bool.not_true, Bool.or_self, Bool.false_eq_true,
    if_false]

/-- A follow-on that no check stops joins the queue it names, where that has a place for it (R263, R312). -/
theorem exec_followOnEnqueue {g : Group} {w : Option Loc} (hfollow : j.followed = 1) (hg : groupAt s (followKey j) = some g)
    (hcauses : followCauses s (followKey j) g j = []) (hnotify : followNotify s j g (followKey j) = (s1, .inr w))
    (hentry : (followWord j 0).testBit 2 = false ∨ bits (followWord j 0) 4 3 = 2)
    (hroom : queueUsed (coreOf s1 g.core) ((followWord j 0).testBit 0) < 16) :
    exec (.followOnEnqueue die n) s = .next (enqueue (setJob s1 die { j with followed := 2, enqueued := s1.cycle }) g.core
      ((followWord j 0).testBit 0) (followEntry s1 (followKey j) g j w)) := by
  have hgoes : (j.followed != 1 || j.st != .running) = false := by rw [hfollow, hrun]; rfl
  have hnew : ((followWord j 0).testBit 2 && bits (followWord j 0) 4 3 != 2) = false := by
    rcases hentry with h | h
    · rw [h, Bool.false_and]
    · rw [h, bne_self_eq_false, Bool.and_false]
  change execFollowOnEnqueue die n s = _
  simp only [execFollowOnEnqueue, hj, hgoes, hg, hcauses, hnotify, List.append_nil, hnew, Bool.false_eq_true, if_false,
    if_neg (Nat.not_le.2 hroom)]

end

end Sys2Proof.Machine
end

section
/-!
PROOFS. What tile entries compute with: fields of a tag (R253), bytes (R1), bands and pairs of cells (R260, R261), encodings within their
format's width (R160), and flags of elements (R168).
-/

namespace Sys2Proof.Machine

/-! ## Fields of a number -/

theorem testBit_bits (n hi lo i : Nat) : (bits n hi lo).testBit i = (decide (i < hi + 1 - lo) && n.testBit (lo + i)) := by
  rw [bits, Nat.testBit_mod_two_pow, Nat.testBit_div_two_pow, Nat.add_comm i lo]

/-- A number with a field replaced, by what lies above the field, in it and below it. -/
theorem toNat_setBits (v : Word) {hi lo : Nat} (n : Nat) (hlo : lo ≤ hi) :
    (setBits v hi lo n).toNat =
      (2 ^ (hi + 1) * (v.toNat / 2 ^ (hi + 1)) + (2 ^ lo * (n % 2 ^ (hi + 1 - lo)) + v.toNat % 2 ^ lo)) % 2 ^ 64 := by
  have hsplit : v.toNat = 2 ^ (hi + 1) * (v.toNat / 2 ^ (hi + 1)) + (v.toNat % 2 ^ lo + 2 ^ lo * bits v.toNat hi lo) := by
    have hpow : 2 ^ (hi + 1) = 2 ^ lo * 2 ^ (hi + 1 - lo) := by rw [← Nat.pow_add, Nat.add_sub_cancel' (by omega)]
    conv_lhs => rw [← Nat.div_add_mod v.toNat (2 ^ (hi + 1)), hpow, Nat.mod_mul, ← hpow]
    rfl
  change (v.toNat - bits v.toNat hi lo * 2 ^ lo + n % 2 ^ (hi + 1 - lo) * 2 ^ lo) % 2 ^ 64 = _
  congr 1
  rw [Nat.mul_comm (bits ..), Nat.mul_comm (n % _)]
  omega

/-- A field is written and every other bit stays. -/
theorem testBit_setBits (v : Word) {hi lo : Nat} (n : Nat) (hlo : lo ≤ hi) (hhi : hi < 64) (i : Nat) :
    (setBits v hi lo n).toNat.testBit i = if lo ≤ i ∧ i ≤ hi then n.testBit (i - lo) else v.toNat.testBit i := by
  have hnew := toNat_setBits v n hlo
  have hlow : v.toNat % 2 ^ lo < 2 ^ lo := Nat.mod_lt _ (Nat.two_pow_pos lo)
  have hmid : 2 ^ lo * (n % 2 ^ (hi + 1 - lo)) + v.toNat % 2 ^ lo < 2 ^ (hi + 1) := by
    have hn : n % 2 ^ (hi + 1 - lo) < 2 ^ (hi + 1 - lo) := Nat.mod_lt _ (Nat.two_pow_pos _)
    calc 2 ^ lo * (n % 2 ^ (hi + 1 - lo)) + v.toNat % 2 ^ lo < 2 ^ lo * (n % 2 ^ (hi + 1 - lo) + 1) := by rw [Nat.mul_add]; omega
      _ ≤ 2 ^ lo * 2 ^ (hi + 1 - lo) := Nat.mul_le_mul_left _ hn
      _ = 2 ^ (hi + 1) := by rw [← Nat.pow_add, Nat.add_sub_cancel' (by omega)]
  rw [hnew, Nat.testBit_mod_two_pow, Nat.testBit_two_pow_mul_add _ hmid, Nat.testBit_two_pow_mul_add _ hlow, Nat.testBit_mod_two_pow,
    Nat.testBit_mod_two_pow, Nat.testBit_div_two_pow]
  have hout : 64 ≤ i → v.toNat.testBit i = false := fun h => Nat.testBit_lt_two_pow (v.isLt.trans_le (Nat.pow_le_pow_right (by decide) h))
  by_cases h64 : i < 64
  · rw [decide_eq_true h64, Bool.true_and]
    by_cases hbelow : i < lo
    · have hout' : ¬ (lo ≤ i ∧ i ≤ hi) := by omega
      rw [if_neg hout', if_pos (show i < hi + 1 by omega), if_pos hbelow, decide_eq_true hbelow, Bool.true_and]
    by_cases hin : i < hi + 1
    · have hin' : lo ≤ i ∧ i ≤ hi := by omega
      rw [if_pos hin', if_pos hin, if_neg hbelow, decide_eq_true (show i - lo < hi + 1 - lo by omega), Bool.true_and]
    · have hout' : ¬ (lo ≤ i ∧ i ≤ hi) := by omega
      rw [if_neg hout', if_neg hin, Nat.sub_add_cancel (Nat.le_of_not_lt hin)]
  · have hout' : ¬ (lo ≤ i ∧ i ≤ hi) := by omega
    rw [if_neg hout', hout (by omega), decide_eq_false h64, Bool.false_and]

/-- A field reads what was written to it, cut to its width. -/
theorem bits_setBits_self (v : Word) {hi lo : Nat} (n : Nat) (hlo : lo ≤ hi) (hhi : hi < 64) :
    bits (setBits v hi lo n).toNat hi lo = n % 2 ^ (hi + 1 - lo) := by
  refine Nat.eq_of_testBit_eq fun i => ?_
  rw [testBit_bits, testBit_setBits v n hlo hhi, Nat.testBit_mod_two_pow]
  by_cases h : i < hi + 1 - lo
  · rw [if_pos (by omega), Nat.add_sub_cancel_left]
  · simp [h]

/-- A field reads as before when another was written. -/
theorem bits_setBits_ne (v : Word) {hi lo hi' lo' : Nat} (n : Nat) (hlo : lo ≤ hi) (hhi : hi < 64) (h : hi < lo' ∨ hi' < lo) :
    bits (setBits v hi lo n).toNat hi' lo' = bits v.toNat hi' lo' := by
  refine Nat.eq_of_testBit_eq fun i => ?_
  rw [testBit_bits, testBit_bits, testBit_setBits v n hlo hhi]
  by_cases hi : i < hi' + 1 - lo'
  · rw [if_neg (by omega)]
  · simp [hi]

/-! ## Bytes -/

@[simp] theorem length_leBytes (n v : Nat) : (leBytes n v).length = n := by
  induction n generalizing v with
  | zero => rfl
  | succ n ih => rw [leBytes, List.length_cons, ih]

/-- So many bytes hold a number of so many bits. -/
theorem leNat_lt (bs : List Byte) : leNat bs < 2 ^ (8 * bs.length) := by
  induction bs with
  | nil => decide
  | cons b r ih =>
    have hb : b.toNat < 256 := b.isLt
    rw [leNat, List.length_cons, Nat.mul_add, Nat.pow_add]
    omega

theorem length_flatMap_const {α β : Type} {f : α → List β} {n : Nat} (hf : ∀ a, (f a).length = n) (l : List α) :
    (l.flatMap f).length = l.length * n := by
  simp [List.length_flatMap, hf]

/-! ## Rows -/

/-- What is listed row by row is listed by number. -/
theorem flatMap_rows {β : Type} (r c : Nat) (f : Nat → Nat → List β) :
    (List.range r).flatMap (fun i => (List.range c).flatMap (f i)) = (List.range (r * c)).flatMap fun n => f (n / c) (n % c) := by
  induction r with
  | zero => simp
  | succ r ih =>
    rw [List.range_succ, List.flatMap_append, ih, Nat.succ_mul, List.range_add, List.flatMap_append, List.flatMap_singleton, List.flatMap_map]
    congr 1
    refine List.flatMap_congr fun j hj => ?_
    have hj := List.mem_range.1 hj
    rw [Nat.mul_comm r c, Nat.mul_add_div (by omega), Nat.div_eq_of_lt hj, Nat.add_zero, Nat.mul_add_mod, Nat.mod_eq_of_lt hj]

/-! ## Flags -/

theorem orAll_append (l m : List Nat) : orAll (l ++ m) = orAll l ||| orAll m := by
  have hfold (m : List Nat) (a : Nat) : m.foldl (fun a b => a ||| b) a = a ||| orAll m := by
    induction m generalizing a with
    | nil => simp [orAll]
    | cons b r ih =>
      have hr : orAll (b :: r) = b ||| orAll r := (ih (0 ||| b)).trans (by rw [Nat.zero_or])
      rw [List.foldl_cons, ih, hr, Nat.or_assoc]
  rw [orAll, List.foldl_append, hfold]
  rfl

theorem orAll_flatMap {α : Type} (l : List α) (f : α → List Nat) : orAll (l.flatMap f) = orAll (l.map fun a => orAll (f a)) := by
  induction l with
  | nil => rfl
  | cons a r ih =>
    rw [List.flatMap_cons, orAll_append, ih, List.map_cons, ← List.singleton_append, orAll_append]
    simp [orAll]

/-! ## Encodings -/

/-- Every encoding that rounding gives lies within the format's width. -/
structure FFmt.Fits (f : FFmt) : Prop where
  width : 0 < f.w
  canon : f.canon < 2 ^ f.w
  inf : f.infMag < 2 ^ (f.w - 1)
  maxFin : f.maxFin < 2 ^ (f.w - 1)

theorem fits_f64 : (fmtOf 0).Fits := ⟨by decide, by decide, by decide, by decide⟩

theorem fits_f32 : (fmtOf 1).Fits := ⟨by decide, by decide, by decide, by decide⟩

theorem FFmt.Fits.signBit_add_lt {f : FFmt} (h : f.Fits) (neg : Bool) {m : Nat} (hm : m < 2 ^ (f.w - 1)) : f.signBit neg + m < 2 ^ f.w := by
  have hw : 2 ^ f.w = 2 * 2 ^ (f.w - 1) := by
    rw [Nat.mul_comm, ← Nat.pow_succ, Nat.succ_eq_add_one, Nat.sub_add_cancel h.width]
  cases neg with
  | false =>
    change 0 + m < _
    omega
  | true =>
    change 2 ^ (f.w - 1) + m < _
    omega

theorem FFmt.Fits.fpOut_lt {f : FFmt} (h : f.Fits) (mode : Nat) (sat fz : Bool) (x : FVal) : (fpOut f mode sat fz x).1 < 2 ^ f.w := by
  unfold fpOut fpOutR
  split
  · exact h.canon
  · split
    · exact h.signBit_add_lt _ h.maxFin
    · exact h.signBit_add_lt _ h.inf
  next neg m e =>
    extract_lets top q g v0 inexact v q' big magn down tiny
    split
    · exact h.signBit_add_lt neg (Nat.two_pow_pos _)
    split
    · refine h.signBit_add_lt neg ?_
      split
      · exact h.maxFin
      · exact h.inf
    next hfits =>
      split
      · exact h.signBit_add_lt neg (Nat.two_pow_pos _)
      · refine h.signBit_add_lt neg (lt_of_le_of_lt ?_ h.maxFin)
        simp only [Bool.or_eq_true, decide_eq_true_eq, not_or, Nat.not_lt] at hfits
        exact hfits.2

/-- A dot product's rounding gives an encoding of its format (R171). -/
theorem FFmt.Fits.dotRound_lt {f : FFmt} (h : f.Fits) (x : Option FVal) : dotRound f x < 2 ^ f.w := by
  unfold dotRound
  split
  · exact h.canon
  · exact h.canon
  · exact h.fpOut_lt ..

/-! ## Bands -/

theorem tabGet?_graph {α : Type} (f : Nat → α) (l : List Nat) (i : Nat) :
    tabGet? (l.map fun k => (k, f k)) i = if i ∈ l then some (f i) else none := by
  induction l with
  | nil => rfl
  | cons a r ih =>
    by_cases h : a = i
    · subst h
      simp [tabGet?]
    · simp [tabGet?, h, ih, Ne.symm h]

/-- A cell of a band, or of a pair where wide. -/
def bandCell (g : Group) (b : Nat) (wide : Bool) (i j : Nat) : Nat := if wide then pairAt g b i j else cellAt g b i j

theorem cellAt_lt (g : Group) (b i j : Nat) : cellAt g b i j < 2 ^ 32 := BitVec.isLt _

theorem bandCell_lt (g : Group) (b : Nat) (wide : Bool) (i j : Nat) : bandCell g b wide i j < 2 ^ (if wide then 64 else 32) := by
  have h0 := cellAt_lt g b i j
  have h1 := cellAt_lt g (b + 1) i j
  cases wide with
  | false => exact h0
  | true =>
    change pairAt g b i j < 2 ^ 64
    unfold pairAt
    omega

/-- Cells are all that a cell is read from. -/
theorem bandCell_congr {g h : Group} (hc : h.cells = g.cells) (b : Nat) (wide : Bool) (i j : Nat) :
    bandCell h b wide i j = bandCell g b wide i j := by
  simp only [bandCell, pairAt, cellAt, hc]

/-- The cells of a band filled by position. -/
theorem plane_cell (f : Nat → Nat → Nat) {i j : Nat} (hi : i < 64) (hj : j < 64) (p : Nat) :
    (tabGet ((List.range 4096).map fun n => (n, BitVec.ofNat 32 (f (n / 64) (n % 64) / 2 ^ (32 * p)))) (64 * i + j) 0).toNat =
      f i j / 2 ^ (32 * p) % 2 ^ 32 := by
  have hrow : (64 * i + j) / 64 = i := by omega
  have hcol : (64 * i + j) % 64 = j := by omega
  rw [tabGet, tabGet?_graph (fun n => BitVec.ofNat 32 (f (n / 64) (n % 64) / 2 ^ (32 * p))), if_pos (List.mem_range.2 (by omega)), hrow, hcol]
  exact BitVec.toNat_ofNat ..

/-- A band that is filled holds what it is filled with. -/
theorem bandCell_fillBand (g : Group) (b : Nat) (wide : Bool) {f : Nat → Nat → Nat} {i j : Nat} (hi : i < 64) (hj : j < 64)
    (hf : f i j < 2 ^ (if wide then 64 else 32)) : bandCell (fillBand g b wide f) b wide i j = f i j := by
  have hlow := plane_cell f hi hj 0
  cases wide with
  | false =>
    refine Eq.trans ?_ (hlow.trans (by simpa using hf))
    simp [bandCell, cellAt, fillBand]
  | true =>
    have hhigh := plane_cell f hi hj 1
    have hne : b + 1 ≠ b := by omega
    have hsplit : bandCell (fillBand g b true f) b true i j = f i j / 2 ^ (32 * 0) % 2 ^ 32 + 2 ^ 32 * (f i j / 2 ^ (32 * 1) % 2 ^ 32) := by
      rw [← hlow, ← hhigh]
      simp [bandCell, pairAt, cellAt, fillBand, tabGet_tabPut_ne _ _ _ hne]
    simp only [if_true] at hf
    omega

@[simp] theorem tabGet_retag (tags : Tab Nat) (b tag : Nat) : tabGet (retag tags b tag) b 0 = tag := by
  simp [retag]

end Sys2Proof.Machine
end

section
/-!
PROOFS. Tile entries start (R264, R265), run once more after a checksum mismatch (R269), and leave their queue with their arrival (R266, R280):
what a retirement leaves, and which retirement an entry comes to.
-/

namespace Sys2Proof.Machine

theorem mem_coreEntries {k : CoreSt} {q : TileEntry} : q ∈ coreEntries k ↔ q ∈ k.tileHi ∨ q ∈ k.tileLo := by
  rw [coreEntries, List.mem_mergeSort, List.mem_append]

/-- A fold none of whose steps does anything where it begins. -/
theorem foldl_fixed_of_mem {α σ : Type} {f : σ → α → σ} {s : σ} {l : List α} (h : ∀ a ∈ l, f s a = s) : l.foldl f s = s := by
  induction l with
  | nil => rfl
  | cons a r ih =>
    rw [List.foldl_cons, h a (List.mem_cons_self ..)]
    exact ih fun b hb => h b (List.mem_cons_of_mem _ hb)

/-! ## Starting -/

/-- Where every place is known and every eligible entry has noted its time, the chosen entry starts (R265). -/
theorem exec_tileEntryStart {s : State} {core : Nat} {hi : Bool} {e : TileEntry}
    (hnoted : ∀ q ∈ coreEntries (coreOf s core), placesKnown q = true ∧ (q.eligible = 0 → entryEligible s core q = false))
    (hchoose : chooseEntry (coreOf s core) (entryEligible s core) = some (hi, e)) :
    exec (.tileEntryStart core) s = .next (modCore
      (modEntry s core e.id fun e => { e with started := some s.cycle, began := some (e.began.getD s.cycle) }) core
      fun k => { k with hiStreak := if hi then k.hiStreak + 1 else 0 }) := by
  have hknown : (coreEntries (coreOf s core)).filter (fun q => !placesKnown q) = [] :=
    List.filter_eq_nil_iff.2 fun q hq => by simp [(hnoted q hq).1]
  have hold : (coreEntries (coreOf s core)).foldl (fun s e =>
      if entryEligible s core e && e.eligible = 0 then modEntry s core e.id fun e => { e with eligible := s.cycle } else s) s = s := by
    refine foldl_fixed_of_mem fun q hq => if_neg ?_
    intro h
    rw [Bool.and_eq_true, decide_eq_true_eq] at h
    exact absurd ((hnoted q hq).2 h.2) (by simp [h.1])
  change execTileEntryStart core s = _
  unfold execTileEntryStart
  rw [hknown, List.foldl_nil]
  extract_lets s0 s1
  rw [show s1 = s from hold, hchoose]

/-! ## Retiring -/

/-- An entry whose work is done runs, unless it is a product whose checksums differ (R266, R269). -/
theorem exec_tileEntryRetire {s : State} {core : Nat} {fault : Bool} {e : TileEntry}
    (hfind : (coreEntries (coreOf s core)).find? (fun q => q.id == e.id && workDone s.cycle q) = some e)
    (hfault : fault = true → ∀ bfp, e.op ≠ .tmm bfp) :
    exec (.tileEntryRetire core e.id fault) s = .next (finishEntry s core e) := by
  change execTileEntryRetire core e.id fault s = _
  simp only [execTileEntryRetire, hfind]
  split
  next hop => exact absurd hop (hfault rfl _)
  · rfl

/-- A product whose checksums differ for the first time runs once more (R269). -/
theorem exec_tileEntryRetire_mismatch {s : State} {core : Nat} {bfp : Bool} {e : TileEntry}
    (hfind : (coreEntries (coreOf s core)).find? (fun q => q.id == e.id && workDone s.cycle q) = some e) (hop : e.op = .tmm bfp)
    (hreruns : e.reruns = 0) :
    exec (.tileEntryRetire core e.id true) s = .next (modDie
      (modEntry s core e.id fun e => { e with reruns := e.reruns + 1, started := some s.cycle }) (coreDie core)
      fun d => { d with reruns := d.reruns + 1 }) := by
  change execTileEntryRetire core e.id true s = _
  simp only [execTileEntryRetire, hfind, hop, mismatch, hreruns, if_true]

/-- Every entry but a product leaves its queue as it has run. -/
theorem finishEntry_of_not_tmm {s : State} {core : Nat} {e : TileEntry} (hpoison : readsPoison s e = false) (hop : ∀ bfp, e.op ≠ .tmm bfp) :
    finishEntry s core e = retireEntry (countReaders (entryEffect s core e) false (nowSlots e)) core e := by
  unfold finishEntry
  rw [if_neg (by simp [hpoison])]
  cases h : e.op with
  | tmm bfp => exact absurd h (hop bfp)
  | accZero => rfl
  | accLd => rfl
  | accSt => rfl
  | accCvst rnd sat => rfl
  | tsa => rfl
  | opmLd => rfl
  | opmSt => rfl

/-- So does a product that is not open, with its last segment (R276). -/
theorem finishEntry_tmm {s : State} {core : Nat} {bfp : Bool} {e : TileEntry} {q : Segment} (hpoison : readsPoison s e = false)
    (hop : e.op = .tmm bfp) (hsegs : e.segments = [q]) (hq : q.done = false) (hopen : e.open_ = false) :
    finishEntry s core e = retireEntry (countReaders (entryEffect s core e) false (nowSlots e)) core
      { e with segments := [{ q with done := true }], steps := 0, started := e.started } := by
  have hclose : closeSegment e = { e with segments := [{ q with done := true }], steps := 0, started := none } := by
    simp [closeSegment, closeSegment.go, hsegs, hq]
  simp only [finishEntry, hpoison, Bool.false_eq_true, if_false, hop, hclose, hopen]
  rfl

/-! ## What a retirement leaves (R266, R280, R446) -/

/-- An idle trace unit at most counts the record as lost (R447). -/
theorem traceRecord_unarmed {s : State} {core : Nat} (h : (coreOf s core).trace.armed = false) (kind ordinal group : Nat) (payload : Word) :
    traceRecord s core kind ordinal group payload = s ∨ traceRecord s core kind ordinal group payload = traceDrop s core := by
  unfold traceRecord
  extract_lets t
  split
  · exact .inl rfl
  · rw [if_pos (by simp [t, h])]
    exact .inr rfl

theorem coreEntries_traceDrop (s : State) (core : Nat) : coreEntries (coreOf (traceDrop s core) core) = coreEntries (coreOf s core) := by
  rw [traceDrop, coreOf_modCore_self]
  split
  · rfl
  · rfl

/-- An entry that no follow-on has made writes no tile record (R449). -/
theorem entryRecords_of_no_job (s : State) (core : Nat) (hi : Bool) {e : TileEntry} (hjob : e.job = none) (hsegs : ∀ q ∈ e.segments, q.job = none)
    (state : Nat) : entryRecords s core hi e state = s := by
  simp only [entryRecords, hjob]
  exact foldl_fixed_of_mem fun q hq => by rw [hsegs q hq]

/-- The arrival an entry makes at its notifying word (R280). -/
def entryArrivals (s : State) (e : TileEntry) : List Arrival :=
  match e.notify with
  | none => []
  | some w => [{ word := w, gen := dGen e.desc, bytes := notifyBytes s e, key := ((gridOfGroup s e.group).map gridKey).getD 0 }]

/-- The entry is in no queue any more, its arrival is on its way, and its group is calm. -/
theorem retireEntry_leaves {s : State} {core : Nat} {e : TileEntry} (htrace : (coreOf s core).trace.armed = false) (hjob : e.job = none)
    (hsegs : ∀ q ∈ e.segments, q.job = none) :
    (∀ q ∈ coreEntries (coreOf (retireEntry s core e) core), q.id ≠ e.id) ∧
      (retireEntry s core e).arrivals = s.arrivals ++ entryArrivals s e ∧
      ∀ g, groupAt s e.group = some g → groupAt (retireEntry s core e) e.group = some { g with hang := 0 } := by
  unfold retireEntry
  extract_lets hi s1 s2 s3
  have hs1 : s1 = { s with arrivals := s.arrivals ++ entryArrivals s e } := by
    unfold s1 entryArrivals
    cases e.notify with
    | none => simp only [List.append_nil]
    | some w => rfl
  have hs2 : ∀ q ∈ coreEntries (coreOf s2 core), q.id ≠ e.id := by
    intro q hq
    rw [mem_coreEntries] at hq
    simp only [s2, coreOf_modCore_self, List.mem_filter, bne_iff_ne] at hq
    rcases hq with hq | hq
    · exact hq.2
    · exact hq.2
  have htrace2 : (coreOf s2 core).trace.armed = false := by
    rw [coreOf_modCore_self, hs1]
    exact htrace
  have hs3 : s3 = s2 ∨ s3 = traceDrop s2 core := traceRecord_unarmed htrace2 ..
  have hqueues : coreEntries (coreOf s3 core) = coreEntries (coreOf s2 core) := by
    rcases hs3 with h | h
    · rw [h]
    · rw [h, coreEntries_traceDrop]
  have hgroups : s3.groups = s.groups := by
    rcases hs3 with h | h
    · simp [h, s2, hs1]
    · simp [h, traceDrop, s2, hs1]
  have harrivals : s3.arrivals = s.arrivals ++ entryArrivals s e := by
    rcases hs3 with h | h
    · simp [h, s2, hs1]
    · simp [h, traceDrop, s2, hs1]
  rw [entryRecords_of_no_job _ _ _ hjob hsegs]
  refine ⟨?_, ?_, fun g hg => ?_⟩
  · rw [calm, coreOf, modGroup_cores, ← coreOf, hqueues]
    exact hs2
  · rw [calm, modGroup_arrivals, harrivals]
  · have hg3 : groupAt s3 e.group = some g := by rw [groupAt, hgroups, ← groupAt, hg]
    rw [calm, modGroup_eq hg3, groupAt_setGroup_self]

/-! ## What an effect leaves beside its result -/

/-- A state that has come from another by a change of one group: nothing that the retirement looks at has changed but that group. -/
structure EffectOn (s t : State) (key : Nat) (h : Group) : Prop where
  arrivals : t.arrivals = s.arrivals
  grids : t.grids = s.grids
  trace : ∀ c, (coreOf t c).trace = (coreOf s c).trace
  group : groupAt t key = some h

theorem groupAt_of_standing {s t : State} (h : standing t = standing s) (key : Nat) : groupAt t key = groupAt s key := by
  rw [groupAt, groups_of_standing h, ← groupAt]

/-- A group is changed after reads alone. -/
theorem effectOn_setGroup {s s1 : State} (hs : standing s1 = standing s) (key : Nat) (h : Group) : EffectOn s (setGroup s1 key h) key h :=
  ⟨(arrivals_of_standing hs :), (grids_of_standing hs :), fun c => (trace_of_standing hs c :), groupAt_setGroup_self ..⟩

theorem effectOn_of_standing {s s1 : State} {key : Nat} {g : Group} (hs : standing s1 = standing s) (hg : groupAt s key = some g) :
    EffectOn s s1 key g :=
  ⟨arrivals_of_standing hs, grids_of_standing hs, fun c => trace_of_standing hs c, (groupAt_of_standing hs key).trans hg⟩

theorem effectOn_modGroup {s s1 : State} {key : Nat} {g : Group} (hs : standing s1 = standing s) (hg : groupAt s key = some g)
    (f : Group → Group) : EffectOn s (modGroup s1 key f) key (f g) := by
  rw [modGroup_eq ((groupAt_of_standing hs key).trans hg)]
  exact effectOn_setGroup hs ..

section
variable {s t : State} {key : Nat} {h : Group} (he : EffectOn s t key h)
include he

theorem EffectOn.withPoison (ps : List Nat) : EffectOn s { t with poison := ps } key h := ⟨he.arrivals, he.grids, he.trace, he.group⟩

theorem EffectOn.endPoison (first : Nat) : EffectOn s (endPoison t first) key h := he.withPoison _

/-- The group is changed once more. -/
theorem EffectOn.setGroup (h' : Group) : EffectOn s (setGroup t key h') key h' := ⟨he.arrivals, he.grids, he.trace, groupAt_setGroup_self ..⟩

/-- Any group's READERS change: of the group itself the tags alone (R254). -/
theorem EffectOn.modSlots (k : Nat) (f : Group → Tab Word) :
    ∃ tags, EffectOn s (modGroup t k fun g => { g with slots := f g }) key { h with slots := tags } := by
  unfold modGroup
  split
  · exact ⟨h.slots, he⟩
  next g hg =>
    by_cases hk : k = key
    · subst hk
      obtain rfl : h = g := Option.some.inj (he.group.symm.trans hg)
      exact ⟨f h, he.setGroup _⟩
    · exact ⟨h.slots, he.arrivals, he.grids, he.trace, (groupAt_setGroup_ne _ _ hk).trans he.group⟩

end

/-- Counting readers changes the tags of slots alone (R254). -/
theorem EffectOn.countReaders {s t : State} {key : Nat} {h : Group} (he : EffectOn s t key h) (up : Bool) (rs : List Res) :
    ∃ tags, EffectOn s (countReaders t up rs) key { h with slots := tags } := by
  induction rs generalizing t h with
  | nil => exact ⟨h.slots, he⟩
  | cons r rs ih =>
    obtain ⟨tags, he'⟩ := he.modSlots r.1 fun g => tabPut g.slots r.2.2
      (withReaders (slotTag g r.2.2) (if up then slotReaders (slotTag g r.2.2) + 1 else slotReaders (slotTag g r.2.2) - 1))
    exact ih (h := { h with slots := tags }) he'

/-! ## An entry's end -/

/-- The entry leaves its queues with an arrival of n bytes, if it makes one, and leaves its group as stated. -/
def EntryEnds (s : State) (core : Nat) (fault : Bool) (e : TileEntry) (n : Nat) (P : Group → Prop) : Prop :=
  ∃ t h, exec (.tileEntryRetire core e.id fault) s = .next t ∧
    (∀ q ∈ coreEntries (coreOf t core), q.id ≠ e.id) ∧ groupAt t e.group = some h ∧ P h ∧
    t.arrivals = s.arrivals ++ (match e.notify with
      | none => []
      | some w => [{ word := w, gen := dGen e.desc, bytes := n, key := ((gridOfGroup s e.group).map gridKey).getD 0 }])

/-- An entry that retires from a state in which only its group has changed. -/
theorem entryEnds_of_retire {s t : State} {core : Nat} {fault : Bool} {e : TileEntry} {n : Nat} {P : Group → Prop} {h : Group}
    {segs : List Segment} {steps : Nat} {started : Option Nat}
    (hexec : exec (.tileEntryRetire core e.id fault) s =
      .next (retireEntry t core { e with segments := segs, steps := steps, started := started }))
    (htrace : (coreOf s core).trace.armed = false) (hjob : e.job = none) (hsegs : ∀ q ∈ segs, q.job = none) (he : EffectOn s t e.group h)
    (hbytes : notifyBytes t { e with segments := segs, steps := steps, started := started } = n) (hP : P { h with hang := 0 }) :
    EntryEnds s core fault e n P := by
  have htrace' : (coreOf t core).trace.armed = false := by rw [he.trace, htrace]
  obtain ⟨hleft, harrivals, hgroup⟩ := retireEntry_leaves (e := { e with segments := segs, steps := steps, started := started }) htrace' hjob hsegs
  refine ⟨_, _, hexec, hleft, hgroup h he.group, hP, harrivals.trans ?_⟩
  have hgrid : gridOfGroup t e.group = gridOfGroup s e.group := by rw [gridOfGroup, gridAt, he.grids]; rfl
  rw [he.arrivals, entryArrivals, hbytes, hgrid]

end Sys2Proof.Machine
end

section
/-!
PROOFS. What tile entries leave when they retire: cells of bands that are zeroed, accumulated, scaled or loaded (R270 to R272, R288).
-/

namespace Sys2Proof.Machine

/-! ## Rules about folds and reads -/

theorem foldl_lt_of_lt {α : Type} {f : Nat → α → Nat} {n : Nat} (hf : ∀ c a, f c a < n) (l : List α) {c : Nat} (hc : c < n) :
    l.foldl f c < n := by
  induction l generalizing c with
  | nil => exact hc
  | cons a r ih => exact ih (hf c a)

@[simp] theorem standing_endBands (s : State) (key b : Nat) (wide : Bool) : standing (endBands s key b wide) = standing s :=
  standing_foldl (f := fun s b => endPoison s (bandPoison key b 0)) (fun _ _ => rfl) _ s

/-- An entry's reads leave what other reads leave (R279). -/
@[simp] theorem standing_entryRead (s : State) (e : TileEntry) (n : Nat) (to_ : Nat → List Nat) :
    standing (entryRead s e n to_).1 = standing s :=
  apply_foldl_of_step (fun p : State × List Byte => standing p.1)
    (f := fun a l => let q := homeRead a.1 l (64 - l.key % 64); (q.1, a.2 ++ q.2)) (fun p l => standing_homeRead p.1 l _) e.mem (s, [])

/-! ## Cells -/

/-- The band, or the pair, holds these cells. -/
def FillsBand (h : Group) (b : Nat) (wide : Bool) (f : Nat → Nat → Nat) : Prop := ∀ i j, i < 64 → j < 64 → bandCell h b wide i j = f i j

theorem fillsBand_of_cells (g : Group) {h : Group} {b : Nat} {wide : Bool} (f : Nat → Nat → Nat) (hc : h.cells = (fillBand g b wide f).cells)
    (hf : ∀ i j, f i j < 2 ^ (if wide then 64 else 32)) : FillsBand h b wide f := fun i j hi hj =>
  (bandCell_congr hc b wide i j).trans (bandCell_fillBand g b wide hi hj (hf i j))

/-- A band or pair filled, and its tag set (R261). -/
def refill (g : Group) (b : Nat) (wide : Bool) (f : Nat → Nat → Nat) (tag : Nat) : Group :=
  { fillBand g b wide f with bandTags := retag g.bandTags b tag }

theorem refill_cells (g : Group) (b : Nat) (wide : Bool) (f : Nat → Nat → Nat) (tag : Nat) :
    (refill g b wide f tag).cells = (fillBand g b wide f).cells := rfl

theorem refill_tag (g : Group) (b : Nat) (wide : Bool) (f : Nat → Nat → Nat) (tag : Nat) : tabGet (refill g b wide f tag).bandTags b 0 = tag :=
  tabGet_retag ..

/-- A fused step gives an f64 (R172). -/
theorem addFused_lt (cell a b : Nat) : addFused cell a b < 2 ^ 64 := fits_f64.dotRound_lt _

/-- A group's sum is rounded once, and the cell once (R172). -/
theorem addGroup_eq (fa fb : FFmt) (cell : Nat) (ps : List (Nat × Nat)) :
    addGroup fa fb cell ps = if groupSum fa fb ps = none then (fmtOf 1).canon else
      dotRound (fmtOf 1) (((fmtOf 1).val cell).add ((fmtOf 1).val (dotRound (fmtOf 1) (groupSum fa fb ps))) 1) := by
  unfold addGroup
  cases groupSum fa fb ps with
  | none => rfl
  | some v => rfl

theorem addGroup_lt (fa fb : FFmt) (cell : Nat) (ps : List (Nat × Nat)) : addGroup fa fb cell ps < 2 ^ 32 := by
  rw [addGroup_eq]
  split
  · exact fits_f32.canon
  · exact fits_f32.dotRound_lt _

theorem productCell_lt (tyA tyB : Nat) (a b : Nat → Nat) (k0 k1 : Nat) {cell : Nat} (hcell : cell < 2 ^ (if tyA == 12 then 64 else 32)) :
    productCell tyA tyB a b k0 k1 cell < 2 ^ (if tyA == 12 then 64 else 32) := by
  unfold productCell
  by_cases h : tyA = 12
  · rw [if_pos h]
    rw [if_pos (beq_iff_eq.2 h)] at hcell ⊢
    exact foldl_lt_of_lt (fun _ _ => addFused_lt ..) _ hcell
  · rw [if_neg h]
    rw [if_neg fun hb => h (beq_iff_eq.1 hb)] at hcell ⊢
    exact foldl_lt_of_lt (fun _ _ => addGroup_lt ..) _ hcell

/-- A cell over whole lines in f64 (R270). -/
theorem productCell_f64 (tyB : Nat) (a b : Nat → Nat) (k cell : Nat) :
    productCell 12 tyB a b 0 k cell = (List.range k).foldl (fun c n =>
      dotRound (fmtOf 0) ((((fmtOf 0).val (a n)).mul ((fmtOf 0).val (b n))).bind fun p => ((fmtOf 0).val c).add p 1)) cell := by
  simp only [productCell, addFused, if_true, Nat.sub_zero, Nat.zero_add]

/-- A cell over whole lines in any other format: group by group (R270, R276). -/
theorem productCell_groups {tyA : Nat} (h : tyA ≠ 12) (tyB : Nat) (a b : Nat → Nat) (k cell : Nat) :
    productCell tyA tyB a b 0 k cell = (List.range (ceilDiv k (kGroup tyA))).foldl (fun c m =>
      addGroup (fmtOf (tyA - 12)) (fmtOf (tyB - 12)) c
        ((List.range (min (kGroup tyA) (k - kGroup tyA * m))).map fun r => (a (kGroup tyA * m + r), b (kGroup tyA * m + r)))) cell := by
  simp only [productCell, if_neg h, Nat.sub_zero, Nat.zero_add]

theorem kGroup_of_ne {ty : Nat} (h : ty ≠ 12) : kGroup ty = if ty ≥ 16 then 64 else 32 := if_neg h

theorem ofSigned_lt (w : Nat) (v : Int) : ofSigned w v < 2 ^ w := by
  have hpos : (0 : Int) < 2 ^ w := Int.pow_pos (by decide)
  have h := Int.emod_lt_of_pos v hpos
  unfold ofSigned
  zify
  rw [Int.toNat_of_nonneg (Int.emod_nonneg v hpos.ne')]
  exact h

theorem scaleCell_lt (w eA eB acc raw : Nat) : scaleCell w eA eB acc raw < 2 ^ 32 := by
  unfold scaleCell
  extract_lets f r p v
  split
  · exact fits_f32.canon
  · exact fits_f32.dotRound_lt _

/-! ## Effects -/

/-- What a float segment leaves in a cell (R270). -/
def floatCell (g gb : Group) (e : TileEntry) (q : Segment) (i j : Nat) : Nat :=
  productCell e.fmts.1 e.fmts.2 (slotElem g (dAH q.desc) i) (slotElem gb (dBH q.desc) j) 0 (dKB q.desc)
    (bandCell g (dBand e.desc) (e.fmts.1 == 12) i j)

/-- What a block column leaves in a cell (R271). -/
def blockCell (g gb : Group) (e : TileEntry) (q : Segment) (i j : Nat) : Nat :=
  ofSigned 32 (((List.range 32).map fun n =>
    toSigned (e.fmts.1 - 16) (slotElem g (dAH q.desc) i (32 * (dKB q.desc % 32) + n)) *
      toSigned (e.fmts.1 - 16) (slotElem gb (dBH q.desc) j (32 * (dKB q.desc % 32) + n))).foldl (· + ·) 0)

/-- What `tsa` leaves in a cell (R272). -/
def scaledCell (g : Group) (e : TileEntry) (i j : Nat) : Nat :=
  scaleCell (tabGet g.bandTags (bits e.desc.toNat 7 4) 0 / 8) (e.scales.getD i 0).toNat (e.scales.getD (64 + j) 0).toNat
    (cellAt g (dBand e.desc) i j) (cellAt g (bits e.desc.toNat 7 4) i j)

/-- The cell that bytes in row order hold (R288). -/
def loadedCell (wide : Bool) (bs : List Byte) (i j : Nat) : Nat :=
  leNat ((bs.drop ((if wide then 8 else 4) * (64 * i + j))).take (if wide then 8 else 4))

theorem loadedCell_lt (wide : Bool) (bs : List Byte) (i j : Nat) : loadedCell wide bs i j < 2 ^ (if wide then 64 else 32) := by
  refine (leNat_lt _).trans_le (Nat.pow_le_pow_right (by decide) ((Nat.mul_le_mul_left 8 (List.length_take_le ..)).trans ?_))
  cases wide with
  | false => decide
  | true => decide

theorem nowSegment_of_single {e : TileEntry} {q : Segment} (hsegs : e.segments = [q]) (hq : q.done = false) : nowSegment e = q := by
  simp [nowSegment, openSegments, hsegs, hq]

section
variable {s : State} {e : TileEntry} {g : Group} (hg : groupAt s e.group = some g) (core : Nat)

theorem entryEffect_accZero (hop : e.op = .accZero) : entryEffect s core e =
    modGroup (endBands s e.group (dBand e.desc) (e.fmts.1 == 12)) e.group fun g =>
      refill g (dBand e.desc) (e.fmts.1 == 12) (fun _ _ => 0) (typeTag e.fmts.1) := by
  simp only [entryEffect, hop, refill]

theorem entryEffect_accLd (hop : e.op = .accLd) {s1 : State} {bs : List Byte}
    (hread : entryRead (endBands s e.group (dBand e.desc) (e.fmts.1 == 12)) e (if e.fmts.1 == 12 then 32768 else 16384)
      (bandSectors e.group (dBand e.desc) (e.fmts.1 == 12)) = (s1, bs)) :
    entryEffect s core e = modGroup s1 e.group fun g =>
      refill g (dBand e.desc) (e.fmts.1 == 12) (loadedCell (e.fmts.1 == 12) bs) (typeTag e.fmts.1) := by
  simp only [entryEffect, hop, hread, bandFrom, refill]
  rfl

include hg

theorem entryEffect_tsa (hop : e.op = .tsa) :
    entryEffect s core e = setGroup s e.group (fillBand g (dBand e.desc) false (scaledCell g e)) := by
  simp only [entryEffect, hop, applyTsa, modGroup_eq hg]
  rfl

variable {q : Segment} {gb : Group} (hsegs : e.segments = [q]) (hq : q.done = false) (hgb : groupAt s q.bGroup = some gb)
include hsegs hq hgb

theorem entryEffect_tmm (hop : e.op = .tmm false) (hsteps : e.steps = 0) :
    entryEffect s core e = setGroup s e.group (fillBand g (dBand e.desc) (e.fmts.1 == 12) (floatCell g gb e q)) := by
  simp only [entryEffect, hop, nowSegment_of_single hsegs hq, hsteps, applyFloat, hg, hgb]
  rfl

theorem entryEffect_tmm_bfp (hop : e.op = .tmm true) : entryEffect s core e =
    endPoison (setGroup s e.group (refill g (dBand q.desc) false (blockCell g gb e q) (rawTag (e.fmts.1 - 16))))
      (bandPoison e.group (dBand q.desc) 0) := by
  simp only [entryEffect, hop, nowSegment_of_single hsegs hq, applyBfp, hg, hgb]
  rfl

end

/-! ## An entry that retires -/

/-- An entry that is in its queue with its work done and no poison, in a group that is there; no follow-on made it, the trace unit is idle, and
no checksum of it differs. -/
structure Retires (s : State) (core : Nat) (fault : Bool) (e : TileEntry) (g : Group) : Prop where
  found : (coreEntries (coreOf s core)).find? (fun q => q.id == e.id && workDone s.cycle q) = some e
  job : e.job = none
  checked : fault = true → ∀ bfp, e.op ≠ .tmm bfp
  group : groupAt s e.group = some g
  clean : readsPoison s e = false
  idle : (coreOf s core).trace.armed = false

theorem EntryEnds.mono {s : State} {core : Nat} {fault : Bool} {e : TileEntry} {n : Nat} {P Q : Group → Prop} (h : EntryEnds s core fault e n P)
    (hPQ : ∀ g, P g → Q g) : EntryEnds s core fault e n Q := by
  obtain ⟨t, g, hexec, hleft, hgroup, hP, harrivals⟩ := h
  exact ⟨t, g, hexec, hleft, hgroup, hPQ g hP, harrivals⟩

section
variable {s : State} {core : Nat} {fault : Bool} {e : TileEntry} {g : Group} (hr : Retires s core fault e g)
include hr

theorem Retires.exec_of_not_tmm (hop : ∀ bfp, e.op ≠ .tmm bfp) :
    exec (.tileEntryRetire core e.id fault) s = .next (retireEntry (countReaders (entryEffect s core e) false (nowSlots e)) core e) := by
  rw [exec_tileEntryRetire hr.found hr.checked, finishEntry_of_not_tmm hr.clean hop]

/-- An entry with no segments that changes its group's bands. -/
theorem Retires.ends_of_effect (hop : ∀ bfp, e.op ≠ .tmm bfp) (hsegs : e.segments = []) {h : Group} (he : EffectOn s (entryEffect s core e) e.group h)
    {n : Nat} (hbytes : ∀ t, notifyBytes t e = n) {P : Group → Prop} (hP : ∀ h', h'.cells = h.cells → h'.bandTags = h.bandTags → P h') :
    EntryEnds s core fault e n P := by
  obtain ⟨tags, he'⟩ := he.countReaders false (nowSlots e)
  exact entryEnds_of_retire (segs := e.segments) (steps := e.steps) (started := e.started) (hr.exec_of_not_tmm hop) hr.idle hr.job
    (by simp [hsegs]) he' (hbytes _) (hP _ rfl rfl)

/-- A product over its last segment (R270, R276). -/
theorem Retires.tmm_ends {bfp : Bool} (hop : e.op = .tmm bfp) {q : Segment} (hsegs : e.segments = [q]) (hq : q.done = false) (hjob : q.job = none)
    (hopen : e.open_ = false) {h : Group} (he : EffectOn s (entryEffect s core e) e.group h) {P : Group → Prop}
    (hP : ∀ h', h'.cells = h.cells → h'.bandTags = h.bandTags → P h') :
    EntryEnds s core fault e (if bfp then 16384 else 16384 * (if e.fmts.1 == 12 then 2 else 1)) P := by
  obtain ⟨tags, he'⟩ := he.countReaders false (nowSlots e)
  have hexec := exec_tileEntryRetire hr.found hr.checked
  rw [finishEntry_tmm hr.clean hop hsegs hq hopen] at hexec
  refine entryEnds_of_retire hexec hr.idle hr.job (by simp [hjob]) he' ?_ (hP _ rfl rfl)
  cases bfp with
  | false => simp only [notifyBytes, hop]; rfl
  | true => simp only [notifyBytes, hop]; rfl

/-- `acc.zero` zeroes (R288). -/
theorem Retires.accZero_ends (hop : e.op = .accZero) (hsegs : e.segments = []) :
    EntryEnds s core fault e (16384 * (if e.fmts.1 == 12 then 2 else 1)) fun h =>
      FillsBand h (dBand e.desc) (e.fmts.1 == 12) (fun _ _ => 0) ∧ tabGet h.bandTags (dBand e.desc) 0 = typeTag e.fmts.1 := by
  have he := effectOn_modGroup (standing_endBands s e.group (dBand e.desc) (e.fmts.1 == 12)) hr.group fun g =>
    refill g (dBand e.desc) (e.fmts.1 == 12) (fun _ _ => 0) (typeTag e.fmts.1)
  rw [← entryEffect_accZero core hop] at he
  exact hr.ends_of_effect (by simp [hop]) hsegs he (fun t => by simp only [notifyBytes, hop]) fun h hc ht =>
    ⟨fillsBand_of_cells g _ (hc.trans (refill_cells ..)) fun _ _ => Nat.two_pow_pos _, by rw [ht, refill_tag]⟩

/-- `acc.ld` fills its band or pair with the cells of its range, in row order (R288). -/
theorem Retires.accLd_ends (hop : e.op = .accLd) (hsegs : e.segments = []) {s1 : State} {bs : List Byte}
    (hread : entryRead (endBands s e.group (dBand e.desc) (e.fmts.1 == 12)) e (if e.fmts.1 == 12 then 32768 else 16384)
      (bandSectors e.group (dBand e.desc) (e.fmts.1 == 12)) = (s1, bs)) :
    EntryEnds s core fault e (16384 * (if e.fmts.1 == 12 then 2 else 1)) fun h =>
      FillsBand h (dBand e.desc) (e.fmts.1 == 12) (loadedCell (e.fmts.1 == 12) bs) ∧ tabGet h.bandTags (dBand e.desc) 0 = typeTag e.fmts.1 := by
  have hs : standing s1 = standing s := by
    have h := standing_entryRead (endBands s e.group (dBand e.desc) (e.fmts.1 == 12)) e (if e.fmts.1 == 12 then 32768 else 16384)
      (bandSectors e.group (dBand e.desc) (e.fmts.1 == 12))
    rw [hread, standing_endBands] at h
    exact h
  have he := effectOn_modGroup hs hr.group fun g =>
    refill g (dBand e.desc) (e.fmts.1 == 12) (loadedCell (e.fmts.1 == 12) bs) (typeTag e.fmts.1)
  rw [← entryEffect_accLd core hop hread] at he
  exact hr.ends_of_effect (by simp [hop]) hsegs he (fun t => by simp only [notifyBytes, hop]) fun h hc ht =>
    ⟨fillsBand_of_cells g _ (hc.trans (refill_cells ..)) fun _ _ => loadedCell_lt .., by rw [ht, refill_tag]⟩

/-- `tsa` adds scaled raw cells (R272). -/
theorem Retires.tsa_ends (hop : e.op = .tsa) (hsegs : e.segments = []) :
    EntryEnds s core fault e 16384 fun h => FillsBand h (dBand e.desc) false (scaledCell g e) := by
  have he := effectOn_setGroup (s := s) rfl e.group (fillBand g (dBand e.desc) false (scaledCell g e))
  rw [← entryEffect_tsa hr.group core hop] at he
  exact hr.ends_of_effect (by simp [hop]) hsegs he (fun t => by simp only [notifyBytes, hop]) fun h hc _ =>
    fillsBand_of_cells g _ hc fun _ _ => scaleCell_lt ..

section
variable {q : Segment} {gb : Group} (hsegs : e.segments = [q]) (hq : q.done = false) (hjob : q.job = none) (hopen : e.open_ = false)
  (hgb : groupAt s q.bGroup = some gb)
include hsegs hq hjob hopen hgb

/-- A float product over whole lines fills its band or pair (R270). -/
theorem Retires.tmm_float_ends (hop : e.op = .tmm false) (hsteps : e.steps = 0) :
    EntryEnds s core fault e (16384 * (if e.fmts.1 == 12 then 2 else 1)) fun h =>
      FillsBand h (dBand e.desc) (e.fmts.1 == 12) (floatCell g gb e q) := by
  have he := effectOn_setGroup (s := s) rfl e.group (fillBand g (dBand e.desc) (e.fmts.1 == 12) (floatCell g gb e q))
  rw [← entryEffect_tmm hr.group core hsegs hq hgb hop hsteps] at he
  exact hr.tmm_ends hop hsegs hq hjob hopen he fun h hc _ =>
    fillsBand_of_cells g _ hc fun _ _ => productCell_lt _ _ _ _ _ _ (bandCell_lt ..)

/-- A block column fills its band with exact sums and tags it RAW (R271). -/
theorem Retires.tmm_bfp_ends (hop : e.op = .tmm true) :
    EntryEnds s core fault e 16384 fun h =>
      FillsBand h (dBand q.desc) false (blockCell g gb e q) ∧ tabGet h.bandTags (dBand q.desc) 0 = rawTag (e.fmts.1 - 16) := by
  have he := (effectOn_setGroup (s := s) rfl e.group (refill g (dBand q.desc) false (blockCell g gb e q) (rawTag (e.fmts.1 - 16)))).endPoison
    (bandPoison e.group (dBand q.desc) 0)
  rw [← entryEffect_tmm_bfp hr.group core hsegs hq hgb hop] at he
  exact hr.tmm_ends hop hsegs hq hjob hopen he fun h hc ht =>
    ⟨fillsBand_of_cells g _ (hc.trans (refill_cells ..)) fun _ _ => ofSigned_lt 32 _, by rw [ht, refill_tag]⟩

end

end

end Sys2Proof.Machine
end

section
/-!
PROOFS. What tile entries write to memory when they retire: cells, converted cells and tiles (R288, R289, R291).
-/

namespace Sys2Proof.Machine

/-! ## Lists by rows -/

theorem map_rows {α : Type} (r c : Nat) (f : Nat → Nat → α) :
    (List.range r).flatMap (fun i => (List.range c).map (f i)) = (List.range (r * c)).map fun n => f (n / c) (n % c) := by
  have h := flatMap_rows r c fun i j => [f i j]
  simpa only [← List.map_eq_flatMap] using h

theorem orAll_rows (r c : Nat) (f : Nat → Nat → Nat) :
    orAll ((List.range r).map fun i => orAll ((List.range c).map (f i))) = orAll ((List.range (r * c)).map fun n => f (n / c) (n % c)) := by
  rw [← map_rows, orAll_flatMap]

/-! ## Bytes of a band -/

theorem bandBytes_eq (g : Group) (b : Nat) (wide : Bool) :
    bandBytes g b wide = (List.range 4096).flatMap fun n => leBytes (if wide then 8 else 4) (bandCell g b wide (n / 64) (n % 64)) := by
  cases wide with
  | false => rfl
  | true => rfl

theorem length_bandBytes (g : Group) (b : Nat) (wide : Bool) : (bandBytes g b wide).length = if wide then 32768 else 16384 := by
  rw [bandBytes_eq, length_flatMap_const fun n => length_leBytes _ _, List.length_range]
  cases wide with
  | false => rfl
  | true => rfl

/-! ## Conversion (R289) -/

/-- A cell converted to an element of the entry's second type. -/
def convertedCell (e : TileEntry) (rnd : Nat) (sat : Bool) (g : Group) (i j : Nat) : Nat × Nat :=
  convert (fmtOf (e.fmts.1 - 12)) (fmtOf (e.fmts.2 - 12)) rnd 0 sat (flushBit e.mode (e.fmts.1 - 12)) (flushBit e.mode (e.fmts.2 - 12))
    (bandCell g (dBand e.desc) (e.fmts.1 == 12) i j)

/-- The 32 cells of a block of a row. -/
def blockCells (e : TileEntry) (g : Group) (i q : Nat) : List Nat :=
  (List.range 32).map fun j => bandCell g (dBand e.desc) (e.fmts.1 == 12) i (32 * q + j)

/-- They as a block: exponent, elements, whether any was rounded. -/
def encodedBlock (e : TileEntry) (rnd : Nat) (g : Group) (i q : Nat) : Nat × List Nat × Bool :=
  bfpEncode (e.fmts.2 - 16) rnd ((blockCells e g i q).map (fmtOf (e.fmts.1 - 12)).val)

/-- The bytes of its elements. -/
def blockData (e : TileEntry) (rnd : Nat) (g : Group) (i q : Nat) : List Byte :=
  leBytes (4 * (e.fmts.2 - 16)) (packElems (e.fmts.2 - 16) 32 fun j => (encodedBlock e rnd g i q).2.1.getD j 0)

theorem length_blockData (e : TileEntry) (rnd : Nat) (g : Group) (i q : Nat) : (blockData e rnd g i q).length = 4 * (e.fmts.2 - 16) :=
  length_leBytes ..

section
variable (e : TileEntry) (rnd : Nat) (sat : Bool) (g : Group)

theorem convertBand_rows : convertBand e rnd sat g =
    let rows := (List.range 64).map fun i => convertRow e rnd sat (bandCell g (dBand e.desc) (e.fmts.1 == 12) i)
    ((rows.flatMap fun r => r.1) ++ (rows.flatMap fun r => r.2.1), orAll (rows.map fun r => r.2.2)) := by
  have hcell (i : Nat) : (fun j => if e.fmts.1 = 12 then pairAt g (dBand e.desc) i j else cellAt g (dBand e.desc) i j) =
      bandCell g (dBand e.desc) (e.fmts.1 == 12) i := by
    funext j
    simp only [bandCell, beq_iff_eq]
  simp only [convertBand, hcell]
  rfl

theorem convertRow_elements (h : e.fmts.2 < 18) (i : Nat) :
    convertRow e rnd sat (bandCell g (dBand e.desc) (e.fmts.1 == 12) i) =
      ((List.range 64).flatMap fun j => leBytes ((fmtOf (e.fmts.2 - 12)).w / 8) (convertedCell e rnd sat g i j).1, [],
        orAll ((List.range 64).map fun j => (convertedCell e rnd sat g i j).2)) := by
  simp only [convertRow, if_neg (Nat.not_le.2 h), List.flatMap_map, List.map_map]
  rfl

theorem convertRow_blocks (h : 18 ≤ e.fmts.2) (i : Nat) :
    convertRow e rnd sat (bandCell g (dBand e.desc) (e.fmts.1 == 12) i) =
      ((List.range 2).flatMap (blockData e rnd g i), (List.range 2).map fun q => BitVec.ofNat 8 (encodedBlock e rnd g i q).1,
        orAll ((List.range 2).map fun q => bfpFlags (fmtOf (e.fmts.1 - 12)) (blockCells e g i q) (encodedBlock e rnd g i q))) := by
  have hr : List.range 2 = [0, 1] := by decide
  simp only [convertRow, if_pos h, hr, List.flatMap_cons, List.flatMap_nil, List.append_nil, List.map_cons, List.map_nil, orAll,
    List.foldl_cons, List.foldl_nil, Nat.zero_or]
  rfl

/-- Every cell of a band becomes an element, in row order. -/
theorem convertBand_elements (h : e.fmts.2 < 18) : convertBand e rnd sat g =
    ((List.range 4096).flatMap fun n => leBytes ((fmtOf (e.fmts.2 - 12)).w / 8) (convertedCell e rnd sat g (n / 64) (n % 64)).1,
      orAll ((List.range 4096).map fun n => (convertedCell e rnd sat g (n / 64) (n % 64)).2)) := by
  have hbytes := flatMap_rows 64 64 fun i j => leBytes ((fmtOf (e.fmts.2 - 12)).w / 8) (convertedCell e rnd sat g i j).1
  have hflags := orAll_rows 64 64 fun i j => (convertedCell e rnd sat g i j).2
  have hexps : (List.range 64).flatMap (fun _ => ([] : List Byte)) = [] := List.flatMap_eq_nil_iff.2 fun _ _ => rfl
  rw [convertBand_rows]
  simp only [convertRow_elements e rnd sat g h, List.flatMap_map, List.map_map, Function.comp_def, hbytes, hflags, hexps, List.append_nil,
    Nat.reduceMul]

/-- Every 32 cells of a row become a block: the blocks in row order, then their exponents. -/
theorem convertBand_blocks (h : 18 ≤ e.fmts.2) : convertBand e rnd sat g =
    ((List.range 128).flatMap (fun n => blockData e rnd g (n / 2) (n % 2)) ++
        (List.range 128).map (fun n => BitVec.ofNat 8 (encodedBlock e rnd g (n / 2) (n % 2)).1),
      orAll ((List.range 128).map fun n =>
        bfpFlags (fmtOf (e.fmts.1 - 12)) (blockCells e g (n / 2) (n % 2)) (encodedBlock e rnd g (n / 2) (n % 2)))) := by
  have hbytes := flatMap_rows 64 2 (blockData e rnd g)
  have hexps := map_rows 64 2 fun i q => (BitVec.ofNat 8 (encodedBlock e rnd g i q).1 : Byte)
  have hflags := orAll_rows 64 2 fun i q => bfpFlags (fmtOf (e.fmts.1 - 12)) (blockCells e g i q) (encodedBlock e rnd g i q)
  rw [convertBand_rows]
  simp only [convertRow_blocks e rnd sat g h, List.flatMap_map, List.map_map, Function.comp_def, hbytes, hexps, hflags, Nat.reduceMul]

end

/-! ## An entry's writes -/

/-- The entry writes n bytes, does f and leaves its queue. -/
def EntryWrites (s : State) (core : Nat) (fault : Bool) (e : TileEntry) (n : Nat) (f : State → State) (bs : List Byte) : Prop :=
  bs.length = n ∧
    exec (.tileEntryRetire core e.id fault) s = .next (retireEntry (countReaders (f (entryWrite s e bs)) false (nowSlots e)) core e)

section
variable {s : State} {core : Nat} {fault : Bool} {e : TileEntry} {g : Group} (hr : Retires s core fault e g)
include hr

/-- `acc.st` writes the cells in row order (R288). -/
theorem Retires.accSt_writes (hop : e.op = .accSt) :
    EntryWrites s core fault e (if e.fmts.1 == 12 then 32768 else 16384) (fun s => s) (bandBytes g (dBand e.desc) (e.fmts.1 == 12)) := by
  have heff : entryEffect s core e = entryWrite s e (bandBytes g (dBand e.desc) (e.fmts.1 == 12)) := by
    simp only [entryEffect, hop, hr.group]
  refine ⟨length_bandBytes .., ?_⟩
  rw [hr.exec_of_not_tmm (by simp [hop]), heff]

/-- `acc.cvst` writes what its band converts to and merges the flags (R289). -/
theorem Retires.exec_accCvst {rnd : Nat} {sat : Bool} (hop : e.op = .accCvst rnd sat) :
    exec (.tileEntryRetire core e.id fault) s = .next (retireEntry (countReaders
      (mergeFlags (entryWrite s e (convertBand e rnd sat g).1) core e (convertBand e rnd sat g).2) false (nowSlots e)) core e) := by
  have heff : entryEffect s core e = mergeFlags (entryWrite s e (convertBand e rnd sat g).1) core e (convertBand e rnd sat g).2 := by
    simp only [entryEffect, hop, hr.group]
  rw [hr.exec_of_not_tmm (by simp [hop]), heff]

theorem Retires.accCvst_elements {rnd : Nat} {sat : Bool} (hop : e.op = .accCvst rnd sat) (hty : e.fmts.2 < 18) :
    EntryWrites s core fault e (4096 * ((fmtOf (e.fmts.2 - 12)).w / 8))
      (fun s => mergeFlags s core e (orAll ((List.range 4096).map fun n => (convertedCell e rnd sat g (n / 64) (n % 64)).2)))
      ((List.range 4096).flatMap fun n => leBytes ((fmtOf (e.fmts.2 - 12)).w / 8) (convertedCell e rnd sat g (n / 64) (n % 64)).1) := by
  refine ⟨?_, ?_⟩
  · rw [length_flatMap_const fun n => length_leBytes _ _, List.length_range]
  · rw [hr.exec_accCvst hop, convertBand_elements e rnd sat g hty]

theorem Retires.accCvst_blocks {rnd : Nat} {sat : Bool} (hop : e.op = .accCvst rnd sat) (hty : 18 ≤ e.fmts.2) :
    EntryWrites s core fault e (512 * (e.fmts.2 - 16) + 128)
      (fun s => mergeFlags s core e (orAll ((List.range 128).map fun n =>
        bfpFlags (fmtOf (e.fmts.1 - 12)) (blockCells e g (n / 2) (n % 2)) (encodedBlock e rnd g (n / 2) (n % 2)))))
      ((List.range 128).flatMap (fun n => blockData e rnd g (n / 2) (n % 2)) ++
        (List.range 128).map fun n => BitVec.ofNat 8 (encodedBlock e rnd g (n / 2) (n % 2)).1) := by
  refine ⟨?_, ?_⟩
  · rw [List.length_append, length_flatMap_const fun n => length_blockData e rnd g (n / 2) (n % 2), List.length_map, List.length_range]
    omega
  · rw [hr.exec_accCvst hop, convertBand_blocks e rnd sat g hty]

/-- `opm.st` writes the tile of its slot (R291). -/
theorem Retires.opmSt_writes (hop : e.op = .opmSt) :
    EntryWrites s core fault e (tileSize (slotTag g (bits e.desc.toNat 4 0))) (fun s => s) (tileBytes g (bits e.desc.toNat 4 0)) := by
  have heff : entryEffect s core e = entryWrite s e (tileBytes g (bits e.desc.toNat 4 0)) := by
    simp only [entryEffect, hop, hr.group]
  refine ⟨by rw [tileBytes, List.length_map, List.length_range], ?_⟩
  rw [hr.exec_of_not_tmm (by simp [hop]), heff]

end

end Sys2Proof.Machine
end

section
/-!
PROOFS. A tile that `opm.ld` reads fills its slot, sub-block by sub-block (R254, R258, R291).
-/

namespace Sys2Proof.Machine

/-! ## Tags -/

section
variable (t : Word) (n : Nat)

theorem slotReaders_setWritten : slotReaders (setBits t 15 8 n) = slotReaders t := bits_setBits_ne t n (by decide) (by decide) (by decide)

theorem tileSize_setWritten : tileSize (setBits t 15 8 n) = tileSize t := by
  have hk : slotK (setBits t 15 8 n) = slotK t := bits_setBits_ne t n (by decide) (by decide) (by decide)
  have hty : slotType (setBits t 15 8 n) = slotType t := bits_setBits_ne t n (by decide) (by decide) (by decide)
  rw [tileSize, hk, hty, ← tileSize]

theorem slotState_setState (hn : n < 8) : slotState (setBits t 2 0 n) = n :=
  (bits_setBits_self t n (by decide) (by decide)).trans (Nat.mod_eq_of_lt hn)

theorem slotReaders_setState : slotReaders (setBits t 2 0 n) = slotReaders t := bits_setBits_ne t n (by decide) (by decide) (by decide)

theorem tileSize_setState : tileSize (setBits t 2 0 n) = tileSize t := by
  have hk : slotK (setBits t 2 0 n) = slotK t := bits_setBits_ne t n (by decide) (by decide) (by decide)
  have hty : slotType (setBits t 2 0 n) = slotType t := bits_setBits_ne t n (by decide) (by decide) (by decide)
  rw [tileSize, hk, hty, ← tileSize]

end

/-- A tag after n sub-blocks have landed (R254). -/
def landedTag (t : Word) (n : Nat) : Word :=
  let w := setBits t 15 8 n
  if n * 128 ≥ tileSize w then setBits w 2 0 (if slotReaders w > 0 then 4 else 3) else setBits w 2 0 2

theorem tileSize_landedTag (t : Word) (n : Nat) : tileSize (landedTag t n) = tileSize t := by
  unfold landedTag
  extract_lets w
  have hw : tileSize w = tileSize t := tileSize_setWritten t n
  split
  · rw [tileSize_setState, hw]
  · rw [tileSize_setState, hw]

theorem slotReaders_landedTag (t : Word) (n : Nat) : slotReaders (landedTag t n) = slotReaders t := by
  unfold landedTag
  extract_lets w
  have hw : slotReaders w = slotReaders t := slotReaders_setWritten t n
  split
  · rw [slotReaders_setState, hw]
  · rw [slotReaders_setState, hw]

/-- A slot that nobody reads is full once its tile is whole. -/
theorem slotState_landedTag {t : Word} (n : Nat) (hr : slotReaders t = 0) :
    slotState (landedTag t n) = if 128 * n < tileSize t then 2 else 3 := by
  unfold landedTag
  extract_lets w
  have hw : slotReaders w = 0 := (slotReaders_setWritten t n).trans hr
  rw [show tileSize w = tileSize t from tileSize_setWritten t n, hw]
  by_cases h : 128 * n < tileSize t
  · rw [if_neg (by omega), if_pos h, slotState_setState _ _ (by decide)]
  · rw [if_pos (by omega), if_neg h, if_neg (lt_irrefl 0), slotState_setState _ _ (by decide)]

/-! ## Bytes -/

/-- Bytes put one by one from an offset on. -/
theorem tabGet_putRange (bs : List Byte) (off n : Nat) (d : Tab Byte) (k : Nat) :
    tabGet ((List.range n).foldl (fun d i => tabPut d (off + i) (bs.getD i 0)) d) k 0 =
      if off ≤ k ∧ k < off + n then bs.getD (k - off) 0 else tabGet d k 0 := by
  induction n with
  | zero => simp [show ¬ (off ≤ k ∧ k < off) by omega]
  | succ n ih =>
    rw [List.range_succ, List.foldl_append, List.foldl_cons, List.foldl_nil]
    by_cases h : off + n = k
    · subst h
      simp
    · rw [tabGet_tabPut_ne _ _ _ h, ih]
      have hiff : (off ≤ k ∧ k < off + (n + 1)) ↔ off ≤ k ∧ k < off + n := by omega
      simp only [hiff]

/-! ## Sub-blocks -/

/-- A sub-block that has not landed yet (R258). -/
theorem slotLand_new {g : Group} {h off : Nat} {bs : List Byte} (hh : h < g.nslots)
    (hstate : (slotState (slotTag g h) == 1 || slotState (slotTag g h) == 2) = true) (hsize : off + 128 ≤ tileSize (slotTag g h))
    (hoff : off % 128 = 0) (hbs : bs.length = 128) (hnew : (tabGet g.slotWritten h []).contains (off / 128) = false) :
    slotLand g h off bs = some { g with
      slots := tabPut g.slots h (landedTag (slotTag g h) ((tabGet g.slotWritten h []).length + 1)),
      slotBytes := tabPut g.slotBytes h ((List.range 128).foldl (fun d i => tabPut d (off + i) (bs.getD i 0)) (tabGet g.slotBytes h [])),
      slotWritten := tabPut g.slotWritten h (off / 128 :: tabGet g.slotWritten h []) } := by
  have hok : (decide (h ≥ g.nslots) || !(slotState (slotTag g h) == 1 || slotState (slotTag g h) == 2) ||
      decide (off + 128 > tileSize (slotTag g h)) || off % 128 != 0 || bs.length != 128) = false := by
    rw [hstate, hbs, hoff, decide_eq_false (Nat.not_le.2 hh), decide_eq_false (Nat.not_lt.2 hsize)]
    rfl
  unfold slotLand
  rw [if_neg (Bool.eq_false_iff.1 hok)]
  simp only [hnew, hbs, Bool.false_eq_true, if_false, List.length_cons]
  rfl

/-- A slot of a tile into which the first n sub-blocks of bytes have landed, in order (R254, R258). -/
structure Landed (nslots h size : Nat) (bs : List Byte) (n : Nat) (g : Group) : Prop where
  slots : g.nslots = nslots
  tile : tileSize (slotTag g h) = size
  readers : slotReaders (slotTag g h) = 0
  state : slotState (slotTag g h) = if n = 0 then 1 else if 128 * n < size then 2 else 3
  count : (tabGet g.slotWritten h []).length = n
  below : ∀ i ∈ tabGet g.slotWritten h [], i < n
  bytes : ∀ k, k < 128 * n → tabGet (tabGet g.slotBytes h []) k 0 = bs.getD k 0

/-- The next sub-block in order lands: the slot is full with the last. -/
theorem Landed.next {nslots h size : Nat} {bs : List Byte} {n : Nat} {g : Group} (hl : Landed nslots h size bs n g) (hh : h < nslots)
    (hn : 128 * (n + 1) ≤ size) (hlen : bs.length = size) :
    ∃ q, slotLand g h (128 * n) ((bs.drop (128 * n)).take 128) = some q ∧ Landed nslots h size bs (n + 1) q := by
  have hblock : ((bs.drop (128 * n)).take 128).length = 128 := by
    rw [List.length_take, List.length_drop]
    omega
  have hstate : (slotState (slotTag g h) == 1 || slotState (slotTag g h) == 2) = true := by
    rw [hl.state, if_pos (by omega : 128 * n < size)]
    split
    · rfl
    · rfl
  have hoff : 128 * n / 128 = n := Nat.mul_div_cancel_left n (by decide)
  have hnew : (tabGet g.slotWritten h []).contains (128 * n / 128) = false := by
    rw [hoff]
    simpa using fun hm => absurd (hl.below n hm) (lt_irrefl n)
  refine ⟨_, slotLand_new (hl.slots ▸ hh) hstate (by rw [hl.tile]; omega) (Nat.mul_mod_right ..) hblock hnew, hl.slots, ?_, ?_, ?_, ?_, ?_,
    fun k hk => ?_⟩
  · rw [slotTag, tabGet_tabPut_self, tileSize_landedTag, hl.tile]
  · rw [slotTag, tabGet_tabPut_self, slotReaders_landedTag, hl.readers]
  · rw [slotTag, tabGet_tabPut_self, slotState_landedTag _ hl.readers, hl.tile, hl.count, if_neg n.succ_ne_zero]
  · rw [tabGet_tabPut_self, List.length_cons, hl.count]
  · intro i hi
    rw [tabGet_tabPut_self, hoff, List.mem_cons] at hi
    rcases hi with rfl | hi
    · exact Nat.lt_succ_self _
    · exact (hl.below i hi).trans (Nat.lt_succ_self n)
  · rw [tabGet_tabPut_self, tabGet_putRange]
    split
    next hin =>
      rw [List.getD_eq_getElem?_getD, List.getElem?_take_of_lt (by omega), List.getElem?_drop, Nat.add_sub_cancel' hin.1,
        ← List.getD_eq_getElem?_getD]
    next hout => exact hl.bytes k (by omega)

/-! ## The tile -/

/-- What `opm.ld` does with sub-block i of the bytes it has read: the poison of its sectors goes with it (R454). -/
def landNext (e : TileEntry) (h : Nat) (bs : List Byte) (bad : Nat → Bool) (s : State) (i : Nat) : State :=
  let q := landBlock s e.group h (128 * i) ((bs.drop (128 * i)).take 128)
  if q.2 then addPoison q.1 (([2 * i, 2 * i + 1].filter bad).map (slotPoison e.group h)) else q.1

theorem landNext_effect {s t : State} {e : TileEntry} {h i : Nat} {bs : List Byte} (bad : Nat → Bool) {g q : Group} (he : EffectOn s t e.group g)
    (hq : slotLand g h (128 * i) ((bs.drop (128 * i)).take 128) = some q) : EffectOn s (landNext e h bs bad t i) e.group q := by
  have hland : (groupAt t e.group).bind (fun g => slotLand g h (128 * i) ((bs.drop (128 * i)).take 128)) = some q := by
    rw [he.group]
    exact hq
  simp only [landNext, landBlock, hland, if_true]
  exact (he.setGroup q).withPoison _

/-- All the sub-blocks land, in order. -/
theorem landAll_effect {s t : State} {e : TileEntry} {nslots h size : Nat} {bs : List Byte} (bad : Nat → Bool) {g : Group}
    (he : EffectOn s t e.group g) (hl : Landed nslots h size bs 0 g) (hh : h < nslots) (hlen : bs.length = size) {n : Nat} (hn : 128 * n ≤ size) :
    ∃ q, EffectOn s ((List.range n).foldl (landNext e h bs bad) t) e.group q ∧ Landed nslots h size bs n q := by
  induction n with
  | zero => exact ⟨g, he, hl⟩
  | succ n ih =>
    obtain ⟨q, heq, hq⟩ := ih (by omega)
    obtain ⟨r, hr, hlr⟩ := hq.next hh hn hlen
    rw [List.range_succ, List.foldl_append]
    exact ⟨r, landNext_effect bad heq hr, hlr⟩

/-- `opm.ld` fills its slot (R291). -/
theorem Retires.opmLd_ends {s : State} {core : Nat} {fault : Bool} {e : TileEntry} {g : Group} (hr : Retires s core fault e g)
    (hop : e.op = .opmLd) (hsegs : e.segments = []) {h size : Nat} (hh : bits e.desc.toNat 4 0 = h) (hsize : tileSize (slotTag g h) = size)
    {s1 : State} {bs : List Byte} (hread : (entryRead s e size fun _ => []) = (s1, bs)) (hlen : bs.length = size)
    (hempty : slotState (slotTag g h) = 1) (hreaders : slotReaders (slotTag g h) = 0) (hslot : h < g.nslots) (hpos : 128 ≤ size)
    (hmod : size % 128 = 0) (hnone : tabGet g.slotWritten h [] = []) :
    EntryEnds s core fault e size fun q => slotState (slotTag q h) = 3 ∧ ∀ i, i < size → tabGet (tabGet q.slotBytes h []) i 0 = bs.getD i 0 := by
  have hs : standing s1 = standing s := by
    have hs := standing_entryRead s e size fun _ => []
    rw [hread] at hs
    exact hs
  have heff : entryEffect s core e =
      (List.range (size / 128)).foldl (landNext e h bs fun i => poisoned s1 (e.mem.getD i default) 64) s1 := by
    simp only [entryEffect, hop, hr.group, hh, hsize, hread, hlen]
    rfl
  have hstart : Landed g.nslots h size bs 0 g :=
    ⟨rfl, hsize, hreaders, hempty, by rw [hnone]; rfl, fun i hi => by simp [hnone] at hi, fun k hk => absurd hk (Nat.not_lt_zero k)⟩
  have hwhole : 128 * (size / 128) = size := Nat.mul_div_cancel' (Nat.dvd_of_mod_eq_zero hmod)
  obtain ⟨q, he, hq⟩ := landAll_effect (fun i => poisoned s1 (e.mem.getD i default) 64) (effectOn_of_standing hs hr.group) hstart hslot hlen
    hwhole.le
  rw [← heff] at he
  have hexec := hr.exec_of_not_tmm (by simp [hop])
  have hcount : countReaders (entryEffect s core e) false (nowSlots e) = entryEffect s core e := by
    rw [show nowSlots e = [] by simp only [nowSlots, entrySlots, hop]]
    rfl
  rw [hcount] at hexec
  refine entryEnds_of_retire (segs := e.segments) (steps := e.steps) (started := e.started) hexec hr.idle hr.job (by simp [hsegs]) he ?_ ⟨?_, ?_⟩
  · change notifyBytes _ e = size
    simp only [notifyBytes, hop, he.group, hh, Option.map_some, Option.getD_some, hq.tile]
  · refine hq.state.trans ?_
    rw [if_neg (by omega), hwhole, if_neg (lt_irrefl _)]
  · intro i hi
    exact hq.bytes i (by omega)

end Sys2Proof.Machine
end

section
/-!
PROOFS. Answers arrive, tile entries start and retire with their results, and job accesses perform (O54).
-/

namespace Sys2Proof.Machine

/-! ## Cells as the statement writes them -/

/-- An f64 cell takes one fused step for each k (R270). -/
theorem floatCell_f64 {g gb : Group} {e : TileEntry} {q : Segment} (hf : e.fmts.1 = 12) (i j : Nat) :
    floatCell g gb e q i j = (List.range (dKB q.desc)).foldl (fun c n =>
      dotRound (fmtOf 0) ((((fmtOf 0).val (slotElem g (dAH q.desc) i n)).mul ((fmtOf 0).val (slotElem gb (dBH q.desc) j n))).bind fun p =>
        ((fmtOf 0).val c).add p 1)) (bandCell g (dBand e.desc) (e.fmts.1 == 12) i j) := by
  unfold floatCell
  generalize bandCell g (dBand e.desc) (e.fmts.1 == 12) i j = c
  rw [hf, productCell_f64]

/-- Any other cell takes one exact sum for each group of k (R270, R276). -/
theorem floatCell_groups {g gb : Group} {e : TileEntry} {q : Segment} (hf : e.fmts.1 ≠ 12) (i j : Nat) :
    let n := if e.fmts.1 ≥ 16 then 64 else 32
    let f := fmtOf 1
    floatCell g gb e q i j = (List.range ((dKB q.desc + n - 1) / n)).foldl (fun c m =>
      let sum := (List.range (min n (dKB q.desc - n * m))).foldl (fun (a : Option FVal) r => a.bind fun v =>
        (((fmtOf (e.fmts.1 - 12)).val (slotElem g (dAH q.desc) i (n * m + r))).mul
          ((fmtOf (e.fmts.2 - 12)).val (slotElem gb (dBH q.desc) j (n * m + r)))).bind fun p => v.add p 1) (some (.fin true 0 0))
      if sum = none then f.canon else dotRound f ((f.val c).add (f.val (dotRound f sum)) 1))
      (bandCell g (dBand e.desc) (e.fmts.1 == 12) i j) := by
  simp only [floatCell, productCell_groups hf, kGroup_of_ne hf, addGroup_eq, groupSum, List.foldl_map, ceilDiv]

/-- `tsa` scales a raw cell, adds it exactly and rounds once (R272, notes/assumptions/43.md). -/
theorem scaleCell_eq (w eA eB acc raw : Nat) :
    let f := fmtOf 1
    let p : FVal := .fin (decide (toSigned 32 raw < 0)) (toSigned 32 raw).natAbs ((eA : Int) + eB - 254 - 2 * ((w : Int) - 2))
    scaleCell w eA eB acc raw = if eA = 255 ∨ eB = 255 ∨ f.isNaN acc = true then f.canon
      else dotRound f ((f.val acc).add (if f.isInf (dotRound f (some p)) then f.val (dotRound f (some p)) else p) 1) := by
  simp only [scaleCell, Bool.or_eq_true, decide_eq_true_eq, or_assoc]

/-! ## Keys -/

theorem arrivalRevoked_of_mem {s : State} {a : Arrival} (harea : a.word.area = .peer) (hkey : a.key ∈ s.mgmt.revoked) :
    arrivalRevoked s a = true := by
  simp [arrivalRevoked, harea, hkey]

theorem answerRevoked_of_mem {s : State} {pos : Nat} {u : Troupe} {loc : Loc} (harea : loc.area = .peer) (hsup : isSup pos = false)
    (hkey : troupeKey s u ∈ s.mgmt.revoked) : answerRevoked s pos u loc = true := by
  simp [answerRevoked, harea, hsup, hkey]

/-! ## A second run -/

/-- After a mismatch the entry has started anew and counts one more run (R269). -/
theorem restarted_of_mem {s : State} {core d : Nat} {f : DieSt → DieSt} {e q : TileEntry}
    (hq : q ∈ coreEntries (coreOf (modDie (modEntry s core e.id fun e => { e with reruns := e.reruns + 1, started := some s.cycle }) d f) core))
    (hid : q.id = e.id) : q.started = some s.cycle ∧ 0 < q.reruns := by
  have hmap {l : List TileEntry}
      (hm : q ∈ l.map fun r => if r.id = e.id then { r with reruns := r.reruns + 1, started := some s.cycle } else r) :
      q.started = some s.cycle ∧ 0 < q.reruns := by
    obtain ⟨r, -, rfl⟩ := List.mem_map.1 hm
    by_cases h : r.id = e.id
    · rw [if_pos h]
      exact ⟨rfl, Nat.succ_pos _⟩
    · rw [if_neg h] at hid
      exact absurd hid h
  have hcore : coreOf (modDie (modEntry s core e.id fun e => { e with reruns := e.reruns + 1, started := some s.cycle }) d f) core =
      coreOf (modEntry s core e.id fun e => { e with reruns := e.reruns + 1, started := some s.cycle }) core := rfl
  rw [hcore, modEntry, coreOf_modCore_self, mem_coreEntries] at hq
  exact hq.elim hmap hmap

/-- Settles O54: each clause by the lemma about its event. -/
theorem arrivalsAndTileEntries : Obligations.ArrivalsAndTileEntries := by
  unfold Obligations.ArrivalsAndTileEntries
  refine ⟨?_, ?_, ?_, ?_, ?_, ?_, ?_, ?_⟩
  · intro s s1 core sym lane ty y u loc bs hy hkind hu hopen hreply hloc harea hready hslot lanes got
    have hexec := (exec_symbolArrival hy hu hopen).trans
      (congrArg Host.Outcome.next (arriveLane_element hkind hreply hloc harea hready hslot))
    refine ⟨fun hanswer hread => ?_, fun hpeer hsup hkey => ?_⟩
    · rw [hexec, performLoad_element hkind hanswer hread]
      rfl
    · rw [hexec, performLoad_revoked hkind (answerRevoked_of_mem hpeer hsup hkey)]
      rfl
  · intro s core sym lane ty y u v hy hkind hu hopen hv
    rw [exec_symbolArrival hy hu hopen, arriveLane_reply hkind hv]
  · intro s n a ha rest
    exact ⟨exec_syncArrival ha, fun hpeer hkey => exec_syncArrival_revoked ha (arrivalRevoked_of_mem hpeer hkey)⟩
  · intro s core hi e hnoted hchoose begun
    refine ⟨_, exec_tileEntryStart hnoted hchoose, ?_⟩
    simp only [coreOf_modCore_self, modEntry, begun, and_self]
  · intro s core fault e g hfound hjob hchecked hg hclean hidle b wide cell num ends writes
    have hr : Retires s core fault e g := ⟨hfound, hjob, hchecked, hg, hclean, hidle⟩
    have hbytes : 16384 * (if wide then 2 else 1) = if wide then 32768 else 16384 := by cases wide <;> rfl
    have hnum (f : FFmt) (x : Option FVal) : num f x = dotRound f x := by
      rcases x with - | v
      · rfl
      · cases v <;> rfl
    refine ⟨fun hop hsegs => ?_, ?_, ?_, ?_, ?_, ?_, ?_, ?_, ?_⟩
    · rw [← hbytes]
      exact hr.accZero_ends hop hsegs
    · intro q gb hsegs hq hqjob hopen hsteps hgb x y k
      refine ⟨fun hop hwide => ?_, fun hop hwide => ?_, fun hop hwide => ?_⟩
      · have hends := hr.tmm_float_ends hsegs hq hqjob hopen hgb hop hsteps
        rw [hbytes, if_pos hwide] at hends
        simp only [hnum]
        exact hends.mono fun h hh i j hi hj => (hh i j hi hj).trans (floatCell_f64 (beq_iff_eq.1 hwide) i j)
      · have hends := hr.tmm_float_ends hsegs hq hqjob hopen hgb hop hsteps
        rw [hbytes, if_neg (Bool.eq_false_iff.1 hwide)] at hends
        simp only [hnum]
        exact hends.mono fun h hh i j hi hj => (hh i j hi hj).trans (floatCell_groups (beq_eq_false_iff_ne.1 hwide) i j)
      · exact (hr.tmm_bfp_ends hsegs hq hqjob hopen hgb hop).mono fun h hh => ⟨hh.2, hh.1⟩
    · intro hop hsegs hwide
      simp only [hnum]
      exact (hr.tsa_ends hop hsegs).mono fun h hh i j hi hj => (hh i j hi hj).trans (scaleCell_eq ..)
    · intro s1 bs hop hsegs hread
      rw [← hbytes]
      exact (hr.accLd_ends hop hsegs hread).mono fun h hh => ⟨hh.2, hh.1⟩
    · intro hop hsegs
      have hwrites := hr.accSt_writes hop
      rw [bandBytes_eq] at hwrites
      exact hwrites
    · rintro rnd sat hop hsegs hty fd rfl r
      exact hr.accCvst_elements hop hty
    · intro rnd sat hop hsegs hty w fs cells blk
      exact hr.accCvst_blocks hop hty
    · intro s1 bs hop hsegs h size hread hlen hempty hreaders hslot hpos hmod _ hnone
      exact hr.opmLd_ends hop hsegs rfl rfl hread hlen hempty hreaders hslot hpos hmod hnone
    · intro hop hsegs h
      exact hr.opmSt_writes hop
  · intro s core bfp e hfind hop hreruns
    refine ⟨_, exec_tileEntryRetire_mismatch hfind hop hreruns, rfl, ?_, fun q hq hid => ?_⟩
    · rw [dieAt_modDie_self]
      rfl
    · exact restarted_of_mem hq hid
  · intro s s1 die n i j f p hj hrun hbuilt hreach hf hscatter hjoin j1 hplan hwait
    have hperform := engineAccess_performs hj hrun hbuilt hreach hf hscatter hjoin hplan hwait
    refine ⟨fun hboot => ?_, fun hslot => ?_⟩
    · change execHomeUnitAccess (.engine die n i) s = _
      simp only [execHomeUnitAccess, hboot, hperform]
      rfl
    · change execSlotWrite die n i s = _
      simp only [execSlotWrite, hj, hslot, if_true, hperform]
      rfl
  · intro s s1 die n j g w key hi hj hfollow hrun hg hcauses hnotify hentry hroom
    exact exec_followOnEnqueue hj hrun hfollow hg hcauses hnotify hentry hroom

end Sys2Proof.Machine
end

section
/-!
PROOFS. What the lane instructions record (R31, R168): one law for each way in which the model ends a lane instruction, whatever its
elements are.
-/

namespace Sys2Proof.Machine

/-! ## Completing -/

/-- An instruction of n words goes on, with the values v recorded for its destination and the flags fl added. -/
def Completes (s : State) (x : Ctx) (n : Nat) (d : Operand) (v : Nat → Word) (fl : Nat) (o : Out) : Prop :=
  ∃ t, o = .next t ∧ Records s x n d v fl t

section
variable {s : State} {x : Ctx} {n : Nat} {d : Operand} {v v' : Nat → Word} {fl : Nat} {o : Out}

/-- The values recorded matter in the lanes that take part alone. -/
theorem Completes.congr (h : Completes s x n d v fl o) (hv : ∀ l, x.live.getLsbD l = true → v l = v' l) : Completes s x n d v' fl o := by
  obtain ⟨t, ho, r, ht, hr⟩ := h
  exact ⟨t, ho, r, ht, fun l hl => ⟨(hr l hl).1, (hr l hl).2.trans (hv l hl)⟩⟩

theorem completes_done {r : Reg} (h : Holds x r v) : Completes s x n d v fl (done s x n (addFlags (writeD x x.cl d r) fl)) :=
  ⟨_, rfl, r, rfl, h⟩

theorem completes_writeD {r : Reg} (h : Holds x r v) : Completes s x n d v 0 (done s x n (writeD x x.cl d r)) := by
  simpa using completes_done (fl := 0) h

theorem completes_writeLanes : Completes s x n d v 0 (done s x n (writeLanes x x.cl d v)) := completes_writeD (holds_known x v)

end

/-! ## Flags over elements and lanes (R168) -/

@[simp] theorem orAll_cons (b : Nat) (r : List Nat) : orAll (b :: r) = b ||| orAll r := by
  simpa [orAll] using orAll_append [b] r

/-- Flags gathered beside values. -/
theorem foldl_snd_eq_orAll {α : Type} (ls : List (α × Nat)) : ls.foldl (fun a e => a ||| e.2) 0 = orAll (ls.map Prod.snd) :=
  (List.foldl_map ..).symm

/-- What sets no flag need not be gathered. -/
theorem orAll_map_ite {α : Type} (p : α → Bool) (f : α → Nat) (ls : List α) :
    orAll (ls.map fun a => if p a then f a else 0) = orAll ((ls.filter p).map f) := by
  induction ls with
  | nil => rfl
  | cons a r ih => cases h : p a <;> simp [h, ih]

/-- Values computed in the lanes of a mask: each lane's value, and the flags of all of them. -/
theorem maskedLanes_getD {α : Type} (m : LaneMask) (g : Nat → α × Nat) (rest : α) {l : Nat} (hl : m.getLsbD l = true) :
    ((laneList.map fun l => if m.getLsbD l then g l else (rest, 0)).getD l (rest, 0)) = g l := by
  simp [laneList, List.getD_eq_getElem?_getD, BitVec.lt_of_getLsbD hl, hl]

theorem maskedLanes_flags {α : Type} (m : LaneMask) (g : Nat → α × Nat) (rest : α) :
    (laneList.map fun l => if m.getLsbD l then g l else (rest, 0)).foldl (fun a e => a ||| e.2) 0 = orAll ((maskLanes m).map fun l => (g l).2) := by
  have hsnd : (Prod.snd ∘ fun l => if m.getLsbD l then g l else (rest, 0)) = fun l => if m.getLsbD l then (g l).2 else 0 := by
    funext l
    exact apply_ite Prod.snd ..
  rw [foldl_snd_eq_orAll, List.map_map, hsnd]
  exact orAll_map_ite (fun l => m.getLsbD l) ..

theorem completes_writeFlagged {s : State} {x : Ctx} {n : Nat} {d : Operand} (g : Nat → Word × Nat) :
    Completes s x n d (fun l => (g l).1) (orAll ((maskLanes x.live).map fun l => (g l).2)) (done s x n (writeFlagged x d g)) := by
  rw [← maskedLanes_flags x.live g 0]
  exact (completes_done (holds_known x _)).congr fun l hl => congrArg Prod.fst (maskedLanes_getD x.live g 0 hl)

/-! ## Elements of a register (R41, R175) -/

theorem packElems_succ (w n : Nat) (f : Nat → Nat) : packElems w (n + 1) f = packElems w n f + f n % 2 ^ w * 2 ^ (w * n) := by
  have hfold (l : List Nat) (b : Nat) :
      l.foldr (fun i a => a + f i % 2 ^ w * 2 ^ (w * i)) b = l.foldr (fun i a => a + f i % 2 ^ w * 2 ^ (w * i)) 0 + b := by
    induction l with
    | nil => simp
    | cons i r ih => rw [List.foldr_cons, ih, List.foldr_cons]; omega
  rw [packElems, List.range_succ, List.foldr_append, hfold]
  simp [packElems]

/-- A register's elements matter modulo their width. -/
theorem packElems_congr {w n : Nat} {f g : Nat → Nat} (h : ∀ i, i < n → f i ≡ g i [MOD 2 ^ w]) : packElems w n f = packElems w n g := by
  induction n with
  | zero => rfl
  | succ n ih =>
    rw [packElems_succ, packElems_succ, ih fun i hi => h i (by omega), show f n % 2 ^ w = g n % 2 ^ w from h n (by omega)]

theorem packed_congr {w : Nat} {f g : Nat → Nat} (h : ∀ i, f i ≡ g i [MOD 2 ^ w]) : packed w f = packed w g :=
  congrArg word (packElems_congr fun i _ => h i)

/-- A register of one element. -/
theorem packed_64 (f : Nat → Nat) : packed 64 f = word (f 0) := by
  apply BitVec.eq_of_toNat_eq
  simp [packed, packElems, word]

theorem elemAt_lt (w i v : Nat) : elemAt w i v < 2 ^ w := Nat.mod_lt _ (Nat.two_pow_pos w)

/-- The one element of a register. -/
theorem elemAt_64 (v : Word) : elemAt 64 0 v.toNat = v.toNat := by
  simpa [elemAt] using Nat.mod_eq_of_lt v.isLt

/-- Elements computed with flags: the register they make, and the flags of all of them. -/
theorem flagElems_eq (w n : Nat) (g : Nat → Nat × Nat) :
    flagElems w n g = (word (packElems w n fun i => (g i).1), orAll ((List.range n).map fun i => (g i).2)) := by
  refine Prod.ext (congrArg word (packElems_congr fun i hi => ?_)) ?_
  · simp [List.getD_eq_getElem?_getD, hi, Nat.ModEq]
  · rw [flagElems, foldl_snd_eq_orAll, List.map_map]
    rfl

/-- The flags of n elements in each lane that takes part. -/
def elementFlags (x : Ctx) (n : Nat) (g : Nat → Nat → Nat × Nat) : Nat :=
  orAll ((maskLanes x.live).flatMap fun l => (List.range n).map fun i => (g l i).2)

theorem completes_flagElems {s : State} {x : Ctx} {n : Nat} {d : Operand} (w k : Nat) (g : Nat → Nat → Nat × Nat) :
    Completes s x n d (fun l => word (packElems w k fun i => (g l i).1)) (elementFlags x k g)
      (done s x n (writeFlagged x d fun l => flagElems w k (g l))) := by
  have h := completes_writeFlagged (s := s) (x := x) (n := n) (d := d) fun l => flagElems w k (g l)
  simp only [flagElems_eq] at h
  rw [elementFlags, orAll_flatMap]
  simpa only [flagElems_eq] using h

/-! ## Sources settled where they are read (R141, R147) -/

section
variable {x : Ctx} {ops : List Operand} {r : Reg}

/-- A settled source pends in no lane that takes part. -/
theorem pendMask_live (hops : settledOps x ops = true) (hr : r ∈ ops.filterMap (regOperand x)) : pendMask r &&& x.live = 0 := by
  rw [settledOps, List.all_eq_true] at hops
  have hpend := hops r hr
  rw [Bool.and_eq_true, beq_iff_eq] at hpend
  rw [Ctx.live, ← BitVec.and_assoc, hpend.1]
  exact BitVec.zero_and

/-- A settled source's form has no scale left in the lanes that take part. -/
theorem scale_live (hops : settledOps x ops = true) (hr : r ∈ ops.filterMap (regOperand x)) (hform : intForm r = true) {l : Nat}
    (hl : x.live.getLsbD l = true) : laneOf r.scale l = 0 := by
  rw [intForm, Bool.and_eq_true, bne_iff_ne, List.isEmpty_iff] at hform
  have hbit := congrArg (fun m => m.getLsbD l) (pendMask_live hops hr)
  rw [BitVec.getLsbD_and, hl, Bool.and_true, getLsbD_pendMask_form hform.1 hform.2 (BitVec.lt_of_getLsbD hl)] at hbit
  simpa using hbit

/-- A register operand reads the same in every view. -/
theorem operand_of_regOperand {o : Operand} (s : State) (v : View) (h : regOperand x o = some r) : operand s x v o = r := by
  cases o <;> simp_all [regOperand, operand]

/-- A source that is a register stands among those read. -/
theorem mem_registers {i : Nat} (h : ops[i]?.bind (regOperand x) = some r) :
    i < ops.length ∧ regOperand x (ops.getD i .zero) = some r ∧ r ∈ ops.filterMap (regOperand x) := by
  obtain ⟨o, ho, hreg⟩ := Option.bind_eq_some_iff.1 h
  obtain ⟨hi, -⟩ := List.getElem?_eq_some_iff.1 ho
  exact ⟨hi, by rw [List.getD_eq_getElem?_getD, ho]; exact hreg, List.mem_filterMap.2 ⟨o, List.mem_of_getElem? ho, hreg⟩⟩

end

end Sys2Proof.Machine
end

section
/-!
PROOFS. Integer lane instructions over settled sources (R175, R179 to R196): an instruction that may forward a pending source (R142) records
the same values where that source is settled in the lanes that take part.
-/

namespace Sys2Proof.Machine

/-! ## Forwarding a source that is settled where it is read (R142) -/

theorem getD_map_none {α β : Type} (g : α → Option β) (l : List α) (i : Nat) : (l.map g).getD i none = l[i]?.bind g := by
  rw [List.getD_eq_getElem?_getD, List.getElem?_map]
  cases l[i]? <;> rfl

/-- What forwards is one of the sources, and holds an integer form. -/
theorem forwards_some {x : Ctx} {d : Operand} {ops : List Operand} {i : Nat} (h : forwards x d ops = some i) :
    ∃ r, i < ops.length ∧ regOperand x (ops.getD i .zero) = some r ∧ r ∈ ops.filterMap (regOperand x) ∧ intForm r = true := by
  simp only [forwards] at h
  split at h
  case h_2 => exact nomatch h
  next j _ =>
  split at h
  case h_2 => simp at h
  next r hr =>
    obtain ⟨hcond, hi⟩ := Option.ite_none_right_eq_some.1 h
    obtain rfl := Option.some.inj hi
    obtain ⟨hlt, hreg, hmem⟩ := mem_registers (getD_map_none (regOperand x) ops j ▸ hr)
    exact ⟨r, hlt, hreg, hmem, (Bool.and_eq_true_iff.1 (Bool.and_eq_true_iff.1 hcond).2).1⟩

/-- A form with no scale left in the lanes that take part is known there (R139). -/
theorem holds_mkForm {x : Ctx} {scale off : Lanes} (sym : Nat) (unknown : LaneMask)
    (h : ∀ l, x.live.getLsbD l = true → laneOf scale l = 0) :
    Holds x { mkForm x.live sym scale off with unknown := unknown } (laneOf off) := by
  have hall : ((maskLanes x.live).all fun l => laneOf scale l == 0) = true :=
    List.all_eq_true.2 fun l hl => beq_iff_eq.2 (h l ((mem_maskLanes _ l).1 hl))
  rw [mkForm, if_pos hall]
  exact holds_known x (laneOf off)

/-- A forwarded source that is settled where it is read: g gives the result from its value. -/
theorem completes_compose {s : State} {x : Ctx} {n : Nat} {d : Operand} {ops : List Operand} {i : Nat}
    {g : Nat → Word × Word → Word × Word} (hf : forwards x d ops = some i) (hops : settledOps x ops = true)
    (hg : ∀ l p, (g l (0, p)).1 = 0) :
    Completes s x n d (fun l => (g l (0, word64 s x (ops.getD i .zero) l)).2) 0
      (compose s x n d ops (operand s x (.int 64) (ops.getD i .zero)) g) := by
  obtain ⟨r, -, hreg, hmem, hform⟩ := forwards_some hf
  simp only [word64, operand_of_regOperand s _ hreg]
  have hscale (l : Nat) (hl : x.live.getLsbD l = true) : laneOf r.scale l = 0 := scale_live hops hmem hform hl
  refine (completes_writeD (holds_mkForm r.sym _ fun l hl => ?scale)).congr fun l hl => ?value
  case scale =>
    rw [laneOf_mkLanes _ (BitVec.lt_of_getLsbD hl), hscale l hl]
    exact hg l _
  case value => rw [laneOf_mkLanes _ (BitVec.lt_of_getLsbD hl), hscale l hl]

/-! ## Element by element (R175) -/

/-- The register whose elements g gives from a source's elements. -/
def elementwise (s : State) (x : Ctx) (w : Nat) (a : Operand) (g : Nat → Nat) (l : Nat) : Word :=
  packed w fun i => g (elemAt w i (valueOf s x (.int w) a l))

/-- The register whose elements g gives from the pairs of two sources' elements. -/
def pairwise (s : State) (x : Ctx) (w : Nat) (a b : Operand) (g : Nat → Nat → Nat) (l : Nat) : Word :=
  packed w fun i => g (elemAt w i (valueOf s x (.int w) a l)) (elemAt w i (valueOf s x (.int w) b l))

theorem elementwise_64 (s : State) (x : Ctx) (a : Operand) (g : Nat → Nat) (l : Nat) :
    elementwise s x 64 a g l = word (g (word64 s x a l).toNat) := by
  rw [elementwise, packed_64]
  simp only [valueOf, elemAt_64, word64]

theorem pairwise_64 (s : State) (x : Ctx) (a b : Operand) (g : Nat → Nat → Nat) (l : Nat) :
    pairwise s x 64 a b g l = word (g (word64 s x a l).toNat (word64 s x b l).toNat) := by
  rw [pairwise, packed_64]
  simp only [valueOf, elemAt_64, word64]

theorem elementwise_congr {w : Nat} {g h : Nat → Nat} (hgh : ∀ a, a < 2 ^ w → g a ≡ h a [MOD 2 ^ w]) (s : State) (x : Ctx) (a : Operand) :
    elementwise s x w a g = elementwise s x w a h :=
  funext fun _ => packed_congr fun _ => hgh _ (elemAt_lt ..)

theorem pairwise_congr {w : Nat} {g h : Nat → Nat → Nat} (hgh : ∀ a b, a < 2 ^ w → b < 2 ^ w → g a b ≡ h a b [MOD 2 ^ w]) (s : State)
    (x : Ctx) (a b : Operand) : pairwise s x w a b g = pairwise s x w a b h :=
  funext fun _ => packed_congr fun _ => hgh _ _ (elemAt_lt ..) (elemAt_lt ..)

/-! ## The shapes of the integer instructions -/

section
variable {s : State} {x : Ctx} (hx : ctxOf s = some x)
include hx

theorem completes_use {ops : List Operand} {k : State → Ctx → Out} {n : Nat} {d : Operand} {v : Nat → Word} {fl : Nat}
    (hops : settledOps x ops = true) (hk : Completes s x n d v fl (k s x)) :
    Completes s x n d v fl (inClause s fun x => use s x ops k) := by
  rw [inClause_some hx, use_settled s x ops k hops]
  exact hk

theorem completes_binary {f : FA} (hops : settledOps x [f.a, f.b] = true) (op : Nat → Nat → Nat → Nat) :
    Completes s x 1 f.d (pairwise s x (packWidth f.pack.toNat) f.a f.b (op (packWidth f.pack.toNat))) 0 (binary s f op) :=
  completes_use hx hops completes_writeLanes

theorem completes_unary {f : FA} (hops : settledOps x [f.a] = true) (op : Nat → Nat → Nat) :
    Completes s x 1 f.d (elementwise s x (packWidth f.pack.toNat) f.a (op (packWidth f.pack.toNat))) 0 (unary s f op) :=
  completes_use hx hops completes_writeLanes

theorem completes_divide {f : FX} (hops : settledOps x [f.a, f.b] = true) (op : Nat → Nat → Nat → Nat) :
    Completes s x 2 f.d (pairwise s x (packWidth f.pack.toNat) f.a f.b (op (packWidth f.pack.toNat))) 0 (divide s f op) :=
  completes_use hx hops completes_writeLanes

/-- An instruction that forwards composes forms as it computes on values: ga on the first source, gb on the second. -/
theorem completes_binaryFwd {f : FA} (hops : settledOps x [f.a, f.b] = true) {op : Nat → Nat → Nat → Nat}
    {ga gb : Option (Word → Word × Word → Word × Word)}
    (ha : ∀ g ∈ ga, ∀ k p, g k (0, p) = (0, word (op 64 p.toNat k.toNat)))
    (hb : ∀ g ∈ gb, ∀ k p, g k (0, p) = (0, word (op 64 k.toNat p.toNat))) :
    Completes s x 1 f.d (pairwise s x (packWidth f.pack.toNat) f.a f.b (op (packWidth f.pack.toNat))) 0 (binaryFwd s f op ga gb) := by
  have hstrict := completes_binary hx hops op
  by_cases hp : f.pack = 0
  case neg => simpa only [binaryFwd, inClause_some hx, if_neg hp] using hstrict
  rw [binaryFwd, inClause_some hx, if_pos hp]
  have hw : packWidth f.pack.toNat = 64 := by rw [hp]; rfl
  split
  next hf =>
    split
    next g =>
      refine (completes_compose hf hops fun l p => by rw [ha g rfl]).congr fun l _ => ?_
      rw [ha g rfl, hw, pairwise_64]
      rfl
    next => exact hstrict
  next i hne hf =>
    obtain ⟨-, hi, -⟩ := forwards_some hf
    obtain rfl : i = 1 := by
      have : i < 2 := hi
      have : i ≠ 0 := hne
      omega
    split
    next g =>
      refine (completes_compose hf hops fun l p => by rw [hb g rfl]).congr fun l _ => ?_
      rw [hb g rfl, hw, pairwise_64]
      rfl
    next => exact hstrict
  next => exact hstrict

end

end Sys2Proof.Machine
end

section
/-!
PROOFS. Numbers of w bits (R41, R175, R180 to R186): signed readings, wrapping, and the rules' formulas beside the model's.
-/

namespace Sys2Proof.Machine

/-! ## Signed readings and wrapping -/

theorem ofSigned_cast (w : Nat) (v : Int) : (ofSigned w v : Int) = v % 2 ^ w :=
  Int.toNat_of_nonneg (Int.emod_nonneg v (by positivity))

/-- A number and a signed value that differ by a multiple of 2^w give the same element. -/
theorem modEq_ofSigned {w n : Nat} {v : Int} (h : (n : Int) ≡ v [ZMOD 2 ^ w]) : n ≡ ofSigned w v [MOD 2 ^ w] := by
  refine Int.natCast_modEq_iff.1 ?_
  push_cast
  rw [ofSigned_cast]
  exact h.trans (Int.mod_modEq v _).symm

/-- A signed reading differs from the element by a multiple of 2^w. -/
theorem toSigned_modEq (w v : Nat) : toSigned w v ≡ v [ZMOD 2 ^ w] := by
  have hmod : ((v % 2 ^ w : Nat) : Int) ≡ v [ZMOD 2 ^ w] := by
    push_cast
    exact Int.mod_modEq ..
  unfold toSigned
  split
  · exact hmod
  · simpa using hmod.sub (Int.modEq_zero_iff_dvd.2 (dvd_refl ((2 : Int) ^ w)))

/-- Reading an element as signed and wrapping it again gives the element. -/
theorem modEq_ofSigned_toSigned (w v : Nat) : v ≡ ofSigned w (toSigned w v) [MOD 2 ^ w] := modEq_ofSigned (toSigned_modEq w v).symm

/-! ## Sums, bits and shifts (R180, R183, R184) -/

theorem sub_modEq (w a b : Nat) : a + (2 ^ w - b % 2 ^ w) ≡ ofSigned w ((a : Int) - b) [MOD 2 ^ w] := by
  refine modEq_ofSigned (Int.modEq_iff_dvd.2 ⟨-(b / 2 ^ w : Nat) - 1, ?_⟩)
  have hle : b % 2 ^ w ≤ 2 ^ w := (Nat.mod_lt b (Nat.two_pow_pos w)).le
  have hdiv := Nat.div_add_mod b (2 ^ w)
  zify [hle] at hdiv ⊢
  linear_combination hdiv

theorem neg_modEq (w a : Nat) (h : a < 2 ^ w) : ofSigned w (-(a : Int)) ≡ (2 ^ w - a) % 2 ^ w [MOD 2 ^ w] := by
  refine ((Nat.mod_modEq ..).trans (modEq_ofSigned (Int.modEq_iff_dvd.2 ⟨-1, ?_⟩))).symm
  zify [h.le]
  ring

/-- R183: `andn` keeps the bits of a that b lacks. -/
theorem andn_eq {w a b : Nat} (ha : a < 2 ^ w) (hb : b < 2 ^ w) : a &&& (2 ^ w - 1 - b % 2 ^ w) = a ^^^ (a &&& b) := by
  refine Nat.eq_of_testBit_eq fun i => ?_
  rw [Nat.mod_eq_of_lt hb, Nat.sub_sub, Nat.add_comm 1 b, Nat.testBit_and, Nat.testBit_two_pow_sub_succ hb, Nat.testBit_xor, Nat.testBit_and]
  by_cases hi : i < w
  · cases a.testBit i <;> cases b.testBit i <;> simp [hi]
  · simp [Nat.testBit_lt_two_pow (ha.trans_le (Nat.pow_le_pow_right (by decide) (Nat.le_of_not_lt hi)))]

/-- R184: the two parts of a rotated element share no bit. -/
theorem rot_modEq {w a : Nat} (b : Nat) (hw : 0 < w) (ha : a < 2 ^ w) :
    a * 2 ^ (b % w) + a / 2 ^ (w - b % w) ≡ ((a <<< (b % w)) ||| (a >>> (w - b % w))) % 2 ^ w [MOD 2 ^ w] := by
  have hk : b % w < w := Nat.mod_lt b hw
  have hlow : a >>> (w - b % w) < 2 ^ (b % w) := by
    rw [Nat.shiftRight_eq_div_pow, Nat.div_lt_iff_lt_mul (Nat.two_pow_pos _), ← Nat.pow_add, Nat.add_sub_cancel' hk.le]
    exact ha
  rw [← Nat.shiftLeft_add_eq_or_of_lt hlow, Nat.shiftLeft_eq, Nat.shiftRight_eq_div_pow]
  exact (Nat.mod_modEq ..).symm

/-! ## The smaller and the larger (R185) -/

/-- The choice between two by either order of the comparison. -/
theorem ite_lt_eq_ite_le {a b : Int} (m n : Nat) : (if b < a then n else m) = if a ≤ b then m else n := by
  simp only [← not_lt, ite_not]

theorem mins_modEq (w a b : Nat) :
    (if toSigned w b < toSigned w a then b else a) ≡ ofSigned w (min (toSigned w a) (toSigned w b)) [MOD 2 ^ w] := by
  split
  next h =>
    rw [min_eq_right h.le]
    exact modEq_ofSigned_toSigned w b
  next h =>
    rw [min_eq_left (not_lt.1 h)]
    exact modEq_ofSigned_toSigned w a

theorem maxs_modEq (w a b : Nat) :
    (if toSigned w a < toSigned w b then b else a) ≡ ofSigned w (max (toSigned w a) (toSigned w b)) [MOD 2 ^ w] := by
  split
  next h =>
    rw [max_eq_right h.le]
    exact modEq_ofSigned_toSigned w b
  next h =>
    rw [max_eq_left (not_lt.1 h)]
    exact modEq_ofSigned_toSigned w a

/-! ## Counting and reversing bits (R186) -/

theorem clz_eq (w a : Nat) : w - bitLen a = w - a.log2 - (if a = 0 then 0 else 1) := by
  unfold bitLen
  split
  next h => simp [h]
  next => omega

/-- The entries before the first that a test accepts. -/
theorem length_takeWhile_not {α : Type} (p : α → Bool) (l : List α) : (l.takeWhile fun a => !p a).length = l.findIdx p := by
  induction l with
  | nil => rfl
  | cons a r ih => cases h : p a <;> simp [List.findIdx_cons, h, ih]

theorem trailingZeros_eq (w a : Nat) : trailingZeros w a = ((List.range w).takeWhile fun i => !a.testBit i).length := by
  rw [length_takeWhile_not, trailingZeros]
  cases h : (List.range w).find? fun i => a.testBit i with
  | none =>
    have hnone : ∀ i ∈ List.range w, ¬ a.testBit i = true := List.find?_eq_none.1 h
    exact ((List.findIdx_eq_length.2 fun i hi => Bool.eq_false_iff.2 (hnone i hi)).trans List.length_range).symm
  | some i =>
    obtain ⟨hi, hlt, hbelow⟩ := List.find?_range_eq_some.1 h
    refine ((List.findIdx_eq (by simpa using hlt)).2 ⟨by simpa using hi, fun j hj => ?_⟩).symm
    simpa using hbelow j hj

theorem popcount_eq (w a : Nat) : popcount w a = ((List.range w).map fun i => a / 2 ^ i % 2).sum := by
  have hfilter (l : List Nat) : (l.filter fun i => a.testBit i).length = (l.map fun i => a / 2 ^ i % 2).sum := by
    induction l with
    | nil => rfl
    | cons i r ih =>
      rw [List.map_cons, List.sum_cons, ← ih, ← Nat.toNat_testBit]
      cases h : a.testBit i <;> simp [h, Nat.add_comm]
  exact hfilter _

theorem brev_eq (w a : Nat) :
    (List.range w).foldr (fun j b => b + (if a.testBit j then 2 ^ (w - 1 - j) else 0)) 0 =
      ((List.range w).map fun i => a / 2 ^ i % 2 * 2 ^ (w - 1 - i)).sum := by
  have hfold (l : List Nat) : l.foldr (fun j b => b + (if a.testBit j then 2 ^ (w - 1 - j) else 0)) 0 =
      (l.map fun i => a / 2 ^ i % 2 * 2 ^ (w - 1 - i)).sum := by
    induction l with
    | nil => rfl
    | cons i r ih =>
      rw [List.foldr_cons, ih, List.map_cons, List.sum_cons, ← Nat.toNat_testBit]
      cases h : a.testBit i <;> simp [Nat.add_comm]
  exact hfold _

theorem abs_modEq (w a : Nat) : (toSigned w a).natAbs ≡ ofSigned w |toSigned w a| [MOD 2 ^ w] :=
  modEq_ofSigned (by rw [Int.natCast_natAbs])

end Sys2Proof.Machine
end

section
/-!
PROOFS. The integer instructions of format A (R180, R181, R183 to R186): each computes the rule's formula on every element.
-/

namespace Sys2Proof.Machine

/-! ## Composed values (R142) -/

@[simp] theorem word_toNat (v : Word) : word v.toNat = v := by simp [word]

theorem word_add (a b : Nat) : word (a + b) = word a + word b := BitVec.ofNat_add ..

theorem word_mul (a b : Nat) : word (a * b) = word a * word b := BitVec.ofNat_mul ..

theorem word_sub (a b : Word) : word (a.toNat + (2 ^ 64 - b.toNat % 2 ^ 64)) = a - b := by
  refine BitVec.eq_of_toNat_eq ?_
  rw [BitVec.toNat_sub, Nat.mod_eq_of_lt b.isLt, Nat.add_comm]
  exact BitVec.toNat_ofNat ..

theorem word_neg (a : Word) : word (ofSigned 64 (-(a.toNat : Int))) = -a := by
  refine BitVec.eq_of_toNat_eq ?_
  rw [BitVec.toNat_neg]
  refine (BitVec.toNat_ofNat ..).trans ((neg_modEq 64 _ a.isLt).trans (Nat.mod_mod ..))

/-! ## Each instruction of the table -/

section
variable {s : State} {x : Ctx} (hx : ctxOf s = some x)
include hx

/-- The model's operation agrees with g on elements of the width in force. -/
theorem completes_binary_of {f : FA} (hops : settledOps x [f.a, f.b] = true) {op : Nat → Nat → Nat → Nat} {g : Nat → Nat → Nat} {o : Out}
    (ho : o = binary s f op) (hop : ∀ a b, a < 2 ^ packWidth f.pack.toNat → b < 2 ^ packWidth f.pack.toNat →
      op (packWidth f.pack.toNat) a b ≡ g a b [MOD 2 ^ packWidth f.pack.toNat]) :
    Completes s x 1 f.d (pairwise s x (packWidth f.pack.toNat) f.a f.b g) 0 o := by
  rw [ho, ← pairwise_congr hop]
  exact completes_binary hx hops op

theorem completes_binaryFwd_of {f : FA} (hops : settledOps x [f.a, f.b] = true) {op : Nat → Nat → Nat → Nat} {g : Nat → Nat → Nat}
    {ga gb : Option (Word → Word × Word → Word × Word)} {o : Out} (ho : o = binaryFwd s f op ga gb)
    (ha : ∀ g ∈ ga, ∀ k p, g k (0, p) = (0, word (op 64 p.toNat k.toNat)))
    (hb : ∀ g ∈ gb, ∀ k p, g k (0, p) = (0, word (op 64 k.toNat p.toNat)))
    (hop : ∀ a b, a < 2 ^ packWidth f.pack.toNat → b < 2 ^ packWidth f.pack.toNat →
      op (packWidth f.pack.toNat) a b ≡ g a b [MOD 2 ^ packWidth f.pack.toNat]) :
    Completes s x 1 f.d (pairwise s x (packWidth f.pack.toNat) f.a f.b g) 0 o := by
  rw [ho, ← pairwise_congr hop]
  exact completes_binaryFwd hx hops ha hb

theorem completes_unary_of {f : FA} (hops : settledOps x [f.a] = true) {op : Nat → Nat → Nat} {g : Nat → Nat} {o : Out}
    (ho : o = unary s f op) (hop : ∀ a, a < 2 ^ packWidth f.pack.toNat → op (packWidth f.pack.toNat) a ≡ g a [MOD 2 ^ packWidth f.pack.toNat]) :
    Completes s x 1 f.d (elementwise s x (packWidth f.pack.toNat) f.a g) 0 o := by
  rw [ho, ← elementwise_congr hop]
  exact completes_unary hx hops op

omit hx in
theorem packWidth_pos (pack : Nat) : 0 < packWidth pack := by
  unfold packWidth
  split_ifs <;> decide

/-- R180, R181, R183 to R185: each instruction's operation is the rule's formula modulo the element width. -/
theorem integerBinary_completes {f : FA} (hops : settledOps x [f.a, f.b] = true) : ∀ e ∈ integerBinary f,
    Completes s x 1 f.d (pairwise s x (packWidth f.pack.toNat) f.a f.b (e.2 (packWidth f.pack.toNat))) 0 (exec e.1 s) := by
  simp only [integerBinary, List.forall_mem_cons, List.not_mem_nil, IsEmpty.forall_iff, implies_true, and_true]
  refine ⟨?add, ?sub, ?mul, ?mulhs, ?mulhn, ?and, ?or, ?xor, ?andn, ?shl, ?shr, ?sar, ?rot, ?mins, ?minn, ?maxs, ?maxn⟩
  case add =>
    refine completes_binaryFwd_of hx hops (rfl : _ = execAdd f s) ?_ ?_ fun a b _ _ => (Nat.mod_modEq ..).symm
    · rintro _ ⟨⟩ k p
      simp [word_add]
    · rintro _ ⟨⟩ k p
      simp [word_add, BitVec.add_comm]
  case sub =>
    refine completes_binaryFwd_of hx hops (rfl : _ = execSub f s) ?_ ?_ fun a b _ _ => sub_modEq ..
    · rintro _ ⟨⟩ k p
      rw [word_sub]
    · rintro _ ⟨⟩ k p
      rw [word_sub]
      simp
  case mul =>
    refine completes_binaryFwd_of hx hops (rfl : _ = execMul f s) ?_ ?_ fun a b _ _ => (Nat.mod_modEq ..).symm
    · rintro _ ⟨⟩ k p
      simp [word_mul]
    · rintro _ ⟨⟩ k p
      simp [word_mul, BitVec.mul_comm]
  case mulhs => exact completes_binary_of hx hops (rfl : _ = execMulhs f s) fun _ _ _ _ => rfl
  case mulhn => exact completes_binary_of hx hops (rfl : _ = execMulhn f s) fun _ _ _ _ => rfl
  case and => exact completes_binary_of hx hops (rfl : _ = execAndI f s) fun _ _ _ _ => rfl
  case or => exact completes_binary_of hx hops (rfl : _ = execOrI f s) fun _ _ _ _ => rfl
  case xor => exact completes_binary_of hx hops (rfl : _ = execXorI f s) fun _ _ _ _ => rfl
  case andn => exact completes_binary_of hx hops (rfl : _ = execAndn f s) fun a b ha hb => congrArg (· % _) (andn_eq ha hb)
  case shl =>
    refine completes_binaryFwd_of hx hops (rfl : _ = execShl f s) ?_ nofun fun a b _ _ => ?_
    · rintro _ ⟨⟩ k p
      simp [word_mul]
    · rw [Nat.shiftLeft_eq]
      exact (Nat.mod_modEq ..).symm
  case shr => exact completes_binary_of hx hops (rfl : _ = execShr f s) fun a b _ _ => by rw [Nat.shiftRight_eq_div_pow]
  case sar => exact completes_binary_of hx hops (rfl : _ = execSar f s) fun _ _ _ _ => rfl
  case rot => exact completes_binary_of hx hops (rfl : _ = execRot f s) fun a b ha _ => rot_modEq b (packWidth_pos _) ha
  case mins => exact completes_binary_of hx hops (rfl : _ = execMins f s) fun a b _ _ => mins_modEq ..
  case minn => exact completes_binary_of hx hops (rfl : _ = execMinn f s) fun a b _ _ => by rw [Nat.min_def]
  case maxs => exact completes_binary_of hx hops (rfl : _ = execMaxs f s) fun a b _ _ => maxs_modEq ..
  case maxn => exact completes_binary_of hx hops (rfl : _ = execMaxn f s) fun a b _ _ => by rw [Nat.max_def]

/-- R186, R142: a forwarded negation. -/
theorem bitNeg_completes {f : FA} (hops : settledOps x [f.a] = true) :
    Completes s x 1 f.d (elementwise s x (packWidth f.pack.toNat) f.a fun a => (2 ^ packWidth f.pack.toNat - a) % 2 ^ packWidth f.pack.toNat) 0
      (exec (.bitNeg f) s) := by
  have hstrict := completes_unary hx hops fun w v => ofSigned w (-(v : Int))
  rw [← elementwise_congr fun a ha => neg_modEq _ a ha]
  change Completes _ _ _ _ _ _ (execBitNeg f s)
  rw [execBitNeg, inClause_some hx]
  split
  next i hf =>
    obtain ⟨hp, hf⟩ := Option.ite_none_right_eq_some.1 hf
    obtain ⟨-, hi, -⟩ := forwards_some hf
    obtain rfl : i = 0 := Nat.lt_one_iff.1 hi
    refine (completes_compose hf hops fun l p => ?scale).congr fun l _ => ?value
    case scale => simp
    case value =>
      rw [show packWidth f.pack.toNat = 64 by rw [hp]; rfl, elementwise_64, word_neg]
      rfl
  next => exact hstrict

theorem integerUnary_completes {f : FA} (hops : settledOps x [f.a] = true) : ∀ e ∈ integerUnary f,
    Completes s x 1 f.d (elementwise s x (packWidth f.pack.toNat) f.a (e.2 (packWidth f.pack.toNat))) 0 (exec e.1 s) := by
  simp only [integerUnary, List.forall_mem_cons, List.not_mem_nil, IsEmpty.forall_iff, implies_true, and_true]
  refine ⟨?clz, ?ctz, ?popc, ?brev, ?abs, bitNeg_completes hx hops, ?not, ?sext8, ?sext16, ?sext32⟩
  case clz => exact completes_unary_of hx hops (rfl : _ = execBitClz f s) fun a _ => by rw [clz_eq]
  case ctz => exact completes_unary_of hx hops (rfl : _ = execBitCtz f s) fun a _ => by rw [trailingZeros_eq]
  case popc => exact completes_unary_of hx hops (rfl : _ = execBitPopc f s) fun a _ => by rw [popcount_eq]
  case brev => exact completes_unary_of hx hops (rfl : _ = execBitBrev f s) fun a _ => by rw [brev_eq]
  case abs => exact completes_unary_of hx hops (rfl : _ = execBitAbs f s) fun a _ => abs_modEq ..
  case not => exact completes_unary_of hx hops (rfl : _ = execBitNot f s) fun _ _ => rfl
  case sext8 => exact completes_unary_of hx hops (rfl : _ = execBitSext8 f s) fun _ _ => rfl
  case sext16 => exact completes_unary_of hx hops (rfl : _ = execBitSext16 f s) fun _ _ => rfl
  case sext32 => exact completes_unary_of hx hops (rfl : _ = execBitSext32 f s) fun _ _ => rfl

end

/-! ## The obligations -/

/-- Settles O4: the model's operations agree with the rules' formulas modulo the element width, forwarded or not. -/
theorem integerElementResults : Obligations.IntegerElementResults :=
  ⟨fun _ _ _ hx hops => integerBinary_completes hx hops, fun _ _ _ hx hops => integerUnary_completes hx hops⟩

/-- Settles O43: each of the four picks one of its two elements. -/
theorem minimumAndMaximumElements : Obligations.MinimumAndMaximumElements := by
  intro f s x hx hops w a b out
  refine ⟨⟨rfl, ?mins⟩, ⟨rfl, ?minn⟩, ⟨rfl, ?maxs⟩, ⟨rfl, ?maxn⟩⟩
  case mins =>
    refine completes_binary_of hx hops (rfl : _ = execMins f s) (g := fun a b => if toSigned w a ≤ toSigned w b then a else b) fun a b _ _ => ?_
    rw [ite_lt_eq_ite_le]
  case minn => exact completes_binary_of hx hops (rfl : _ = execMinn f s) (g := min) fun _ _ _ _ => rfl
  case maxs =>
    refine completes_binary_of hx hops (rfl : _ = execMaxs f s) (g := fun a b => if toSigned w b ≤ toSigned w a then a else b) fun a b _ _ => ?_
    rw [ite_lt_eq_ite_le]
  case maxn => exact completes_binary_of hx hops (rfl : _ = execMaxn f s) (g := max) fun _ _ _ _ => rfl

end Sys2Proof.Machine
end

section
/-!
PROOFS. Integer division, multiply-add and bit fields (R182, R187, R190).
-/

namespace Sys2Proof.Machine

/-! ## Bit fields (R187) -/

/-- An element is its bits below a field, the field and the bits above it. -/
theorem eq_below_add_field_add_above (a p n : Nat) : a = a % 2 ^ p + a / 2 ^ p % 2 ^ n * 2 ^ p + a / 2 ^ (p + n) * 2 ^ (p + n) := by
  have hlow := Nat.div_add_mod a (2 ^ p)
  have hhigh := Nat.div_add_mod (a / 2 ^ p) (2 ^ n)
  rw [Nat.div_div_eq_div_mul, ← Nat.pow_add] at hhigh
  calc a = 2 ^ p * (2 ^ n * (a / 2 ^ (p + n)) + a / 2 ^ p % 2 ^ n) + a % 2 ^ p := by rw [hhigh, hlow]
    _ = _ := by rw [Nat.pow_add]; ring

/-- R187: `bfi` takes the field out and puts the new bits in. -/
theorem bfi_eq (a b p n : Nat) :
    a - bits a (p + n - 1) p * (if n = 0 then 0 else 2 ^ p) + b % 2 ^ n * 2 ^ p =
      a % 2 ^ p + b % 2 ^ n * 2 ^ p + a / 2 ^ (p + n) * 2 ^ (p + n) := by
  have hparts := eq_below_add_field_add_above a p n
  have hfield : bits a (p + n - 1) p * (if n = 0 then 0 else 2 ^ p) = a / 2 ^ p % 2 ^ n * 2 ^ p := by
    split
    next h => simp [h, Nat.mod_one]
    next h => rw [bits, show p + n - 1 + 1 - p = n by omega]
  rw [hfield]
  omega

/-! ## Division, multiply-add, fields (R182, R187, R190) -/

section
variable {s : State} {x : Ctx} (hx : ctxOf s = some x)
include hx

theorem integerDivision_completes {f : FX} (hops : settledOps x [f.a, f.b] = true) : ∀ e ∈ integerDivision f,
    Completes s x 2 f.d (pairwise s x (packWidth f.pack.toNat) f.a f.b (e.2 (packWidth f.pack.toNat))) 0 (exec e.1 s) := by
  simp only [integerDivision, List.forall_mem_cons, List.not_mem_nil, IsEmpty.forall_iff, implies_true, and_true]
  refine ⟨?quos, ?quon, ?rems, ?remn⟩
  case quos =>
    change Completes _ _ _ _ _ _ (execDivQuos f s)
    refine (completes_divide hx hops _).congr fun l _ => ?_
    simp only [Bool.and_eq_true, decide_eq_true_eq, and_assoc]
  case quon =>
    change Completes _ _ _ _ _ _ (execDivQuon f s)
    exact completes_divide hx hops _
  case rems =>
    change Completes _ _ _ _ _ _ (execDivRems f s)
    exact completes_divide hx hops _
  case remn =>
    change Completes _ _ _ _ _ _ (execDivRemn f s)
    exact completes_divide hx hops _

end

/-- Settles O5: the model's operations are the rules' own, written with divisions in place of shifts. -/
theorem divisionMultiplyAddAndFields : Obligations.DivisionMultiplyAddAndFields := by
  refine ⟨fun f s x hx hops => integerDivision_completes hx hops, ?_⟩
  intro f s x hx w el num
  refine ⟨fun hops => ?mad, fun hops => ?bfe, fun hops => ?bfi⟩
  case mad =>
    change Completes _ _ _ _ _ _ (execMad f s)
    exact completes_use hx hops completes_writeLanes
  case bfe =>
    change Completes _ _ _ _ _ _ (execBfe f s)
    simp only [Nat.shiftRight_eq_div_pow]
    exact completes_use hx hops completes_writeLanes
  case bfi =>
    change Completes _ _ _ _ _ _ (execBfi f s)
    refine (completes_use hx hops completes_writeLanes).congr fun l _ => packed_congr fun i => ?_
    exact congrArg (· % _) (bfi_eq ..)

end Sys2Proof.Machine
end

section
/-!
PROOFS. Moves, selects, address sums, integer conversion, compares and predicate operations (R180, R188, R189, R191 to R196).
-/

namespace Sys2Proof.Machine

/-- A shift to the left is a product with a power of two. -/
theorem shiftLeft_eq_mul_word (v : Word) (n : Nat) : v <<< n = v * word (2 ^ n) := by
  rw [BitVec.shiftLeft_eq_mul_twoPow]
  refine congrArg (v * ·) (BitVec.eq_of_toNat_eq ?_)
  rw [BitVec.toNat_twoPow]
  exact (BitVec.toNat_ofNat ..).symm

section
variable {s : State} {x : Ctx} (hx : ctxOf s = some x)
include hx

/-! ## Sums that forward (R180, R188, R142) -/

theorem addi_completes {f : FB} (hops : settledOps x [f.a] = true) :
    Completes s x 1 f.d (fun l => word64 s x f.a l + f.imm.signExtend 64) 0 (exec (.addi f) s) := by
  change Completes _ _ _ _ _ _ (execAddi f s)
  rw [execAddi, inClause_some hx]
  dsimp only
  split
  next i hf =>
    obtain ⟨-, hi, -⟩ := forwards_some hf
    obtain rfl : i = 0 := Nat.lt_one_iff.1 hi
    exact (completes_compose hf hops fun l p => by rfl).congr fun l _ => rfl
  next =>
    rw [use_settled s x _ _ hops]
    exact completes_writeLanes

theorem lea_completes {f : FX} (hops : settledOps x [f.a, f.b, f.c] = true) :
    Completes s x 2 f.d (fun l => word64 s x f.a l + word64 s x f.b l <<< (f.imm.toNat % 16) + word64 s x f.c l) 0 (exec (.lea f) s) := by
  change Completes _ _ _ _ _ _ (execLea f s)
  simp only [shiftLeft_eq_mul_word]
  rw [execLea, inClause_some hx]
  dsimp only
  split
  next hf =>
    refine (completes_compose hf hops fun l p => ?scale).congr fun l _ => ?value
    case scale => rfl
    case value => exact (BitVec.add_assoc ..).symm
  next hf =>
    refine (completes_compose hf hops fun l p => ?scale).congr fun l _ => ?value
    case scale => exact BitVec.zero_mul
    case value =>
      change word64 s x f.b l * _ + (word64 s x f.a l + _) = _
      rw [← BitVec.add_assoc, BitVec.add_comm (_ * _)]
  next =>
    rw [use_settled s x _ _ hops]
    exact completes_writeLanes

end

/-! ## The obligations -/

/-- Settles O6: the sums that forward compose; the others record the operand read, shifted, chosen or narrowed. -/
theorem movesSelectsAndConversions : Obligations.MovesSelectsAndConversions := by
  intro s x hx
  refine ⟨fun f hops => addi_completes hx hops, fun f hops => lea_completes hx hops, fun f hops => ?sel, fun f => ?movi, fun f hops => ?moviShifted,
    fun f hops => ?mov, fun f => ?plTomask, fun f hops => ?icvt, inClause_some hx _⟩
  case sel =>
    change Completes _ _ _ _ _ _ (execSel f s)
    refine (completes_use hx hops completes_writeLanes).congr fun l _ => ?_
    simp only [bne_iff_ne, ite_not]
  case movi =>
    change Completes _ _ _ _ _ _ (execMovi f s)
    rw [execMovi, inClause_some hx]
    exact completes_writeLanes
  case moviShifted =>
    change Completes _ _ _ _ _ _ (execMoviShifted f s)
    simp only [shiftLeft_eq_mul_word]
    exact completes_use hx hops completes_writeLanes
  case mov =>
    change Completes _ _ _ _ _ _ (execMov f s)
    exact completes_use hx hops completes_writeLanes
  case plTomask =>
    change Completes _ _ _ _ _ _ (execPlTomask f s)
    rw [execPlTomask, inClause_some hx]
    exact completes_writeLanes
  case icvt =>
    change Completes _ _ _ _ _ _ (execIcvt f s)
    exact completes_use hx hops completes_writeLanes

/-! ## Compares and predicate operations (R193, R194) -/

theorem recordsPred_of_done {s : State} {x : Ctx} {n q : Nat} {p : Nat → Bool} {o : Out} (h : o = done s x n (writePred x x.cl q p)) :
    ∃ t, o = .next t ∧ RecordsPred s x n q p 0 t :=
  ⟨_, h, by rw [RecordsPred, addFlags_zero]⟩

/-- The condition that each compare tests. -/
theorem integerCompare_condition (f : FC) (s : State) : ∀ e ∈ integerCompare f, ∃ cond : Nat → Nat → Nat → Bool,
    exec e.1 s = compare s f cond ∧ ∀ w a b, cond w a b = true ↔ e.2 w a b := by
  simp only [integerCompare, List.forall_mem_cons, List.not_mem_nil, IsEmpty.forall_iff, implies_true, and_true]
  refine ⟨?eq, ?ne, ?lts, ?les, ?gts, ?ges, ?ltn, ?len, ?gtn, ?gen, ?tst, ?tsz⟩
  case eq => exact ⟨_, (rfl : _ = execCmpEq f s), fun _ _ _ => beq_iff_eq⟩
  case ne => exact ⟨_, (rfl : _ = execCmpNe f s), fun _ _ _ => bne_iff_ne⟩
  case lts => exact ⟨_, (rfl : _ = execCmpLts f s), fun _ _ _ => decide_eq_true_iff⟩
  case les => exact ⟨_, (rfl : _ = execCmpLes f s), fun _ _ _ => decide_eq_true_iff⟩
  case gts => exact ⟨_, (rfl : _ = execCmpGts f s), fun _ _ _ => decide_eq_true_iff⟩
  case ges => exact ⟨_, (rfl : _ = execCmpGes f s), fun _ _ _ => decide_eq_true_iff⟩
  case ltn => exact ⟨_, (rfl : _ = execCmpLtn f s), fun _ _ _ => decide_eq_true_iff⟩
  case len => exact ⟨_, (rfl : _ = execCmpLen f s), fun _ _ _ => decide_eq_true_iff⟩
  case gtn => exact ⟨_, (rfl : _ = execCmpGtn f s), fun _ _ _ => decide_eq_true_iff⟩
  case gen => exact ⟨_, (rfl : _ = execCmpGen f s), fun _ _ _ => decide_eq_true_iff⟩
  case tst => exact ⟨_, (rfl : _ = execCmpTst f s), fun _ _ _ => bne_iff_ne⟩
  case tsz => exact ⟨_, (rfl : _ = execCmpTsz f s), fun _ _ _ => beq_iff_eq⟩

section
variable {s : State} {x : Ctx} (hx : ctxOf s = some x)
include hx

/-- An integer compare holds where its condition, as the rule states it, holds of every pair of elements. -/
theorem compare_completes {f : FC} (hops : settledOps x [f.a, f.b] = true) {cond : Nat → Nat → Nat → Bool} {rule : Nat → Nat → Prop}
    (hcond : ∀ a b, cond (packWidth f.pack.toNat) a b = true ↔ rule a b) :
    ∃ t p, compare s f cond = .next t ∧ RecordsPred s x 1 f.q.toNat p 0 t ∧
      ∀ l, p l = true ↔ ∀ i, i < 64 / packWidth f.pack.toNat →
        rule (elemAt (packWidth f.pack.toNat) i (valueOf s x (.int (packWidth f.pack.toNat)) f.a l))
          (elemAt (packWidth f.pack.toNat) i (valueOf s x (.int (packWidth f.pack.toNat)) f.b l)) := by
  obtain ⟨t, ht, hrec⟩ := recordsPred_of_done ((inClause_some hx _).trans (use_settled s x _ _ hops) : compare s f cond = _)
  refine ⟨t, _, ht, hrec, fun l => ?_⟩
  simp only [List.all_eq_true, List.mem_range, hcond]
  rfl

theorem integerCompare_completes {f : FC} (hops : settledOps x [f.a, f.b] = true) : ∀ e ∈ integerCompare f,
    ∃ t p, exec e.1 s = .next t ∧ RecordsPred s x 1 f.q.toNat p 0 t ∧
      ∀ l, p l = true ↔ ∀ i, i < 64 / packWidth f.pack.toNat →
        e.2 (packWidth f.pack.toNat) (elemAt (packWidth f.pack.toNat) i (valueOf s x (.int (packWidth f.pack.toNat)) f.a l))
          (elemAt (packWidth f.pack.toNat) i (valueOf s x (.int (packWidth f.pack.toNat)) f.b l)) := by
  intro e he
  obtain ⟨cond, hexec, hcond⟩ := integerCompare_condition f s e he
  rw [hexec]
  exact compare_completes hx hops (hcond _)

theorem predicateOps_complete (f : FC) : ∀ e ∈ predicateOps f, ∃ t, exec e.1 s = .next t ∧
    RecordsPred s x 1 f.q.toNat (fun l => e.2 (predOf x.t (f.a.code % 8) l) (predOf x.t (f.b.code % 8) l)) 0 t := by
  simp only [predicateOps, List.forall_mem_cons, List.not_mem_nil, IsEmpty.forall_iff, implies_true, and_true]
  have hop (op : Bool → Bool → Bool) : predOp s f op = _ := inClause_some hx _
  exact ⟨recordsPred_of_done (hop fun a b => a && b), recordsPred_of_done (hop fun a b => a || b), recordsPred_of_done (hop xor),
    recordsPred_of_done (hop fun a b => a && !b), recordsPred_of_done (hop fun a b => a || !b)⟩

end

/-- Settles O7: each condition is the rule's own; the predicate operations read what the clause began with. -/
theorem comparesAndPredicates : Obligations.ComparesAndPredicates := fun f s x hx =>
  ⟨fun hops => integerCompare_completes hx hops, predicateOps_complete hx f, fun hops =>
    recordsPred_of_done ((inClause_some hx _).trans (use_settled s x _ _ hops))⟩

end Sys2Proof.Machine
end

section
/-!
PROOFS. Floating lane instructions over settled sources (R168, R197 to R203, R210 to R212): the values and flags of every element.
-/

namespace Sys2Proof.Machine

/-! ## Instructions on one format (R197) -/

/-- The value and flags that g gives on the elements i of an instruction's three sources in lane l. -/
def fpElement (s : State) (x : Ctx) (f : FX) (g : FFmt → Nat → Nat → Nat → Nat × Nat) (l i : Nat) : Nat × Nat :=
  g (fmtOf f.pack.toNat) (fpSource s x f.pack.toNat (absA f) (negA f) f.a l i) (fpSource s x f.pack.toNat false (negB f) f.b l i)
    (fpSource s x f.pack.toNat false (negC f) f.c l i)

/-- A floating instruction's outcome: it records the elements of g, and adds their flags. -/
def CompletesFp (s : State) (x : Ctx) (f : FX) (g : Nat → Nat → Nat × Nat) (o : Out) : Prop :=
  Completes s x 2 f.d (fun l => packed (fmtOf f.pack.toNat).w fun i => (g l i).1) (elementFlags x (64 / (fmtOf f.pack.toNat).w) g) o

section
variable {s : State} {x : Ctx} {f : FX} (hx : ctxOf s = some x)
include hx

theorem completes_fpInstr {ops : List Operand} (hops : settledOps x ops = true) (g : Ctx → FFmt → Nat → Nat → Nat → Nat × Nat) :
    CompletesFp s x f (fpElement s x f (g x)) (fpInstr s f ops g) :=
  completes_use hx hops (completes_flagElems ..)

end

/-! ## The f64 operations that chain (R143, R198) -/

/-- What an f64 operation extends is one of its first two sources, in double format and without saturation or an absolute value of it. -/
theorem forwardsF64_some {s : State} {x : Ctx} {f : FX} {ops : List Operand} {i : Nat} (h : forwardsF64 s x f ops = some i) :
    ∃ r, regOperand x (ops.getD i .zero) = some r ∧ r ∈ ops.filterMap (regOperand x) ∧ f.pack = 0 ∧ f.sat = false ∧
      (i = 0 ∧ absA f = false ∨ i = 1) := by
  simp only [forwardsF64] at h
  split at h
  case h_2 => exact nomatch h
  next j hpend =>
  obtain ⟨hcond, hi⟩ := Option.ite_none_right_eq_some.1 h
  obtain rfl := Option.some.inj hi
  have hmem : j ∈ [j] := List.mem_singleton_self j
  rw [← hpend, List.mem_filter] at hmem
  obtain ⟨-, hr⟩ := hmem
  split at hr
  case h_2 => exact nomatch hr
  next r heq =>
  obtain ⟨-, hreg, hmem⟩ := mem_registers heq
  simp only [Bool.and_eq_true, Bool.not_eq_true', decide_eq_true_eq, Bool.and_eq_false_iff, beq_eq_false_iff_ne] at hcond
  obtain ⟨⟨⟨⟨⟨⟨⟨hpack, -⟩, hsat⟩, -⟩, hlt⟩, habs⟩, -⟩, -⟩ := hcond
  refine ⟨r, hreg, hmem, hpack, hsat, ?_⟩
  obtain rfl | rfl : j = 0 ∨ j = 1 := by omega
  · exact .inl ⟨rfl, habs.resolve_left (not_not_intro rfl)⟩
  · exact .inr rfl

/-- A chained operation whose source is settled in the lanes that take part is computed there at once (R139, R143). -/
theorem completes_appendChain {s : State} {x : Ctx} {n : Nat} {d : Operand} {r : Reg} (hr : pendMask r &&& x.live = 0) (o : ChainOp)
    (unknown : LaneMask) :
    Completes s x n d (fun l => word (replayOp o l ((laneOf r.vals l).toNat, 0)).1)
      (orAll ((maskLanes x.live).map fun l => (replayOp o l ((laneOf r.vals l).toNat, 0)).2))
      (done s x n (addFlags (writeD x x.cl d { (appendChain x r o).1 with unknown := unknown }) (appendChain x r o).2)) := by
  have hnone (l : Nat) : (0 : LaneMask).getLsbD l = false := BitVec.getLsbD_zero
  simp only [appendChain, hr, hnone, Bool.not_false, Bool.and_true, maskedLanes_flags, if_true]
  refine completes_done fun l hl => ⟨hnone l, ?_⟩
  rw [laneOf_mkLanes _ (BitVec.lt_of_getLsbD hl), maskedLanes_getD x.live _ 0 hl]

/-- In double format a register is one element, which is never flushed (R169). -/
theorem fpSource_double (s : State) (x : Ctx) (absf negf : Bool) (o : Operand) (l : Nat) :
    fpSource s x 0 absf negf o l 0 = fpIn (fmtOf 0) false absf negf (laneOf (operand s x (.fp 0) o).vals l).toNat :=
  congrArg (fpIn (fmtOf 0) false absf negf) (elemAt_64 _)

/-- An absolute value may be taken before the element is read. -/
theorem fpIn_mag (absf negf : Bool) (v : Word) :
    fpIn (fmtOf 0) false false negf (if absf then word ((fmtOf 0).mag v.toNat) else v).toNat = fpIn (fmtOf 0) false absf negf v.toNat := by
  cases absf with
  | false => rfl
  | true =>
    have hmag : (fmtOf 0).mag v.toNat < 2 ^ 64 := (Nat.mod_lt _ (by decide)).trans (by decide)
    rw [if_pos rfl, word, BitVec.toNat_ofNat, Nat.mod_eq_of_lt hmag]
    rfl

/-- An f64 operation appended where its source is settled gives what it gives on the source's values. -/
theorem completesFp_of_replay {s : State} {x : Ctx} {f : FX} {r : Reg} {o : ChainOp} {unknown : LaneMask} {g : Nat → Nat → Nat × Nat}
    (hpack : f.pack = 0) (hr : pendMask r &&& x.live = 0) (h : ∀ l, l < 32 → replayOp o l ((laneOf r.vals l).toNat, 0) = g l 0) :
    CompletesFp s x f g
      (done s x 2 (addFlags (writeD x x.cl f.d { (appendChain x r o).1 with unknown := unknown }) (appendChain x r o).2)) := by
  have hw : (fmtOf f.pack.toNat).w = 64 := by rw [hpack]; rfl
  have hflags : elementFlags x (64 / (fmtOf f.pack.toNat).w) g =
      orAll ((maskLanes x.live).map fun l => (replayOp o l ((laneOf r.vals l).toNat, 0)).2) := by
    rw [elementFlags, orAll_flatMap, hw]
    refine congrArg orAll (List.map_congr_left fun l hl => ?_)
    rw [h l (BitVec.lt_of_getLsbD ((mem_maskLanes _ l).1 hl))]
    simp [orAll]
  rw [CompletesFp, hflags]
  refine (completes_appendChain hr o unknown).congr fun l hl => ?_
  rw [hw, packed_64, h l (BitVec.lt_of_getLsbD hl)]

section
variable {s : State} {x : Ctx} {f : FX} (hx : ctxOf s = some x)
include hx

/-- R198: the sums and products, chained or not. -/
theorem completes_fpChain {ops : List Operand} (hops : settledOps x ops = true) (ha : ops.getD 0 .zero = f.a) (hb : ops.getD 1 .zero = f.b)
    {ka kb : ChainKind} (hk : ∀ m f p q c, chainValue kb false m false f false p q c = chainValue ka true m false f false q p c) :
    CompletesFp s x f (fpElement s x f fun fm a b c => chainValue ka true (rndOf x f) f.sat fm (flushBit x.t.mode f.pack.toNat) a b c)
      (fpChain s f ka kb ops) := by
  rw [fpChain, inClause_some hx]
  split
  case h_2 =>
    rw [use_settled s x _ _ hops]
    exact completes_flagElems ..
  next i hf =>
  obtain ⟨r, hreg, hmem, hpack, hsat, hi⟩ := forwardsF64_some hf
  have hr := pendMask_live hops hmem
  have hcode : f.pack.toNat = 0 := by rw [hpack]; rfl
  obtain ⟨rfl, habs⟩ | rfl := hi
  · rw [ha] at hreg
    refine completesFp_of_replay (r := operand s x (.fp 0) f.a) hpack (by rwa [operand_of_regOperand s _ hreg]) fun l hl => ?_
    simp only [replayOp, fpElement, hcode, hsat, habs, fpSource_double, laneOf_mkLanes _ hl, Nat.zero_or]
    rfl
  · rw [hb] at hreg
    refine completesFp_of_replay (r := operand s x (.fp 0) f.b) hpack (by rwa [operand_of_regOperand s _ hreg]) fun l hl => ?_
    simp only [replayOp, fpElement, hcode, hsat, fpSource_double, laneOf_mkLanes _ hl, Nat.zero_or]
    rw [← fpIn_mag (absA f)]
    exact hk ..

/-- R198, R199, R202, R203: each instruction of the table, chained or read through `fp_in`. -/
theorem floatElements_complete : ∀ e ∈ floatElements f (rndOf x f) (flushBit x.t.mode f.pack.toNat), settledOps x e.2.1 = true →
    CompletesFp s x f (fpElement s x f e.2.2) (exec e.1 s) := by
  simp only [floatElements, List.forall_mem_cons, List.not_mem_nil, IsEmpty.forall_iff, implies_true, and_true]
  refine ⟨?fadd, ?fsub, ?fmul, ?fma, ?fmin, ?fmax, ?fdiv, ?frcp, ?frsq, ?fexp2, ?flog2, ?fsin, ?fcos, ?ftanh⟩
  case fadd => exact fun hops => completes_fpChain hx (ka := .add) (kb := .add) hops rfl rfl fun _ _ _ _ _ => rfl
  case fsub => exact fun hops => completes_fpChain hx (ka := .sub) (kb := .rsub) hops rfl rfl fun _ _ _ _ _ => rfl
  case fmul => exact fun hops => completes_fpChain hx (ka := .mul) (kb := .mul) hops rfl rfl fun _ _ _ _ _ => rfl
  case fma => exact fun hops => completes_fpChain hx (ka := .fma) (kb := .fma) hops rfl rfl fun _ _ _ _ _ => rfl
  case fmin => exact fun hops => completes_fpInstr hx hops fun _ fm a b _ => minMax true fm a b
  case fmax => exact fun hops => completes_fpInstr hx hops fun _ fm a b _ => minMax false fm a b
  case fdiv => exact fun hops => completes_fpInstr hx hops fun x fm a b _ => divValue fm (rndOf x f) f.sat (flushBit x.t.mode f.pack.toNat) a b
  case frcp =>
    exact fun hops => completes_fpInstr hx hops fun x fm a _ _ =>
      divValue fm (rndOf x f) f.sat (flushBit x.t.mode f.pack.toNat) (fpConst fm 1) a
  all_goals
    exact fun hops => completes_fpInstr hx hops fun x fm a _ _ => approxFn fm f.pack.toNat _ f.sat (flushBit x.t.mode f.pack.toNat) a

end

/-! ## The obligations -/

/-- Settles O9: every instruction of the table computes its elements from its sources read through `fp_in`. -/
theorem floatingResults : Obligations.FloatingResults := fun _ _ _ hx => floatElements_complete hx

end Sys2Proof.Machine
end

section
/-!
PROOFS. Roots, rounding, scaling, signs, classes and floating compares (R200 to R202, R210 to R212).
-/

namespace Sys2Proof.Machine

theorem settledOps_pair {x : Ctx} {a b : Operand} (ha : settledOps x [a] = true) (hb : settledOps x [b] = true) :
    settledOps x [a, b] = true := by
  rw [settledOps, List.all_eq_true] at *
  intro r hr
  rw [← List.singleton_append, List.filterMap_append, List.mem_append] at hr
  exact hr.elim (ha r) (hb r)

/-! ## Roots, rounding, scaling (R202, R210, R212) -/

theorem CompletesFp.elements {s : State} {x : Ctx} {f : FX} {g g' : Nat → Nat → Nat × Nat} {o : Out} (h : CompletesFp s x f g o)
    (hg : ∀ l i, g l i = g' l i) : CompletesFp s x f g' o := by
  obtain rfl : g = g' := funext fun l => funext (hg l)
  exact h

/-- Settles O10: root and rounding read one source through `fp_in`, scaling an integer source beside it; the cases of each are those of the
element's NaN rule and value. -/
theorem rootRoundAndScaleResults : Obligations.RootRoundAndScaleResults := by
  intro f s x hx ha
  dsimp only
  refine ⟨?fsqrt, ?frnd, fun hb => ?fscale⟩
  case fsqrt =>
    change CompletesFp s x f _ (execFsqrt f s)
    refine CompletesFp.elements (completes_fpInstr hx ha _) fun l i => ?_
    simp only [fpElement]
    rcases nanResult _ _ with - | n
    · rcases FFmt.val _ _ with - | neg | ⟨neg, m, e⟩
      · rfl
      · cases neg <;> rfl
      · rfl
    · rfl
  case frnd =>
    change CompletesFp s x f _ (execFrnd f s)
    refine CompletesFp.elements (completes_fpInstr hx ha _) fun l i => ?_
    simp only [fpElement]
    rcases nanResult _ _ with - | n
    · rcases FFmt.val _ _ with - | neg | ⟨neg, m, e⟩ <;> rfl
    · rfl
  case fscale =>
    change CompletesFp s x f _ (execFscale f s)
    refine CompletesFp.elements (completes_use hx (settledOps_pair ha hb) (completes_flagElems ..)) fun l i => ?_
    simp only [fpSource, valueOf]
    rcases nanResult _ _ with - | n
    · rcases FFmt.val _ _ with - | neg | ⟨neg, m, e⟩ <;> rfl
    · rfl

/-! ## Signs and classes (R200, R211) -/

/-- The three sign operations. -/
theorem signOp_completes {s : State} {x : Ctx} {f : FX} (hx : ctxOf s = some x) (hops : settledOps x [f.a, f.b] = true)
    (op : Bool → Bool → Bool) :
    let fm := fmtOf f.pack.toNat
    let el (o : Operand) (l i : Nat) : Nat := elemAt fm.w i (valueOf s x (.fp f.pack.toNat) o l)
    Completes s x 2 f.d (fun l => packed fm.w fun i => fm.mag (el f.a l i) + fm.signBit (op (fm.sign (el f.a l i)) (fm.sign (el f.b l i)))) 0
      (signOp s f op) :=
  completes_use hx hops completes_writeLanes

/-! ## Compares (R201) -/

theorem flag_eq_flNV {b : Bool} : (if b then flNV else 0) = flNV ↔ b = true := by cases b <;> decide

/-- NV stands among the flags of a compare where some element asks for it. -/
theorem fcompare_completes {s : State} {x : Ctx} {f : FC} (hx : ctxOf s = some x) (hops : settledOps x [f.a, f.b] = true) (quietOnly : Bool)
    (cond : FFmt → Nat → Nat → Bool) :
    let fm := fmtOf f.pack.toNat
    let a (l i : Nat) : Nat := fpSource s x f.pack.toNat false false f.a l i
    let b (l i : Nat) : Nat := fpSource s x f.pack.toNat false false f.b l i
    ∃ t p fl, fcompare s f quietOnly cond = .next t ∧ RecordsPred s x 1 f.q.toNat p fl t ∧
      (∀ l, p l = true ↔ ∀ i, i < 64 / fm.w → cond fm (a l i) (b l i) = true) ∧
      (fl = flNV ∨ fl = 0) ∧
      (fl = flNV ↔ ∃ l i, x.live.getLsbD l = true ∧ i < 64 / fm.w ∧
        (if quietOnly then fm.isSNaN (a l i) || fm.isSNaN (b l i) else fm.isNaN (a l i) || fm.isNaN (b l i)) = true) := by
  intro fm a b
  refine ⟨_, _, _, (inClause_some hx _).trans (use_settled s x _ _ hops), rfl, fun l => ?holds, ite_eq_or_eq .., flag_eq_flNV.trans ?nv⟩
  case holds =>
    simp only [List.all_eq_true, List.mem_range]
    rfl
  case nv =>
    simp only [List.any_eq_true, mem_maskLanes, List.mem_range, ← exists_and_left]
    cases quietOnly <;> rfl

theorem floatCompare_condition (f : FC) (s : State) : ∀ e ∈ floatCompare f, exec e.1 s = fcompare s f e.2.1 e.2.2 := by
  simp only [floatCompare, List.forall_mem_cons, List.not_mem_nil, IsEmpty.forall_iff, implies_true, and_true]
  refine ⟨?eq, ?ne, ?lt, ?le, ?gt, ?ge, ?uno, ?ord⟩
  case ne =>
    change execFcmpNe f s = _
    simp only [execFcmpNe, Bool.not_and, bne]
  case uno =>
    change execFcmpUno f s = _
    simp only [execFcmpUno, ordered, Bool.not_and, Bool.not_not]
  case ord =>
    change execFcmpOrd f s = _
    simp only [execFcmpOrd, Bool.not_or]
    rfl
  all_goals rfl

/-- Settles O11: signs and classes are taken from raw bits; a compare's flag is NV where some element of a live lane asks for it. -/
theorem signsClassesAndFloatCompares : Obligations.SignsClassesAndFloatCompares := by
  refine ⟨?signs, ?compares⟩
  case signs =>
    intro f s x hx ha fm el out
    refine ⟨fun hb => ⟨?copy, ?copyneg, ?xor⟩, ?fclass⟩
    case copy => exact signOp_completes hx (settledOps_pair ha hb) fun _ b => b
    case copyneg => exact signOp_completes hx (settledOps_pair ha hb) fun _ b => !b
    case xor => exact signOp_completes hx (settledOps_pair ha hb) xor
    case fclass =>
      change Completes _ _ _ _ _ _ (execFclass f s)
      exact completes_use hx ha completes_writeLanes
  case compares =>
    intro f s x hx hops fm a b e he
    rw [floatCompare_condition f s e he]
    exact fcompare_completes hx hops e.2.1 e.2.2

end Sys2Proof.Machine
end

section
/-!
PROOFS. Two claims that fail: `nop` also ends the record of lanes that leave the instruction (R155, R179), and a conversion to integers sets
NX for a source that flushing changed (R169, R208).
-/

namespace Sys2Proof.Machine

/-! ## What a clause's record tells -/

theorem putClause_inj {s : State} {x : Ctx} {cl cl' : Clause} (h : putClause s x cl = putClause s x cl') : cl = cl' := by
  have ht := congrArg (fun t => troupeAt t x.core x.pos) h
  simp only [troupeAt_putClause, Option.some.injEq] at ht
  exact Option.some.inj (congrArg Troupe.clause ht)

theorem flags_writeD (x : Ctx) (cl : Clause) (d : Operand) (r : Reg) : (writeD x cl d r).flags = cl.flags := by
  unfold writeD
  cases d
  case k n =>
    dsimp only
    split <;> rfl
  all_goals rfl

/-- The flags an instruction adds are determined by its outcome. -/
theorem Completes.flags_unique {s : State} {x : Ctx} {n : Nat} {d : Operand} {v v' : Nat → Word} {fl fl' : Nat} {o : Out}
    (h : Completes s x n d v fl o) (h' : Completes s x n d v' fl' o) : x.cl.flags ||| fl = x.cl.flags ||| fl' := by
  obtain ⟨t, ho, r, ht, -⟩ := h
  obtain ⟨t', ho', r', ht', -⟩ := h'
  obtain rfl : t = t' := Host.Outcome.next.inj (ho.symm.trans ho')
  have hcl := congrArg Clause.flags (putClause_inj (ht.symm.trans ht'))
  simpa only [stepped, addFlags, flags_writeD] using hcl

/-! ## nop (R179) -/

theorem exec_nop {s : State} {x : Ctx} (hx : ctxOf s = some x) : exec .nop s = .next (putClause s x (stepped x.cl 1)) := inClause_some hx _

/-- A clause whose instruction has lost lane 0 (R155). -/
def laneLost (cl : Clause) : Clause := { cl with dead := 1 }

/-- Refutes O42: where the running clause records that lane 0 leaves the instruction at its cursor, `nop` clears that record as it moves the
cursor, as every instruction does at its end. -/
theorem not_nopHasNoEffect : ¬ Obligations.NopHasNoEffect := by
  rintro ⟨-, hnop, -, -⟩
  have hx : ctxOf (wState id laneLost) = some (wCtx id laneLost) := rfl
  have hput := Host.Outcome.next.inj ((exec_nop hx).symm.trans (hnop _ _ hx))
  have hdead : (0 : LaneMask) = 1 := congrArg Clause.dead (putClause_inj hput)
  exact absurd hdead (by decide)

/-! ## Conversion to integers (R208) -/

/-- The value and flags of element i of a conversion to integers: NX also where flushing changed the source (R208). -/
def ficvtElement (s : State) (x : Ctx) (f : FX) (l i : Nat) : Nat × Nat :=
  let sc := bits f.imm.toNat 11 8
  let v := elemAt (fmtOf sc).w i (valueOf s x (.fp sc) f.a l)
  let z := flushRaw (fmtOf sc) (flushBit x.t.mode sc) v
  let q := roundInt (intCode f.fn.toNat).1 (intCode f.fn.toNat).2 (rndOf x f) (if rndOf x f = 6 then mixSeed (word64 s x f.c l) i else 0) f.sat
    ((fmtOf sc).val z)
  (q.1, q.2 ||| if z = v then 0 else flNX)

theorem ficvt_completes {s : State} {x : Ctx} {f : FX} (hx : ctxOf s = some x)
    (hops : settledOps x (if f.rnd = 6 then [f.a, f.c] else [f.a]) = true) :
    Completes s x 2 f.d (fun l => word (packElems (intCode f.fn.toNat).2 (2 ^ f.pack.toNat) fun i => (ficvtElement s x f l i).1))
      (elementFlags x (2 ^ f.pack.toNat) (ficvtElement s x f)) (exec (.ficvt f) s) := by
  change Completes _ _ _ _ _ _ (execFicvt f s)
  exact completes_use hx hops (completes_flagElems ..)

/-- A troupe that flushes f32 sources, with the smallest subnormal f32 in k0. -/
def flushing (t : Troupe) : Troupe := { t with mode := 9, kregs := [(0, 1)] }

/-- `ficvt.s32.f32 x1, k0`. -/
def subnormalToInt : FX := { testX with a := .k 0, fn := 2, imm := 0x100 }

/-- Refutes O12: k0 holds a subnormal f32, which the troupe's mode flushes. The conversion gives 0 and sets NX, since 0 is not the source
(R208); the claim has no flag, as 0 is exact after flushing. -/
theorem not_conversionsAndDotProducts : ¬ Obligations.ConversionsAndDotProducts := by
  intro h
  have hx : ctxOf (wState flushing id) = some (wCtx flushing id) := rfl
  have hops : settledOps (wCtx flushing id) [subnormalToInt.a] = true := rfl
  obtain ⟨-, hclaim, -⟩ := (h subnormalToInt _ _ hx hops).1 fun hseed => absurd hseed (by decide)
  have hflags := (ficvt_completes (f := subnormalToInt) hx hops).flags_unique hclaim
  revert hflags
  decide

end Sys2Proof.Machine
end

section
/-!
PROOFS. The crossbar instructions over settled sources (R214 to R222): each records, in every lane that takes part, the value its rule gives
from the operands of the lanes that take part.
-/

namespace Sys2Proof.Machine

/-! ## Segments (R216) -/

theorem segBase_eq (w l : Nat) : segBase w l = l / w * w := (Nat.div_mul_self_eq_mod_sub_self ..).symm

theorem sub_segBase (w l : Nat) : l - segBase w l = l % w := Nat.sub_sub_self (Nat.mod_le ..)

theorem segBase_add_mod (w l : Nat) : segBase w l + l % w = l := Nat.sub_add_cancel (Nat.mod_le ..)

theorem segWidth_pos (imm : Nat) : 0 < segWidth imm := Nat.two_pow_pos _

/-- Two lanes share a segment where they share its number. -/
theorem segBase_inj {w : Nat} (hw : 0 < w) (m l : Nat) : segBase w m = segBase w l ↔ m / w = l / w := by
  rw [segBase_eq, segBase_eq]
  exact Nat.mul_left_inj (Nat.ne_of_gt hw)

/-! ## Permutes and shuffles (R217, R218) -/

/-- A distance upward leads to a lane of the segment where it is at most the lane's place in it. -/
theorem shflUp_valid {w : Nat} (hw : 0 < w) (l d : Nat) : (decide (d < w) && decide (segBase w l + d ≤ l)) = decide (d ≤ l % w) := by
  have hl := segBase_add_mod w l
  have hmod := Nat.mod_lt l hw
  rw [← Bool.decide_and]
  exact decide_eq_decide.2 (by omega)

/-- A distance downward leads to a lane of the segment where it leaves the lane's place below the width. -/
theorem shflDown_valid (w l d : Nat) : (decide (d < w) && decide (l + d < segBase w l + w)) = decide (l % w + d < w) := by
  have hl := segBase_add_mod w l
  rw [← Bool.decide_and]
  exact decide_eq_decide.2 (by omega)

/-- The source lane of each shuffle. -/
theorem shuffles_source (f : FX) (s : State) : ∀ e ∈ shuffles f, ∃ src, exec e.1 s = shuffle s f src ∧
    ∀ l w d, 0 < w → src l w d = e.2 l w d := by
  simp only [shuffles, List.forall_mem_cons, List.not_mem_nil, IsEmpty.forall_iff, implies_true, and_true]
  refine ⟨?idx, ?up, ?down, ?xor⟩
  case idx => exact ⟨_, (rfl : _ = execShflIdx f s), fun l w d _ => by rw [segBase_eq]⟩
  case up => exact ⟨_, (rfl : _ = execShflUp f s), fun l w d hw => by simp only [shflUp_valid hw, decide_eq_true_eq]⟩
  case down => exact ⟨_, (rfl : _ = execShflDown f s), fun l w d _ => by simp only [shflDown_valid, decide_eq_true_eq]⟩
  case xor => exact ⟨_, (rfl : _ = execShflXor f s), fun l w d _ => by rw [sub_segBase, segBase_eq]⟩

section
variable {s : State} {x : Ctx} {f : FX} (hx : ctxOf s = some x)
include hx

theorem perm_completes (hops : settledOps x [f.a, f.b] = true) :
    let w := packWidth f.pack.toNat
    Completes s x 2 f.d (fun l => packed w fun i =>
      let p := permField w (elemAt w i (valueOf s x (.int w) f.b l))
      if p.2.2 = true ∨ x.live.getLsbD p.1 = false then 0 else elemAt w p.2.1 (valueOf s x (.int w) f.a p.1)) 0 (exec (.perm f) s) := by
  intro w
  change Completes _ _ _ _ _ _ (execPerm f s)
  refine (completes_use hx hops completes_writeLanes).congr fun l _ => ?_
  simp only [Bool.or_eq_true, Bool.not_eq_true']
  rfl

/-- A shuffle by a source lane: the value of that lane where it takes part, else the lane's own. -/
theorem shuffle_completes (hops : settledOps x [f.a, f.b] = true) {src rule : Nat → Nat → Nat → Option Nat}
    (hsrc : ∀ l w d, 0 < w → src l w d = rule l w d) :
    Completes s x 2 f.d (fun l => match rule l (2 ^ (5 - f.imm.toNat % 8)) (word64 s x f.b l).toNat with
      | some m => if x.live.getLsbD m then word64 s x f.a m else word64 s x f.a l
      | none => word64 s x f.a l) 0 (shuffle s f src) := by
  refine (completes_use hx hops completes_writeLanes).congr fun l _ => ?_
  rw [hsrc _ _ _ (segWidth_pos _)]
  rfl

end

/-- Settles O13: a permute reads as its selectors say, a shuffle as the source lane of its form says. -/
theorem permutesAndShuffles : Obligations.PermutesAndShuffles := by
  intro f s x hx hops w
  refine ⟨perm_completes hx hops, fun e he => ?_⟩
  obtain ⟨src, hexec, hsrc⟩ := shuffles_source f s e he
  rw [hexec]
  exact shuffle_completes hx hops hsrc

/-! ## Reductions and scans (R221) -/

/-- The lanes that a lane's reduction or scan covers, by the number of their segment. -/
theorem scanLanes_eq (live : LaneMask) {w : Nat} (hw : 0 < w) (l : Nat) (scan excl : Bool) :
    scanLanes live w l scan (scan && excl) = (maskLanes live).filter fun m =>
      m / w == l / w && (!scan || (if excl then decide (m < l) else decide (m ≤ l))) := by
  refine List.filter_congr fun m _ => ?_
  have hseg : (segBase w m == segBase w l) = (m / w == l / w) := by rw [Bool.eq_iff_iff, beq_iff_eq, beq_iff_eq, segBase_inj hw]
  rw [hseg]
  cases scan <;> rfl

theorem reductions_reduce (f : FX) (s : State) : ∀ e ∈ reductions f, exec e.1 s = reduce s f e.2.1 e.2.2.1 e.2.2.2 := by
  simp only [reductions, List.forall_mem_cons, List.not_mem_nil, IsEmpty.forall_iff, implies_true, and_true]
  and_intros <;> rfl

/-- The flags of a reduction are those of the runs of all lanes that take part. -/
theorem reduce_completes {s : State} {x : Ctx} {f : FX} (hx : ctxOf s = some x) (hops : settledOps x [f.a] = true) (scan fp : Bool)
    (c : Ctx → Combine) :
    let view : View := if fp then .fp f.pack.toNat else .int (packWidth f.pack.toNat)
    let g (l : Nat) : Word × Nat := runCombine (c x)
      ((scanLanes x.live (segWidth f.imm.toNat) l scan (scan && f.imm.getLsbD 3)).map (laneOf (operand s x view f.a).vals))
    Completes s x 2 f.d (fun l => (g l).1) (orAll ((maskLanes x.live).map fun l => (g l).2)) (reduce s f scan fp c) :=
  completes_use hx hops (completes_writeFlagged _)

/-- Settles O15: a lane's run is over the lanes of its segment that the instruction covers. -/
theorem reductionsAndScans : Obligations.ReductionsAndScans := by
  intro f s x hx hops e he view g
  rw [reductions_reduce f s e he]
  have hrun := reduce_completes hx hops e.2.1 e.2.2.1 e.2.2.2
  simp only [scanLanes_eq x.live (segWidth_pos f.imm.toNat)] at hrun
  exact hrun

/-! ## Ballots and votes (R219, R220) -/

section
variable {s : State} {x : Ctx} {f : FX} (hx : ctxOf s = some x)
include hx

theorem ballot_completes :
    Completes s x 2 f.d (fun _ => (maskOf fun l => x.live.getLsbD l && votePred x f l).zeroExtend 64) 0 (exec (.ballot f) s) := by
  change Completes _ _ _ _ _ _ (execBallot f s)
  rw [execBallot, inClause_some hx]
  exact completes_writeLanes

/-- The masks of a ballot by planes count the keys with the bit set. -/
theorem ballotPlane_completes (hops : settledOps x [f.a, f.c] = true) :
    Completes s x 2 f.d (fun l =>
      let m := maskOf fun m => x.live.getLsbD m && (word64 s x f.c l).getLsbD m && (word64 s x f.a m).getLsbD (f.imm.toNat % 64)
      word (m.toNat + popcount 32 m.toNat * 2 ^ 32)) 0 (exec (.ballotPlane f) s) := by
  change Completes _ _ _ _ _ _ (execBallotPlane f s)
  exact completes_use hx hops completes_writeLanes

theorem voteAll_completes :
    Completes s x 2 f.d (fun _ => if (maskLanes x.live).all (votePred x f) then 1 else 0) 0 (exec (.voteAll f) s) := by
  change Completes _ _ _ _ _ _ (execVoteAll f s)
  rw [execVoteAll, inClause_some hx]
  exact completes_writeLanes

theorem voteAny_completes :
    Completes s x 2 f.d (fun _ => if (maskLanes x.live).any (votePred x f) then 1 else 0) 0 (exec (.voteAny f) s) := by
  change Completes _ _ _ _ _ _ (execVoteAny f s)
  rw [execVoteAny, inClause_some hx]
  exact completes_writeLanes

theorem voteUni_completes (hops : settledOps x [f.a] = true) :
    let vs := (maskLanes x.live).map (word64 s x f.a)
    Completes s x 2 f.d (fun _ => if vs.all (· == vs.headD 0) then 1 else 0) 0 (exec (.voteUni f) s) := by
  intro vs
  change Completes _ _ _ _ _ _ (execVoteUni f s)
  exact completes_use hx hops completes_writeLanes

end

/-- The values of a list are all its first where any two of them are equal. -/
theorem all_eq_headD_iff {α β : Type} [BEq β] [LawfulBEq β] (ls : List α) (v : α → β) (d : β) :
    (ls.map v).all (· == (ls.map v).headD d) = true ↔ ∀ a ∈ ls, ∀ b ∈ ls, v a = v b := by
  simp only [List.all_eq_true, List.forall_mem_map, beq_iff_eq]
  cases ls with
  | nil => simp
  | cons c r => exact ⟨fun h a ha b hb => (h a ha).trans (h b hb).symm, fun h a ha => h a ha c List.mem_cons_self⟩

/-! ## Radix selection (R222) -/

/-- The mask of some lanes in ascending order is the sum of their bits. -/
theorem maskOf_contains_eq_sum {ls : List Nat} (hls : ls.SortedLT) :
    (maskOf fun l => ls.contains l) = BitVec.ofNat 32 (ls.map fun i => 2 ^ i).sum := by
  refine BitVec.eq_of_getLsbD_eq fun i hi => ?_
  have hbit : (ls.map fun i => 2 ^ i).sum.testBit i = ls.contains i := by
    rw [Bool.eq_iff_iff, ← Nat.mem_bitIndices, Nat.bitIndices_sum_map_two_pow hls, List.contains_iff_mem]
  rw [getLsbD_maskOf, BitVec.getLsbD_ofNat, hbit]

theorem lowestLanes_eq (m : LaneMask) (n : Nat) :
    lowestLanes m n = BitVec.ofNat 32 (((maskLanes m).take n).map fun i => 2 ^ i).sum :=
  maskOf_contains_eq_sum (List.pairwise_lt_range.sublist ((List.take_sublist ..).trans List.filter_sublist)).sortedLT

/-- A state of the selection: the lanes chosen above the candidates. -/
def selectionState (chosen candidates : LaneMask) : Word := word (chosen.toNat * 2 ^ 32 + candidates.toNat)

/-- One narrowing step, by the three ways of the rule. -/
theorem rselStep_narrow (k : Nat) (st plane : Word) :
    let c : LaneMask := st.extractLsb' 0 32
    let d : LaneMask := st.extractLsb' 32 32
    let ones : LaneMask := plane.extractLsb' 0 32 &&& c
    rselStep false k st plane =
      if k < popcount 32 d.toNat + popcount 32 c.toNat then
        (if k ≤ popcount 32 d.toNat + popcount 32 ones.toNat then selectionState d ones else selectionState (d ||| ones) (c &&& ~~~ones))
      else selectionState d c := by
  intro c d ones
  have hc : st.truncate 32 = c := rfl
  have hd : (st >>> 32).truncate 32 = d := rfl
  have hones : plane.truncate 32 &&& c = ones := rfl
  simp only [rselStep, hc, hd, hones, Bool.false_eq_true, if_false, gt_iff_lt, ge_iff_le]
  split_ifs <;> rfl

/-- The last step fills up with the lowest candidates. -/
theorem rselStep_fin (k : Nat) (st plane : Word) :
    let c : LaneMask := st.extractLsb' 0 32
    let d : LaneMask := st.extractLsb' 32 32
    rselStep true k st plane =
      selectionState (d ||| BitVec.ofNat 32 (((maskLanes c).take (k - popcount 32 d.toNat)).map fun i => 2 ^ i).sum) 0 := by
  intro c d
  rw [← lowestLanes_eq]
  rfl

/-- Settles O14: a ballot's mask, a vote's test and a narrowing step are those of the rules. -/
theorem ballotsVotesAndSelection : Obligations.BallotsVotesAndSelection := by
  intro f s x hx p out
  refine ⟨ballot_completes hx, ⟨_, voteAll_completes hx, ?all⟩, ⟨_, voteAny_completes hx, ?any⟩,
    fun hops => ⟨_, voteUni_completes hx hops, ?uni⟩, fun hops => ballotPlane_completes hx hops, fun hops => ⟨?rsel, ?fin⟩⟩
  case all =>
    simp only [List.all_eq_true, mem_maskLanes]
    rfl
  case any =>
    simp only [List.any_eq_true, mem_maskLanes]
    rfl
  case uni =>
    rw [all_eq_headD_iff]
    simp only [mem_maskLanes]
    exact ⟨fun h l m hl hm => h l hl m hm, fun h l hl m hm => h l m hl hm⟩
  case rsel =>
    change Completes _ _ _ _ _ _ (execRsel f s)
    exact (completes_use hx hops completes_writeLanes).congr fun l _ => rselStep_narrow ..
  case fin =>
    change Completes _ _ _ _ _ _ (execRselFin f s)
    exact (completes_use hx hops completes_writeLanes).congr fun l _ => rselStep_fin ..

end Sys2Proof.Machine
end

section
/-!
PROOFS. The Quadrille unit's instructions (R223 to R225, R230): what a regroup or restore keeps for its commit, the misuse found while its
clause is checked, and the count that a capacity update records.
-/

namespace Sys2Proof.Machine

/-! ## The forms of an arrival (R223) -/

/-- The forms that arrive: the instruction, its function, the operands it reads, and whether the group has a position record by then. -/
def arrivalForms (f : FX) : List (Instr × Nat × List Operand × Bool) :=
  [(.regroup f, 0, [f.a, f.b], false), (.regroupRestore f, 1, [f.b], true)]

theorem arrivalForms_regroup (f : FX) (s : State) : ∀ e ∈ arrivalForms f,
    exec e.1 s = regroup e.2.1 f s ∧ (if e.2.1 = 0 then [f.a, f.b] else [f.b]) = e.2.2.1 ∧ (e.2.1 == 1) = e.2.2.2 := by
  simp only [arrivalForms, List.forall_mem_cons, List.not_mem_nil, IsEmpty.forall_iff, implies_true, and_true]
  exact ⟨⟨(rfl : _ = execRegroup f s), rfl, rfl⟩, (rfl : _ = execRegroupRestore f s), rfl, rfl⟩

/-! ## The registers of a range -/

/-- A range's registers as operands. -/
def rangeOperands (r : Nat) : List Operand := (rangeRegs r).map fun n => .x (BitVec.ofNat 6 n)

theorem regOperand_rangeOperands (x : Ctx) (r : Nat) : (rangeOperands r).filterMap (regOperand x) = (rangeRegs r).map (regOf x.t) := by
  rw [rangeOperands, List.filterMap_map, ← List.filterMap_eq_map]
  refine List.filterMap_congr fun n hn => ?_
  have hlt : n < 2 ^ 6 := List.mem_range.1 (List.mem_filter.1 hn).1
  simp only [Function.comp_apply, regOperand, BitVec.toNat_ofNat, Nat.mod_eq_of_lt hlt]

/-- A range whose registers are settled in every lane is read without a wait (R147). -/
theorem useRegs_range {s : State} {x : Ctx} {r : Nat} {k : State → Ctx → Out}
    (hr : ((rangeRegs r).all fun n => pendMask (regOf x.t n) == 0 && (regOf x.t n).unknown == 0) = true) :
    useRegs s x ((rangeRegs r).map (regOf x.t)) k = k s x := by
  have hops : settledOps x (rangeOperands r) = true := by
    rw [settledOps, regOperand_rangeOperands, List.all_map, List.all_eq_true]
    intro n hn
    have hreg := List.all_eq_true.1 hr n hn
    rw [Bool.and_eq_true, beq_iff_eq, beq_iff_eq] at hreg
    simp [hreg]
  rw [← regOperand_rangeOperands]
  exact use_settled s x _ k hops

/-! ## Arrivals and their misuse (R224, R225) -/

/-- What an arrival keeps for the commit: its function, range, destination, keys and address. -/
def arrivalControl (s : State) (x : Ctx) (f : FX) (fn b : Nat) : Control :=
  .regroup fn (word64 s x f.b b).toNat f.d.code (mkLanes fun l => if fn = 0 then word64 s x f.a l else 0) x.instrAddr.toNat

/-- A lane that takes part is enough for a trap that all of them raise (R22). -/
theorem trapAll_of_lowLane {s : State} {x : Ctx} {b : Nat} (hb : lowLane x.live = some b) (cause : Nat) (addr : Word) :
    trapAll s x cause addr = raiseTrap s x cause addr x.live := by
  refine if_neg fun hlive => ?_
  rw [lowLane_eq_none.2 hlive] at hb
  exact nomatch hb

section
variable {s : State} {x : Ctx} {f : FX} {fn b : Nat} {g : Group} (hx : ctxOf s = some x) (hb : lowLane x.live = some b)
  (hg : groupAt s x.t.group = some g)
include hx hb hg

theorem regroup_performs (hperf : performing x = true) (hops : settledOps x (if fn = 0 then [f.a, f.b] else [f.b]) = true)
    (hr : ((rangeRegs (word64 s x f.b b).toNat).all fun n => pendMask (regOf x.t n) == 0 && (regOf x.t n).unknown == 0) = true) :
    regroup fn f s = done s x 2 (setControl x (arrivalControl s x f fn b)) := by
  rw [regroup, inClause_some hx, use_settled s x _ _ hops]
  simp only [hb, hg, checking_eq_false hperf, Bool.false_and, Bool.false_eq_true, if_false, useRegs_range hr]
  rfl

theorem regroup_misused (hcheck : x.cl.phase = .check) (hops : settledOps x (if fn = 0 then [f.a, f.b] else [f.b]) = true)
    (hbad : rangeOk (word64 s x f.b b).toNat = false ∨ (rangeCap (word64 s x f.b b).toNat = true ∧ captabOn g = false) ∨
      g.posRecord ≠ (fn == 1)) :
    regroup fn f s = raiseTrap s x 0x0A x.instrAddr x.live := by
  have hchecking : checking x = true := beq_iff_eq.2 hcheck
  have htest : (!rangeOk (word64 s x f.b b).toNat || (rangeCap (word64 s x f.b b).toNat && !captabOn g) || g.posRecord != (fn == 1)) = true := by
    simpa only [Bool.or_eq_true, Bool.and_eq_true, Bool.not_eq_true', bne_iff_ne, or_assoc] using hbad
  rw [regroup, inClause_some hx, use_settled s x _ _ hops]
  simp only [hb, hg, hchecking, htest, Bool.true_and, if_true]
  exact trapAll_of_lowLane hb ..

/-! ## The capacity update (R230) -/

/-- Where nothing of the troupe is outstanding, a performing update goes through the table and records the count of changed limits. -/
theorem capupd_completes (hperf : performing x = true) (hdef : deferredOpen s x.core x.pos = false)
    (hloads : loadsDone s x.core x.pos x.t.seq = true) (hacq : x.t.acquires = []) (hentries : entriesDone s x 4 = true) :
    let r := (tableEntries (locsOf (found x))).foldl (updateEntry x.core) (s, 0)
    ∃ t, exec (.regroupCapupd f) s = .next t ∧ Records r.1 x 2 f.d (fun _ => word r.2) 0 t := by
  intro r
  change Completes r.1 x 2 f.d _ 0 (execRegroupCapupd f s)
  rw [execRegroupCapupd, inClause_some hx]
  simp only [hb, hg, checking_eq_false hperf, afterDeferreds, hdef, hloads, hacq, hentries, List.isEmpty_nil, Bool.false_and, Bool.and_self,
    Bool.not_true, Bool.false_eq_true, if_false]
  exact completes_writeLanes

end

/-- Settles O41: an arrival is a control instruction once its range is settled; its misuse is found while the clause is checked. -/
theorem regroupArrivalsAndCapacityUpdates : Obligations.RegroupArrivalsAndCapacityUpdates := by
  intro f s x b g hx hb hg
  refine ⟨fun hperf e he hops _ _ _ hr => ?arrives, fun hcheck e he hops hbad => ?misused,
    fun hperf _ hdef hloads hacq hentries => capupd_completes hx hb hg hperf hdef hloads hacq hentries⟩
  case arrives =>
    obtain ⟨hexec, hform, -⟩ := arrivalForms_regroup f s e he
    rw [hexec, regroup_performs hx hb hg hperf (hform ▸ hops) hr]
    refine ⟨_, _, _, rfl, ctxOf_putClause hx _, nothingCommitted_putClause .., rfl, fun l hl hfn => ?_⟩
    rw [laneOf_mkLanes _ hl, if_pos hfn]
  case misused =>
    obtain ⟨hexec, hform, hpos⟩ := arrivalForms_regroup f s e he
    rw [hexec, regroup_misused hx hb hg hcheck (hform ▸ hops) (hpos ▸ hbad)]

end Sys2Proof.Machine
end

section
/-!
PROOFS. Sync words and queues (R89, R241, R242): what one arrival does to its word, and when a queue operation has which status.
-/

namespace Sys2Proof.Machine

/-! ## One arrival (R241, R242) -/

section
variable {s : State} {l : Loc} {g n : Nat}

/-- For another generation, or at a word that is not armed, an arrival counts as stale; STRAP asks for a notice. -/
theorem arrive_of_stale (h : (readSync s l).2.flags.testBit 2 = false ∨ g % 2 ^ 32 ≠ (readSync s l).2.gen) :
    let q := readSync s l
    let t := homeWrite q.1 l (syncBytes { q.2 with flags := countStale q.2.flags })
    arrive s l g n = if q.2.flags.testBit 3 then staleNotice t l else t := by
  refine if_pos ?_
  simpa only [Bool.or_eq_true, Bool.not_eq_true', decide_eq_true_eq] using h

/-- At an armed word of its generation, an arrival adds to the count, and the sum decides whether that is all. -/
theorem arrive_of_current (harmed : (readSync s l).2.flags.testBit 2 = true) (hgen : g % 2 ^ 32 = (readSync s l).2.gen) :
    let q := readSync s l
    let c := q.2.count + n % 2 ^ 32
    let w := advanced (if c > q.2.target then { q.2 with flags := setFlag q.2.flags 4 true } else q.2)
    let t := homeWrite q.1 l (syncBytes w)
    arrive s l g n = if c < q.2.target then homeWrite q.1 l (syncBytes { q.2 with count := c })
      else if q.2.flags.testBit 1 then matchNotice t l w.gen else t := by
  refine if_neg ?_
  simp only [harmed, hgen, Bool.not_true, Bool.false_or, ne_eq, not_true, decide_false, Bool.false_eq_true, not_false_eq_true]

theorem arrive_of_short (harmed : (readSync s l).2.flags.testBit 2 = true) (hgen : g % 2 ^ 32 = (readSync s l).2.gen)
    (hshort : (readSync s l).2.count + n % 2 ^ 32 < (readSync s l).2.target) :
    arrive s l g n = homeWrite (readSync s l).1 l
      (syncBytes { (readSync s l).2 with count := (readSync s l).2.count + n % 2 ^ 32 }) :=
  (arrive_of_current harmed hgen).trans (if_pos hshort)

/-- A sum that is the target exactly advances the word without OVR; TRIG asks for a notice of the new generation. -/
theorem arrive_of_exact (harmed : (readSync s l).2.flags.testBit 2 = true) (hgen : g % 2 ^ 32 = (readSync s l).2.gen)
    (hexact : (readSync s l).2.target = (readSync s l).2.count + n % 2 ^ 32) :
    let q := readSync s l
    let t := homeWrite q.1 l (syncBytes (advanced q.2))
    arrive s l g n = if q.2.flags.testBit 1 then matchNotice t l (advanced q.2).gen else t := by
  rw [arrive_of_current harmed hgen, ← hexact, if_neg (lt_irrefl _), if_neg (lt_irrefl _)]

/-- At a match an armed word that does not re-arm itself loses its ARMED bit, bit 2. -/
theorem advanced_of_armed {w : SyncWord} (harmed : w.flags.testBit 2 = true) :
    advanced w = { w with gen := (w.gen + 1) % 2 ^ 32, count := 0, flags := if w.flags.testBit 0 then w.flags else w.flags - 4 } := by
  simp only [advanced, setFlag, harmed, Bool.false_eq_true, if_true, if_false, add_zero, Nat.reducePow]

end

/-! ## The status of a queue operation (R89) -/

theorem queueClosed_eq_true_iff {q : QueueDesc} : queueClosed q = true ↔ q.flags % 2 = 1 := by
  simp only [queueClosed, Nat.testBit_zero, decide_eq_true_eq]

theorem queueClosed_eq_false_iff {q : QueueDesc} : queueClosed q = false ↔ q.flags % 2 = 0 := by
  simp only [queueClosed, Nat.testBit_zero, decide_eq_false_iff_not, Nat.mod_two_ne_one]

/-- Between head and tail that are 64-bit values, no entry is held exactly where they agree. -/
theorem queueHeld_eq_zero_iff {q : QueueDesc} (hhead : q.head < 2 ^ 64) (htail : q.tail < 2 ^ 64) :
    queueHeld q = 0 ↔ q.tail = q.head := by
  unfold queueHeld
  omega

theorem stqStatus_push (q : QueueDesc) :
    stqStatus .push q = if queueClosed q then 2 else if queueHeld q = q.capacity then 1 else 0 := by
  simp [stqStatus]

/-- A pop or peek of a queue that holds entries takes one, closed or not. -/
theorem stqStatus_of_reads {fn : StqFn} (hfn : fn ≠ .push) (q : QueueDesc) :
    stqStatus fn q = if queueHeld q = 0 then (if queueClosed q then 2 else 1) else 0 := by
  by_cases hheld : queueHeld q = 0 <;> simp [stqStatus, hfn, hheld]

theorem stqStatus_le_two (fn : StqFn) (q : QueueDesc) : stqStatus fn q ≤ 2 := by
  by_cases hfn : fn = .push
  · rw [hfn, stqStatus_push]
    split_ifs <;> decide
  · rw [stqStatus_of_reads hfn]
    split_ifs <;> decide

theorem stqStatus_eq_two_iff (fn : StqFn) (q : QueueDesc) :
    stqStatus fn q = 2 ↔ queueClosed q = true ∧ (fn = .push ∨ queueHeld q = 0) := by
  by_cases hfn : fn = .push
  · rw [hfn, stqStatus_push]
    split_ifs with hclosed <;> simp [hclosed]
  · rw [stqStatus_of_reads hfn]
    by_cases hheld : queueHeld q = 0 <;> simp [hfn, hheld]

/-- Only an open queue blocks: it is full for a push, empty for a pop or peek. -/
theorem stqStatus_eq_one_iff (fn : StqFn) (q : QueueDesc) :
    stqStatus fn q = 1 ↔ queueClosed q = false ∧ (if fn = .push then queueHeld q = q.capacity else queueHeld q = 0) := by
  by_cases hfn : fn = .push
  · rw [hfn, stqStatus_push, if_pos rfl]
    cases queueClosed q <;> simp
  · rw [stqStatus_of_reads hfn, if_neg hfn]
    by_cases hheld : queueHeld q = 0 <;> simp [hheld]

/-- Settles O24: an arrival by how its word stands to it, a status by the queue's flag and the number of entries held. -/
theorem syncArrivalAndQueueRules : Obligations.SyncArrivalAndQueueRules := by
  refine ⟨fun s l g n => ⟨arrive_of_short, fun harmed hgen hexact htrig => ?exact, fun hstale hstrap => ?stale⟩,
    fun fn q hhead htail => ⟨?closed, ?blocked, ?range⟩⟩
  case exact =>
    rw [arrive_of_exact harmed hgen hexact, htrig, advanced_of_armed harmed]
    exact if_neg Bool.false_ne_true
  case stale =>
    rw [arrive_of_stale hstale, hstrap]
    exact if_neg Bool.false_ne_true
  case closed => rw [stqStatus_eq_two_iff, queueClosed_eq_true_iff, queueHeld_eq_zero_iff hhead htail]
  case blocked =>
    rw [stqStatus_eq_one_iff, queueClosed_eq_false_iff, queueHeld_eq_zero_iff hhead htail]
    rfl
  case range =>
    have hle := stqStatus_le_two fn q
    omega

end Sys2Proof.Machine
end

section
/-!
PROOFS. The operand slots (R253, R284, R285): how a tile instruction comes to its own work, and what the slot instructions then leave of the
handle they name.
-/

namespace Sys2Proof.Machine

/-! ## A tile instruction while its clause performs -/

/-- A trap that the lanes taking part raise while their clause performs squashes it at once (R33, R35). -/
theorem trapAll_performing {s : State} {x : Ctx} {b : Nat} (hperf : performing x = true) (hb : lowLane x.live = some b) (cause : Nat)
    (addr : Word) : trapAll s x cause addr = .next (squash s x cause addr x.live []) := by
  have hphase : x.cl.phase = .perform := beq_iff_eq.1 hperf
  rw [trapAll_of_lowLane hb, raiseTrap, hphase]
  exact if_neg nofun

/-- What fails in no lane goes on (R35). -/
theorem settle_nil (s : State) (x : Ctx) (remote : LaneMask) (syms : List Nat) (k : State → Ctx → Out) :
    settle s x [] remote syms k = k s x := rfl

section
variable {s : State} {x : Ctx} {b : Nat} {g : Group} (hx : ctxOf s = some x) (hb : lowLane x.live = some b)
  (hg : groupAt s x.t.group = some g)
include hx hb hg

/-- Settled operands, an active lane and a resident group: nothing keeps a tile instruction from its own work. -/
theorem tileInstr_settled {ops : List Operand} (hops : settledOps x ops = true) (k : State → Ctx → Nat → Group → Out) :
    tileInstr s ops k = k s x b g := by
  rw [tileInstr, inClause_some hx, use_settled s x ops _ hops]
  simp only [hb, hg]

end

/-! ## A slot's tag (R253, R284) -/

/-- A group whose slot takes a tag and loses what it held. -/
def retagSlot (g : Group) (h : Nat) (tag : Word) : Group :=
  { g with slots := tabPut g.slots h tag, slotBytes := tabDel g.slotBytes h, slotWritten := tabDel g.slotWritten h }

@[simp] theorem slotTag_retagSlot (g : Group) (h : Nat) (tag : Word) : slotTag (retagSlot g h tag) h = tag := tabGet_tabPut_self ..

@[simp] theorem slotWritten_retagSlot (g : Group) (h : Nat) (tag : Word) : tabGet? (retagSlot g h tag).slotWritten h = none :=
  (tabGet?_tabDel ..).trans (if_pos rfl)

/-- A performing claim gives the handle its tag, and records the handle. -/
theorem claimSlot_completes {s : State} {x : Ctx} {g : Group} (hperf : performing x = true) (hg : groupAt s x.t.group = some g) (d : Operand)
    (h : Nat) (tag : Word) :
    ∃ s', groupAt s' x.t.group = some (retagSlot g h tag) ∧ Completes s' x 2 d (fun _ => word h) 0 (claimSlot s x d h tag) := by
  refine ⟨endPoison (setGroup s x.t.group (retagSlot g h tag)) (slotPoison x.t.group h 0), groupAt_setGroup_self .., ?_⟩
  rw [claimSlot, checking_eq_false hperf, modGroup_eq hg]
  exact completes_writeLanes

/-! ## The instructions -/

/-- The slot is free once every queued entry has retired (R262). -/
def slotFree (s : State) (x : Ctx) (g : Group) : Nat → Bool := fun h => slotState (projSlot s x x.t.group g h) == 0

section
variable {f : FX} {s : State} {x : Ctx} {b : Nat} {g : Group} (hx : ctxOf s = some x) (hb : lowLane x.live = some b)
  (hg : groupAt s x.t.group = some g)
include hx hb hg

/-- A claim takes the lowest free handle. -/
theorem execSlotClaim_lowest (hops : settledOps x [f.a] = true) (hreq : requestOk (word64 s x f.a b) = true) {h : Nat} (hh : h < g.nslots)
    (hfree : slotFree s x g h = true) (hlow : ∀ k, k < h → slotFree s x g k = false) :
    execSlotClaim f s = claimSlot s x f.d h (requestTag (word64 s x f.a b)) := by
  have hfind : (List.range g.nslots).find? (slotFree s x g) = some h :=
    List.find?_range_eq_some.2 ⟨hfree, List.mem_range.2 hh, fun k hk => by rw [hlow k hk]; rfl⟩
  unfold slotFree at hfind
  rw [execSlotClaim, tileInstr_settled hx hb hg hops]
  simp only [hreq, hfind, Bool.not_true, Bool.false_eq_true, if_false]

/-- A claim that finds no free handle records all ones. -/
theorem execSlotClaim_none (hops : settledOps x [f.a] = true) (hreq : requestOk (word64 s x f.a b) = true)
    (hbusy : ∀ h, h < g.nslots → slotFree s x g h = false) : Completes s x 2 f.d (fun _ => BitVec.allOnes 64) 0 (execSlotClaim f s) := by
  have hfind : (List.range g.nslots).find? (slotFree s x g) = none :=
    List.find?_eq_none.2 fun h hh => by rw [hbusy h (List.mem_range.1 hh)]; exact nofun
  unfold slotFree at hfind
  rw [execSlotClaim, tileInstr_settled hx hb hg hops]
  simp only [hreq, hfind, Bool.not_true, Bool.false_eq_true, if_false]
  exact completes_writeLanes

/-- A claim that names a handle in use gives that one another tag. -/
theorem execSlotClaimRetag_named (hperf : performing x = true) (hops : settledOps x [f.a, f.b] = true)
    (hreq : requestOk (word64 s x f.a b) = true) (hh : (word64 s x f.b b).toNat < g.nslots)
    (hused : slotFree s x g (word64 s x f.b b).toNat = false) :
    execSlotClaimRetag f s = claimSlot s x f.d (word64 s x f.b b).toNat (requestTag (word64 s x f.a b)) := by
  rw [slotFree] at hused
  rw [execSlotClaimRetag, tileInstr_settled hx hb hg hops]
  simp only [hreq, hused, ge_iff_le, decide_eq_false (Nat.not_le.2 hh), checking_eq_false hperf, Bool.not_true, Bool.or_self, Bool.false_and,
    Bool.false_eq_true, if_false]

/-- A released handle loses its tag. -/
theorem execSlotRelease_named (hperf : performing x = true) (hops : settledOps x [f.a] = true) (hh : (word64 s x f.a b).toNat < g.nslots)
    (hused : slotFree s x g (word64 s x f.a b).toNat = false) :
    execSlotRelease f s = done (setGroup s x.t.group (retagSlot g (word64 s x f.a b).toNat 0)) x 2 x.cl := by
  rw [slotFree] at hused
  rw [execSlotRelease, tileInstr_settled hx hb hg hops]
  simp only [hused, ge_iff_le, decide_eq_false (Nat.not_le.2 hh), checking_eq_false hperf, modGroup_eq hg, Bool.or_self, Bool.false_eq_true,
    if_false]
  rfl

/-- A query records the tag as it stands. -/
theorem execSlotQuery_named (hops : settledOps x [f.a] = true) (hh : (word64 s x f.a b).toNat < g.nslots) :
    Completes s x 2 f.d (fun _ => slotTag g (word64 s x f.a b).toNat) 0 (execSlotQuery f s) := by
  rw [execSlotQuery, tileInstr_settled hx hb hg hops]
  simp only [if_neg (Nat.not_le.2 hh)]
  exact completes_writeLanes

/-- A handle beyond the group's slots is a trap (R285). -/
theorem execSlotQuery_beyond (hperf : performing x = true) (hops : settledOps x [f.a] = true) (hh : g.nslots ≤ (word64 s x f.a b).toNat) :
    execSlotQuery f s = .next (squash s x 0x28 x.instrAddr x.live []) := by
  rw [execSlotQuery, tileInstr_settled hx hb hg hops]
  simp only [ge_iff_le, if_pos hh]
  exact trapAll_performing hperf hb ..

end

/-! ## The obligation -/

/-- Settles O37: a claim or retag leaves its handle retagged, a release leaves it without a tag, a query records it. -/
theorem slotInstructions : Obligations.SlotInstructions := by
  intro f s x b g hx hperf hb hg free
  refine ⟨fun hops hreq => ⟨fun h hh hfree hlow => ?claim, fun hbusy => execSlotClaim_none hx hb hg hops hreq hbusy⟩,
    fun hops hreq hh hused => ?retag, fun hops hh => ⟨fun hused => ?release, execSlotQuery_named hx hb hg hops hh⟩,
    fun hops hh => execSlotQuery_beyond hx hb hg hperf hops hh⟩
  case claim =>
    obtain ⟨s', hg', t, hexec, hrec⟩ := claimSlot_completes hperf hg f.d h (requestTag (word64 s x f.a b))
    exact ⟨t, s', _, (execSlotClaim_lowest hx hb hg hops hreq hh hfree hlow).trans hexec, hrec, hg', slotTag_retagSlot ..,
      slotWritten_retagSlot ..⟩
  case retag =>
    obtain ⟨s', hg', t, hexec, hrec⟩ := claimSlot_completes hperf hg f.d (word64 s x f.b b).toNat (requestTag (word64 s x f.a b))
    rw [word_toNat] at hrec
    exact ⟨t, s', _, (execSlotClaimRetag_named hx hb hg hperf hops hreq hh hused).trans hexec, hrec, hg', slotTag_retagSlot ..⟩
  case release =>
    exact ⟨_, _, execSlotRelease_named hx hb hg hperf hops hh hused, groupAt_setGroup_self .., slotTag_retagSlot ..⟩

end Sys2Proof.Machine
end

section
/-!
PROOFS. Tile instructions and the queues (R263, R276, R286 to R289, R291): the entry or segment that each keeps for its clause's commit, and what
the commit makes of it.
-/

namespace Sys2Proof.Machine

/-! ## What an instruction keeps (R263) -/

/-- The instruction goes on with one request more for the commit. -/
def KeepsRequest (s : State) (x : Ctx) (i : Instr) (r : TileReq) : Prop :=
  exec i s = .next (putClause s x (stepped { x.cl with tiles := x.cl.tiles ++ [r] } 2))

/-- The request is an entry for the queue that imm12 [0] names, made of what the instruction reads. -/
def JoinsQueue (s : State) (x : Ctx) (f : FX) (d : Word) (i : Instr) (op : TileOp) (opn : Bool) : Prop :=
  ∃ e, KeepsRequest s x i (.entry (f.imm.getLsbD 0) e) ∧ e.op = op ∧ e.desc = d ∧
    e.group = x.t.group ∧ e.issuer = x.pos ∧ e.mode = x.t.mode ∧ e.mem = rangeLocs x ∧ e.open_ = opn ∧
    (opn = false → e.notify = tabGet? (found x) syncSlot)

theorem joinsQueue_newEntry {s : State} {x : Ctx} {f : FX} {d : Word} {i : Instr} {op : TileOp} {fmts : Nat × Nat}
    (h : exec i s = performEntry s x f (newEntry s x op d fmts)) : JoinsQueue s x f d i op false :=
  ⟨_, h, rfl, rfl, rfl, rfl, rfl, rfl, rfl, fun _ => rfl⟩

/-- The entry of a product: one segment, and no arrival while it is open (R276, R280, R286). -/
def productEntry (s : State) (x : Ctx) (bfp opn : Bool) (d : Word) (fmts : Nat × Nat) (bGroup : Nat) : TileEntry :=
  let e := newEntry s x (.tmm bfp) d fmts
  { e with open_ := opn, segments := [{ desc := d, done := false, bGroup }], notify := if opn then none else e.notify }

theorem joinsQueue_productEntry {s : State} {x : Ctx} {f : FX} {d : Word} {i : Instr} {bfp opn : Bool} {fmts : Nat × Nat} {bGroup : Nat}
    (h : exec i s = performEntry s x f (productEntry s x bfp opn d fmts bGroup)) : JoinsQueue s x f d i (.tmm bfp) opn :=
  ⟨_, h, rfl, rfl, rfl, rfl, rfl, rfl, rfl, fun hopn => by rw [hopn]; rfl⟩

section
variable {f : FX} {s : State} {x : Ctx} {b : Nat} {g : Group} (hx : ctxOf s = some x) (hperf : performing x = true)
  (hb : lowLane x.live = some b) (hg : groupAt s x.t.group = some g)
include hx hperf hb hg

/-! ## Products (R286) -/

/-- A product that appends keeps a segment, for the group that its descriptor names for B. -/
theorem tmm_appends {bk : Nat} (bfp : Bool) (hops : settledOps x [f.a, f.c] = true) (happ : f.imm.getLsbD 2 = true)
    (hbk : bGroupOf s x.t.group g (dBM (word64 s x f.a b)) = some bk) :
    tmm bfp f s = done s x 2 { x.cl with
      tiles := x.cl.tiles ++ [.segment (f.imm.getLsbD 1) (word64 s x f.a b) (tabGet? (found x) syncSlot) bk] } := by
  rw [tmm, tileInstr_settled hx hb hg hops]
  simp only [checking_eq_false hperf, happ, hbk, Option.getD_some, Bool.false_eq_true, if_false, if_true]

/-- Any other product keeps an entry of its own. -/
theorem tmm_queues (bfp : Bool) (hops : settledOps x [f.a, f.c] = true) (happ : f.imm.getLsbD 2 = false) :
    ∃ fmts bk, tmm bfp f s = performEntry s x f (productEntry s x bfp (f.imm.getLsbD 1) (word64 s x f.a b) fmts bk) := by
  rw [tmm, tileInstr_settled hx hb hg hops]
  simp only [checking_eq_false hperf, happ, Bool.false_eq_true, if_false]
  exact ⟨_, _, rfl⟩

theorem tmm_joins (hops : settledOps x [f.a, f.c] = true) (happ : f.imm.getLsbD 2 = false) :
    JoinsQueue s x f (word64 s x f.a b) (.tmm f) (.tmm false) (f.imm.getLsbD 1) := by
  obtain ⟨fmts, bk, h⟩ := tmm_queues hx hperf hb hg false hops happ
  exact joinsQueue_productEntry (i := .tmm f) h

theorem tmmBfp_joins (hops : settledOps x [f.a, f.c] = true) (happ : f.imm.getLsbD 2 = false) :
    JoinsQueue s x f (word64 s x f.a b) (.tmmBfp f) (.tmm true) (f.imm.getLsbD 1) := by
  obtain ⟨fmts, bk, h⟩ := tmm_queues hx hperf hb hg true hops happ
  exact joinsQueue_productEntry (i := .tmmBfp f) h

/-! ## The accumulator and the slots (R288, R289, R291) -/

/-- What sets a band's tag, with or without a range of memory. -/
theorem accSet_queues (op : TileOp) {mem : Bool} (hops : settledOps x (if mem then [f.a, f.b, f.c] else [f.a, f.c]) = true) :
    accSet op mem f s = performEntry s x f (newEntry s x op (word64 s x f.a b) (dType (word64 s x f.a b), 0)) := by
  rw [accSet, tileInstr_settled hx hb hg hops]
  simp only [checking_eq_false hperf, Bool.false_eq_true, if_false]

theorem accZero_joins (hops : settledOps x [f.a, f.c] = true) : JoinsQueue s x f (word64 s x f.a b) (.accZero f) .accZero false :=
  joinsQueue_newEntry (i := .accZero f) (accSet_queues hx hperf hb hg .accZero (mem := false) hops)

section
variable (hops : settledOps x [f.a, f.b, f.c] = true)
include hops

theorem accLd_joins : JoinsQueue s x f (word64 s x f.a b) (.accLd f) .accLd false :=
  joinsQueue_newEntry (i := .accLd f) (accSet_queues hx hperf hb hg .accLd (mem := true) hops)

theorem accSt_joins : JoinsQueue s x f (word64 s x f.a b) (.accSt f) .accSt false := by
  have hexec : execAccSt f s = performEntry s x f (newEntry s x .accSt (word64 s x f.a b) (dType (word64 s x f.a b), 0)) := by
    rw [execAccSt, tileInstr_settled hx hb hg hops]
    simp only [checking_eq_false hperf, Bool.false_eq_true, if_false]
  exact joinsQueue_newEntry (i := .accSt f) hexec

/-- A conversion out keeps its rounding mode as resolved, and its SAT. -/
theorem accCvst_joins (hrnd : f.rnd.toNat < 6) :
    JoinsQueue s x f (word64 s x f.a b) (.accCvst f) (.accCvst (rndOf x f) f.sat) false := by
  have hexec : ∃ fmts, execAccCvst f s = performEntry s x f (newEntry s x (.accCvst (rndOf x f) f.sat) (word64 s x f.a b) fmts) := by
    rw [execAccCvst, tileInstr_settled hx hb hg hops]
    simp only [checking_eq_false hperf, if_neg (Nat.not_le.2 hrnd), Bool.false_eq_true, if_false]
    exact ⟨_, rfl⟩
  obtain ⟨fmts, hexec⟩ := hexec
  exact joinsQueue_newEntry (i := .accCvst f) hexec

theorem opm_queues (load : Bool) :
    ∃ fmts, opm load f s = performEntry s x f (newEntry s x (if load then .opmLd else .opmSt) (word64 s x f.a b) fmts) := by
  rw [opm, tileInstr_settled hx hb hg hops]
  simp only [checking_eq_false hperf, Bool.false_eq_true, if_false]
  exact ⟨_, rfl⟩

theorem opmLd_joins : JoinsQueue s x f (word64 s x f.a b) (.opmLd f) .opmLd false := by
  obtain ⟨fmts, h⟩ := opm_queues hx hperf hb hg hops true
  exact joinsQueue_newEntry (i := .opmLd f) h

theorem opmSt_joins : JoinsQueue s x f (word64 s x f.a b) (.opmSt f) .opmSt false := by
  obtain ⟨fmts, h⟩ := opm_queues hx hperf hb hg hops false
  exact joinsQueue_newEntry (i := .opmSt f) h

end

end

/-! ## What the commit makes of a request (R263, R276) -/

/-- Readers are counted in tags of slots, and no core holds one. -/
@[simp] theorem coreOf_countReaders (s : State) (up : Bool) (rs : List Res) (c : Nat) : coreOf (countReaders s up rs) c = coreOf s c := by
  rw [coreOf, countReaders_cores, ← coreOf]

/-- An entry as its queue holds it: numbered in enqueue order. -/
def numbered (s : State) (core : Nat) (e : TileEntry) : TileEntry := { e with id := (coreOf s core).nextEntry, enqueued := s.cycle }

theorem coreOf_enqueue_high (s : State) (core : Nat) (e : TileEntry) :
    coreOf (enqueue s core true e) core = { coreOf s core with
      tileHi := (coreOf s core).tileHi ++ [numbered s core e], nextEntry := (coreOf s core).nextEntry + 1 } :=
  (coreOf_countReaders ..).trans (coreOf_modCore_self ..)

theorem coreOf_enqueue_low (s : State) (core : Nat) (e : TileEntry) :
    coreOf (enqueue s core false e) core = { coreOf s core with
      tileLo := (coreOf s core).tileLo ++ [numbered s core e], nextEntry := (coreOf s core).nextEntry + 1 } :=
  (coreOf_countReaders ..).trans (coreOf_modCore_self ..)

theorem enqueueAll_entry {s : State} {x : Ctx} {hi : Bool} {e : TileEntry} (h : x.cl.tiles = [.entry hi e]) :
    enqueueAll s x = enqueue s x.core hi e := by
  rw [enqueueAll, h]
  rfl

theorem enqueueAll_segment {s : State} {x : Ctx} {opn : Bool} {d : Word} {n : Option Loc} {bk : Nat} (h : x.cl.tiles = [.segment opn d n bk]) :
    enqueueAll s x = appendSegment s x.core x.t.group opn d n bk none := by
  rw [enqueueAll, h]
  rfl

/-- An open entry with one segment more; the closing one brings the arrival and its generation (R276, R280). -/
def extended (e : TileEntry) (opn : Bool) (d : Word) (n : Option Loc) (bk : Nat) (job : Option (Nat × Nat × Nat)) : TileEntry :=
  { e with segments := e.segments ++ [{ desc := d, done := false, bGroup := bk, job }], open_ := opn, notify := if opn then none else n,
           desc := if opn then e.desc else word (bits e.desc.toNat 31 0 + dGen d * 2 ^ 32) }

/-- A segment goes to the open entries that write its band. -/
theorem coreOf_appendSegment (s : State) (core key : Nat) (opn : Bool) (d : Word) (n : Option Loc) (bk : Nat) (job : Option (Nat × Nat × Nat)) :
    let upd (e : TileEntry) := if e.open_ && (entryWrites e).contains (key, false, dBand d) then extended e opn d n bk job else e
    coreOf (appendSegment s core key opn d n bk job) core =
      { coreOf s core with tileHi := (coreOf s core).tileHi.map upd, tileLo := (coreOf s core).tileLo.map upd } :=
  (coreOf_countReaders ..).trans (coreOf_modCore_self ..)

/-! ## The obligation -/

/-- Settles O38: each instruction by what it keeps, and each kind of request by what the commit does to the core's queues. -/
theorem tileInstructionsJoinTheQueues : Obligations.TileInstructionsJoinTheQueues := by
  refine ⟨fun f s x b g hx hperf hb hg => ⟨fun hops => ⟨accZero_joins hx hperf hb hg hops, fun happ => ⟨tmm_joins hx hperf hb hg hops happ,
    tmmBfp_joins hx hperf hb hg hops happ⟩, fun happ bk hbk => ?append⟩, fun hops => ⟨accLd_joins hx hperf hb hg hops,
    accSt_joins hx hperf hb hg hops, opmLd_joins hx hperf hb hg hops, opmSt_joins hx hperf hb hg hops,
    accCvst_joins hx hperf hb hg hops⟩⟩, fun s x hi e htiles => ?entry,
    fun s x opn d n bk e htiles hlo hhi hopen hwrites => ⟨extended e opn d n bk none, ?segment⟩⟩
  case append =>
    simp only [List.forall_mem_cons, List.not_mem_nil, IsEmpty.forall_iff, implies_true, and_true]
    exact ⟨tmm_appends hx hperf hb hg false hops happ hbk, tmm_appends hx hperf hb hg true hops happ hbk⟩
  case entry =>
    rw [enqueueAll_entry htiles]
    cases hi with
    | false =>
      rw [coreOf_enqueue_low]
      exact ⟨(List.append_nil _).symm, rfl, rfl⟩
    | true =>
      rw [coreOf_enqueue_high]
      exact ⟨rfl, (List.append_nil _).symm, rfl⟩
  case segment =>
    have htakes : (e.open_ && (entryWrites e).contains (x.t.group, false, dBand d)) = true := by rw [hopen, hwrites]; rfl
    rw [enqueueAll_segment htiles, coreOf_appendSegment]
    refine ⟨?_, ?_, rfl, rfl, rfl, rfl⟩
    · simp only [hlo, List.map_cons, List.map_nil, htakes, if_true]
    · simp only [hhi, List.map_nil]

end Sys2Proof.Machine
end

section
/-!
PROOFS. Cell accesses and scaled adds (R260, R279, R287, R290): a read's values, a write's cells and all it leaves, and the entry of a scaled add
with the bytes of its scales.
-/

namespace Sys2Proof.Machine

/-! ## Writing cells (R290) -/

/-- A group but for its cells. -/
def beyondCells (g : Group) : Group := { g with cells := [] }

/-- A write at a cell address changes cells alone. -/
theorem beyondCells_writeCell (g : Group) (a v : Nat) : beyondCells (writeCell g a v) = beyondCells g := by
  unfold writeCell
  extract_lets
  split
  · rfl
  split
  · rfl
  · rfl

/-- A group after the writes of some lanes, one lane after another. -/
def writeLaneCells (g : Group) (ls : List Nat) (addr val : Nat → Nat) : Group := ls.foldl (fun g l => writeCell g (addr l) (val l)) g

theorem beyondCells_writeLaneCells (g : Group) (ls : List Nat) (addr val : Nat → Nat) :
    beyondCells (writeLaneCells g ls addr val) = beyondCells g :=
  apply_foldl_of_step beyondCells (fun g l => beyondCells_writeCell g (addr l) (val l)) ls g

section
variable {f : FX} {s : State} {x : Ctx} {b : Nat} {g : Group} (hx : ctxOf s = some x) (hperf : performing x = true)
  (hb : lowLane x.live = some b) (hg : groupAt s x.t.group = some g)
include hx hperf hb hg

/-! ## The instructions -/

/-- Where every lane's cell address may be used, a performing access comes to its cells. -/
theorem accCell_allowed {ops : List Operand} (hops : settledOps x ops = true)
    (hok : ∀ l, x.live.getLsbD l = true → cellCauses s x g (word64 s x f.a l) = []) (k : State → Ctx → Group → Out) :
    accCell f s ops k = k s x g := by
  have hfails : ((maskLanes x.live).flatMap fun l => (cellCauses s x g (word64 s x f.a l)).map fun c => (l, c, x.instrAddr)) = [] :=
    List.flatMap_eq_nil_iff.2 fun l hl => by rw [hok l ((mem_maskLanes ..).1 hl)]; rfl
  rw [accCell, tileInstr_settled hx hb hg hops]
  simp only [hfails, settle_nil, checking_eq_false hperf, Bool.false_and, Bool.false_eq_true, if_false]

theorem execAccRd_completes (hops : settledOps x [f.a] = true)
    (hok : ∀ l, x.live.getLsbD l = true → cellCauses s x g (word64 s x f.a l) = []) :
    Completes s x 2 f.d (fun l => word (readCell g (word64 s x f.a l).toNat)) 0 (execAccRd f s) := by
  rw [execAccRd, accCell_allowed hx hperf hb hg hops hok]
  exact completes_writeLanes

theorem execAccWr_writes (hops : settledOps x [f.a, f.b] = true)
    (hok : ∀ l, x.live.getLsbD l = true → cellCauses s x g (word64 s x f.a l) = []) :
    execAccWr f s = done (setGroup s x.t.group
      (writeLaneCells g (maskLanes x.live) (fun l => (word64 s x f.a l).toNat) fun l => (word64 s x f.b l).toNat)) x 2 x.cl := by
  rw [execAccWr, accCell_allowed hx hperf hb hg hops hok]
  simp only [checking_eq_false hperf, Bool.false_eq_true, if_false, modGroup_eq hg]
  rfl

/-- The scales are read now; the entry holds them in place of their places (R279). -/
theorem execTsa_reads (hops : settledOps x [f.a, f.b, f.c] = true) (hrevoked : inlineRevoked s x ((rangeLocs x).map fun l => (b, l)) = [])
    (hready : inlineReady s x ((rangeLocs x).map fun l => (l, 64)) = true) :
    ∃ fmts, execTsa f s = performEntry (readRange s x).1 x f
      { newEntry (readRange s x).1 x .tsa (word64 s x f.a b) fmts with scales := (readRange s x).2, mem := [] } := by
  rw [execTsa, tileInstr_settled hx hb hg hops]
  simp only [checking_eq_false hperf, hrevoked, settle_nil, hready, Bool.not_true, Bool.false_eq_true, if_false]
  exact ⟨_, rfl⟩

end

/-! ## The obligation -/

/-- Settles O39: a read records what its cells hold, a write goes through the lanes and leaves all but cells, and a scaled add's entry is built
from the range as read. -/
theorem cellAccessesAndScaledAdds : Obligations.CellAccessesAndScaledAdds := by
  intro f s x b g hx hperf hb hg
  refine ⟨fun hops hok => execAccRd_completes hx hperf hb hg hops hok, fun hops hok => ?write, fun hops hrevoked hready => ?scaled⟩
  case write =>
    have hframe := beyondCells_writeLaneCells g (maskLanes x.live) (fun l => (word64 s x f.a l).toNat) fun l => (word64 s x f.b l).toNat
    refine ⟨_, _, execAccWr_writes hx hperf hb hg hops hok, groupAt_setGroup_self .., rfl, (congrArg Group.bandTags hframe :),
      (congrArg Group.slots hframe :), (congrArg Group.scratch hframe :), rfl⟩
  case scaled =>
    obtain ⟨fmts, hexec⟩ := execTsa_reads hx hperf hb hg hops hrevoked hready
    exact ⟨_, hexec, rfl, rfl, rfl, rfl, rfl, rfl, rfl⟩

end Sys2Proof.Machine
end
